-- ==== Sys2Proof/Word.lean ====
section
/-! DEFINITION. The word types of the Avyan Q9 and the two containers of the state: lanes and sparse maps. -/

namespace Sys2Proof

/-- A 32-bit register value (02 R41). -/
abbrev Word := BitVec 32
/-- A 64-bit pair, address or PC. -/
abbrev Dword := BitVec 64
abbrev Byte := BitVec 8
/-- A set of strands: bit `s` names strand `s`. -/
abbrev Mask := BitVec 32
/-- One v register: a value for each of the 32 strands (00 R5). -/
abbrev Lanes := Vector Word 32
/-- A finite map from numbers, keys strictly rising, listing only values that differ from a default. -/
abbrev Sparse (β : Type) := List (Nat × β)
/-- Memory: addresses strictly rising. An address that is not listed has not been written. -/
abbrev Mem := List (Nat × BitVec 8)

end Sys2Proof
end

