-- ==== Sys2Proof/Syntax.lean ====
section
/-! DEFINITION. Syntax: one constructor of `Instr` for each row of spec/opcode_table.json. Rows 0 to 184 are the
instructions a wale issues, with the fields of their format (04 R97 to R106); rows 185 to 298 are the events and
control operations of the module, with the operands that say which wale, command, die or register they concern. -/

namespace Sys2Proof

/-- A register operand field (04 R97). -/
inductive Opnd where
  | v (n : Fin 256)
  | s (n : Fin 64)
  | p (n : Fin 8)
  | em
  | none
  deriving DecidableEq, Repr

/-- The common header (04 R91): guard predicate, guard negation, lookahead count. -/
structure Hdr where
  gp : Fin 8
  gn : Bool
  la : Fin 16
  deriving DecidableEq, Repr

/-- Format R (04 R99). -/
structure ROps where
  h : Hdr
  d : Opnd
  a : Opnd
  b : Opnd
  c : Opnd
  mod : BitVec 16
  deriving DecidableEq, Repr

/-- Format I (04 R100). -/
structure IOps where
  h : Hdr
  d : Opnd
  a : Opnd
  mod : BitVec 12
  imm : BitVec 32
  deriving DecidableEq, Repr

/-- Format M (04 R102). -/
structure MOps where
  h : Hdr
  d : Opnd
  base : Opnd
  idx : Opnd
  w : BitVec 3
  scope : BitVec 3
  cp : BitVec 2
  ord : BitVec 2
  xs : BitVec 2
  hd : BitVec 3
  var : BitVec 3
  off : BitVec 32
  deriving DecidableEq, Repr

/-- Format M with the fields of 04 R104 in place of OFF. -/
structure AOps where
  h : Hdr
  d : Opnd
  base : Opnd
  idx : Opnd
  w : BitVec 3
  scope : BitVec 3
  cp : BitVec 2
  ord : BitVec 2
  xs : BitVec 2
  hd : BitVec 3
  var : BitVec 3
  off8 : BitVec 8
  y : Opnd
  x : Opnd
  aop : BitVec 4
  deriving DecidableEq, Repr

/-- Format B (04 R105). -/
structure BOps where
  h : Hdr
  sub : BitVec 8
  a : Opnd
  dist : BitVec 32
  deriving DecidableEq, Repr

/-- Format X (04 R106). -/
structure XOps where
  h : Hdr
  sub : BitVec 8
  d : Opnd
  a : Opnd
  b : Opnd
  c : Opnd
  ts : BitVec 8
  ts2 : BitVec 8
  rs : BitVec 8
  flags : BitVec 8
  deriving DecidableEq, Repr

/-- A UALink request from a peer device (16 R362): 64-byte units. -/
inductive PeerReq where
  | read
  | write (data : BitVec 512)
  | atomic (aop : Fin 8) (u wide : Bool) (x y : BitVec 64)
  deriving DecidableEq, Repr

/-- A layer of a management core (18 R393): the monitor, the scheduler, the plug-in of a function. -/
inductive FwLayer where
  | monitor | scheduler
  | plugin (f : Fin 129)
  deriving DecidableEq, Repr
/-- The management core and the layer that writes a register; none: the host does. -/
abbrev RegWriter : Type := Option (Fin 4 × FwLayer)

/-- The operations of the part: spec/opcode_table.json, row for row. -/
inductive Instr where
  | nop  -- NOP (R99)
  | iadd (o : ROps)  -- IADD (R114)
  | iaddI (o : IOps)  -- IADD_I (R114)
  | isub (o : ROps)  -- ISUB (R114)
  | isubI (o : IOps)  -- ISUB_I (R114)
  | iadds (o : ROps)  -- IADDS (R114)
  | iaddsI (o : IOps)  -- IADDS_I (R114)
  | isubs (o : ROps)  -- ISUBS (R114)
  | isubsI (o : IOps)  -- ISUBS_I (R114)
  | imul (o : ROps)  -- IMUL (R115)
  | imulI (o : IOps)  -- IMUL_I (R115)
  | imulh (o : ROps)  -- IMULH (R115)
  | imulhI (o : IOps)  -- IMULH_I (R115)
  | imad (o : ROps)  -- IMAD (R115)
  | imadw (o : ROps)  -- IMADW (R115)
  | idiv (o : ROps)  -- IDIV (R116)
  | idivI (o : IOps)  -- IDIV_I (R116)
  | irem (o : ROps)  -- IREM (R116)
  | iremI (o : IOps)  -- IREM_I (R116)
  | imin (o : ROps)  -- IMIN (R117)
  | iminI (o : IOps)  -- IMIN_I (R117)
  | imax (o : ROps)  -- IMAX (R117)
  | imaxI (o : IOps)  -- IMAX_I (R117)
  | iabs (o : ROps)  -- IABS (R117)
  | iadd64 (o : ROps)  -- IADD64 (R118)
  | iadd64I (o : IOps)  -- IADD64_I (R118)
  | isub64 (o : ROps)  -- ISUB64 (R118)
  | isub64I (o : IOps)  -- ISUB64_I (R118)
  | lea (o : ROps)  -- LEA (R118)
  | leaI (o : IOps)  -- LEA_I (R118)
  | iand (o : ROps)  -- AND (R119)
  | iandI (o : IOps)  -- AND_I (R119)
  | ior (o : ROps)  -- OR (R119)
  | iorI (o : IOps)  -- OR_I (R119)
  | ixor (o : ROps)  -- XOR (R119)
  | ixorI (o : IOps)  -- XOR_I (R119)
  | iandn (o : ROps)  -- ANDN (R119)
  | iandnI (o : IOps)  -- ANDN_I (R119)
  | inot (o : ROps)  -- NOT (R119)
  | shl (o : ROps)  -- SHL (R119)
  | shlI (o : IOps)  -- SHL_I (R119)
  | shr (o : ROps)  -- SHR (R119)
  | shrI (o : IOps)  -- SHR_I (R119)
  | sar (o : ROps)  -- SAR (R119)
  | sarI (o : IOps)  -- SAR_I (R119)
  | rotl (o : ROps)  -- ROTL (R119)
  | rotlI (o : IOps)  -- ROTL_I (R119)
  | bfe (o : ROps)  -- BFE (R120)
  | bfeI (o : IOps)  -- BFE_I (R120)
  | bfi (o : ROps)  -- BFI (R120)
  | popc (o : ROps)  -- POPC (R121)
  | clz (o : ROps)  -- CLZ (R121)
  | brev (o : ROps)  -- BREV (R121)
  | icmp (o : ROps)  -- ICMP (R122)
  | icmpI (o : IOps)  -- ICMP_I (R122)
  | sel (o : ROps)  -- SEL (R123)
  | mov (o : ROps)  -- MOV (R124)
  | movi (o : IOps)  -- MOVI (R124)
  | idp4 (o : ROps)  -- IDP4 (R125)
  | shfl (o : ROps)  -- SHFL (R127)
  | shflI (o : IOps)  -- SHFL_I (R127)
  | vote (o : ROps)  -- VOTE (R130)
  | rdfl (o : ROps)  -- RDFL (R129)
  | rdln (o : ROps)  -- RDLN (R128)
  | rdlnI (o : IOps)  -- RDLN_I (R128)
  | bcast (o : ROps)  -- BCAST (R128)
  | bcastI (o : IOps)  -- BCAST_I (R128)
  | lred (o : ROps)  -- LRED (R132)
  | lscan (o : ROps)  -- LSCAN (R132)
  | lmatch (o : ROps)  -- MATCH (R131)
  | elect (o : ROps)  -- ELECT (R131)
  | pand (o : ROps)  -- PAND (R133)
  | por (o : ROps)  -- POR (R133)
  | pxor (o : ROps)  -- PXOR (R133)
  | pnot (o : ROps)  -- PNOT (R133)
  | pmov (o : ROps)  -- PMOV (R133)
  | emget (o : ROps)  -- EMGET (R134)
  | emset (o : ROps)  -- EMSET (R135)
  | fadd (o : ROps)  -- FADD (R141)
  | faddI (o : IOps)  -- FADD_I (R141)
  | fsub (o : ROps)  -- FSUB (R141)
  | fsubI (o : IOps)  -- FSUB_I (R141)
  | fmul (o : ROps)  -- FMUL (R141)
  | fmulI (o : IOps)  -- FMUL_I (R141)
  | fma (o : ROps)  -- FMA (R142)
  | fmin (o : ROps)  -- FMIN (R143)
  | fminI (o : IOps)  -- FMIN_I (R143)
  | fmax (o : ROps)  -- FMAX (R143)
  | fmaxI (o : IOps)  -- FMAX_I (R143)
  | fcmp (o : ROps)  -- FCMP (R144)
  | fcmpI (o : IOps)  -- FCMP_I (R144)
  | fclass (o : ROps)  -- FCLASS (R145)
  | fdiv (o : ROps)  -- FDIV (R141)
  | fdivI (o : IOps)  -- FDIV_I (R141)
  | frcp (o : ROps)  -- FRCP (R146)
  | fsqrt (o : ROps)  -- FSQRT (R146)
  | frsq (o : ROps)  -- FRSQ (R146)
  | fpow2 (o : ROps)  -- FPOW2 (R146)
  | flog2 (o : ROps)  -- FLOG2 (R146)
  | frnd (o : ROps)  -- FRND (R147)
  | hadd2 (o : ROps)  -- HADD2 (R148)
  | hmul2 (o : ROps)  -- HMUL2 (R148)
  | hfma2 (o : ROps)  -- HFMA2 (R148)
  | fdp2 (o : ROps)  -- FDP2 (R149)
  | cvt (o : ROps)  -- CVT (R150)
  | cvtb (o : ROps)  -- CVTB (R152)
  | cvtbx (o : ROps)  -- CVTBX (R153)
  | bra (o : BOps)  -- BRA (R157)
  | brcNz (o : BOps)  -- BRC_NZ (R157)
  | brcZ (o : BOps)  -- BRC_Z (R157)
  | brd (o : BOps)  -- BRD (R161)
  | tok (o : BOps)  -- TOK (R160)
  | join (o : ROps)  -- JOIN (R162)
  | brk (o : BOps)  -- BRK (R164)
  | jmp (o : ROps)  -- JMP (R158)
  | call (o : BOps)  -- CALL (R158)
  | callr (o : ROps)  -- CALLR (R158)
  | ret (o : ROps)  -- RET (R158)
  | loop (o : BOps)  -- LOOP (R170)
  | exit (o : ROps)  -- EXIT (R173)
  | yield (o : IOps)  -- YIELD (R174)
  | rhead (o : ROps)  -- RHEAD (R176)
  | ld (o : MOps)  -- LD (R187)
  | st (o : MOps)  -- ST (R188)
  | ldsp (o : MOps)  -- LDSP (R187)
  | stsp (o : MOps)  -- STSP (R188)
  | ldcl (o : MOps)  -- LDCL (R187)
  | stcl (o : MOps)  -- STCL (R188)
  | lddie (o : MOps)  -- LDDIE (R187)
  | stdie (o : MOps)  -- STDIE (R188)
  | ldpv (o : MOps)  -- LDPV (R187)
  | stpv (o : MOps)  -- STPV (R188)
  | pref (o : MOps)  -- PREF (R189)
  | fence (o : MOps)  -- FENCE (R197)
  | cpub (o : MOps)  -- CPUB (R199)
  | atom (o : AOps)  -- ATOM (R193)
  | atomsp (o : AOps)  -- ATOMSP (R193)
  | red (o : AOps)  -- RED (R194)
  | xadd (o : AOps)  -- XADD (R81)
  | xrd (o : MOps)  -- XRD (R82)
  | xclr (o : MOps)  -- XCLR (R196)
  | swinit (o : AOps)  -- SWINIT (R201)
  | swexp (o : AOps)  -- SWEXP (R201)
  | arv (o : AOps)  -- ARV (R201)
  | wtg (o : AOps)  -- WTG (R203)
  | bar (o : ROps)  -- BAR (R204)
  | rbar (o : ROps)  -- RBAR (R204)
  | sbar (o : ROps)  -- SBAR (R204)
  | cpy (o : ROps)  -- CPY (R212)
  | cpyst (o : ROps)  -- CPYST (R212)
  | seal (o : ROps)  -- SEAL (R215)
  | wtbSrc (o : IOps)  -- WTB_SRC (R216)
  | wtbVis (o : IOps)  -- WTB_VIS (R216)
  | wtc (o : IOps)  -- WTC (R218)
  | cpyt (o : XOps)  -- CPYT (R220)
  | cpymm (o : XOps)  -- CPYMM (R221)
  | gthr (o : XOps)  -- GTHR (R222)
  | scat (o : XOps)  -- SCAT (R222)
  | coll (o : XOps)  -- COLL (R224)
  | spawn (o : ROps)  -- SPAWN (R225)
  | sig (o : ROps)  -- SIG (R227)
  | hwaitd (o : ROps)  -- HWAITD (R228)
  | tsdef (o : XOps)  -- TSDEF (R234)
  | tsset (o : XOps)  -- TSSET (R234)
  | tsinv (o : XOps)  -- TSINV (R234)
  | mma (o : XOps)  -- MMA (R242)
  | mmad (o : XOps)  -- MMAD (R250)
  | mconv (o : XOps)  -- MCONV (R243)
  | mzero (o : XOps)  -- MZERO (R244)
  | mld (o : XOps)  -- MLD (R244)
  | mst (o : XOps)  -- MST (R244)
  | rsdef (o : XOps)  -- RSDEF (R249)
  | rsinv (o : XOps)  -- RSINV (R252)
  | rssave (o : XOps)  -- RSSAVE (R252)
  | rsload (o : XOps)  -- RSLOAD (R253)
  | rsstat (o : XOps)  -- RSSTAT (R252)
  | mfence (o : ROps)  -- MFENCE (R240)
  | trap (o : IOps)  -- TRAP (R259)
  | srd (o : IOps)  -- SRD (R257)
  | swr (o : IOps)  -- SWR (R258)
  | tretTo (o : ROps)  -- TRET_TO (R265)
  | tretRetry (o : ROps)  -- TRET_RETRY (R265)
  | tretSkip (o : ROps)  -- TRET_SKIP (R265)
  | brkpt (o : IOps)  -- BRKPT (R259)
  | fwcall (o : IOps)  -- FWCALL (R260)
  | fwcallReply (w : Nat)  -- FWCALL_REPLY (R260)
  | resultLand (w : Nat)  -- RESULT_LAND (R94)
  | regionRelease (w : Nat)  -- REGION_RELEASE (R51)
  | wakeWave (d : Fin 4) (c : Fin 8)  -- WAKE_WAVE (R384)
  | hwaitdWake (h : Nat)  -- HWAITD_WAKE (R228)
  | wdog (w : Nat)  -- WDOG (R34)
  | homeoffReply (w : Nat)  -- HOMEOFF_REPLY (R263)
  | pageReplyMapped (f : Nat) (tag : BitVec 16)  -- PAGE_REPLY_MAPPED (R347)
  | pageReplyRefused (f : Nat) (tag : BitVec 16)  -- PAGE_REPLY_REFUSED (R347)
  | waleRetire (w : Nat)  -- WALE_RETIRE (R31)
  | engineCommandComplete (c : Nat)  -- ENGINE_COMMAND_COMPLETE (R210)
  | sourcePoint (c : Nat)  -- SOURCE_POINT (R214)
  | engineFault (c : Nat)  -- ENGINE_FAULT (R211)
  | stagingClear (c : Nat)  -- STAGING_CLEAR (R229)
  | cpymmFollowOn (c : Nat)  -- CPYMM_FOLLOW_ON (R221)
  | matrixBurstStart (c : Nat)  -- MATRIX_BURST_START (R241)
  | matrixResultClear (c : Nat)  -- MATRIX_RESULT_CLEAR (R238)
  | unitPreempt (k : Nat) (r : Nat)  -- UNIT_PREEMPT (R33)
  | unitResume (k : Nat) (r : Nat)  -- UNIT_RESUME (R351)
  | lineFill (w : Nat) (va : BitVec 64)  -- LINE_FILL (R87)
  | sensorReport (d : Fin 4) (cell : Fin 256) (ty : Fin 3)  -- SENSOR_REPORT (R287)
  | guardEvent (d : Fin 4) (cell : Fin 256) (ty : Fin 3)  -- GUARD_EVENT (R55)
  | tagWindowClose (d : Fin 4) (g : Fin 63)  -- TAG_WINDOW_CLOSE (R295)
  | clearSend (d : Fin 4) (g : Fin 63)  -- CLEAR_SEND (R296)
  | taggedFlitReceive (d : Fin 4) (c : Nat) (tag : BitVec 24)  -- TAGGED_FLIT_RECEIVE (R297)
  | clearReceive (d src : Fin 4) (g : Fin 63) (ser : BitVec 12) (count : Nat)  -- CLEAR_RECEIVE (R297)
  | squashReceive (d src : Fin 4) (g : Fin 63) (first nxt : BitVec 12)  -- SQUASH_RECEIVE (R297)
  | vfQnotify (f : Fin 129) (q : Fin 64) (x : BitVec 64)  -- VF_QNOTIFY (R329)
  | queueEnable (f : Fin 129) (q : Fin 64) (x : BitVec 64)  -- QUEUE_ENABLE (R329)
  | queueDisable (f : Fin 129) (q : Fin 64) (x : BitVec 64)  -- QUEUE_DISABLE (R329)
  | queueResume (f : Fin 129) (q : Fin 64) (x : BitVec 64)  -- QUEUE_RESUME (R329)
  | nopEntry (f : Fin 129) (q : Fin 64)  -- NOP_ENTRY (R332)
  | launch (f : Fin 129) (q : Fin 64)  -- LAUNCH (R335)
  | signalWait (f : Fin 129) (q : Fin 64)  -- SIGNAL_WAIT (R333)
  | signalWrite (f : Fin 129) (q : Fin 64)  -- SIGNAL_WRITE (R333)
  | graphNodeDeclaration (f : Fin 129) (q : Fin 64)  -- GRAPH_NODE_DECLARATION (R337)
  | recoveryExtension (f : Fin 129) (q : Fin 64)  -- RECOVERY_EXTENSION (R340)
  | unknownEntry (f : Fin 129) (q : Fin 64)  -- UNKNOWN_ENTRY (R332)
  | rimAdmit (d : Fin 4)  -- RIM_ADMIT (R23)
  | heldSkeinAdmit (k : Nat)  -- HELD_SKEIN_ADMIT (R343)
  | prodbmPoll  -- PRODBM_POLL (R341)
  | priorityPreempt (d : Fin 4)  -- PRIORITY_PREEMPT (R344)
  | vfEvbaseWrite (f : Fin 129) (x : BitVec 64)  -- VF_EVBASE_WRITE (R347)
  | vfEvptrWrite (f : Fin 129) (x : BitVec 64)  -- VF_EVPTR_WRITE (R347)
  | functionLevelReset (f : Fin 129)  -- FUNCTION_LEVEL_RESET (R369)
  | purge (station : BitVec 10) (part : BitVec 5)  -- PURGE (R370)
  | wsSave (f : Fin 129)  -- WS_SAVE (R372)
  | wsMsave (f : Fin 129)  -- WS_MSAVE (R372)
  | wsRestore (f : Fin 129)  -- WS_RESTORE (R373)
  | qcancel (f : Fin 129) (q : Fin 64)  -- QCANCEL (R371)
  | partitionChange  -- PARTITION_CHANGE (R375)
  | funcpartWrite (f : Fin 129) (x : BitVec 64)  -- FUNCPART_WRITE (R374)
  | dieResetGo (x : BitVec 64)  -- DIE_RESET_GO (R360)
  | quiesceTimeout  -- QUIESCE_TIMEOUT (R360)
  | flush  -- FLUSH (R360)
  | dieReset  -- RESET (R360)
  | retrain  -- RETRAIN (R360)
  | readmit  -- READMIT (R360)
  | attestationRequest (n : Fin 8)  -- ATTESTATION_REQUEST (R398)
  | flitCrcRetry (k : Fin 6)  -- FLIT_CRC_RETRY (R356)
  | protocolError (k : Fin 6) (d : Fin 4)  -- PROTOCOL_ERROR (R356)
  | linkRetrain (k : Fin 6)  -- LINK_RETRAIN (R356)
  | retryThreshold (k : Fin 6)  -- RETRY_THRESHOLD (R356)
  | laneFailure (k : Fin 6)  -- LANE_FAILURE (R356)
  | trainingTimeout (k : Fin 6)  -- TRAINING_TIMEOUT (R356)
  | sigadd (station : BitVec 10) (n : Fin 256) (x : BitVec 32)  -- SIGADD (R364)
  | revoke (page : Nat)  -- REVOKE (R315)
  | grantRelease (page : Nat) (station : BitVec 10) (lines : List (Nat × BitVec 512))  -- GRANT_RELEASE (R315)
  | grantTimeout (page : Nat)  -- GRANT_TIMEOUT (R315)
  | notificationDelivery (d : Fin 4)  -- NOTIFICATION_DELIVERY (R311)
  | hotLineCool (d : Fin 4) (line : Nat)  -- HOT_LINE_COOL (R313)
  | l1Gate (d : Fin 4) (a : Fin 96)  -- L1_GATE (R316)
  | waygateWrite (d : Fin 4) (x : BitVec 64)  -- WAYGATE_WRITE (R316)
  | keyRetire (d : Fin 4) (x : BitVec 64)  -- KEY_RETIRE (R320)
  | keyRetireDone (d : Fin 4)  -- KEY_RETIRE_DONE (R320)
  | tlbInvalidate (d : Fin 4) (x : BitVec 64)  -- TLB_INVALIDATE (R325)
  | tlbInvalidateDone (d : Fin 4)  -- TLB_INVALIDATE_DONE (R325)
  | dscWinWrite (d : Fin 4) (p : Fin 32) (x : BitVec 64)  -- DSC_WIN_WRITE (R310)
  | windowZeroingDone (d : Fin 4) (p : Fin 32)  -- WINDOW_ZEROING_DONE (R310)
  | bwshareWrite (d : Fin 4) (f : Fin 129) (x : BitVec 64)  -- BWSHARE_WRITE (R328)
  | hbmModeChange (d : Fin 4) (k : Fin 2) (temp : BitVec 16)  -- HBM_MODE_CHANGE (R327)
  | qsmWindowWrite (d : Fin 4) (x : BitVec 64)  -- QSM_WINDOW_WRITE (R299)
  | qsmCtlWrite (d : Fin 4) (x : BitVec 64)  -- QSM_CTL_WRITE (R303)
  | qsmInjectArm (d : Fin 4) (x : BitVec 64)  -- QSM_INJECT_ARM (R301)
  | qsmInjectDisarm (d : Fin 4) (x : BitVec 64)  -- QSM_INJECT_DISARM (R301)
  | injectionFire (d : Fin 4)  -- INJECTION_FIRE (R301)
  | stormIntervalEnd (d : Fin 4)  -- STORM_INTERVAL_END (R303)
  | sensorSelfTest (d : Fin 4) (blind : List (Fin 256 × Fin 3)) (partial_ : List (Fin 256 × Fin 3))  -- SENSOR_SELF_TEST (R305)
  | tokenHop (d : Fin 4)  -- TOKEN_HOP (R383)
  | tokenHoldLimit (d : Fin 4) (c : Fin 8)  -- TOKEN_HOLD_LIMIT (R383)
  | pwrTokensWrite (d : Fin 4) (x : BitVec 64)  -- PWR_TOKENS_WRITE (R391)
  | classWrite (d : Fin 4) (c : Fin 8) (x : BitVec 64)  -- CLASS_WRITE (R379)
  | classChangeApply (d : Fin 4) (c : Fin 8)  -- CLASS_CHANGE_APPLY (R379)
  | railStep (d : Fin 4) (k : Fin 4)  -- RAIL_STEP (R382)
  | railHoldExpiry (d : Fin 4) (k : Fin 4)  -- RAIL_HOLD_EXPIRY (R382)
  | allotmentThrottle (p : Fin 32) (avg : BitVec 16) (mj : BitVec 64)  -- ALLOTMENT_THROTTLE (R386)
  | pwrAllotWrite (p : Fin 32) (x : BitVec 64)  -- PWR_ALLOT_WRITE (R391)
  | thermalSensorUpdate (d : Fin 4) (raw : List (BitVec 16 × Bool))  -- THERMAL_SENSOR_UPDATE (R388)
  | thermalThrottleStep (d : Fin 4)  -- THERMAL_THROTTLE_STEP (R389)
  | thermalTrip (d : Fin 4)  -- THERMAL_TRIP (R389)
  | noValidSensorTimeout (d : Fin 4)  -- NO_VALID_SENSOR_TIMEOUT (R388)
  | packageReset  -- PACKAGE_RESET (R400)
  | fwPkgrstGo (x : BitVec 64)  -- FW_PKGRST_GO (R400)
  | pluginTimeout (f : Fin 129)  -- PLUGIN_TIMEOUT (R394)
  | pluginViolation (f : Fin 129)  -- PLUGIN_VIOLATION (R394)
  | telemetryRecord  -- TELEMETRY_RECORD (R397)
  | hostWindowRead (f : Fin 129) (o : BitVec 30) (n : Fin 65)  -- HOST_WINDOW_READ (R367)
  | hostWindowWrite (f : Fin 129) (o : BitVec 30) (bs : List (BitVec 8))  -- HOST_WINDOW_WRITE (R367)
  /-- A write of `x`: by the host at offset `a` of function `f`'s BAR 0 (16 R366), or by the firmware at management address `a` (18 R395). -/
  | registerWrite (f : Fin 129) (a : Nat) (x : BitVec 64) (w : RegWriter)  -- REGISTER_WRITE (R8)
  | trainingComplete (k : Fin 6) (rate : Fin 3) (mods : Fin 5)  -- TRAINING_COMPLETE (R356)
  | burstEnd (c : Nat)  -- BURST_END (R383)
  | wayGatingDone (d : Fin 4)  -- WAY_GATING_DONE (R316)
  | regionUnfence (d : Fin 4) (g : Fin 63)  -- REGION_UNFENCE (R304)
  | peerRequest (station : BitVec 10) (pa : Nat) (req : PeerReq)  -- PEER_REQUEST (R362)
  deriving DecidableEq, Repr

end Sys2Proof
end

