-- ==== Sys2Proof/WellFormed.lean ====
section
/-! DEFINITION. Well-formedness: the encodings that do not raise ILL by their bits alone (00 R9, 04 R91 to R108 and
the operand tables of each chapter). The one encoding check that needs the state, a v register at or above VREGS
(02 R42), is made at issue (Machine/Operands.lean). -/

namespace Sys2Proof

namespace Opnd
def isV : Opnd → Bool | .v _ => true | _ => false
def isS : Opnd → Bool | .s _ => true | _ => false
def isP : Opnd → Bool | .p _ => true | _ => false
/-- An even-based pair of v registers (02 R42). -/
def isVPair : Opnd → Bool | .v n => n.val % 2 == 0 | _ => false
def isSPair : Opnd → Bool | .s n => n.val % 2 == 0 | _ => false
def isVQuad : Opnd → Bool | .v n => n.val % 4 == 0 | _ => false
def isSQuad : Opnd → Bool | .s n => n.val % 4 == 0 | _ => false
end Opnd

/-- The operand classes that the entries name (05 R113, 06 R140, 07 R155 and the later tables). -/
inductive Cls where
  | vs | vsd | v | vd | s | sd | p | ps | none | em | sOrNone | vOrS | pairOrOne (pair : Bool) | vPairOrOne (pair : Bool)
  deriving DecidableEq, Repr

/-- The operand is of the class (04 R98). -/
def Cls.ok : Cls → Opnd → Bool
  | .vs, o => o.isV || o.isS
  | .vOrS, o => o.isV || o.isS
  | .vsd, o => o.isVPair || o.isSPair
  | .v, o => o.isV
  | .vd, o => o.isVPair
  | .s, o => o.isS
  | .sd, o => o.isSPair
  | .p, o => o.isP
  | .ps, o => o.isP || o.isS
  | .none, o => o == .none
  | .em, o => o == .em
  | .sOrNone, o => o.isS || o == .none
  | .pairOrOne b, o => if b then o.isVPair || o.isSPair else o.isV || o.isS
  | .vPairOrOne b, o => if b then o.isVPair else o.isV

/-- Column G of the opcode map (04 R108): guardable in the vector form only, always, or never. -/
inductive Grd where
  | vec | yes | no
  deriving DecidableEq, Repr

/-- GP = 0 and GN = 0: no guard (04 R91). -/
def Hdr.unguarded (h : Hdr) : Bool := h.gp == 0 && !h.gn

/-- The header checks of 04 R91 and R92. `ll` says that the instruction is long-latency (04 R93). -/
def Hdr.ok (h : Hdr) (g : Grd) (vecDst ll : Bool) : Bool :=
  (h.unguarded || (h.gp != 0 && (match g with | .vec => vecDst | .yes => true | .no => false)))
  && (ll || h.la == 0)

/-- The checks of a format R entry: header, classes, and no v source under an s destination (04 R98, 00 R9). -/
def wfR (o : ROps) (g : Grd) (ll : Bool) (d a b c : Cls) (modOk : Bool) : Bool :=
  o.h.ok g o.d.isV ll && d.ok o.d && a.ok o.a && b.ok o.b && c.ok o.c && modOk
  && !(o.d.isS && (o.a.isV || o.b.isV || o.c.isV))

/-- As `wfR` for the entries that turn v values into a uniform value (`vote`, `rdfl`, `rdln`, `lred`, 04 R98). -/
def wfRx (o : ROps) (g : Grd) (ll : Bool) (d a b c : Cls) (modOk : Bool) : Bool :=
  o.h.ok g o.d.isV ll && d.ok o.d && a.ok o.a && b.ok o.b && c.ok o.c && modOk

/-- The checks of a format I entry. -/
def wfI (o : IOps) (g : Grd) (ll : Bool) (d a : Cls) (modOk immOk : Bool) : Bool :=
  o.h.ok g o.d.isV ll && d.ok o.d && a.ok o.a && modOk && immOk && !(o.d.isS && o.a.isV)

def wfIx (o : IOps) (g : Grd) (ll : Bool) (d a : Cls) (modOk immOk : Bool) : Bool :=
  o.h.ok g o.d.isV ll && d.ok o.d && a.ok o.a && modOk && immOk

/-- The field `[hi:lo]` of a modifier as a number (00 R7). -/
def fld {n : Nat} (x : BitVec n) (hi lo : Nat) : Nat := (x.extractLsb' lo (hi + 1 - lo)).toNat
/-- All bits from `k` upward are zero. -/
def topZero {n : Nat} (x : BitVec n) (k : Nat) : Bool := x >>> k == 0

/-- MOD of `shfl` (05 R113): MODE [1:0], W [4:2] at most 4. -/
def shflMod (m : BitVec 16) : Bool := topZero m 5 && fld m 4 2 ≤ 4
/-- MOD of `lred`, and of `lscan` with EX allowed (05 R113). -/
def lredMod (m : BitVec 16) (ex : Bool) : Bool :=
  topZero m (if ex then 6 else 5) && fld m 2 0 ≤ 5 && fld m 4 3 ≤ 2 && !(fld m 4 3 == 2 && 3 ≤ fld m 2 0)
/-- Number of element positions of a scalar format (06 R150). -/
def fmtPositions (f : Nat) : Nat := if f = 1 ∨ f = 2 then 2 else if f = 5 ∨ f = 6 then 4 else 1
/-- MOD of `cvt` (06 R140, R150). -/
def cvtMod (m : BitVec 16) : Bool :=
  topZero m 14 && fld m 5 2 ≤ 6 && fld m 9 6 ≤ 6
  && fld m 11 10 < fmtPositions (fld m 5 2) && fld m 13 12 < fmtPositions (fld m 9 6)
/-- A BFP format code (03 R59). -/
def isBfp (f : Nat) : Bool := f == 7 || f == 8 || f == 9

/-- BASE and IDX of format M (04 R102, R103): with no BASE, a global access takes a v pair as IDX, with XS zero. -/
def wfAddr (glob : Bool) (base idx : Opnd) (xs : BitVec 2) : Bool :=
  (base.isSPair || base == .none)
  && (if glob && base == .none then idx == .none || (idx.isVPair && xs == 0) else idx == .none || idx.isV)

/-- Data register of a load or store of width code `w` (08 R182). -/
def wfData (w : Nat) (d : Opnd) : Bool :=
  match w with
  | 3 => d.isVPair || d.isSPair
  | 4 => d.isVQuad || d.isSQuad
  | _ => d.isV || d.isS

/-- CP and HD of an access (08 R180, R186): only global accesses take them. -/
def wfPolicy (glob : Bool) (cp : BitVec 2) (hd : BitVec 3) : Bool :=
  if glob then cp.toNat ≤ 2 && (hd == 0 || 4 ≤ hd.toNat) else cp == 0 && hd == 0

/-- ORD and SCOPE (08 R184): `acq` and `rel` say which orderings the entry allows, `maxScope` the widest scope. -/
def wfOrd (acq rel ar : Bool) (maxScope : Nat) (ord : BitVec 2) (scope : BitVec 3) : Bool :=
  match ord.toNat with
  | 0 => scope == 0
  | 1 => acq && 1 ≤ scope.toNat && scope.toNat ≤ maxScope
  | 2 => rel && 1 ≤ scope.toNat && scope.toNat ≤ maxScope
  | _ => ar && 1 ≤ scope.toNat && scope.toNat ≤ maxScope

/-- A load of one space (08 R180 to R184). A scalar form takes no guard and no index. -/
def wfLoad (glob : Bool) (maxScope : Nat) (o : MOps) : Bool :=
  o.h.ok .yes o.d.isV true && (o.d.isV || (o.h.unguarded && o.idx == .none))
  && wfAddr glob o.base o.idx o.xs && wfData o.w.toNat o.d && o.w.toNat ≤ 4 && wfPolicy glob o.cp o.hd
  && wfOrd true false false maxScope o.ord o.scope
  && o.var.toNat ≤ 1 && !(o.var == 1 && 2 ≤ o.w.toNat)

/-- A store of one space. Stores with s data and no index are scalar forms (08 R182). -/
def wfStore (glob : Bool) (maxScope : Nat) (o : MOps) : Bool :=
  o.h.ok .yes true false && (o.d.isV || o.idx != .none || o.h.unguarded)
  && wfAddr glob o.base o.idx o.xs && wfData o.w.toNat o.d && o.w.toNat ≤ 4 && wfPolicy glob o.cp o.hd
  && wfOrd false true false maxScope o.ord o.scope && o.var == 0

/-- SCOPE-only forms `fence` and `cpub` (04 R108). -/
def wfScopeOnly (o : MOps) (scopeOk : Bool) : Bool :=
  o.h.ok .no false false && o.d == .none && o.base == .none && o.idx == .none && o.w == 0 && o.cp == 0
  && o.ord == 0 && o.xs == 0 && o.hd == 0 && o.var == 0 && o.off == 0 && scopeOk

/-- The scalar form of an atomic (08 R192): D of class s or none, X and Y of class s, IDX none. -/
def AOps.scalar (o : AOps) : Bool :=
  !o.d.isV && o.x.isS && (o.y.isS || o.y == .none) && o.idx == .none

/-- `atom`, `atomsp` and `red` (08 R192). -/
def wfAtomic (glob : Bool) (maxScope : Nat) (dOk : Bool) (maxAop : Nat) (varOk : Bool) (o : AOps) : Bool :=
  let cls : Opnd → Bool := if o.w == 3 then (fun r => r.isVPair || r.isSPair) else (fun r => r.isV || r.isS)
  (if o.scalar then o.h.ok .no false (o.d != .none) else o.h.ok .yes true (o.d != .none))
  && (o.d == .none || (dOk && cls o.d && (o.d.isV || o.scalar)))
  && (o.w == 2 || o.w == 3) && cls o.x
  && (if o.aop == 7 then cls o.y else o.y == .none) && o.aop.toNat ≤ maxAop && varOk
  && wfAddr glob o.base o.idx o.xs && wfPolicy glob o.cp o.hd
  && (if o.d == .none then wfOrd false true false maxScope o.ord o.scope
      else wfOrd true true true maxScope o.ord o.scope)

/-- The sync-word instructions (08 R201): without an index register XS is of no effect and may hold any value, as in 04 R102. -/
def wfSync (d x y : Cls) (o : AOps) : Bool :=
  o.h.ok .no false false && d.ok o.d && x.ok o.x && y.ok o.y && (o.base.isSPair || o.base == .none)
  && o.idx == .none && o.w == 0 && o.aop == 0 && o.cp == 0 && o.hd == 0 && o.ord == 0 && o.scope == 0
  && o.var.toNat ≤ 1

/-- Format X entries: header without guard or LA, classes, and the ranges of TS, TS2, RS and FLAGS. -/
def wfX (o : XOps) (d a b c : Cls) (sub : Bool) (ts ts2 rs flags : Bool) : Bool :=
  o.h.ok .no false false && d.ok o.d && a.ok o.a && b.ok o.b && c.ok o.c && sub && ts && ts2 && rs && flags

/-- Format B entries (07 R155). -/
def wfB (o : BOps) (a : Cls) (sub dist : Bool) : Bool := o.h.ok .no false false && a.ok o.a && sub && dist

/-- Operand format codes of `mma` and `mconv` (04 R108). -/
def mmaSub (x : BitVec 8) : Bool := x == 1 || x == 2 || x == 7 || x == 8 || x == 9
/-- SCOPE codes die, dev and sys (09 R212, R220). -/
def engScope (n : Nat) : Bool := n == 3 || n == 4 || n == 5
/-- A special-register index that names a register (02 R45). -/
def srOk (i : Nat) : Bool := i ≤ 0x1B
/-- Lower index of a 64-bit special register: `sr.cyc`, `sr.cbase`, `sr.fpc`, `sr.faddr`. -/
def srWide (i : Nat) : Bool := i == 0x08 || i == 0x0C || i == 0x10 || i == 0x12
/-- The registers marked RW in 02 R45. -/
def srRW (i : Nat) : Bool := (0x0E ≤ i && i ≤ 0x14) || (0x18 ≤ i && i ≤ 0x1A)
/-- `srd` of `sr.cyc`, `sr.occ` and `sr.qev` is long-latency (02 R45). -/
def srLong (i : Nat) : Bool := i == 0x08 || i == 0x09 || i == 0x16 || i == 0x0A

/-- The encoding is legal (00 R9): no check that reads only the instruction's bits raises ILL. An event or control
operation has no encoding and is always well formed. -/
def Instr.wf : Instr → Bool
  | .nop => true
  | .iadd o | .isub o | .imul o => wfR o .vec false .vs .vs .vs .none (o.mod == 0)
  | .iaddI o | .isubI o | .imulI o => wfI o .vec false .vs .vs (o.mod == 0) true
  | .iadds o | .isubs o | .imulh o | .imin o | .imax o => wfR o .vec false .vs .vs .vs .none (topZero o.mod 1)
  | .iaddsI o | .isubsI o | .imulhI o | .iminI o | .imaxI o => wfI o .vec false .vs .vs (topZero o.mod 1) true
  | .imad o => wfR o .vec false .vs .vs .vs .vs (o.mod == 0)
  | .imadw o => wfR o .vec false .vsd .vs .vs .vsd (topZero o.mod 1)
  | .idiv o | .irem o => wfR o .vec true .vs .vs .vs .none (topZero o.mod 1)
  | .idivI o | .iremI o => wfI o .vec true .vs .vs (topZero o.mod 1) true
  | .iabs o => wfR o .vec false .vs .vs .none .none (topZero o.mod 1)
  | .iadd64 o | .isub64 o => wfR o .vec false .vsd .vsd .vsd .none (o.mod == 0)
  | .iadd64I o | .isub64I o => wfI o .vec false .vsd .vsd (o.mod == 0) true
  | .lea o => wfR o .vec false .vsd .vsd .vs .none (topZero o.mod 4)
  | .leaI o => wfI o .vec false .vsd .vsd (topZero o.mod 4) true
  | .iand o | .ior o | .ixor o | .iandn o | .shl o | .shr o | .sar o | .rotl o =>
      wfR o .vec false .vs .vs .vs .none (o.mod == 0)
  | .iandI o | .iorI o | .ixorI o | .iandnI o | .shlI o | .shrI o | .sarI o | .rotlI o =>
      wfI o .vec false .vs .vs (o.mod == 0) true
  | .inot o | .popc o | .clz o | .brev o => wfR o .vec false .vs .vs .none .none (o.mod == 0)
  | .bfe o => wfR o .vec false .vs .vs .vs .none (topZero o.mod 1)
  | .bfeI o => wfI o .vec false .vs .vs (topZero o.mod 1) (topZero o.imm 16)
  | .bfi o => wfR o .vec false .vs .vs .vs .vs (o.mod == 0)
  | .icmp o => wfR o .yes false .p .vs .vs .none (topZero o.mod 4 && fld o.mod 2 0 ≤ 5)
  | .icmpI o => wfI o .yes false .p .vs (topZero o.mod 4 && fld o.mod 2 0 ≤ 5) true
  | .sel o => wfR o .vec false .vs .vs .vs .p (o.mod == 0)
  | .mov o => wfR o .vec false (.pairOrOne (o.mod == 1)) (.pairOrOne (o.mod == 1)) .none .none (topZero o.mod 1)
  | .movi o => wfI o .vec false (.pairOrOne (o.mod == 1)) .none (topZero o.mod 1) true
  | .idp4 o => wfR o .vec false .vs .vs .vs .vs (topZero o.mod 3)
  | .shfl o => wfR o .yes true .v .vs .vs .none (shflMod o.mod)
  | .shflI o => wfI o .yes true .v .vs (shflMod (o.mod.setWidth 16)) (o.imm.toNat ≤ 31)
  | .vote o => wfRx o .yes false .ps .v .none .none (topZero o.mod 2)
  | .rdfl o => wfRx o .yes false .s .v .none .none (o.mod == 0)
  | .rdln o => wfRx o .no false .s .v .s .none (o.mod == 0)
  | .rdlnI o => wfIx o .no false .s .v (o.mod == 0) (o.imm.toNat ≤ 31)
  | .bcast o => wfRx o .yes false .v .v .s .none (o.mod == 0)
  | .bcastI o => wfIx o .yes false .v .v (o.mod == 0) (o.imm.toNat ≤ 31)
  | .lred o => wfRx o .yes true .vOrS .v .none .none (lredMod o.mod false)
  | .lscan o => wfRx o .yes true .v .v .none .none (lredMod o.mod true)
  | .lmatch o => wfRx o .yes false .v (.vPairOrOne (o.mod == 1)) .none .none (topZero o.mod 1)
  | .elect o => wfR o .yes false .p .none .none .none (o.mod == 0)
  | .pand o | .por o | .pxor o => wfR o .yes false .p .p .p .none (o.mod == 0)
  | .pnot o => wfR o .yes false .p .p .none .none (o.mod == 0)
  | .pmov o => wfR o (if o.d.isS then .no else .yes) false .ps .ps .none .none (o.mod == 0) && !(o.d.isS && o.a.isS)
  | .emget o => wfR o .no false .ps .em .none .none (o.mod == 0)
  | .emset o => wfR o .no false .em .ps .none .none (o.mod == 0)
  | .fadd o | .fsub o | .fmul o => wfR o .vec false .vs .vs .vs .none (topZero o.mod 2)
  | .faddI o | .fsubI o | .fmulI o => wfI o .vec false .vs .vs (topZero o.mod 2) true
  | .fma o => wfR o .vec false .vs .vs .vs .vs (topZero o.mod 4)
  | .fmin o | .fmax o => wfR o .vec false .vs .vs .vs .none (o.mod == 0)
  | .fminI o | .fmaxI o => wfI o .vec false .vs .vs (o.mod == 0) true
  | .fcmp o => wfR o .yes false .p .vs .vs .none (topZero o.mod 3)
  | .fcmpI o => wfI o .yes false .p .vs (topZero o.mod 3) true
  | .fclass o => wfR o .vec false .vs .vs .none .none (o.mod == 0)
  | .fdiv o => wfR o .vec true .vs .vs .vs .none (topZero o.mod 2)
  | .fdivI o => wfI o .vec true .vs .vs (topZero o.mod 2) true
  | .frcp o | .fsqrt o | .frsq o | .fpow2 o | .flog2 o => wfR o .vec true .vs .vs .none .none (topZero o.mod 2)
  | .frnd o => wfR o .vec false .vs .vs .none .none (topZero o.mod 2)
  | .hadd2 o | .hmul2 o => wfR o .vec false .vs .vs .vs .none (topZero o.mod 3)
  | .hfma2 o | .fdp2 o => wfR o .vec false .vs .vs .vs .vs (topZero o.mod 3)
  | .cvt o => wfR o .vec false .vs .vs .none .none (cvtMod o.mod)
  | .cvtb o => wfR o .yes false .v .v .none .none (topZero o.mod 8 && isBfp (fld o.mod 3 0))
  | .cvtbx o => wfR o .yes false .v .v .sOrNone .none (topZero o.mod 4 && isBfp (fld o.mod 3 0))
  | .bra o | .tok o => wfB o .none (o.sub == 0) true
  | .brcNz o => wfB o .s (o.sub == 0) true
  | .brcZ o => wfB o .s (o.sub == 1) true
  | .brd o => wfB o .p (o.sub == 0) true
  | .join o | .rhead o | .bar o | .rbar o | .sbar o | .seal o | .mfence o =>
      wfR o .no false .none .none .none .none (o.mod == 0)
  | .brk o => wfB o .p (o.sub.toNat ≤ 63) (o.dist == 0)
  | .jmp o | .ret o => wfR o .no false .none .sd .none .none (o.mod == 0)
  | .call o => wfB o .sd (o.sub == 0) true
  | .callr o => wfR o .no false .sd .sd .none .none (o.mod == 0)
  | .loop o => wfB o .s (o.sub.toNat ≤ 2) (1 ≤ o.dist.toInt)
  | .exit o => wfR o .yes false .none .none .none .none (o.mod == 0)
  | .yield o => wfI o .no false .none .none (o.mod == 0)
      (topZero o.imm 21 && fld o.imm 11 0 != 0 && fld o.imm 20 12 ≤ 256)
  | .ld o => wfLoad true 5 o
  | .ldsp o => wfLoad false 1 o
  | .ldcl o => wfLoad false 2 o
  | .lddie o => wfLoad false 3 o
  | .ldpv o => wfLoad false 0 o
  | .st o => wfStore true 5 o
  | .stsp o => wfStore false 1 o
  | .stcl o => wfStore false 2 o
  | .stdie o => wfStore false 3 o
  | .stpv o => wfStore false 0 o
  | .pref o => o.h.ok .yes true false && o.d == .none && wfAddr true o.base o.idx o.xs && o.w.toNat ≤ 4
      && o.cp.toNat ≤ 1 && (o.hd == 0 || 4 ≤ o.hd.toNat) && o.ord == 0 && o.scope == 0 && o.var == 0
  | .fence o => wfScopeOnly o (o.scope.toNat ≤ 5)
  | .cpub o => wfScopeOnly o (1 ≤ o.scope.toNat && o.scope.toNat ≤ 5)
  | .atom o => wfAtomic true 5 true 7 (o.var.toNat ≤ 1) o
  | .atomsp o => wfAtomic false (if fld o.var 2 1 == 0 then 1 else if fld o.var 2 1 == 1 then 2 else 3) true 7
      (fld o.var 2 1 ≤ 2) o
  | .red o => wfAtomic true 5 false 5 (o.var.toNat ≤ 1) o
  | .xadd o => (if o.scalar then o.h.ok .no false false else o.h.ok .yes true false)
      && o.d == .none && (o.x.isV || o.x.isS) && o.y == .none && o.aop == 0 && o.var.toNat ≤ 1 && o.w == 2
      && wfAddr true o.base o.idx o.xs && wfPolicy true o.cp o.hd && wfOrd false true false 5 o.ord o.scope
  | .xrd o => o.h.ok .yes o.d.isV true && (o.d.isV || (o.d.isS && o.h.unguarded && o.idx == .none)) && o.w == 2
      && wfAddr true o.base o.idx o.xs && wfPolicy true o.cp o.hd && wfOrd true false false 5 o.ord o.scope && o.var == 0
  | .xclr o => o.h.ok .yes true false && o.d == .none && o.w == 2
      && wfAddr true o.base o.idx o.xs && wfPolicy true o.cp o.hd && wfOrd false true false 5 o.ord o.scope && o.var == 0
  | .swinit o => wfSync .none .s .sOrNone o
  | .swexp o => wfSync .none .s .none o
  | .arv o => wfSync .none .sOrNone .none o
  | .wtg o => wfSync .sOrNone .s .none o
  | .cpy o => wfR o .no false .sd .sd .s .sOrNone
      (topZero o.mod 5 && fld o.mod 1 0 != 0 && !(o.c == .none && fld o.mod 4 4 == 1))
  | .cpyst o => wfR o .no false .sd .sd .s .sOrNone
      (topZero o.mod 8 && fld o.mod 1 0 == 0 && fld o.mod 3 2 != 0 && engScope (fld o.mod 7 5)
       && !(o.c == .none && fld o.mod 4 4 == 1))
  | .wtbSrc o | .wtbVis o => wfI o .no false .none .none (o.mod == 0) (topZero o.imm 4)
  | .wtc o => wfI o .no false .none .none (o.mod == 0) (topZero o.imm 10)
  | .cpyt o => wfX o .sOrNone .sOrNone .sOrNone .none (o.sub == 0) (o.ts.toNat ≤ 63) (o.ts2.toNat ≤ 63) (o.rs == 0)
      (topZero o.flags 4 && (fld o.flags 3 1 == 0 || engScope (fld o.flags 3 1)))
  | .cpymm o => wfX o .sOrNone .sOrNone .sOrNone .s (o.sub == 0) (o.ts.toNat ≤ 63) (o.ts2.toNat ≤ 63) (o.rs == 0)
      (topZero o.flags 4 && (fld o.flags 3 1 == 0 || engScope (fld o.flags 3 1)))
  | .gthr o => wfX o .s .v .sd .sOrNone (o.sub == 0) (o.ts == 0) (o.ts2 == 0) (o.rs == 0)
      (2 ≤ fld o.flags 3 0 && fld o.flags 3 0 ≤ 10 && fld o.flags 7 5 == 0)
  | .scat o => wfX o .s .v .sd .sOrNone (o.sub == 0) (o.ts == 0) (o.ts2 == 0) (o.rs == 0)
      (2 ≤ fld o.flags 3 0 && fld o.flags 3 0 ≤ 10 && engScope (fld o.flags 7 5))
  | .coll o => wfX o .sd .sd .s .s (o.sub == 0) (fld o.flags 2 0 == 3 || o.ts == 0) (o.ts2 == 0) (o.rs == 0)
      (topZero o.flags 7 && fld o.flags 2 0 ≤ 5
       && (fld o.flags 6 3 == 0 || fld o.flags 6 3 == 2 || fld o.flags 6 3 == 3 || fld o.flags 6 3 == 4))
  | .spawn o => wfR o .no false .none .sd .none .none (o.mod == 0)
  | .sig o => wfR o .no false .none .s .s .none (topZero o.mod 1)
  | .hwaitd o => wfR o .no false .sOrNone .s .s .none (topZero o.mod 2 && fld o.mod 1 0 != 3)
  | .tsdef o => wfX o .none .s .none .none (o.sub == 0) (o.ts.toNat ≤ 63) (o.ts2 == 0) (o.rs == 0) (o.flags == 0)
  | .tsset o => wfX o .none .s .s .none (o.sub == 0) (o.ts.toNat ≤ 63) (o.ts2 == 0) (o.rs == 0) (o.flags == 0)
  | .tsinv o => wfX o .none .none .none .none (o.sub == 0) (o.ts.toNat ≤ 63) (o.ts2 == 0) (o.rs == 0) (o.flags == 0)
  | .mma o | .mconv o => wfX o .s .s .s .s (mmaSub o.sub) (o.ts.toNat ≤ 63) (o.ts2.toNat ≤ 63) (o.rs == 0)
      (topZero o.flags 1)
  | .mmad o => wfX o .s .s .s .s (o.sub == 2) (o.ts.toNat ≤ 63) (o.ts2.toNat ≤ 63) true (topZero o.flags 1)
  | .mzero o => wfX o .none .none .none .none (o.sub == 0) true true (o.rs == 0) (o.flags == 0)
  | .mld o => wfX o .s .s .none .none (o.sub == 0) (o.ts.toNat ≤ 63) (o.ts2 == 0) (o.rs == 0) (o.flags == 0)
  | .mst o => wfX o .s .s .none .none (o.sub == 0) (o.ts.toNat ≤ 63) (o.ts2 == 0) (o.rs == 0)
      (fld o.flags 0 0 == 0 && topZero o.flags 4 && (fld o.flags 3 1 == 0 || engScope (fld o.flags 3 1)))
  | .rsdef o => wfX o .none .s .s .none (o.sub == 0) (o.ts == 0) (o.ts2.toNat ≤ 63) true (o.flags == 0)
  | .rsinv o => wfX o .none .none .none .none (o.sub == 0) (o.ts == 0) (o.ts2 == 0) true (o.flags == 0)
  | .rssave o | .rsload o => wfX o .none .sd .none .none (o.sub == 0) (o.ts == 0) (o.ts2 == 0) true (o.flags == 0)
  | .rsstat o => wfX o .s .none .none .none (o.sub == 0) (o.ts == 0) (o.ts2 == 0) true (topZero o.flags 2)
  | .trap o | .brkpt o => wfI o .no false .none .none (o.mod == 0) (topZero o.imm 16)
  | .srd o =>
      let i := fld o.imm 5 0
      let p := fld o.imm 6 6 == 1
      o.h.ok .no false (srLong i) && o.a == .none && o.mod == 0 && topZero o.imm 7 && srOk i
      && (if i == 0 then o.d.isV && !p else if p then srWide i && o.d.isSPair else o.d.isS)
  | .swr o =>
      let i := fld o.imm 5 0
      let p := fld o.imm 6 6 == 1
      o.h.ok .no false false && o.d == .none && o.mod == 0 && topZero o.imm 7 && srOk i && srRW i
      && (if p then srWide i && o.a.isSPair else o.a.isS)
  | .tretTo o => wfR o .no false .none .sd .none .none (o.mod == 0)
  | .tretRetry o => wfR o .no false .none .none .none .none (o.mod == 1)
  | .tretSkip o => wfR o .no false .none .none .none .none (o.mod == 2)
  | .fwcall o => wfI o .no false .sOrNone .sOrNone (o.mod == 0) (topZero o.imm 12)
  | .fwcallReply _ | .resultLand _ | .regionRelease _ | .wakeWave _ _ | .hwaitdWake _ | .wdog _
  | .homeoffReply _ | .pageReplyMapped _ _ | .pageReplyRefused _ _ | .waleRetire _ | .engineCommandComplete _
  | .sourcePoint _ | .engineFault _ | .stagingClear _ | .cpymmFollowOn _ | .matrixBurstStart _
  | .matrixResultClear _ | .unitPreempt _ _ | .unitResume _ _ | .lineFill _ _ | .sensorReport _ _ _
  | .guardEvent _ _ _ | .tagWindowClose _ _ | .clearSend _ _ | .taggedFlitReceive _ _ _
  | .clearReceive _ _ _ _ _ | .squashReceive _ _ _ _ _ | .vfQnotify _ _ _ | .queueEnable _ _ _
  | .queueDisable _ _ _ | .queueResume _ _ _ | .nopEntry _ _ | .launch _ _ | .signalWait _ _ | .signalWrite _ _
  | .graphNodeDeclaration _ _ | .recoveryExtension _ _ | .unknownEntry _ _ | .rimAdmit _ | .heldSkeinAdmit _
  | .prodbmPoll | .priorityPreempt _ | .vfEvbaseWrite _ _ | .vfEvptrWrite _ _ | .functionLevelReset _
  | .purge _ _ | .wsSave _ | .wsMsave _ | .wsRestore _ | .qcancel _ _ | .partitionChange | .funcpartWrite _ _
  | .dieResetGo _ | .quiesceTimeout | .flush | .dieReset | .retrain | .readmit | .attestationRequest _
  | .flitCrcRetry _ | .protocolError _ _ | .linkRetrain _ | .retryThreshold _ | .laneFailure _
  | .trainingTimeout _ | .sigadd _ _ _ | .revoke _ | .grantRelease _ _ _ | .grantTimeout _
  | .notificationDelivery _ | .hotLineCool _ _ | .l1Gate _ _ | .waygateWrite _ _ | .keyRetire _ _
  | .keyRetireDone _ | .tlbInvalidate _ _ | .tlbInvalidateDone _ | .dscWinWrite _ _ _ | .windowZeroingDone _ _
  | .bwshareWrite _ _ _ | .hbmModeChange _ _ _ | .qsmWindowWrite _ _ | .qsmCtlWrite _ _ | .qsmInjectArm _ _
  | .qsmInjectDisarm _ _ | .injectionFire _ | .stormIntervalEnd _ | .sensorSelfTest _ _ _ | .tokenHop _
  | .tokenHoldLimit _ _ | .pwrTokensWrite _ _ | .classWrite _ _ _ | .classChangeApply _ _ | .railStep _ _
  | .railHoldExpiry _ _ | .allotmentThrottle _ _ _ | .pwrAllotWrite _ _ | .thermalSensorUpdate _ _
  | .thermalThrottleStep _ | .thermalTrip _ | .noValidSensorTimeout _ | .packageReset | .fwPkgrstGo _
  | .pluginTimeout _ | .pluginViolation _ | .telemetryRecord | .hostWindowRead _ _ _ | .hostWindowWrite _ _ _
  | .registerWrite _ _ _ _ | .trainingComplete _ _ _ | .burstEnd _ | .wayGatingDone _ | .regionUnfence _ _
  | .peerRequest _ _ _ => true

end Sys2Proof
end

