-- ==== Sys2Proof/Decode.lean ====
section
/-! DEFINITION. Decode: the 96-bit instruction word (04 R91 to R108), the line word (04 R86), and the encoder.
`decode` answers `none` exactly where the encoding raises ILL (00 R9); the check against VREGS (02 R42) is made at
issue. -/

namespace Sys2Proof

/-- A 10-bit operand field (04 R97). -/
def Opnd.ofBits (x : BitVec 10) : Option Opnd :=
  let n := x.toNat
  if h : n < 256 then some (.v ⟨n, h⟩)
  else if h : n - 256 < 64 then some (.s ⟨n - 256, h⟩)
  else if h : n - 320 < 8 then some (.p ⟨n - 320, h⟩)
  else if n = 0x148 then some .em
  else if n = 0x3FF then some .none
  else none

/-- The code of an operand (04 R97). -/
def Opnd.bits : Opnd → BitVec 10
  | .v n => BitVec.ofNat 10 n.val
  | .s n => BitVec.ofNat 10 (0x100 + n.val)
  | .p n => BitVec.ofNat 10 (0x140 + n.val)
  | .em => 0x148#10
  | .none => 0x3FF#10

/-- Bits [87:80]: LA, GN, GP (04 R91). -/
def Hdr.ofBits (x : BitVec 8) : Hdr :=
  { gp := (x.extractLsb' 0 3).toFin, gn := x.getLsbD 3, la := (x.extractLsb' 4 4).toFin }

def Hdr.bits (h : Hdr) : BitVec 8 :=
  BitVec.ofFin h.la ++ (BitVec.ofBool h.gn ++ (BitVec.ofFin h.gp : BitVec 3))

/-- The fields of one word, read under a format. `bad` is a reserved bit or operand code. -/
def ROps.ofWord (w : BitVec 96) : Option ROps :=
  if w.extractLsb' 0 16 != 0 then none else
  match Opnd.ofBits (w.extractLsb' 62 10), Opnd.ofBits (w.extractLsb' 52 10), Opnd.ofBits (w.extractLsb' 42 10),
      Opnd.ofBits (w.extractLsb' 32 10) with
  | some d, some a, some b, some c => some ⟨Hdr.ofBits (w.extractLsb' 80 8), d, a, b, c, w.extractLsb' 16 16⟩
  | _, _, _, _ => none

def IOps.ofWord (w : BitVec 96) : Option IOps :=
  if w.extractLsb' 32 8 != 0 then none else
  match Opnd.ofBits (w.extractLsb' 62 10), Opnd.ofBits (w.extractLsb' 52 10) with
  | some d, some a => some ⟨Hdr.ofBits (w.extractLsb' 80 8), d, a, w.extractLsb' 40 12, w.extractLsb' 0 32⟩
  | _, _ => none

def MOps.ofWord (w : BitVec 96) : Option MOps :=
  match Opnd.ofBits (w.extractLsb' 62 10), Opnd.ofBits (w.extractLsb' 52 10), Opnd.ofBits (w.extractLsb' 42 10) with
  | some d, some base, some idx =>
      some ⟨Hdr.ofBits (w.extractLsb' 80 8), d, base, idx, w.extractLsb' 32 3, w.extractLsb' 35 3, w.extractLsb' 38 2,
        w.extractLsb' 40 2, w.extractLsb' 72 2, w.extractLsb' 74 3, w.extractLsb' 77 3, w.extractLsb' 0 32⟩
  | _, _, _ => none

def AOps.ofWord (w : BitVec 96) : Option AOps :=
  match Opnd.ofBits (w.extractLsb' 62 10), Opnd.ofBits (w.extractLsb' 52 10), Opnd.ofBits (w.extractLsb' 42 10),
      Opnd.ofBits (w.extractLsb' 8 10), Opnd.ofBits (w.extractLsb' 18 10) with
  | some d, some base, some idx, some y, some x =>
      some ⟨Hdr.ofBits (w.extractLsb' 80 8), d, base, idx, w.extractLsb' 32 3, w.extractLsb' 35 3, w.extractLsb' 38 2,
        w.extractLsb' 40 2, w.extractLsb' 72 2, w.extractLsb' 74 3, w.extractLsb' 77 3, w.extractLsb' 0 8, y, x,
        w.extractLsb' 28 4⟩
  | _, _, _, _, _ => none

def BOps.ofWord (w : BitVec 96) : Option BOps :=
  if w.extractLsb' 32 30 != 0 then none else
  match Opnd.ofBits (w.extractLsb' 62 10) with
  | some a => some ⟨Hdr.ofBits (w.extractLsb' 80 8), w.extractLsb' 72 8, a, w.extractLsb' 0 32⟩
  | none => none

def XOps.ofWord (w : BitVec 96) : Option XOps :=
  match Opnd.ofBits (w.extractLsb' 62 10), Opnd.ofBits (w.extractLsb' 52 10), Opnd.ofBits (w.extractLsb' 42 10),
      Opnd.ofBits (w.extractLsb' 32 10) with
  | some d, some a, some b, some c =>
      some ⟨Hdr.ofBits (w.extractLsb' 80 8), w.extractLsb' 72 8, d, a, b, c, w.extractLsb' 24 8, w.extractLsb' 16 8,
        w.extractLsb' 8 8, w.extractLsb' 0 8⟩
  | _, _, _, _ => none

/-- OP [95:88] and SUB [79:72], then the operand fields. -/
def ROps.word (op sub : BitVec 8) (o : ROps) : BitVec 96 :=
  op ++ (o.h.bits ++ (sub ++ (o.d.bits ++ (o.a.bits ++ (o.b.bits ++ (o.c.bits ++ (o.mod ++ 0#16)))))))

def IOps.word (op sub : BitVec 8) (o : IOps) : BitVec 96 :=
  op ++ (o.h.bits ++ (sub ++ (o.d.bits ++ (o.a.bits ++ (o.mod ++ (0#8 ++ o.imm))))))

def MOps.word (op : BitVec 8) (o : MOps) : BitVec 96 :=
  op ++ (o.h.bits ++ (o.var ++ (o.hd ++ (o.xs ++ (o.d.bits ++ (o.base.bits ++ (o.idx.bits ++
    (o.ord ++ (o.cp ++ (o.scope ++ (o.w ++ o.off)))))))))))

def AOps.word (op : BitVec 8) (o : AOps) : BitVec 96 :=
  op ++ (o.h.bits ++ (o.var ++ (o.hd ++ (o.xs ++ (o.d.bits ++ (o.base.bits ++ (o.idx.bits ++
    (o.ord ++ (o.cp ++ (o.scope ++ (o.w ++ (o.aop ++ (o.x.bits ++ (o.y.bits ++ o.off8))))))))))))))

def BOps.word (op : BitVec 8) (o : BOps) : BitVec 96 :=
  op ++ (o.h.bits ++ (o.sub ++ (o.a.bits ++ (0#30 ++ o.dist))))

def XOps.word (op : BitVec 8) (o : XOps) : BitVec 96 :=
  op ++ (o.h.bits ++ (o.sub ++ (o.d.bits ++ (o.a.bits ++ (o.b.bits ++ (o.c.bits ++
    (o.ts ++ (o.ts2 ++ (o.rs ++ o.flags)))))))))

/-- The constructor that OP and SUB name (04 R108), with the fields of its format. -/
def decodeRaw (w : BitVec 96) : Option Instr :=
  let op := (w.extractLsb' 88 8).toNat
  let sub := (w.extractLsb' 72 8).toNat
  match op with
  | 0x00 => if w == 0 then some .nop else none
  | 0x01 => if sub = 0x00 then (ROps.ofWord w).map .iadd else if sub = 0x80 then (IOps.ofWord w).map .iaddI else none
  | 0x02 => if sub = 0x00 then (ROps.ofWord w).map .isub else if sub = 0x80 then (IOps.ofWord w).map .isubI else none
  | 0x03 => if sub = 0x00 then (ROps.ofWord w).map .iadds else if sub = 0x80 then (IOps.ofWord w).map .iaddsI else none
  | 0x04 => if sub = 0x00 then (ROps.ofWord w).map .isubs else if sub = 0x80 then (IOps.ofWord w).map .isubsI else none
  | 0x05 => if sub = 0x00 then (ROps.ofWord w).map .imul else if sub = 0x80 then (IOps.ofWord w).map .imulI else none
  | 0x06 => if sub = 0x00 then (ROps.ofWord w).map .imulh else if sub = 0x80 then (IOps.ofWord w).map .imulhI else none
  | 0x07 => if sub = 0x00 then (ROps.ofWord w).map .imad else none
  | 0x08 => if sub = 0x00 then (ROps.ofWord w).map .imadw else none
  | 0x09 => if sub = 0x00 then (ROps.ofWord w).map .idiv else if sub = 0x80 then (IOps.ofWord w).map .idivI else none
  | 0x0A => if sub = 0x00 then (ROps.ofWord w).map .irem else if sub = 0x80 then (IOps.ofWord w).map .iremI else none
  | 0x0B => if sub = 0x00 then (ROps.ofWord w).map .imin else if sub = 0x80 then (IOps.ofWord w).map .iminI else none
  | 0x0C => if sub = 0x00 then (ROps.ofWord w).map .imax else if sub = 0x80 then (IOps.ofWord w).map .imaxI else none
  | 0x0D => if sub = 0x00 then (ROps.ofWord w).map .iabs else none
  | 0x0E => if sub = 0x00 then (ROps.ofWord w).map .iadd64 else if sub = 0x80 then (IOps.ofWord w).map .iadd64I else none
  | 0x0F => if sub = 0x00 then (ROps.ofWord w).map .isub64 else if sub = 0x80 then (IOps.ofWord w).map .isub64I else none
  | 0x10 => if sub = 0x00 then (ROps.ofWord w).map .lea else if sub = 0x80 then (IOps.ofWord w).map .leaI else none
  | 0x11 => if sub = 0x00 then (ROps.ofWord w).map .iand else if sub = 0x80 then (IOps.ofWord w).map .iandI else none
  | 0x12 => if sub = 0x00 then (ROps.ofWord w).map .ior else if sub = 0x80 then (IOps.ofWord w).map .iorI else none
  | 0x13 => if sub = 0x00 then (ROps.ofWord w).map .ixor else if sub = 0x80 then (IOps.ofWord w).map .ixorI else none
  | 0x14 => if sub = 0x00 then (ROps.ofWord w).map .iandn else if sub = 0x80 then (IOps.ofWord w).map .iandnI else none
  | 0x15 => if sub = 0x00 then (ROps.ofWord w).map .inot else none
  | 0x16 => if sub = 0x00 then (ROps.ofWord w).map .shl else if sub = 0x80 then (IOps.ofWord w).map .shlI else none
  | 0x17 => if sub = 0x00 then (ROps.ofWord w).map .shr else if sub = 0x80 then (IOps.ofWord w).map .shrI else none
  | 0x18 => if sub = 0x00 then (ROps.ofWord w).map .sar else if sub = 0x80 then (IOps.ofWord w).map .sarI else none
  | 0x19 => if sub = 0x00 then (ROps.ofWord w).map .rotl else if sub = 0x80 then (IOps.ofWord w).map .rotlI else none
  | 0x1A => if sub = 0x00 then (ROps.ofWord w).map .bfe else if sub = 0x80 then (IOps.ofWord w).map .bfeI else none
  | 0x1B => if sub = 0x00 then (ROps.ofWord w).map .bfi else none
  | 0x1C => if sub = 0x00 then (ROps.ofWord w).map .popc else none
  | 0x1D => if sub = 0x00 then (ROps.ofWord w).map .clz else none
  | 0x1E => if sub = 0x00 then (ROps.ofWord w).map .brev else none
  | 0x1F => if sub = 0x00 then (ROps.ofWord w).map .icmp else if sub = 0x80 then (IOps.ofWord w).map .icmpI else none
  | 0x20 => if sub = 0x00 then (ROps.ofWord w).map .sel else none
  | 0x21 => if sub = 0x00 then (ROps.ofWord w).map .mov else none
  | 0x22 => if sub = 0x80 then (IOps.ofWord w).map .movi else none
  | 0x23 => if sub = 0x00 then (ROps.ofWord w).map .idp4 else none
  | 0x24 => if sub = 0x00 then (ROps.ofWord w).map .shfl else if sub = 0x80 then (IOps.ofWord w).map .shflI else none
  | 0x25 => if sub = 0x00 then (ROps.ofWord w).map .vote else none
  | 0x26 => if sub = 0x00 then (ROps.ofWord w).map .rdfl else none
  | 0x27 => if sub = 0x00 then (ROps.ofWord w).map .rdln else if sub = 0x80 then (IOps.ofWord w).map .rdlnI else none
  | 0x28 => if sub = 0x00 then (ROps.ofWord w).map .bcast else if sub = 0x80 then (IOps.ofWord w).map .bcastI else none
  | 0x29 => if sub = 0x00 then (ROps.ofWord w).map .lred else none
  | 0x2A => if sub = 0x00 then (ROps.ofWord w).map .lscan else none
  | 0x2B => if sub = 0x00 then (ROps.ofWord w).map .lmatch else none
  | 0x2C => if sub = 0x00 then (ROps.ofWord w).map .elect else none
  | 0x2D => if sub = 0x00 then (ROps.ofWord w).map .pand else none
  | 0x2E => if sub = 0x00 then (ROps.ofWord w).map .por else none
  | 0x2F => if sub = 0x00 then (ROps.ofWord w).map .pxor else none
  | 0x30 => if sub = 0x00 then (ROps.ofWord w).map .pnot else none
  | 0x31 => if sub = 0x00 then (ROps.ofWord w).map .pmov else none
  | 0x32 => if sub = 0x00 then (ROps.ofWord w).map .emget else none
  | 0x33 => if sub = 0x00 then (ROps.ofWord w).map .emset else none
  | 0x40 => if sub = 0x00 then (ROps.ofWord w).map .fadd else if sub = 0x80 then (IOps.ofWord w).map .faddI else none
  | 0x41 => if sub = 0x00 then (ROps.ofWord w).map .fsub else if sub = 0x80 then (IOps.ofWord w).map .fsubI else none
  | 0x42 => if sub = 0x00 then (ROps.ofWord w).map .fmul else if sub = 0x80 then (IOps.ofWord w).map .fmulI else none
  | 0x43 => if sub = 0x00 then (ROps.ofWord w).map .fma else none
  | 0x44 => if sub = 0x00 then (ROps.ofWord w).map .fmin else if sub = 0x80 then (IOps.ofWord w).map .fminI else none
  | 0x45 => if sub = 0x00 then (ROps.ofWord w).map .fmax else if sub = 0x80 then (IOps.ofWord w).map .fmaxI else none
  | 0x46 => if sub = 0x00 then (ROps.ofWord w).map .fcmp else if sub = 0x80 then (IOps.ofWord w).map .fcmpI else none
  | 0x47 => if sub = 0x00 then (ROps.ofWord w).map .fclass else none
  | 0x48 => if sub = 0x00 then (ROps.ofWord w).map .fdiv else if sub = 0x80 then (IOps.ofWord w).map .fdivI else none
  | 0x49 => if sub = 0x00 then (ROps.ofWord w).map .frcp else none
  | 0x4A => if sub = 0x00 then (ROps.ofWord w).map .fsqrt else none
  | 0x4B => if sub = 0x00 then (ROps.ofWord w).map .frsq else none
  | 0x4C => if sub = 0x00 then (ROps.ofWord w).map .fpow2 else none
  | 0x4D => if sub = 0x00 then (ROps.ofWord w).map .flog2 else none
  | 0x4E => if sub = 0x00 then (ROps.ofWord w).map .frnd else none
  | 0x4F => if sub = 0x00 then (ROps.ofWord w).map .hadd2 else none
  | 0x50 => if sub = 0x00 then (ROps.ofWord w).map .hmul2 else none
  | 0x51 => if sub = 0x00 then (ROps.ofWord w).map .hfma2 else none
  | 0x52 => if sub = 0x00 then (ROps.ofWord w).map .fdp2 else none
  | 0x60 => if sub = 0x00 then (ROps.ofWord w).map .cvt else none
  | 0x61 => if sub = 0x00 then (ROps.ofWord w).map .cvtb else none
  | 0x62 => if sub = 0x00 then (ROps.ofWord w).map .cvtbx else none
  | 0x70 => if sub = 0x00 then (BOps.ofWord w).map .bra else none
  | 0x71 => if sub = 0x00 then (BOps.ofWord w).map .brcNz else if sub = 0x01 then (BOps.ofWord w).map .brcZ else none
  | 0x72 => if sub = 0x00 then (BOps.ofWord w).map .brd else none
  | 0x73 => if sub = 0x00 then (BOps.ofWord w).map .tok else none
  | 0x74 => if sub = 0x00 then (ROps.ofWord w).map .join else none
  | 0x75 => (BOps.ofWord w).map .brk
  | 0x76 => if sub = 0x00 then (ROps.ofWord w).map .jmp else none
  | 0x77 => if sub = 0x00 then (BOps.ofWord w).map .call else none
  | 0x78 => if sub = 0x00 then (ROps.ofWord w).map .callr else none
  | 0x79 => if sub = 0x00 then (ROps.ofWord w).map .ret else none
  | 0x7A => (BOps.ofWord w).map .loop
  | 0x7B => if sub = 0x00 then (ROps.ofWord w).map .exit else none
  | 0x7C => if sub = 0x00 then (IOps.ofWord w).map .yield else none
  | 0x7D => if sub = 0x00 then (ROps.ofWord w).map .rhead else none
  | 0x80 => (MOps.ofWord w).map .ld
  | 0x81 => (MOps.ofWord w).map .st
  | 0x82 => (MOps.ofWord w).map .ldsp
  | 0x83 => (MOps.ofWord w).map .stsp
  | 0x84 => (MOps.ofWord w).map .ldcl
  | 0x85 => (MOps.ofWord w).map .stcl
  | 0x86 => (MOps.ofWord w).map .lddie
  | 0x87 => (MOps.ofWord w).map .stdie
  | 0x88 => (MOps.ofWord w).map .ldpv
  | 0x89 => (MOps.ofWord w).map .stpv
  | 0x8A => (MOps.ofWord w).map .pref
  | 0x8B => (MOps.ofWord w).map .fence
  | 0x8C => (MOps.ofWord w).map .cpub
  | 0xA0 => (AOps.ofWord w).map .atom
  | 0xA1 => (AOps.ofWord w).map .atomsp
  | 0xA2 => (AOps.ofWord w).map .red
  | 0xA3 => (AOps.ofWord w).map .xadd
  | 0xA4 => (MOps.ofWord w).map .xrd
  | 0xA5 => (MOps.ofWord w).map .xclr
  | 0xA6 => (AOps.ofWord w).map .swinit
  | 0xA7 => (AOps.ofWord w).map .swexp
  | 0xA8 => (AOps.ofWord w).map .arv
  | 0xA9 => (AOps.ofWord w).map .wtg
  | 0xAA => if sub = 0x00 then (ROps.ofWord w).map .bar else none
  | 0xAB => if sub = 0x00 then (ROps.ofWord w).map .rbar else none
  | 0xAC => if sub = 0x00 then (ROps.ofWord w).map .sbar else none
  | 0xB0 => if sub = 0x00 then (ROps.ofWord w).map .cpy else none
  | 0xB1 => if sub = 0x00 then (ROps.ofWord w).map .cpyst else none
  | 0xB2 => if sub = 0x00 then (ROps.ofWord w).map .seal else none
  | 0xB3 => if sub = 0x00 then (IOps.ofWord w).map .wtbSrc else if sub = 0x01 then (IOps.ofWord w).map .wtbVis else none
  | 0xB4 => if sub = 0x00 then (IOps.ofWord w).map .wtc else none
  | 0xB5 => if sub = 0x00 then (XOps.ofWord w).map .cpyt else none
  | 0xB6 => if sub = 0x00 then (XOps.ofWord w).map .cpymm else none
  | 0xB7 => if sub = 0x00 then (XOps.ofWord w).map .gthr else none
  | 0xB8 => if sub = 0x00 then (XOps.ofWord w).map .scat else none
  | 0xB9 => if sub = 0x00 then (XOps.ofWord w).map .coll else none
  | 0xBA => if sub = 0x00 then (ROps.ofWord w).map .spawn else none
  | 0xBB => if sub = 0x00 then (ROps.ofWord w).map .sig else none
  | 0xBC => if sub = 0x00 then (ROps.ofWord w).map .hwaitd else none
  | 0xC0 => if sub = 0x00 then (XOps.ofWord w).map .tsdef else none
  | 0xC1 => if sub = 0x00 then (XOps.ofWord w).map .tsset else none
  | 0xC2 => if sub = 0x00 then (XOps.ofWord w).map .tsinv else none
  | 0xC3 => (XOps.ofWord w).map .mma
  | 0xC4 => (XOps.ofWord w).map .mmad
  | 0xC5 => (XOps.ofWord w).map .mconv
  | 0xC6 => if sub = 0x00 then (XOps.ofWord w).map .mzero else none
  | 0xC7 => if sub = 0x00 then (XOps.ofWord w).map .mld else none
  | 0xC8 => if sub = 0x00 then (XOps.ofWord w).map .mst else none
  | 0xC9 => if sub = 0x00 then (XOps.ofWord w).map .rsdef else none
  | 0xCA => if sub = 0x00 then (XOps.ofWord w).map .rsinv else none
  | 0xCB => if sub = 0x00 then (XOps.ofWord w).map .rssave else none
  | 0xCC => if sub = 0x00 then (XOps.ofWord w).map .rsload else none
  | 0xCD => if sub = 0x00 then (XOps.ofWord w).map .rsstat else none
  | 0xCE => if sub = 0x00 then (ROps.ofWord w).map .mfence else none
  | 0xE0 => if sub = 0x00 then (IOps.ofWord w).map .trap else none
  | 0xE1 => if sub = 0x00 then (IOps.ofWord w).map .srd else none
  | 0xE2 => if sub = 0x00 then (IOps.ofWord w).map .swr else none
  | 0xE3 => if sub = 0 then (ROps.ofWord w).bind fun o =>
      match o.mod.toNat with
      | 0 => some (.tretTo o)
      | 1 => some (.tretRetry o)
      | 2 => some (.tretSkip o)
      | _ => none
    else none
  | 0xE4 => if sub = 0x00 then (IOps.ofWord w).map .brkpt else none
  | 0xE5 => if sub = 0x00 then (IOps.ofWord w).map .fwcall else none
  | _ => none

/-- The decoder: the constructor and its fields, refused when the encoding is not legal (00 R9). -/
def decode (w : BitVec 96) : Option Instr :=
  match decodeRaw w with
  | some i => if i.wf then some i else none
  | none => none

/-- The encoder: the word of an instruction, from the same tables; none for an event or control operation. -/
def encode : Instr → Option (BitVec 96)
  | .nop => some 0
  | .iadd o => some (o.word 0x01 0x00)
  | .iaddI o => some (o.word 0x01 0x80)
  | .isub o => some (o.word 0x02 0x00)
  | .isubI o => some (o.word 0x02 0x80)
  | .iadds o => some (o.word 0x03 0x00)
  | .iaddsI o => some (o.word 0x03 0x80)
  | .isubs o => some (o.word 0x04 0x00)
  | .isubsI o => some (o.word 0x04 0x80)
  | .imul o => some (o.word 0x05 0x00)
  | .imulI o => some (o.word 0x05 0x80)
  | .imulh o => some (o.word 0x06 0x00)
  | .imulhI o => some (o.word 0x06 0x80)
  | .imad o => some (o.word 0x07 0x00)
  | .imadw o => some (o.word 0x08 0x00)
  | .idiv o => some (o.word 0x09 0x00)
  | .idivI o => some (o.word 0x09 0x80)
  | .irem o => some (o.word 0x0A 0x00)
  | .iremI o => some (o.word 0x0A 0x80)
  | .imin o => some (o.word 0x0B 0x00)
  | .iminI o => some (o.word 0x0B 0x80)
  | .imax o => some (o.word 0x0C 0x00)
  | .imaxI o => some (o.word 0x0C 0x80)
  | .iabs o => some (o.word 0x0D 0x00)
  | .iadd64 o => some (o.word 0x0E 0x00)
  | .iadd64I o => some (o.word 0x0E 0x80)
  | .isub64 o => some (o.word 0x0F 0x00)
  | .isub64I o => some (o.word 0x0F 0x80)
  | .lea o => some (o.word 0x10 0x00)
  | .leaI o => some (o.word 0x10 0x80)
  | .iand o => some (o.word 0x11 0x00)
  | .iandI o => some (o.word 0x11 0x80)
  | .ior o => some (o.word 0x12 0x00)
  | .iorI o => some (o.word 0x12 0x80)
  | .ixor o => some (o.word 0x13 0x00)
  | .ixorI o => some (o.word 0x13 0x80)
  | .iandn o => some (o.word 0x14 0x00)
  | .iandnI o => some (o.word 0x14 0x80)
  | .inot o => some (o.word 0x15 0x00)
  | .shl o => some (o.word 0x16 0x00)
  | .shlI o => some (o.word 0x16 0x80)
  | .shr o => some (o.word 0x17 0x00)
  | .shrI o => some (o.word 0x17 0x80)
  | .sar o => some (o.word 0x18 0x00)
  | .sarI o => some (o.word 0x18 0x80)
  | .rotl o => some (o.word 0x19 0x00)
  | .rotlI o => some (o.word 0x19 0x80)
  | .bfe o => some (o.word 0x1A 0x00)
  | .bfeI o => some (o.word 0x1A 0x80)
  | .bfi o => some (o.word 0x1B 0x00)
  | .popc o => some (o.word 0x1C 0x00)
  | .clz o => some (o.word 0x1D 0x00)
  | .brev o => some (o.word 0x1E 0x00)
  | .icmp o => some (o.word 0x1F 0x00)
  | .icmpI o => some (o.word 0x1F 0x80)
  | .sel o => some (o.word 0x20 0x00)
  | .mov o => some (o.word 0x21 0x00)
  | .movi o => some (o.word 0x22 0x80)
  | .idp4 o => some (o.word 0x23 0x00)
  | .shfl o => some (o.word 0x24 0x00)
  | .shflI o => some (o.word 0x24 0x80)
  | .vote o => some (o.word 0x25 0x00)
  | .rdfl o => some (o.word 0x26 0x00)
  | .rdln o => some (o.word 0x27 0x00)
  | .rdlnI o => some (o.word 0x27 0x80)
  | .bcast o => some (o.word 0x28 0x00)
  | .bcastI o => some (o.word 0x28 0x80)
  | .lred o => some (o.word 0x29 0x00)
  | .lscan o => some (o.word 0x2A 0x00)
  | .lmatch o => some (o.word 0x2B 0x00)
  | .elect o => some (o.word 0x2C 0x00)
  | .pand o => some (o.word 0x2D 0x00)
  | .por o => some (o.word 0x2E 0x00)
  | .pxor o => some (o.word 0x2F 0x00)
  | .pnot o => some (o.word 0x30 0x00)
  | .pmov o => some (o.word 0x31 0x00)
  | .emget o => some (o.word 0x32 0x00)
  | .emset o => some (o.word 0x33 0x00)
  | .fadd o => some (o.word 0x40 0x00)
  | .faddI o => some (o.word 0x40 0x80)
  | .fsub o => some (o.word 0x41 0x00)
  | .fsubI o => some (o.word 0x41 0x80)
  | .fmul o => some (o.word 0x42 0x00)
  | .fmulI o => some (o.word 0x42 0x80)
  | .fma o => some (o.word 0x43 0x00)
  | .fmin o => some (o.word 0x44 0x00)
  | .fminI o => some (o.word 0x44 0x80)
  | .fmax o => some (o.word 0x45 0x00)
  | .fmaxI o => some (o.word 0x45 0x80)
  | .fcmp o => some (o.word 0x46 0x00)
  | .fcmpI o => some (o.word 0x46 0x80)
  | .fclass o => some (o.word 0x47 0x00)
  | .fdiv o => some (o.word 0x48 0x00)
  | .fdivI o => some (o.word 0x48 0x80)
  | .frcp o => some (o.word 0x49 0x00)
  | .fsqrt o => some (o.word 0x4A 0x00)
  | .frsq o => some (o.word 0x4B 0x00)
  | .fpow2 o => some (o.word 0x4C 0x00)
  | .flog2 o => some (o.word 0x4D 0x00)
  | .frnd o => some (o.word 0x4E 0x00)
  | .hadd2 o => some (o.word 0x4F 0x00)
  | .hmul2 o => some (o.word 0x50 0x00)
  | .hfma2 o => some (o.word 0x51 0x00)
  | .fdp2 o => some (o.word 0x52 0x00)
  | .cvt o => some (o.word 0x60 0x00)
  | .cvtb o => some (o.word 0x61 0x00)
  | .cvtbx o => some (o.word 0x62 0x00)
  | .bra o => some (o.word 0x70)
  | .brcNz o => some (o.word 0x71)
  | .brcZ o => some (o.word 0x71)
  | .brd o => some (o.word 0x72)
  | .tok o => some (o.word 0x73)
  | .join o => some (o.word 0x74 0x00)
  | .brk o => some (o.word 0x75)
  | .jmp o => some (o.word 0x76 0x00)
  | .call o => some (o.word 0x77)
  | .callr o => some (o.word 0x78 0x00)
  | .ret o => some (o.word 0x79 0x00)
  | .loop o => some (o.word 0x7A)
  | .exit o => some (o.word 0x7B 0x00)
  | .yield o => some (o.word 0x7C 0x00)
  | .rhead o => some (o.word 0x7D 0x00)
  | .ld o => some (o.word 0x80)
  | .st o => some (o.word 0x81)
  | .ldsp o => some (o.word 0x82)
  | .stsp o => some (o.word 0x83)
  | .ldcl o => some (o.word 0x84)
  | .stcl o => some (o.word 0x85)
  | .lddie o => some (o.word 0x86)
  | .stdie o => some (o.word 0x87)
  | .ldpv o => some (o.word 0x88)
  | .stpv o => some (o.word 0x89)
  | .pref o => some (o.word 0x8A)
  | .fence o => some (o.word 0x8B)
  | .cpub o => some (o.word 0x8C)
  | .atom o => some (o.word 0xA0)
  | .atomsp o => some (o.word 0xA1)
  | .red o => some (o.word 0xA2)
  | .xadd o => some (o.word 0xA3)
  | .xrd o => some (o.word 0xA4)
  | .xclr o => some (o.word 0xA5)
  | .swinit o => some (o.word 0xA6)
  | .swexp o => some (o.word 0xA7)
  | .arv o => some (o.word 0xA8)
  | .wtg o => some (o.word 0xA9)
  | .bar o => some (o.word 0xAA 0x00)
  | .rbar o => some (o.word 0xAB 0x00)
  | .sbar o => some (o.word 0xAC 0x00)
  | .cpy o => some (o.word 0xB0 0x00)
  | .cpyst o => some (o.word 0xB1 0x00)
  | .seal o => some (o.word 0xB2 0x00)
  | .wtbSrc o => some (o.word 0xB3 0x00)
  | .wtbVis o => some (o.word 0xB3 0x01)
  | .wtc o => some (o.word 0xB4 0x00)
  | .cpyt o => some (o.word 0xB5)
  | .cpymm o => some (o.word 0xB6)
  | .gthr o => some (o.word 0xB7)
  | .scat o => some (o.word 0xB8)
  | .coll o => some (o.word 0xB9)
  | .spawn o => some (o.word 0xBA 0x00)
  | .sig o => some (o.word 0xBB 0x00)
  | .hwaitd o => some (o.word 0xBC 0x00)
  | .tsdef o => some (o.word 0xC0)
  | .tsset o => some (o.word 0xC1)
  | .tsinv o => some (o.word 0xC2)
  | .mma o => some (o.word 0xC3)
  | .mmad o => some (o.word 0xC4)
  | .mconv o => some (o.word 0xC5)
  | .mzero o => some (o.word 0xC6)
  | .mld o => some (o.word 0xC7)
  | .mst o => some (o.word 0xC8)
  | .rsdef o => some (o.word 0xC9)
  | .rsinv o => some (o.word 0xCA)
  | .rssave o => some (o.word 0xCB)
  | .rsload o => some (o.word 0xCC)
  | .rsstat o => some (o.word 0xCD)
  | .mfence o => some (o.word 0xCE 0x00)
  | .trap o => some (o.word 0xE0 0x00)
  | .srd o => some (o.word 0xE1 0x00)
  | .swr o => some (o.word 0xE2 0x00)
  | .tretTo o => some (o.word 0xE3 0x00)
  | .tretRetry o => some (o.word 0xE3 0x00)
  | .tretSkip o => some (o.word 0xE3 0x00)
  | .brkpt o => some (o.word 0xE4 0x00)
  | .fwcall o => some (o.word 0xE5 0x00)
  | .fwcallReply _ | .resultLand _ | .regionRelease _ | .wakeWave _ _ | .hwaitdWake _ | .wdog _
  | .homeoffReply _ | .pageReplyMapped _ _ | .pageReplyRefused _ _ | .waleRetire _ | .engineCommandComplete _
  | .sourcePoint _ | .engineFault _ | .stagingClear _ | .cpymmFollowOn _ | .matrixBurstStart _
  | .matrixResultClear _ | .unitPreempt _ _ | .unitResume _ _ | .lineFill _ _ | .sensorReport _ _ _
  | .guardEvent _ _ _ | .tagWindowClose _ _ | .clearSend _ _ | .taggedFlitReceive _ _ _
  | .clearReceive _ _ _ _ _ | .squashReceive _ _ _ _ _ | .vfQnotify _ _ _ | .queueEnable _ _ _
  | .queueDisable _ _ _ | .queueResume _ _ _ | .nopEntry _ _ | .launch _ _ | .signalWait _ _ | .signalWrite _ _
  | .graphNodeDeclaration _ _ | .recoveryExtension _ _ | .unknownEntry _ _ | .rimAdmit _ | .heldSkeinAdmit _
  | .prodbmPoll | .priorityPreempt _ | .vfEvbaseWrite _ _ | .vfEvptrWrite _ _ | .functionLevelReset _
  | .purge _ _ | .wsSave _ | .wsMsave _ | .wsRestore _ | .qcancel _ _ | .partitionChange | .funcpartWrite _ _
  | .dieResetGo _ | .quiesceTimeout | .flush | .dieReset | .retrain | .readmit | .attestationRequest _
  | .flitCrcRetry _ | .protocolError _ _ | .linkRetrain _ | .retryThreshold _ | .laneFailure _
  | .trainingTimeout _ | .sigadd _ _ _ | .revoke _ | .grantRelease _ _ _ | .grantTimeout _
  | .notificationDelivery _ | .hotLineCool _ _ | .l1Gate _ _ | .waygateWrite _ _ | .keyRetire _ _
  | .keyRetireDone _ | .tlbInvalidate _ _ | .tlbInvalidateDone _ | .dscWinWrite _ _ _ | .windowZeroingDone _ _
  | .bwshareWrite _ _ _ | .hbmModeChange _ _ _ | .qsmWindowWrite _ _ | .qsmCtlWrite _ _ | .qsmInjectArm _ _
  | .qsmInjectDisarm _ _ | .injectionFire _ | .stormIntervalEnd _ | .sensorSelfTest _ _ _ | .tokenHop _
  | .tokenHoldLimit _ _ | .pwrTokensWrite _ _ | .classWrite _ _ _ | .classChangeApply _ _ | .railStep _ _
  | .railHoldExpiry _ _ | .allotmentThrottle _ _ _ | .pwrAllotWrite _ _ | .thermalSensorUpdate _ _
  | .thermalThrottleStep _ | .thermalTrip _ | .noValidSensorTimeout _ | .packageReset | .fwPkgrstGo _
  | .pluginTimeout _ | .pluginViolation _ | .telemetryRecord | .hostWindowRead _ _ _ | .hostWindowWrite _ _ _
  | .registerWrite _ _ _ _ | .trainingComplete _ _ _ | .burstEnd _ | .wayGatingDone _ | .regionUnfence _ _
  | .peerRequest _ _ _ => none

/-- Twelve bytes in little-endian order as one instruction word (04 R83). -/
def wordOfBytes : List Byte → Nat
  | [] => 0
  | b :: bs => b.toNat + 256 * wordOfBytes bs

/-- Decoding of the bytes of one slot: exactly 12 bytes. -/
def decodeBytes (bs : List Byte) : Option Instr :=
  if bs.length = 12 then decode (BitVec.ofNat 96 (wordOfBytes bs)) else none

/-- The instruction the decoder reads from a word whose bits are numbered as the opcode table numbers them. -/
def decodeTableWord (nbits w : Nat) : Option Instr :=
  if nbits ≤ 96 ∧ w < 2 ^ 96 then decode (BitVec.ofNat 96 w) else none

/-! ### The line word (04 R83, R86) -/

/-- PAR bit `i`: the parity of instruction-area bits [30i+29 : 30i]. -/
def parityBit (area : BitVec 480) (i : Nat) : Bool :=
  (List.range 30).foldl (fun acc k => acc != area.getLsbD (30 * i + k)) false

def linePar (area : BitVec 480) : BitVec 16 :=
  (List.range 16).foldl (fun acc i => if parityBit area i then acc ||| BitVec.twoPow 16 i else acc) 0

/-- The line word check of 04 R86: parity, reserved bits, and no two adjacent PAIR bits. -/
def lineOk (line : BitVec 512) : Bool :=
  let lw : BitVec 32 := line.extractLsb' 480 32
  let pair : BitVec 4 := lw.extractLsb' 23 4
  lw.extractLsb' 0 16 == linePar (line.extractLsb' 0 480) && lw.extractLsb' 16 7 == 0
  && (pair &&& (pair >>> 1)) == 0

/-- BTM bit of slot `k`. -/
def lineBtm (line : BitVec 512) (k : Nat) : Bool := line.getLsbD (480 + 27 + k)

/-- The word of slot `k`. -/
def lineSlot (line : BitVec 512) (k : Nat) : BitVec 96 := line.extractLsb' (96 * k) 96

/-- A line with one instruction in slot 0, canonical `nop` after it, correct parity and BTM bit 27 set. -/
def lineOfWord (w : BitVec 96) : BitVec 512 :=
  let area : BitVec 480 := w.setWidth 480
  let lw : BitVec 32 := (linePar area).setWidth 32 ||| 0x08000000#32
  (lw.setWidth 512 <<< 480) ||| area.setWidth 512

end Sys2Proof
end

