-- ==== Sys2Proof/Machine/Store.lean ====
section
/-! DEFINITION. Sparse maps, memory lists, bit fields and byte order (00 R6, R7). -/

namespace Sys2Proof

/-! ### Sparse maps: keys strictly rising -/

/-- The value at a key, if listed. -/
def Sparse.find? {β : Type} : Sparse β → Nat → Option β
  | [], _ => none
  | (k, v) :: m, n => if n = k then some v else if n < k then none else Sparse.find? m n

/-- List `v` at `n`, in place. -/
def Sparse.put {β : Type} : Sparse β → Nat → β → Sparse β
  | [], n, v => [(n, v)]
  | (k, w) :: m, n, v =>
    if n = k then (n, v) :: m else if n < k then (n, v) :: (k, w) :: m else (k, w) :: Sparse.put m n v

/-- No entry at `n`. -/
def Sparse.del {β : Type} : Sparse β → Nat → Sparse β
  | [], _ => []
  | (k, w) :: m, n => if n = k then m else if n < k then (k, w) :: m else (k, w) :: Sparse.del m n

/-- The value at a key, `d` where nothing is listed. -/
def Sparse.getD {β : Type} (m : Sparse β) (d : β) (n : Nat) : β := (Sparse.find? m n).getD d

/-- Write with a default: a key that holds the default is not listed. -/
def Sparse.setD {β : Type} [DecidableEq β] (m : Sparse β) (d : β) (n : Nat) (v : β) : Sparse β :=
  if v = d then Sparse.del m n else Sparse.put m n v

/-- Apply `f` to a listed entry. -/
def Sparse.upd {β : Type} (m : Sparse β) (n : Nat) (f : β → β) : Sparse β :=
  match Sparse.find? m n with
  | some v => Sparse.put m n (f v)
  | none => m

def Sparse.vals {β : Type} (m : Sparse β) : List β := m.map (·.2)
def Sparse.keys {β : Type} (m : Sparse β) : List Nat := m.map (·.1)

/-- Keys strictly rising from `lo` on. -/
def Sparse.wfFrom {β : Type} : Nat → Sparse β → Bool
  | _, [] => true
  | lo, (k, _) :: m => decide (lo ≤ k) && Sparse.wfFrom (k + 1) m

/-- The canonical form: keys strictly rising. -/
def Sparse.wf {β : Type} (m : Sparse β) : Bool := Sparse.wfFrom 0 m

/-- Canonical form with a default: besides, no entry holds the default. -/
def Sparse.wfD {β : Type} [DecidableEq β] (d : β) (m : Sparse β) : Bool :=
  Sparse.wf m && m.all fun e => decide (e.2 ≠ d)

/-- The canonical form of memory: addresses strictly rising. What an unlisted address reads as is a free value, so no
entry can be equal to it by rule (log entry 4). -/
abbrev Memory.wf (m : Mem) : Prop := Sparse.wf m = true

/-! ### Vectors (by `Vector.ofFn`, which the kernel evaluates) -/

def vget {α : Type} {n : Nat} (x : Vector α n) (i : Fin n) : α := x[i]
def vset {α : Type} {n : Nat} (x : Vector α n) (i : Fin n) (a : α) : Vector α n :=
  Vector.ofFn fun j => if j = i then a else x[j]
def vmap {α β : Type} {n : Nat} (f : α → β) (x : Vector α n) : Vector β n := Vector.ofFn fun j => f x[j]

/-- The lanes that all hold `x`. -/
def Lanes.all (x : Word) : Lanes := Vector.ofFn fun _ => x
/-- Lanes after writing the strands of `m` from `x` (00 R7: other strands keep their value). -/
def Lanes.mix (old : Lanes) (m : Mask) (x : Lanes) : Lanes :=
  Vector.ofFn fun i => if m.getLsbD i.val then vget x i else vget old i

/-- The mask of the strands that satisfy `f`. -/
def maskOf (f : Fin 32 → Bool) : Mask :=
  (List.finRange 32).foldl (fun m i => if f i then m ||| BitVec.twoPow 32 i.val else m) 0
/-- The strands of a mask, ascending. -/
def Mask.strands (m : Mask) : List (Fin 32) := (List.finRange 32).filter fun i => m.getLsbD i.val
/-- Number of strands. -/
def Mask.count (m : Mask) : Nat := (Mask.strands m).length
/-- The lowest strand, if any. -/
def Mask.lowest (m : Mask) : Option (Fin 32) := (Mask.strands m).head?

/-! ### Bytes, little-endian (00 R6) -/

/-- The `n` bytes of a number, lowest first. -/
def bytesLE : Nat → Nat → List Byte
  | 0, _ => []
  | n + 1, x => BitVec.ofNat 8 x :: bytesLE n (x / 256)
/-- The number of a byte string. -/
def natLE : List Byte → Nat
  | [] => 0
  | b :: bs => b.toNat + 256 * natLE bs

/-- Field `[hi:lo]` of a number. -/
def nfld (x hi lo : Nat) : Nat := x / 2 ^ lo % 2 ^ (hi + 1 - lo)
/-- Replace field `[hi:lo]` of a 64-bit register. -/
def setFld (r : BitVec 64) (hi lo : Nat) (x : Nat) : BitVec 64 :=
  let m : BitVec 64 := BitVec.ofNat 64 ((2 ^ (hi + 1 - lo) - 1) * 2 ^ lo)
  (r &&& ~~~m) ||| (BitVec.ofNat 64 (x * 2 ^ lo) &&& m)
/-- Field `[hi:lo]` of a 64-bit register. -/
def getFld (r : BitVec 64) (hi lo : Nat) : Nat := nfld r.toNat hi lo

def lo32 (x : Dword) : Word := x.setWidth 32
def hi32 (x : Dword) : Word := (x >>> 32).setWidth 32
def pair (lo hi : Word) : Dword := hi ++ lo

/-- XOR of the 32-bit words of a byte string (10 R253, 15 R349). -/
def xorWords : List Byte → Word
  | a :: b :: c :: d :: r => (d ++ (c ++ (b ++ a))) ^^^ xorWords r
  | _ => 0

end Sys2Proof
end

