-- ==== Sys2Proof/Machine/Flags.lean ====
section
/-! DEFINITION. The flags of `sr.fflags` (02 R46, 03 R66) and the results that carry them. -/

namespace Sys2Proof.Machine

def fNX : Word := 1
def fUF : Word := 2
def fOF : Word := 4
def fDZ : Word := 8
def fNV : Word := 16
def fSAT : Word := 32

/-- The flag `f` when `b`. -/
def flagIf (b : Bool) (f : Word) : Word := if b then f else 0

/-- A value with the flags it raises. -/
structure FRes (α : Type) where
  val : α
  fl : Word
  deriving DecidableEq, Repr

/-- A value that raises no flag. -/
def FRes.pure {α : Type} (x : α) : FRes α := { val := x, fl := 0 }
def FRes.map {α β : Type} (f : α → β) (x : FRes α) : FRes β := { val := f x.val, fl := x.fl }

/-- Clamp an exact integer to signed or unsigned 32 bits; SAT when it clamps (03 R63, 05 R112). -/
def satWord (unsigned : Bool) (x : Int) : FRes Word :=
  let lo : Int := if unsigned then 0 else -2 ^ 31
  let hi : Int := if unsigned then 2 ^ 32 - 1 else 2 ^ 31 - 1
  if x < lo then ⟨BitVec.ofInt 32 lo, fSAT⟩
  else if hi < x then ⟨BitVec.ofInt 32 hi, fSAT⟩
  else ⟨BitVec.ofInt 32 x, 0⟩

end Sys2Proof.Machine
end

