-- ==== Sys2Proof/Machine/SoftFloat.lean ====
section
/-! DEFINITION. Binary floating point by exact integers: unpack, compute exactly, round once (03 R60 to R69, R77 to R82,
06 R139 to R151). -/

namespace Sys2Proof.Machine

/-- A binary format: exponent bits and fraction bits (03 R60). -/
structure Fmt where
  eb : Nat
  fb : Nat
  deriving DecidableEq, Repr

def fp32 : Fmt := ⟨8, 23⟩
def fp16 : Fmt := ⟨5, 10⟩
def bf16 : Fmt := ⟨8, 7⟩
def Fmt.width (f : Fmt) : Nat := 1 + f.eb + f.fb
def Fmt.bias (f : Fmt) : Int := 2 ^ (f.eb - 1) - 1
/-- Exponent of the last place of a subnormal. -/
def Fmt.qmin (f : Fmt) : Int := 1 - f.bias - f.fb
def Fmt.emax (f : Fmt) : Nat := 2 ^ f.eb - 1

/-- A number: NaN (signalling or not), infinity, or (-1)^s x m x 2^e exactly. -/
inductive FV where
  | nan (sig : Bool)
  | inf (s : Bool)
  | fin (s : Bool) (m : Nat) (e : Int)
  deriving DecidableEq, Repr

/-- Rounding modes (03 R64). -/
inductive RM where
  | rne | rtz | rdn | rup
  deriving DecidableEq, Repr

def RM.ofCode : Nat → RM
  | 0 => .rne | 1 => .rtz | 2 => .rdn | _ => .rup

/-- The number a bit pattern holds. -/
def unpack (f : Fmt) (x : Nat) : FV :=
  let fr := x % 2 ^ f.fb
  let ex := x / 2 ^ f.fb % 2 ^ f.eb
  let s := x / 2 ^ (f.fb + f.eb) % 2 == 1
  if ex = f.emax then if fr = 0 then .inf s else .nan (fr < 2 ^ (f.fb - 1))
  else if ex = 0 then .fin s fr f.qmin
  else .fin s (fr + 2 ^ f.fb) (f.qmin + ex - 1)

def canonNaN (f : Fmt) : Nat := f.emax * 2 ^ f.fb + 2 ^ (f.fb - 1)
def packInf (f : Fmt) (s : Bool) : Nat := (if s then 2 ^ (f.eb + f.fb) else 0) + f.emax * 2 ^ f.fb
def packZero (f : Fmt) (s : Bool) : Nat := if s then 2 ^ (f.eb + f.fb) else 0

/-- Number of bits. -/
def bitLen (m : Nat) : Nat := if m = 0 then 0 else Nat.log2 m + 1

/-- `m` x 2^e (plus a part of the last place when `sticky`) as a multiple of 2^q under the mode; and whether exact. -/
def roundAt (rm : RM) (s : Bool) (m : Nat) (e q : Int) (sticky : Bool) : Nat × Bool :=
  if q ≤ e then
    let n := m * 2 ^ (e - q).toNat
    if sticky then (match rm with
      | .rne | .rtz => n | .rdn => if s then n + 1 else n | .rup => if s then n else n + 1, false)
    else (n, true)
  else
    let sh := (q - e).toNat
    let n := m / 2 ^ sh
    let r := m % 2 ^ sh
    if r = 0 && !sticky then (n, true) else
    let half := 2 ^ (sh - 1)
    let up := match rm with
      | .rne => half < r || (r == half && (sticky || n % 2 == 1))
      | .rtz => false
      | .rdn => s
      | .rup => !s
    (if up then n + 1 else n, false)

/-- Round a non-zero magnitude to a format (03 R64 to R66): the bit pattern and the flags. It overflows when it exceeds the
largest finite value rounded by its mode, or rounded to nearest even (log entry 43). -/
def roundFin (f : Fmt) (rm : RM) (s : Bool) (m : Nat) (e : Int) (sticky : Bool) : FRes Nat :=
  let top : Int := e + bitLen m - 1
  let qU := top - f.fb
  let q := max qU f.qmin
  let (n, exact) := roundAt rm s m e q sticky
  let sgn := if s then 2 ^ (f.eb + f.fb) else 0
  let ex (n : Nat) : Nat := (q - f.qmin).toNat + n / 2 ^ f.fb
  if f.emax ≤ ex n ∨ f.emax ≤ ex (roundAt .rne s m e q sticky).1 then
    let toInf := match rm with
      | .rne => true | .rtz => false | .rdn => s | .rup => !s
    ⟨if toInf then packInf f s else sgn + f.emax * 2 ^ f.fb - 1, fOF ||| fNX⟩
  else
    let nU := (roundAt rm s m e qU sticky).1
    let tiny := decide (qU < f.qmin) && decide (nU * 2 < 2 ^ ((f.qmin - qU).toNat + f.fb + 1))
    ⟨sgn + (q - f.qmin).toNat * 2 ^ f.fb + n, flagIf (!exact) fNX ||| flagIf (!exact && tiny) fUF⟩

/-- Round a number to a format; `zs` is the sign of an exact zero. -/
def roundFV (f : Fmt) (rm : RM) (x : FV) : FRes Nat :=
  match x with
  | .nan _ => ⟨canonNaN f, 0⟩
  | .inf s => ⟨packInf f s, 0⟩
  | .fin s m e => if m = 0 then ⟨packZero f s, 0⟩ else roundFin f rm s m e false

def FV.isNaN : FV → Bool | .nan _ => true | _ => false
def FV.isSig : FV → Bool | .nan g => g | _ => false
def FV.isInf : FV → Bool | .inf _ => true | _ => false
def FV.isZero : FV → Bool | .fin _ m _ => m == 0 | _ => false
def FV.sign : FV → Bool | .nan _ => false | .inf s => s | .fin s _ _ => s
def FV.neg : FV → FV
  | .nan g => .nan g | .inf s => .inf !s | .fin s m e => .fin (!s) m e

/-- The exact product; 0 x Inf is an invalid NaN. -/
def FV.mul (a b : FV) : FV :=
  match a, b with
  | .nan g, .nan h => .nan (g || h)
  | .nan g, _ => .nan g
  | _, .nan g => .nan g
  | .inf s, .inf t => .inf (s != t)
  | .inf s, .fin t m _ => if m = 0 then .nan true else .inf (s != t)
  | .fin t m _, .inf s => if m = 0 then .nan true else .inf (s != t)
  | .fin s m e, .fin t n k => .fin (s != t) (m * n) (e + k)

/-- The signed integer of a finite number at exponent `q` (at most its own). -/
def FV.at_ (x : FV) (q : Int) : Int :=
  match x with
  | .fin s m e => let n : Int := m * 2 ^ (e - q).toNat; if s then -n else n
  | _ => 0

/-- The lowest exponent of a list of numbers. -/
def minExp (xs : List FV) : Int :=
  xs.foldl (fun q x => match x with | .fin _ m e => if m = 0 then q else min q e | _ => q) 1000

/-- The exact sum of terms (06 R139, R149, 03 R77, R78): NaN (an invalid one where infinities of both signs meet), infinity, or an exact value whose zero has the sign `zneg`
unless every term is a zero of one sign. -/
def sumFV (xs : List FV) (zneg : Bool) : FV :=
  if xs.any (fun x => x == .inf false) && xs.any (fun x => x == .inf true) then .nan true
  else if xs.any FV.isNaN then .nan (xs.any FV.isSig)
  else if xs.any (fun x => x == .inf false) then .inf false
  else if xs.any (fun x => x == .inf true) then .inf true
  else
    let q := minExp xs
    let t := xs.foldl (fun (a : Int) x => if x.isZero then a else a + x.at_ q) 0
    if t = 0 then
      if xs.all (fun x => x.isZero && x.sign) then .fin true 0 0
      else if xs.all (fun x => x.isZero && !x.sign) then .fin false 0 0
      else .fin zneg 0 0
    else .fin (decide (t < 0)) t.natAbs q

/-- NV for a signalling operand. -/
def sigFlag (xs : List FV) : Word := flagIf (xs.any FV.isSig) fNV

/-- Round the exact sum of terms; a NaN that arises (opposite infinities) raises NV. -/
def addTerms (f : Fmt) (rm : RM) (xs : List FV) : FRes Nat :=
  let r := sumFV xs (rm == .rdn)
  let y := roundFV f rm r
  ⟨y.val, y.fl ||| flagIf r.isSig fNV⟩

/-- a + b (06 R141). -/
def fAdd (f : Fmt) (rm : RM) (a b : Nat) : FRes Nat := addTerms f rm [unpack f a, unpack f b]
def fSub (f : Fmt) (rm : RM) (a b : Nat) : FRes Nat := addTerms f rm [unpack f a, (unpack f b).neg]
/-- a x b (06 R141). -/
def fMul (f : Fmt) (rm : RM) (a b : Nat) : FRes Nat :=
  let p := (unpack f a).mul (unpack f b)
  let y := roundFV f rm p
  ⟨y.val, y.fl ||| flagIf p.isSig fNV⟩
/-- a x b + c with one rounding (06 R142). -/
def fFma (f : Fmt) (rm : RM) (np nc : Bool) (a b c : Nat) : FRes Nat :=
  let p := (unpack f a).mul (unpack f b)
  let t := unpack f c
  addTerms f rm [if np then p.neg else p, if nc then t.neg else t]

/-- a / b (06 R141). -/
def fDiv (f : Fmt) (rm : RM) (a b : Nat) : FRes Nat :=
  let x := unpack f a
  let y := unpack f b
  let sg := x.sign != y.sign
  match x, y with
  | .nan _, _ | _, .nan _ => ⟨canonNaN f, sigFlag [x, y]⟩
  | .inf _, .inf _ => ⟨canonNaN f, fNV⟩
  | .inf _, _ => ⟨packInf f sg, 0⟩
  | .fin _ _ _, .inf _ => ⟨packZero f sg, 0⟩
  | .fin _ m e, .fin _ n k =>
    if n = 0 then if m = 0 then ⟨canonNaN f, fNV⟩ else ⟨packInf f sg, fDZ⟩
    else if m = 0 then ⟨packZero f sg, 0⟩
    else roundFin f rm sg (m * 2 ^ 80 / n) (e - k - 80) (m * 2 ^ 80 % n != 0)

/-- Integer square root of `x`, from bit `n` downward. -/
def isqrtAux : Nat → Nat → Nat → Nat
  | 0, _, r => r
  | n + 1, x, r => let t := r + 2 ^ n; isqrtAux n x (if t * t ≤ x then t else r)
def isqrt (x : Nat) : Nat := isqrtAux (bitLen x / 2 + 1) x 0

/-- The square root (06 R146). -/
def fSqrt (f : Fmt) (rm : RM) (a : Nat) : FRes Nat :=
  let x := unpack f a
  match x with
  | .nan g => ⟨canonNaN f, flagIf g fNV⟩
  | .inf s => if s then ⟨canonNaN f, fNV⟩ else ⟨packInf f false, 0⟩
  | .fin s m e =>
    if m = 0 then ⟨packZero f s, 0⟩
    else if s then ⟨canonNaN f, fNV⟩
    else
      let k : Nat := if (e - 80) % 2 = 0 then 80 else 81
      let y := m * 2 ^ k
      let r := isqrt y
      roundFin f rm false r ((e - k) / 2) (r * r != y)

/-- 1 / sqrt a (06 R146). -/
def fRsq (f : Fmt) (rm : RM) (a : Nat) : FRes Nat :=
  match unpack f a with
  | .nan g => ⟨canonNaN f, flagIf g fNV⟩
  | .inf s => if s then ⟨canonNaN f, fNV⟩ else ⟨packZero f false, 0⟩
  | .fin s m e =>
    if m = 0 then ⟨packInf f s, 0⟩
    else if s then ⟨canonNaN f, fNV⟩
    else
      let t : Nat := if (e + 160) % 2 = 0 then 160 else 161
      let r := isqrt (2 ^ t / m)
      roundFin f rm false r ((-e - t) / 2) (r * r * m != 2 ^ t)

/-- 1 / a (06 R146). -/
def fRcp (f : Fmt) (rm : RM) (a : Nat) : FRes Nat :=
  match unpack f a with
  | .fin s 0 _ => ⟨packInf f s, fDZ⟩
  | _ => fDiv f rm (f.bias.toNat * 2 ^ f.fb) a

/-- Fixed-point bits used for 2^a: with an FP32 operand no value lies nearer to a rounding boundary (log entry 14). -/
def powBits : Nat := 96
/-- 2^(x / 2^n) in fixed point, `c` being 2^(1/2^i) for the next bit of the fraction. -/
def pow2Frac : Nat → Nat → Nat → Nat → Nat
  | 0, _, _, acc => acc
  | n + 1, x, c, acc =>
    let c' := isqrt (c * 2 ^ powBits)
    pow2Frac n x c' (if x / 2 ^ n % 2 = 1 then acc * c' / 2 ^ powBits else acc)

/-- 2^a correctly rounded (06 R146). -/
def fPow2 (f : Fmt) (rm : RM) (a : Nat) : FRes Nat :=
  match unpack f a with
  | .nan g => ⟨canonNaN f, flagIf g fNV⟩
  | .inf s => if s then ⟨packZero f false, 0⟩ else ⟨packInf f false, 0⟩
  | .fin s m e =>
    if m = 0 then ⟨f.bias.toNat * 2 ^ f.fb, 0⟩
    else if 9 ≤ e + (bitLen m : Int) - 1 then
      if s then roundFin f rm false 1 (-1000) true else roundFin f rm false 1 1000 false
    else
      let k : Int := 80
      -- the operand in units of 2^-80, rounded toward minus infinity
      let v : Int := (if s then -(m : Int) else m)
      let y : Int := if 0 ≤ e + k then v * 2 ^ (e + k).toNat else v / 2 ^ (-(e + k)).toNat
      let exactY := decide (0 ≤ e + k) || v % 2 ^ (-(e + k)).toNat == 0
      let n := y / 2 ^ 80
      let fr := (y % 2 ^ 80).toNat
      if fr = 0 && exactY then roundFin f rm false 1 n false
      else roundFin f rm false (pow2Frac 80 fr (2 ^ (powBits + 1)) (2 ^ powBits)) (n - powBits) true

/-- `n` bits of log2 of `x` / 2^200, for x in [2^200, 2^201), by repeated squaring. -/
def log2Frac : Nat → Nat → Nat → Nat
  | 0, _, acc => acc
  | n + 1, x, acc =>
    let y := x * x / 2 ^ 200
    if 2 ^ 201 ≤ y then log2Frac n (y / 2) (2 * acc + 1) else log2Frac n y (2 * acc)

/-- log2 a correctly rounded (06 R146). -/
def fLog2 (f : Fmt) (rm : RM) (a : Nat) : FRes Nat :=
  match unpack f a with
  | .nan g => ⟨canonNaN f, flagIf g fNV⟩
  | .inf s => if s then ⟨canonNaN f, fNV⟩ else ⟨packInf f false, 0⟩
  | .fin s m e =>
    if m = 0 then ⟨packInf f true, fDZ⟩
    else if s then ⟨canonNaN f, fNV⟩
    else
      let top : Int := e + bitLen m - 1
      if m = 2 ^ (bitLen m - 1) then roundFV f rm (.fin (decide (top < 0)) top.natAbs 0)
      else
        let t := log2Frac 100 (m * 2 ^ (201 - bitLen m)) 0
        let y : Int := top * 2 ^ 100 + t
        if 0 ≤ y then roundFin f rm false y.toNat (-100) true
        else roundFin f rm true (y.natAbs - 1) (-100) true

/-- Round to an integral value of the same format (06 R147). -/
def fRnd (f : Fmt) (rm : RM) (a : Nat) : FRes Nat :=
  match unpack f a with
  | .nan g => ⟨canonNaN f, flagIf g fNV⟩
  | .inf s => ⟨packInf f s, 0⟩
  | .fin s m e =>
    if m = 0 || decide (0 ≤ e) then ⟨a, 0⟩
    else
      let (n, exact) := roundAt rm s m e 0 false
      ⟨if n = 0 then packZero f s else (roundFin f .rne s n 0 false).val, flagIf (!exact) fNX⟩

/-- Order of two numbers that are not NaN: less, equal, greater. -/
def fOrd (a b : FV) : Ordering :=
  match a, b with
  | .inf s, .inf t => if s = t then .eq else if s then .lt else .gt
  | .inf s, _ => if s then .lt else .gt
  | _, .inf t => if t then .gt else .lt
  | x, y =>
    let q := minExp [x, y]
    let u := if x.isZero then 0 else x.at_ q
    let v := if y.isZero then 0 else y.at_ q
    compare u v

/-- minimumNumber and maximumNumber (03 R67). -/
def fMinMax (f : Fmt) (isMax : Bool) (a b : Nat) : FRes Nat :=
  let x := unpack f a
  let y := unpack f b
  let fl := sigFlag [x, y]
  match x.isNaN, y.isNaN with
  | true, true => ⟨canonNaN f, fl⟩
  | true, false => ⟨b, fl⟩
  | false, true => ⟨a, fl⟩
  | false, false =>
    let less := match fOrd x y with
      | .lt => true
      | .gt => false
      | .eq => x.sign && !y.sign
    ⟨if less != isMax then a else if fOrd x y == .eq && x.sign == y.sign then a else b, fl⟩

/-- The condition `cc` of `fcmp` (06 R144). -/
def fCmp (f : Fmt) (cc : Nat) (a b : Nat) : FRes Bool :=
  let x := unpack f a
  let y := unpack f b
  let fl := sigFlag [x, y]
  if x.isNaN || y.isNaN then ⟨cc == 1 || cc == 6, fl⟩
  else
    let o := fOrd x y
    ⟨match cc with
      | 0 => o == .eq | 1 => o != .eq | 2 => o == .lt | 3 => o != .gt | 4 => o == .gt | 5 => o != .lt
      | 6 => false | _ => true, fl⟩

/-- The class mask of `fclass` (06 R145). -/
def fClass (a : Nat) : Nat :=
  match unpack fp32 a with
  | .nan g => if g then 2 ^ 8 else 2 ^ 9
  | .inf s => if s then 1 else 2 ^ 7
  | .fin s m _ =>
    if m = 0 then if s then 2 ^ 3 else 2 ^ 4
    else if m < 2 ^ 23 then if s then 2 ^ 2 else 2 ^ 5
    else if s then 2 else 2 ^ 6

/-! ### Conversions (03 R69, 06 R151) -/

/-- The binary format of a code, if it is one (03 R59). -/
def fmtOf : Nat → Option Fmt
  | 0 => some fp32 | 1 => some fp16 | 2 => some bf16 | _ => none
/-- Width in bits of a scalar format code. -/
def fmtWidth : Nat → Nat
  | 0 | 3 | 4 => 32 | 1 | 2 => 16 | _ => 8
def fmtSigned (c : Nat) : Bool := c == 3 || c == 5
def fmtLo (c : Nat) : Int := if fmtSigned c then -2 ^ (fmtWidth c - 1) else 0
def fmtHi (c : Nat) : Int := if fmtSigned c then 2 ^ (fmtWidth c - 1) - 1 else 2 ^ fmtWidth c - 1

/-- `convert` (06 R151): element bits of format `sf` to element bits of format `df`. -/
def convert (x sf df : Nat) (rm : RM) : FRes Nat :=
  let w := fmtWidth df
  match fmtOf sf, fmtOf df with
  | some f, some g =>
    let v := unpack f x
    let y := roundFV g rm v
    ⟨y.val, y.fl ||| flagIf v.isSig fNV⟩
  | some f, none =>
    match unpack f x with
    | .nan _ => ⟨0, fNV⟩
    | .inf s => ⟨((if s then fmtLo df else fmtHi df) % 2 ^ w).toNat, fNV⟩
    | .fin s m e =>
      let (n, exact) := roundAt rm s m e 0 false
      let v : Int := if s then -(n : Int) else n
      if v < fmtLo df then ⟨(fmtLo df % 2 ^ w).toNat, fNV⟩
      else if fmtHi df < v then ⟨(fmtHi df % 2 ^ w).toNat, fNV⟩
      else ⟨(v % 2 ^ w).toNat, flagIf (!exact) fNX⟩
  | none, some g =>
    let v : Int := if fmtSigned sf && decide (2 ^ (fmtWidth sf - 1) ≤ x) then (x : Int) - 2 ^ fmtWidth sf else x
    roundFV g rm (.fin (decide (v < 0)) v.natAbs 0)
  | none, none =>
    let v : Int := if fmtSigned sf && decide (2 ^ (fmtWidth sf - 1) ≤ x) then (x : Int) - 2 ^ fmtWidth sf else x
    if v < fmtLo df then ⟨(fmtLo df % 2 ^ w).toNat, fSAT⟩
    else if fmtHi df < v then ⟨(fmtHi df % 2 ^ w).toNat, fSAT⟩
    else ⟨(v % 2 ^ w).toNat, 0⟩

/-! ### Block floating point (03 R70 to R76) -/

/-- Mantissa bits of a BFP code. -/
def bfpBits : Nat → Nat
  | 7 => 6 | 8 => 4 | _ => 2

/-- A formed block: the two exponents, the elements, the flags, and the saturated elements. -/
structure Block where
  e0 : Nat
  e1 : Nat
  elems : List Nat
  fl : Word
  sat : List Bool
  deriving DecidableEq, Repr

/-- round_rne(|x| / 2^(ex - 127 - (b - 1))) and whether exact. -/
def bfpQ (x : FV) (ex b : Nat) : Nat × Bool :=
  match x with
  | .fin _ m e => roundAt .rne false m e ((ex : Int) - 127 - (b - 1)) false
  | _ => (0, true)

/-- One element of a block (03 R74, R75): the element bits, flags, saturated. -/
def bfpElem (x : FV) (b e0 e1 : Nat) : Nat × Word × Bool :=
  let mmax := 2 ^ b - 1
  match x with
  | .nan g => (0, flagIf g fNV, false)
  | .inf s => ((if s then 2 ^ b else 0) + mmax, fSAT ||| fOF ||| fNX, true)
  | .fin s m _ =>
    let sg := if s then 2 ^ b else 0
    let (q, ex) := bfpQ x e1 b
    if q ≤ mmax then (2 ^ (b + 1) + sg + q, flagIf (!ex) fNX ||| flagIf (m != 0 && q == 0) fUF, false)
    else
      let (k, ex) := bfpQ x e0 b
      if mmax < k then (sg + mmax, fSAT ||| fOF ||| fNX, true)
      else (sg + k, flagIf (!ex) fNX ||| flagIf (m != 0 && k == 0) fUF, false)

/-- floor(log2 |x|) + 127 of the largest finite magnitude, with its number; none when all are zero. -/
def bfpMax (xs : List FV) : Option FV :=
  xs.foldl (fun acc x => match x with
    | .fin _ m e =>
      if m = 0 then acc else match acc with
        | none => some (.fin false m e)
        | some y => if fOrd y (.fin false m e) == .lt then some (.fin false m e) else some y
    | _ => acc) none

/-- Form a block of `b` mantissa bits with shift `sh` (03 R74). -/
def formBlock (xs : List FV) (b sh : Nat) : Block :=
  let mmax := 2 ^ b - 1
  let e0 : Nat := match bfpMax xs with
    | none => if xs.any FV.isInf then 0xFE else 1
    | some y => match y with
      | .fin _ m e =>
        let k := min (max (e + (bitLen m : Int) - 1 + 127) 1) 0xFE
        let k := k.toNat
        if decide (mmax < (bfpQ y k b).1) && decide (k < 0xFE) then k + 1 else k
      | _ => 1
  let e1 := max (e0 - sh) 1
  let es := xs.map fun x => bfpElem x b e0 e1
  { e0 := if xs.any FV.isNaN then 0xFF else e0, e1 := e1, elems := es.map (·.1),
    fl := es.foldl (fun a t => a ||| t.2.1) 0, sat := es.map (·.2.2) }

/-- The value of an element (03 R71). -/
def bfpValue (b elem e0 e1 : Nat) : FV :=
  let ex := if elem / 2 ^ (b + 1) % 2 = 1 then e1 else e0
  if ex = 0xFF then .nan false
  else .fin (elem / 2 ^ b % 2 == 1) (elem % 2 ^ b) ((ex : Int) - 127 - (b - 1))

/-! ### Matrix summation (03 R77, R78) -/

/-- One k-group: acc + exact sum of the products, rounded once to FP32. -/
def groupAdd (acc : Nat) (ps : List (FV × FV)) : Nat :=
  let prods := ps.map fun p => p.1.mul p.2
  let g := if prods.all (fun x => x.isZero && x.sign) then FV.fin true 0 0 else sumFV prods false
  (addTerms fp32 .rne [unpack fp32 acc, g]).val

/-- Products in k-groups of `size`, ascending; `fuel` bounds the groups. -/
def groupSum : Nat → Nat → Nat → List (FV × FV) → Nat
  | 0, _, acc, _ => acc
  | fuel + 1, size, acc, ps =>
    match ps with
    | [] => acc
    | _ => groupSum fuel size (groupAdd acc (ps.take size)) (ps.drop size)

/-! ### Exact cells (03 R80 to R82) -/

/-- The update of `xadd` on the 512 bits of a cell (03 R81). -/
def cellAdd (cell : BitVec 512) (x : Nat) : BitVec 512 :=
  match unpack fp32 x with
  | .nan _ => cell ||| BitVec.twoPow 512 504
  | .inf s => cell ||| BitVec.twoPow 512 (if s then 506 else 505)
  | .fin s m e =>
    let v : Int := (cell.extractLsb' 0 504).toInt
    let d : Int := m * 2 ^ (e + 160).toNat
    let t := if s then v - d else v + d
    let ovf := decide (t < -2 ^ 503) || decide (2 ^ 503 ≤ t)
    let flags : BitVec 8 := cell.extractLsb' 504 8
    (if ovf then flags ||| 8#8 else flags) ++ BitVec.ofInt 504 t

/-- The value of `xrd` (03 R82). -/
def cellRead (cell : BitVec 512) : FRes Nat :=
  let v : Int := (cell.extractLsb' 0 504).toInt
  if cell.getLsbD 504 || (cell.getLsbD 505 && cell.getLsbD 506) then ⟨canonNaN fp32, fNV⟩
  else if cell.getLsbD 507 then ⟨canonNaN fp32, fNV⟩
  else if cell.getLsbD 505 then ⟨packInf fp32 false, 0⟩
  else if cell.getLsbD 506 then ⟨packInf fp32 true, 0⟩
  else if v = 0 then ⟨0, 0⟩
  else roundFin fp32 .rne (decide (v < 0)) v.natAbs (-160) false

end Sys2Proof.Machine
end

