-- ==== Sys2Proof/Config.lean ====
section
/-! DEFINITION. What the part fixes and the free values. Every constant here is opaque: the spec leaves its value
open, nothing in Lean evaluates it, and a statement about it holds for every value. -/

namespace Sys2Proof.Config

/-- Byte of physical memory not written since package reset `epoch`, read under key `key` (14 R319). Log entry 4. -/
opaque rawByte (epoch key addr : Nat) : Byte
/-- Byte of a line read under another key than that of its last write; `stamp` names that write (14 R319). Log entry 4. -/
opaque unrelatedByte (stamp key addr : Nat) : Byte
/-- Byte of a peer device's memory as it stood at grant epoch `epoch` of its page (14 R315). Log entry 13. -/
opaque peerByte (epoch addr : Nat) : Byte
/-- Byte of a strand-private slice that its wale has not written (08 R180). Log entry 5. -/
opaque privByte (wale off : Nat) : Byte
/-- The core cycle counter `sr.cyc` (02 R45) when the die has issued `cc` cycles. Log entry 6. -/
opaque cycleCount (core cc : Nat) : Dword
/-- A free choice of the hardware, numbered by the state's counter. -/
opaque freeBool (n : Nat) : Bool
/-- Whether `cpub` number `n` publishes the writes to a line of an agent other than its wale and the engine commands that the wale has
waited for (08 R199). Log entry 19. -/
opaque publishChoice (n line agent : Nat) : Bool
opaque freeWord (n : Nat) : Word
/-- Whether firmware has loaded an erased key again (14 R320). Log entry 98. -/
opaque keyLoaded (turn key : Nat) : Bool
/-- Whether a TLB still holds its entry for a page when the tables say otherwise (14 R324). Log entry 94. -/
opaque tlbKept (turn page : Nat) : Bool
/-- Fused sensor masks (13 R291). -/
opaque fusedMask (die cell : Nat) : BitVec 63
/-- Cycles, less one, from a cell's report to its apply cycle, fixed for each cell of a part (13 R288). -/
opaque cellDelay (die cell : Nat) : Fin 24
/-- The stacked SRAM die is present (14 R309). -/
opaque stacked (die : Nat) : Bool
/-- Calibrated voltage tables and sensor corrections (17 R391, R392). -/
opaque vtab (die cls half : Nat) : BitVec 64
opaque thmCal (die n : Nat) : BitVec 16
/-- Firmware version of `fwcall` 0x000 (11 R260): a build number of 16 bits with minor and major. -/
opaque fwVersion : Word
/-- Fused security versions of the layers (18 R396). -/
opaque fusedSvn (layer : Nat) : BitVec 32
opaque fusedKeyDigest : BitVec 256
/-- The images in the module's flash at package reset `epoch`: layer 0 monitor, 1 scheduler, 2 + f plug-in of function f
(18 R396). -/
opaque flashImage (epoch n : Nat) : List Byte
/-- Key under which a peer's request reaches a page of this device (16 R362). Log entry 25. -/
opaque peerKey (page : Nat) : BitVec 12
/-- Byte `i` of the basket and node entries of saved world `name`, whose layout the spec does not give (16 R372). Log entry
22. -/
opaque worldByte (name i : Nat) : Byte
/-- What the entries of a world image made elsewhere stand for (16 R373; log entry 22): basket `j`: its entry number, queue, packet,
counter, next skein, recovery extension. -/
opaque worldBasket (entries : List Byte) (j : Nat) : Nat × Nat × BitVec 512 × Nat × Nat × Option (Vector Nat 6)
/-- The skeins of basket `j`: packet, number, waiting rims, saved hoops with the addresses of their images. Log entry 22. -/
opaque worldSkeins (entries : List Byte) (j : Nat) : List (BitVec 512 × Nat × List Nat × List (Nat × Nat))
/-- Graph node `j`: predecessors, successors, EMPTY, its launch, running. Log entry 22. -/
opaque worldNode (entries : List Byte) (j : Nat) : Option (Nat × List Nat × Bool × Option Nat × Bool)
/-- Die, number and watch version of reuse entry `j`. Log entry 22. -/
opaque worldReuse (entries : List Byte) (j : Nat) : BitVec 2 × BitVec 8 × BitVec 32
/-- Byte `i` of the entry of the basket table in a dump that stands for what the entry holds, none for a free one: function, queue,
packet, counter, next skein, recovery extension (15 R339); the spec does not give its layout (18 R401). Log entry 26. -/
opaque dumpBasket (entry : Option (Nat × Nat × BitVec 512 × Nat × Nat × Option (Vector Nat 6))) (i : Nat) : Byte
/-- How many bytes of the dump had been written when a package reset stopped it (18 R402). Log entry 26. -/
opaque dumpCut (n : Nat) : Nat
/-- The station of this device on its UALink ports (16 R370). Log entry 37. -/
opaque ownStation : BitVec 10
/-- Type code of a kind of dump section (18 R401). Log entry 26. -/
opaque dumpType (kind : Nat) : BitVec 32
/-- SHA3-256, ML-DSA-44 verification and signature, and the device key (18 R396, R398): values outside the spec. -/
opaque sha3 (bs : List Byte) : BitVec 256
opaque mldsaVerify (key digest sig : List Byte) : Bool
opaque mldsaSign (monitor digest : BitVec 256) (i : Nat) : Byte
opaque devicePublicKey (monitor : BitVec 256) (i : Nat) : Byte
/-- Partial values that a peer rank brings to a collective operation (09 R224): rank, instance, element. -/
opaque peerElement (group inst rank elem : Nat) : Word
/-- Operands with which peer rank `rank` formed instance `inst` of a group agree with this device's (09 R224). -/
opaque peerAgrees (group inst rank : Nat) : Bool

end Sys2Proof.Config
end

