-- ==== Sys2Proof/Machine/State.lean ====
section
/-! DEFINITION. The state of the module as plain data: wales, hoops, skeins, baskets, engines, memory, dies, device
registers and the model's own agenda. Each field names the rule of spec/ that gives it. -/

namespace Sys2Proof.Machine

/-! ### Wale -/

/-- State of an arm of a join token (07 R159). -/
inductive ArmSt where
  | free | running | waiting | suspended | opened
  deriving DecidableEq, Repr

/-- Why an arm is suspended: its sibling has pushed a token (07 R160), by the judgement at single-fragment points (R166), or
by a trap handler of its sibling (11 R264). -/
inductive Susp where
  | tok | point | trap
  deriving DecidableEq, Repr

/-- A fragment: PC, `em`, members (07 R159). `split`: it waits at a `brd` that would split (R166). `arr`: it has come to
its PC by a transfer that is checked against BTM (04 R88). `retry`: its instruction issues again after `tret.retry`, and
it continues at this resume PC (11 R265). `stall`: it waits while its sibling keeps issuing, and is tried again after a
release of the wale or when something it may wait for changes (01 R25). `why`: why it is suspended. -/
structure Arm where
  st : ArmSt
  pc : Dword
  em : Mask
  mem : Mask
  split : Bool
  arr : Bool
  retry : Option Dword
  stall : Bool := false
  why : Susp := .tok
  deriving DecidableEq, Repr

/-- Which fragment of a wale: the sole one, or an arm of the top token. -/
inductive ArmId where
  | sole | a0 | a1
  deriving DecidableEq, Repr

/-- A join-stack entry (07 R159). -/
structure Token where
  l : Dword
  mem : Mask
  pk : Mask
  ser : BitVec 16
  a0 : Arm
  a1 : Arm
  deriving DecidableEq, Repr

/-- One register write of a result that has not landed. -/
inductive RegWrite where
  | v (n : Fin 256) (m : Mask) (x : Lanes)
  | s (n : Fin 64) (x : Word)
  | p (n : Fin 8) (m : Mask) (x : Mask)
  deriving DecidableEq, Repr

/-- A lookahead shadow (04 R94, 06 R138): instructions left, the result has landed, the fragment and the join-stack depth
at which it issued, the destination writes and the flags. `dst`: its destination registers by its encoding (R95). `old`: it
issued in the older of the wale's two regions (02 R51). `off`: its reply will raise HOMEOFF (11 R263). -/
structure Shadow where
  left : Nat
  landed : Bool
  arm : ArmId
  depth : Nat
  writes : List RegWrite
  flags : Word
  dst : List Opnd := []
  old : Bool := false
  off : Bool := false
  deriving DecidableEq, Repr

/-- An engine command as retained at release (09 R206, 11 R269): the instruction, its PC, its operand values, the
index vector of a gather or scatter (strand, index), the offset reached, whether `tret.retry` has released it again
(it then belongs to no batch), and whether it is the follow-on of a `cpymm` alone. -/
structure CmdOps where
  ins : Instr
  pc : Dword
  d : Dword
  a : Dword
  b : Dword
  c : Dword
  idx : List (Nat × Word)
  off : Nat
  again : Bool
  fo : Bool
  deriving DecidableEq, Repr

/-- A pending fault (11 R261, R263). `fetch`: raised at fetch. `id`: the command of an engine fault. -/
structure FaultRec where
  code : BitVec 8
  shd : Bool
  eng : Bool
  fetch : Bool
  pc : Dword
  addr : Dword
  mask : Mask
  resume : Dword
  cmd : Option CmdOps
  id : Nat := 0
  deriving DecidableEq, Repr

/-- A trap frame (11 R264, R270): the fragment, its `em`, the faulting PC, the resume PC, the join-stack depth, the
command of an engine fault. `fetch`: the fault was raised at fetch. `eng`: it is an engine fault. -/
structure TrapFrame where
  arm : ArmId
  em : Mask
  pc : Dword
  resume : Dword
  depth : Nat
  fetch : Bool
  cmd : Option CmdOps
  eng : Bool := false
  deriving DecidableEq, Repr

/-- A loop descriptor (07 R169). -/
structure LoopD where
  lact : Bool
  lstart : Dword
  lend : Dword
  lreload : Word
  deriving DecidableEq, Repr

/-- A load or atomic sent to a die in warm reset, whose reply will raise HOMEOFF (11 R263): its PC, address, strands,
fragment, and the shadow instructions that may still issue. `shd`: it stands itself in a shadow (04 R96). `old`: it issued
in the older of the wale's two regions. -/
structure HomeOff where
  pc : Dword
  addr : Dword
  mask : Mask
  arm : ArmId
  left : Nat
  shd : Bool := false
  old : Bool := false
  deriving DecidableEq, Repr

/-- An `fwcall` that the firmware has not answered (11 R260): its fragment, the service, the value of A, the destination. -/
structure FwCall where
  arm : ArmId
  n : Nat
  x : Word
  d : Opnd
  deriving DecidableEq, Repr

/-- The checkpointed state of a wale (02 R41, 07 R178). `call`: a fragment that waits for the firmware, which has its request
once whatever comes after (02 R53). -/
structure WaleCore where
  v : Sparse Lanes
  s : Vector Word 64
  p : Vector Mask 8
  base : Arm
  stack : List Token
  serial : BitVec 16
  exited : Mask
  lc : Vector Word 3
  loops : Vector LoopD 3
  lstack : List (Fin 3)
  batch : BitVec 16
  fflags : Word
  fcause : Word
  fpc : Dword
  faddr : Dword
  fmask : Mask
  yleft : Word
  icount : Nat
  wcount : Nat
  shadows : List Shadow
  pend0 : Option FaultRec
  pend1 : Option FaultRec
  frame : Option TrapFrame
  hoff : Option HomeOff
  nBar : Nat
  nRbar : Nat
  nSbar : Nat
  nColl : Nat
  call : Option FwCall := none
  deriving DecidableEq, Repr

/-! ### Held effects (02 R49) -/

/-- A location: the space and the byte address in it (08 R180). A global location carries the virtual address, the
function, the partition, the key and the memory type of its translation (14 R317, R324). Accumulator tiles (10 R231, SPACE 4)
are laid out as 1,024 bytes for each tile, row by row. -/
inductive Loc where
  | glob (pa va : Nat) (key : Nat) (func part : Nat) (mt : Nat)
  | sp (hoop off : Nat)
  | dsc (die off : Nat)
  | priv (wale off : Nat)
  | tile (hoop off : Nat)
  deriving DecidableEq, Repr

/-- One access that writes bytes. -/
structure Acc where
  loc : Loc
  bytes : List Byte
  deriving DecidableEq, Repr

/-- The performing level of an access, 1 to 3 (08 R185), and the level to which a release first writes back the wale's earlier
stores (0: it is no release). -/
structure Level where
  at_ : Nat
  back : Nat := 0
  deriving DecidableEq, Repr

inductive SyncOp where
  | init | exp | arv | add
  deriving DecidableEq, Repr

inductive SlotOp where
  | def (desc : BitVec 512)
  | set (w : Fin 16) (x : Word)
  | inv
  deriving DecidableEq, Repr

inductive BarKind where
  | bar | rbar | sbar
  deriving DecidableEq, Repr

/-- A held effect, in the order of the wale's program (02 R49, R51). -/
inductive Held where
  /-- Plain stores and `xclr`, in ascending strand order (08 R187, R196). -/
  | store (ws : List Acc) (lv : Level)
  /-- Atomics without a return value (08 R193): operation, unsigned, width in bytes, locations with X. -/
  | rmw (aop : BitVec 4) (u : Bool) (w : Nat) (xs : List (Loc × Dword × Dword)) (lv : Level)
  /-- `xadd` (03 R81). -/
  | xadd (bf : Bool) (xs : List (Loc × Word)) (lv : Level)
  | sync (op : SyncOp) (loc : Loc) (x y : Word)
  | slot (n : Fin 64) (op : SlotOp)
  | cmd (o : CmdOps)
  | seal
  | arrive (k : BarKind)
  | mfence
  deriving DecidableEq, Repr

/-- A region (02 R51): checkpoint, held effects oldest first, cycle of its last result, Q recorded at the close, the pages
that the driver has refused to an access of it: its replay raises XLATE there (11 R268). -/
structure Region where
  ckpt : WaleCore
  held : List Held
  last : Nat
  q : Option Nat
  refused : List Nat := []
  deriving DecidableEq, Repr

/-- What a wale is doing (01 R25, R31, R33, R36). -/
inductive WSt where
  /-- It issues when a fragment is ready. -/
  | ready
  /-- It waits for a region to be released (R30, R53, R54, R263). `pre`: at an instruction of R26, which is a pre-emption point (R33). -/
  | drain (pre : Bool)
  /-- It waits at `wtb`, `wtc`, a `spawn`, a command counter or a die in warm reset (R25); it is tried again when something
  it waits for changes. `pre`: a pre-emption point (R33). -/
  | wait (pre : Bool)
  /-- It is recorded in the waiter bitmap of a sync word (08 R203): hoop and offset of the word. -/
  | gen (hoop off : Nat)
  /-- The word's generation has advanced; it is woken in a wave (08 R203). -/
  | woken
  /-- It has made its arrival at a barrier of the kind and waits for the instance (08 R204). -/
  | barrier (k : BarKind)
  /-- It has arrived at a hoop-collective operation (01 R27). -/
  | coll
  /-- It waits for a demand page (11 R268), an address that raised it, and the tag of the request. -/
  | page (tag : BitVec 16)
  /-- It stands at a `yield` with pre-emption pending (01 R33). -/
  | yielded
  /-- Saved by pre-emption (01 R35). -/
  | saved
  /-- Its last strand has exited (01 R31). -/
  | exited
  deriving DecidableEq, Repr

/-- A sealed batch (09 R215): its number, its commands, failed. -/
structure Batch where
  num : BitVec 16
  cmds : List Nat
  failed : Bool
  deriving DecidableEq, Repr

/-- An engine fault (09 R211): the record, the class (none for `spawn` and `sig`), the command and its place in the class. -/
structure EngFault where
  f : FaultRec
  cls : Option (Fin 4)
  cmd : Nat
  seq : Nat
  deriving DecidableEq, Repr

/-- The wale, restorable part in `core`, the rest beside it (02 R41). -/
structure Wale where
  core : WaleCore
  hoop : Nat
  idx : Nat
  slot : Nat
  vregs : Nat
  st : WSt
  qev : Word
  cnt : Vector Nat 4
  cur : Region
  old : Option Region
  /-- Effects of released regions that wait: for a die in warm reset, a link, a page, another core's request, or their turn (08 R191, 14
  R312, R315, 16 R356, R361; log entry 12). -/
  due : List Held
  /-- The open batch (09 R215). -/
  opn : List Nat
  opnFailed : Bool
  sealed : List Batch
  /-- Commands of each class released so far (09 R218). -/
  relSeq : Vector Nat 4
  /-- Matrix and reuse commands released before the last `mfence` (10 R240). -/
  mfenceAt : Nat
  /-- Engine faults reported and not yet taken (09 R211). -/
  engFaults : List EngFault
  /-- Released arrivals (08 R204, 01 R27). -/
  rBar : Nat
  rRbar : Nat
  rSbar : Nat
  /-- Operands with which the wale waits at its hoop-collective operation. -/
  collArg : Option (Instr × Word × Word)
  /-- Cycle of the die in which ARM1 became ready (15 R346). -/
  ready1 : Nat
  /-- When the wale began to wait for issue, on the count `turn` (15 R346). -/
  since : Nat
  /-- Pages that the driver has refused to a `spawn` of a released region (11 R268). -/
  refused : List Nat
  deriving DecidableEq, Repr

/-! ### Hoop, skein, basket -/

/-- A tensor slot (10 R230): VALID and the descriptor. -/
structure TSlot where
  valid : Bool
  desc : BitVec 512
  deriving DecidableEq, Repr

inductive HoopSt where
  | resident | saved (image : Nat) | done
  deriving DecidableEq, Repr

/-- A placed hoop (02 R47, 01 R19). `slots` and `tiles` list what differs from an invalid slot and +0.0; `tiles` is
keyed by 256 x tile + 16 x row + column. -/
structure Hoop where
  skein : Nat
  idx : Nat
  die : Fin 4
  cluster : Fin 8
  coreNo : Fin 12
  st : HoopSt
  slots : Sparse TSlot
  tiles : Sparse Word
  deriving DecidableEq, Repr

/-- A skein (01 R10, R13): its packet, the place of its launch or `spawn` in the order of performing (R23), the rims
that wait for admission, those saved by pre-emption, and whether pre-emption is pending. -/
structure Skein where
  basket : Nat
  num : Nat
  pkt : BitVec 512
  place : Nat
  waiting : List Nat
  saved : List Nat
  preempt : List Nat
  doneHoops : List Nat
  done : Bool
  /-- s0 to s15 as read from the parameter block at the first admission (15 R335). -/
  params : Option (List Word)
  deriving DecidableEq, Repr

/-- The recovery extension (15 R340). -/
structure Recov where
  mul : Nat
  shift : Nat
  span : Nat
  phoops : Nat
  ownbm : Nat
  prodbm : Nat
  /-- Hoops whose producer bits all read 1 at the last reading (R341). -/
  ready : List Nat
  deriving DecidableEq, Repr

/-- A basket entry (15 R339): function, launch packet, spawn-tree counter (R16), next skein number, its queue, the
extension, a wale of it has run, MOVED (16 R375). -/
structure Basket where
  func : Nat
  queue : Nat
  pkt : BitVec 512
  ctr : Nat
  nextSkein : Nat
  recov : Option Recov
  ran : Bool
  moved : Bool
  deriving DecidableEq, Repr

/-- What the front end does for a function besides reading: a write of memory, an update of a signal (die, entry, an add, value), the
completion of a graph node, the posting of an event record, the cancellation of the entry at an address of a ring (15 R333, R336,
R347, 16 R367, R369). -/
inductive FeFx where
  | write (va : Nat) (bs : List Byte)
  | sig (d : Fin 4) (i : Nat) (add : Bool) (x : Word)
  | node (n : Nat)
  | post
  | cancel (va : Nat)
  deriving DecidableEq, Repr

/-- An effect that waits for a die in warm reset, a link or a page (08 R191, 16 R356, R361, 14 R315) and that no wale holds. -/
inductive Owed where
  /-- Released by a wale whose basket has ended (11 R267): the wale, its hoop, die, core, partition and function. -/
  | held (wale hoop : Nat) (die : Fin 4) (core part func : Nat) (h : Held)
  /-- Of the front end for a function. -/
  | fe (func : Nat) (x : FeFx)
  deriving DecidableEq, Repr
/-- Effects of one origin are performed in order. -/
def Owed.origin : Owed → Option Nat × Nat
  | .held w _ _ _ _ _ _ => (some w, 0)
  | .fe f _ => (none, f)

/-- A graph node (15 R337, R338). -/
structure GNode where
  preds : Nat
  succ : List Nat
  empty : Bool
  launch : Option Nat
  running : Bool
  deriving DecidableEq, Repr

/-- A page request (15 R347): function, page, kind, die, tag; who waits for it is in the wale's or command's state. One that
found the event ring full has not been posted. -/
structure PageReq where
  func : Nat
  page : Nat
  kind : Nat
  die : Nat
  tag : BitVec 16
  posted : Bool
  deriving DecidableEq, Repr

/-! ### Engines -/

/-- Where an engine stopped (09 R211, 11 R269): the fault's code and address, and the element that it had not moved. -/
structure Stop where
  code : BitVec 8
  addr : Dword
  off : Nat
  deriving DecidableEq, Repr

/-- Progress of a released command (09 R206 to R229, 10 R235 to R253). -/
inductive CStage where
  /-- Handed over; nothing read. -/
  | queued
  /-- Results are staged and wait for clearance. -/
  | staged
  /-- It has stopped at an element; the elements before it are staged and wait for clearance. -/
  | stopped (x : Stop)
  /-- Source read and cleared (R214). -/
  | sourced
  /-- Results have left staging and are performed; completion is due in order (R210). -/
  | done
  /-- It waits for a demand page (11 R268). -/
  | page (tag : BitVec 16)
  /-- A fault stopped it and is to be reported (R211). -/
  | faulted (code : BitVec 8) (addr : Dword)
  deriving DecidableEq, Repr

/-- Results are staged and have not cleared. -/
def CStage.held : CStage → Bool
  | .staged | .stopped _ => true
  | _ => false

/-- A staged reuse update (10 R250 to R253): the new entry fields and the images, packed as a reuse image's values. -/
structure ReuseEntry where
  valid : Bool
  layer : Word
  wbase : BitVec 53
  wver : Word
  count : Nat
  nlim : Nat
  satth : Nat
  k : Nat
  vf : Nat
  sver : BitVec 16
  /-- R[i][j] keyed 16 i + j, unlisted +0.0 (10 R247). -/
  r : Sparse Word
  /-- Abar[i][k] keyed 1024 i + k, unlisted +0.0. -/
  abar : Sparse (BitVec 16)
  /-- Watch entry: first line, line count, version (10 R247). -/
  wfirst : Nat
  wlines : Nat
  version : Word
  deriving DecidableEq, Repr

/-- A guard region of a die on which what a command has staged depends (13 R289, R290, R417): the cycle of that die at which
the region's last result for it came; while `opened`, further results are to come. -/
structure Guard where
  die : Fin 4
  rgn : Nat
  last : Nat
  opened : Bool
  deriving DecidableEq, Repr

/-- A message that the device sends on a UALink port (16 R362 to R364, R370, 14 R315). -/
inductive PeerMsg where
  /-- The home calls the page back from a station. -/
  | revoke (station : BitVec 10) (page : Nat)
  /-- The grantee of peer window `p` returns the dirty lines of a page. -/
  | release (window page : Nat) (lines : List (Nat × BitVec 512))
  /-- Data of rank `src` of a collective group for the rank at a station and partition, in an instance. -/
  | coll (station : BitVec 10) (part group inst src : Nat) (data : List Byte)
  | sigadd (window n : Nat) (x : Word)
  /-- The peers purge their ends of the traffic of a function, by its station and partition. -/
  | purge (station : BitVec 10) (part : Nat)
  deriving DecidableEq, Repr

/-- What a command has staged: writes, tile elements, the update of a reuse entry of a die, data for peers. -/
structure Staged where
  writes : List Acc
  tiles : List (Nat × Word)
  entry : Option (Fin 4 × Nat × ReuseEntry)
  msgs : List PeerMsg := []
  deriving DecidableEq, Repr

/-- A released engine command. -/
structure Cmd where
  ops : CmdOps
  wale : Nat
  hoop : Nat
  basket : Nat
  func : Nat
  part : Nat
  die : Fin 4
  cluster : Fin 8
  cls : Fin 4
  /-- Tensor slots as the wale's view held them at release: TS, TS2 and the follow-on's B slot. -/
  slots : List TSlot
  stage : CStage
  staged : Staged
  /-- Commands that must have left before it starts: those it is ordered after (10 R239), and the copy of a follow-on until the
  streamer issues the follow-on (09 R221). -/
  deps : List Nat
  /-- The part of a `cpymm` that is its follow-on (09 R221). -/
  followOn : Bool
  /-- A running burst (17 R383). -/
  burst : Bool
  inBatch : Bool
  /-- Its place among the wale's commands of its class (09 R210, R218). -/
  seq : Nat
  /-- Instance number of a `coll` in its group (09 R224). -/
  inst : Nat
  /-- The page that the driver has refused (11 R268). -/
  refused : Option Nat
  /-- Guard regions whose events squash what it has staged (10 R238, 13 R417). -/
  rgns : List Guard
  /-- The copy whose bytes a follow-on reads (09 R221). -/
  copy : Option Nat := none
  /-- What is staged are its elements up to this one; the rest is read when they have left (13 R293). -/
  upTo : Option Nat := none
  deriving DecidableEq, Repr

/-! ### Dies -/

/-- A mailbox slot (16 R358): messages oldest first, OVF. -/
structure Mbox where
  msgs : List (BitVec 128)
  ovf : Bool
  deriving DecidableEq, Repr

/-- A tag window of a guard region (13 R295): serial, open, cycles of the first and last flit, Q recorded at the close,
flits sent to each die. -/
structure TagWin where
  ser : BitVec 12
  opened : Bool
  first : Nat
  last : Nat
  q : Nat
  counts : List (Fin 4 × Nat)
  deriving DecidableEq, Repr

/-- Tag state of a region: serial counter and windows, oldest first (13 R295). -/
structure TagRgn where
  serial : BitVec 12
  wins : List TagWin
  deriving DecidableEq, Repr

/-- A tagged flit held in link receive staging: source die, region, serial, consumer command (13 R297). -/
structure Flit where
  src : Fin 4
  rgn : Nat
  ser : BitVec 12
  cmd : Nat
  deriving DecidableEq, Repr

/-- A squashed range of serials of a source region, and the later windows seen since (13 R297). -/
structure SquashMark where
  src : Fin 4
  rgn : Nat
  first : BitVec 12
  next : BitVec 12
  seen : Nat := 0
  deriving DecidableEq, Repr

/-- A cell's report of an event that has not been applied yet (13 R287, R288, R305): cell, type, blind, the cycle of the
report. -/
structure CellReport where
  cell : Fin 256
  ty : Fin 3
  blind : Bool
  at_ : Nat
  deriving DecidableEq, Repr

/-- A message on a die link (13 R294 to R296): a tagged flit on the data lane; CLEAR and SQUASH on the control lane. -/
inductive LinkMsg where
  | flit (dst : Fin 4) (f : Flit)
  | clear (dst src : Fin 4) (rgn : Nat) (ser : BitVec 12) (count : Nat)
  | squash (dst src : Fin 4) (rgn : Nat) (first next : BitVec 12)
  deriving DecidableEq, Repr

inductive L1St where
  | m | e | s
  deriving DecidableEq, Repr

/-- What a request on the notification network is: a read miss, a miss or upgrade for ownership, a write-back (14 R311). -/
inductive NoteKind where
  | read | own | back
  deriving DecidableEq, Repr

/-- A coherence notification (14 R311): core, line under its key, kind, the cycle in which its request was made, then that of its
injection, the partition and the function of the request. `back`: what the core has written is to be written back as soon as it
has the line (08 R185). -/
structure Note where
  core : Nat
  line : Nat
  kind : NoteKind
  at_ : Nat
  part : Nat
  func : Nat
  back : Bool := false
  deriving DecidableEq, Repr

/-- A line in an L2 slice: the partition recorded for it and its way (14 R317, R321). -/
structure L2Line where
  part : Nat
  way : Nat
  deriving DecidableEq, Repr

/-- A cached translation (14 R324): the core whose TLB holds it (none: the die's shared TLB), the function, the page number and
the page's size as a power of two, the leaf entry. -/
structure TlbE where
  core : Option Nat
  func : Nat
  page : Nat
  size : Nat
  pte : Nat
  deriving DecidableEq, Repr

/-- A directory entry (14 R314). -/
structure DirE where
  owner : Option (Fin 4)
  sharers : BitVec 4
  part : Nat
  deriving DecidableEq, Repr

/-- A line that a slice counts (14 R313): its owner, the cycles of its latest moves of ownership, newest first, the cycle of
the last atomic to it, whether it is hot. -/
structure HotL where
  line : Nat
  owner : Nat
  moves : List Nat
  last : Nat
  hot : Bool
  deriving DecidableEq, Repr

/-- A power token (17 R383): cluster at which it stands, held, when it was taken. -/
structure PTok where
  at_ : Fin 8
  held : Bool
  since : Nat
  deriving DecidableEq, Repr

/-- One compute die. -/
structure Die where
  /-- Cycles of the die (01 R40, 13 R289). -/
  cc : Nat
  /-- Reuse entries that differ from the package-reset entry (02 R48). -/
  reuse : Sparse ReuseEntry
  /-- Signals that are not zero (15 R334). -/
  signals : Sparse Word
  mbox : Sparse Mbox
  /-- Die scratchpad bytes that are not zero (14 R309). -/
  dsc : Sparse Byte
  /-- QSM_LOG records written (13 R300). -/
  qlog : Sparse (BitVec 256)
  /-- Cell reports not yet applied (13 R288). -/
  reports : List CellReport
  tags : Sparse TagRgn
  flits : List Flit
  squashes : List SquashMark
  clears : List (Flit × Nat)
  stormStart : Nat
  /-- Consecutive degraded intervals of each region (13 R304). -/
  degRun : Sparse Nat
  /-- Cells blind for a type (13 R305). -/
  blind : List (Fin 256 × Fin 3)
  /-- Notifications injected, in die order, and those that wait for their cluster's turn, oldest first (14 R311). -/
  notes : List Note
  asks : List Note
  /-- Of each cluster, the core whose notification it injected last, and the first cycle free after it; unlisted (15, 0). -/
  granted : Sparse (Nat × Nat)
  /-- L1 states keyed 2^52 x core + line under its key (14 R312, R317). -/
  l1 : Sparse L1St
  l1gated : List (Fin 96)
  /-- Cycle since which a core has no resident wale; unlisted 0 (14 R316). -/
  coreIdle : Sparse Nat
  /-- Lines in the L2 slices, home lines and copies (14 R308, R317), keyed like a line of `dir`. -/
  l2 : Sparse L2Line
  /-- The TLBs of the cores and of the die, newest entry first (14 R324). -/
  tlb : List TlbE
  /-- Function, size and VA of the invalidation in progress (14 R325). -/
  tlbInv : Option (Nat × Nat × Nat)
  /-- The key whose retirement is in progress (14 R320). -/
  keyRet : Option Nat
  /-- Directory entries keyed by line under its key (14 R314). -/
  dir : Sparse DirE
  hot : List HotL
  tokens : List PTok
  /-- Clusters without a resident wale that vote for an admission which waits for their rail: the skein (17 R381, R382). -/
  pledged : Sparse Nat
  /-- Clusters with a pending class write (17 R379). -/
  classPend : Sparse (Fin 4)
  /-- Temperature bin of each cluster (17 R388). -/
  bins : Vector Nat 8
  /-- Steps by which thermal protection lowers each cluster's RATIO (17 R389). -/
  thmSteps : Vector Nat 8
  noSensor : Bool
  injArmed : Bool
  injStart : Nat
  deriving DecidableEq, Repr

/-! ### Module -/

/-- Phases of a warm reset (16 R360). -/
structure WarmReset where
  die : Fin 4
  phase : Nat
  /-- Values of the RW fields of the die's blocks at GO. -/
  saved : Sparse (BitVec 64)
  deriving DecidableEq, Repr

/-- Who wrote a line of code (08 R198, R199): another agent, a wale, or a command of a wale, with its class, its place in the
class, and the number of the batch that it is of. -/
inductive Agent where
  | other
  | wale (w : Nat)
  | cmd (w : Nat) (cls : Fin 4) (seq : Nat) (batch : Option (BitVec 16))
  deriving DecidableEq, Repr

/-- A line of an instruction cache (04 R87): the line, the key under which it was read, the outcome of its check. -/
structure ILine where
  data : BitVec 512
  key : Nat
  ok : Bool
  deriving DecidableEq, Repr

/-- The last write of a memory line: key and a number that names the write (14 R319). -/
structure LineInfo where
  key : Nat
  stamp : Nat
  deriving DecidableEq, Repr

/-- Grants of a page of this device to peers (14 R315). -/
structure Grant where
  stations : List (BitVec 10)
  excl : Bool
  revoking : Bool
  deriving DecidableEq, Repr

/-- A signal wait that holds its queue: function and queue, the signal's die and entry, condition and compare value (15 R333). -/
structure SigWait where
  func : Nat
  queue : Nat
  die : Fin 4
  idx : Nat
  cc : Nat
  value : Word
  deriving DecidableEq, Repr

/-- A world saved by a world switch: its number, the function, and what its basket and node entries hold. `waits`: the signal waits at
the heads of its queues, which keep their state (16 R372). -/
structure World where
  name : Nat
  func : Nat
  baskets : Sparse Basket
  skeins : Sparse Skein
  hoops : Sparse Hoop
  wales : Sparse Wale
  nodes : Sparse GNode
  /-- Die, number and watch version of each reuse entry of the image, in order. -/
  entries : List (Fin 4 × Nat × Word)
  waits : List SigWait := []
  deriving DecidableEq, Repr

/-- A protection region of a management core (18 R394): base, last address, permissions of each layer (bit 0 read, 1 write, 2
execute). -/
structure ProtRegion where
  base : Nat
  limit : Nat
  monitor : BitVec 3
  scheduler : BitVec 3
  plugin : BitVec 3
  deriving DecidableEq, Repr

/-- What a host read has returned (16 R367). -/
inductive HostRead where
  | none | data (bs : List Byte) | unsupported
  deriving DecidableEq, Repr

/-- The issuing fragment: a wale and which of its arms. -/
structure Cur where
  wale : Nat
  arm : ArmId
  deriving DecidableEq, Repr

structure State where
  /-- MODEL'S OWN: operations that happen next, before any wale issues. Log entry 1. -/
  agenda : List Instr
  /-- MODEL'S OWN: the fragment that issues. -/
  cur : Option Cur
  /-- Wales in the order in which they became resident (15 R346). -/
  order : List Nat
  /-- MODEL'S OWN: instructions issued so far by all wales; a wale's wait for issue is counted by it. -/
  turn : Nat
  /-- MODEL'S OWN: counter of free values. -/
  free : Nat
  wales : Sparse Wale
  hoops : Sparse Hoop
  skeins : Sparse Skein
  baskets : Sparse Basket
  cmds : Sparse Cmd
  /-- Effects that wait and that no wale holds, oldest first (11 R267, 16 R356, R361). -/
  owed : List Owed
  nextId : Nat
  nextPlace : Nat
  /-- Physical memory (14 R307). -/
  mem : Mem
  lines : Sparse LineInfo
  /-- Package resets so far: names the keys (14 R319, 18 R400). -/
  epoch : Nat
  /-- The unpublished writes of a line, one entry for each agent: the cores for which they are unpublished, one bit each; keyed
  by line (08 R198, 12 R284). -/
  unpub : Sparse (List (Agent × BitVec 384))
  /-- Instruction-cache lines keyed 2^46 x core + physical line address (04 R87). -/
  icache : Sparse ILine
  /-- Scratchpad bytes that are not zero, keyed 2^19 x hoop + offset (02 R47). -/
  spad : Sparse Byte
  /-- Private-slice bytes written, keyed 2^21 x wale + physical offset (08 R180). -/
  priv : Sparse Byte
  /-- Keys retired or being retired (14 R320). -/
  retired : List Nat
  dies : Vector Die 4
  /-- Device registers that differ from their reset value, keyed 2^26 x function + BAR 0 offset (16 R366). -/
  regs : Sparse (BitVec 64)
  /-- Applied partition map; unassigned clusters hold 0x3F (16 R374). -/
  partMap : Vector Nat 32
  partPending : Option (List Nat)
  nodes : Sparse GNode
  pageReqs : List PageReq
  dieUp : BitVec 4
  dieEpoch : Vector (BitVec 8) 4
  warm : Option WarmReset
  /-- Messages on the die links, oldest first (13 R296). -/
  links : List LinkMsg
  grants : Sparse Grant
  peerEpochs : Sparse Nat
  /-- Pages of peers granted to this device, and whether exclusively (14 R315). -/
  peerGrants : Sparse Bool
  /-- Messages sent to peers, oldest first (16 R362). -/
  peerOut : List PeerMsg
  poisoned : List Nat
  /-- Context-area runs in use: function, first unit, units (15 R348). -/
  ctxRuns : List (Nat × Nat × Nat)
  /-- Function and operation of the world switch in progress (16 R371). -/
  wsOp : Option (Nat × Nat)
  /-- Functions for which admission is closed by a world switch (16 R372). -/
  closed : List Nat
  /-- Functions whose function-level reset is past its serialisation point and not complete (15 R331, 16 R369). -/
  flr : List Nat
  /-- Place of the front end in its round of the queues: 64 x function + queue, plus one, of the last entry taken (15 R330). -/
  rr : Nat
  /-- Signal waits at the heads of their queues (15 R333). -/
  sigWaits : List SigWait
  /-- Worlds saved by world switches, as the 64-byte entries of their images stand for them (16 R372; log entry 22). -/
  worlds : List World
  /-- Security versions raised in the fuses since manufacture: layer, version (18 R396). -/
  svn : Sparse (BitVec 32)
  /-- Bytes returned to a peer by its last read (16 R362). -/
  peerReply : List Byte
  /-- Sequence number, events, restarts, trace words, last word of each function's telemetry interval (18 R397). -/
  telem : Sparse (Nat × Nat × Nat × Nat × Word)
  usTime : Nat
  /-- Protection regions of the management cores, keyed 16 x core + region; an unlisted one gives nothing (18 R394). -/
  prot : Sparse ProtRegion
  /-- Functions whose plug-in has been stopped (18 R394). -/
  pluginStopped : List Nat
  fatal : Bool
  /-- The dump of a fatal device error is being written (18 R401, R402). -/
  dumping : Bool
  /-- A package reset follows the dump: under AUTORST, or by a GO that waits for it (18 R399, R400). -/
  rstGo : Bool
  collInst : Sparse Nat
  hostRead : HostRead
  msix : List (Nat × Nat)
  aer : Nat
  deriving DecidableEq, Repr

/-! ### Stops -/

/-- Reasons for which the model stops. -/
inductive Fault where
  /-- Raised by `exec` of a wale instruction when no wale is issuing (`cur` is none or names no wale). No step of the
  machine raises it: `step` sets `cur` first. Safe: the hardware has no such case. -/
  | noIssuer
  deriving DecidableEq, Repr

/-- Refusals. -/
inductive Refusal where
  /-- Raised by an arm of `exec` whose instruction has no meaning yet. Safe: nothing is claimed of it. -/
  | notModelled (mnemonic : String)
  deriving DecidableEq, Repr

/-! ### Reset -/

def ReuseEntry.reset : ReuseEntry :=
  { valid := false, layer := 0, wbase := 0, wver := 0, count := 0, nlim := 16, satth := 0, k := 32, vf := 0, sver := 0,
    r := [], abar := [], wfirst := 0, wlines := 0, version := 0 }

/-- A die after package reset (02 R48, 15 R334, 13 R299, 17 R391). Six tokens stand at cluster 0 (log entry 9). No sensor is valid,
so every cluster takes bin 15 (17 R388, R392). -/
def Die.reset : Die :=
  { cc := 0, reuse := [], signals := [], mbox := [], dsc := [], qlog := [], reports := [], tags := [], flits := [],
    squashes := [], clears := [], stormStart := 0, degRun := [], blind := [], notes := [], asks := [], granted := [], l1 := [], l1gated := [], coreIdle := [], l2 := [], tlb := [], tlbInv := none, keyRet := none,
    dir := [], hot := [], tokens := List.replicate 6 ⟨0, false, 0⟩, pledged := [], classPend := [], bins := Vector.ofFn fun _ => 15,
    thmSteps := Vector.ofFn fun _ => 0, noSensor := true, injArmed := false, injStart := 0 }

/-- The regions that the monitor sets at boot on core `c`: everything for itself; for the scheduler the blocks of the core's die, and on
core 0 the package's, without writes of what the monitor owns (18 R393; log entry 99). A plug-in's code, data and telemetry lie
in none of the register blocks. -/
def coreRegions (c : Nat) : List ProtRegion :=
  let b := 0x80000000 + 0x400000 * c
  let own (lo hi : Nat) : ProtRegion := { base := lo, limit := hi, monitor := 0, scheduler := 3, plugin := 0 }
  [{ base := 0, limit := 0xFFFFFFFF, monitor := 7, scheduler := 0, plugin := 0 },
   { base := b, limit := b + 0x3FFFFF, monitor := 0, scheduler := 1, plugin := 0 },
   own (b + 0x20) (b + 0x27), own (b + 0x10000) (b + 0x3003F), own (b + 0x30048) (b + 0x400FF), own (b + 0x40120) (b + 0x401FF), own (b + 0x40230) (b + 0x405FF),
   own (b + 0x40608) (b + 0x50007), own (b + 0x50010) (b + 0x502FF), own (b + 0x50500) (b + 0x3FFFFF)]
  ++ if c = 0 then
      [own 0x81000000 0x810003FF, own 0x81001000 0x810FFFFF, own 0x81100000 0x811FFFFF,
       { base := 0x81000000, limit := 0x810FFFFF, monitor := 0, scheduler := 1, plugin := 0 }]
    else []
def bootRegions : Sparse ProtRegion := (List.range 4).flatMap fun c => (coreRegions c).zipIdx.map fun e => (16 * c + e.2, e.1)

/-- The machine right after package reset and boot: no work, every register at its reset value, memory unwritten. -/
def State.reset : State :=
  { agenda := [], cur := none, order := [], turn := 0, free := 0, wales := [], hoops := [], skeins := [], baskets := [],
    cmds := [], owed := [], nextId := 0, nextPlace := 0, mem := [], lines := [], epoch := 0, unpub := [], icache := [], spad := [],
    priv := [], retired := [], dies := Vector.ofFn fun _ => Die.reset, regs := [], partMap := Vector.ofFn fun _ => 0,
    partPending := none, nodes := [], pageReqs := [], dieUp := 0xF, dieEpoch := Vector.ofFn fun _ => 0, warm := none, links := [],
    grants := [], peerEpochs := [], peerGrants := [], peerOut := [], poisoned := [], ctxRuns := [], wsOp := none, closed := [], flr := [], rr := 0, sigWaits := [], worlds := [], svn := [], peerReply := [], telem := [],
    usTime := 0, prot := bootRegions, pluginStopped := [], fatal := false, dumping := false, rstGo := false, collInst := [], hostRead := .none, msix := [],
    aer := 0 }

end Sys2Proof.Machine
end

