-- ==== Sys2Proof/Machine/Regs.lean ====
section
/-! DEFINITION. Device registers: their places (16 R366), reset values and the accessors. A key is
2^26 x function + BAR 0 offset; the PF is function 0. -/

namespace Sys2Proof.Machine

/-! ### Places -/

def vfKey (f off : Nat) : Nat := f * 2 ^ 26 + off
def rQNotify (f q : Nat) : Nat := vfKey f (8 * q)
def rQBase (f q : Nat) : Nat := vfKey f (0x400 + 32 * q)
def rQCtl (f q : Nat) : Nat := vfKey f (0x408 + 32 * q)
def rQStat (f q : Nat) : Nat := vfKey f (0x410 + 32 * q)
def rDropCnt (f : Nat) : Nat := vfKey f 0x1000
def rEvBase (f : Nat) : Nat := vfKey f 0x1008
def rEvPtr (f : Nat) : Nat := vfKey f 0x1010
def rPgReply (f : Nat) : Nat := vfKey f 0x1018
def rCtxBase (f : Nat) : Nat := vfKey f 0x1020
def rCtxSize (f : Nat) : Nat := vfKey f 0x1028
def rHwin (f : Nat) : Nat := vfKey f 0x2000
def cfe (off : Nat) : Nat := 0x100000 + off
def rPreempt : Nat := cfe 0x10
def rWsCtl : Nat := cfe 0x20
def rWsImg : Nat := cfe 0x28
def rPartCtl : Nat := cfe 0x30
def rQCancel : Nat := cfe 0x38
def rFuncA (f : Nat) : Nat := cfe (0x1000 + 16 * f)
def rFuncB (f : Nat) : Nat := cfe (0x1008 + 16 * f)
def rFuncPart (f : Nat) : Nat := cfe (0x2000 + 8 * f)
def rPartNew (c : Nat) : Nat := cfe (0x2800 + 8 * c)
def rCollGrp (g : Nat) : Nat := cfe (0x3000 + 16 * g)
def rPeerSig (n : Nat) : Nat := cfe (0x5000 + 8 * n)
def fw (off : Nat) : Nat := 0x200000 + off
def rDieRst : Nat := fw 0
def rDlStat (k : Nat) : Nat := fw (0x100 + 16 * k)
def rDlCtl (k : Nat) : Nat := fw (0x108 + 16 * k)
def rUlPeer (p : Nat) : Nat := fw (0x200 + 8 * p)
def rBootStat : Nat := fw 0x400
def rPkgRst : Nat := fw 0x408
def rFatal : Nat := fw 0x410
def rDumpBase : Nat := fw 0x418
def rDumpCtl : Nat := fw 0x420
def rDumpFn (w : Nat) : Nat := fw (0x430 + 8 * w)
def rTelem (f : Nat) : Nat := fw (0x1000 + 8 * f)
def dieBase (d : Nat) : Nat := 0x1000000 + 0x400000 * d
def qsm (d off : Nat) : Nat := dieBase d + off
def rQsmCap (d : Nat) : Nat := qsm d 0
def rQsmWindow (d : Nat) : Nat := qsm d 8
def rQsmCtl (d : Nat) : Nat := qsm d 0x10
def rQsmStatus (d : Nat) : Nat := qsm d 0x18
def rQsmInject (d : Nat) : Nat := qsm d 0x20
def rQsmEvCnt (d k : Nat) : Nat := qsm d (0x40 + 8 * k)
def rQsmLogPtr (d : Nat) : Nat := qsm d 0x60
def rQsmCell (d n : Nat) : Nat := qsm d (0x800 + 8 * n)
def rQsmAgent (d a : Nat) : Nat := qsm d (0x1000 + 8 * a)
def rQsmRgn (d g : Nat) : Nat := qsm d (0x1400 + 8 * g)
def dsc (d off : Nat) : Nat := dieBase d + 0x10000 + off
def rDscCap (d : Nat) : Nat := dsc d 0
def rDscWin (d p : Nat) : Nat := dsc d (0x100 + 8 * p)
def l2c (d off : Nat) : Nat := dieBase d + 0x20000 + off
def rHotTh (d : Nat) : Nat := l2c d 0
def rWayGate (d : Nat) : Nat := l2c d 8
def rXpRej (d : Nat) : Nat := l2c d 0x10
def rWayMask (d f : Nat) : Nat := l2c d (0x100 + 8 * f)
def memb (d off : Nat) : Nat := dieBase d + 0x30000 + off
def rKeyRet (d : Nat) : Nat := memb d 0x40
def rTlbVa (d : Nat) : Nat := memb d 0x48
def rTlbCtl (d : Nat) : Nat := memb d 0x50
def rHbmStat (d k : Nat) : Nat := memb d (0x80 + 8 * k)
def rBwBreach (d : Nat) : Nat := memb d 0xA0
/-- One register of the module (14 R322), kept at die 0's place. -/
def rPtRoot (f : Nat) : Nat := memb 0 (0x200 + 8 * f)
def rBwShare (d f : Nat) : Nat := memb d (0x800 + 8 * f)
def pwr (d off : Nat) : Nat := dieBase d + 0x40000 + off
def rTokens (d : Nat) : Nat := pwr d 0
def rHoldPt (d : Nat) : Nat := pwr d 8
def rSlope (d c : Nat) : Nat := pwr d (0x40 + 8 * c)
def rClust (d c : Nat) : Nat := pwr d (0x80 + 8 * c)
def rRail (d k : Nat) : Nat := pwr d (0x100 + 8 * k)
def rVtab (d m h : Nat) : Nat := pwr d (0x200 + 16 * m + 8 * h)
def rAllot (p : Nat) : Nat := pwr 0 (0x400 + 8 * p)
def rMeter (p : Nat) : Nat := pwr 0 (0x500 + 8 * p)
def rBudget : Nat := pwr 0 0x600
def rEj (p : Nat) : Nat := pwr 0 (0x700 + 8 * p)
def thm (d off : Nat) : Nat := dieBase d + 0x50000 + off
def rThmMax (d : Nat) : Nat := thm d 0
def rThmTrip (d : Nat) : Nat := thm d 8
def rThmSens (d n : Nat) : Nat := thm d (0x100 + 8 * n)
def rThmCal (d n : Nat) : Nat := thm d (0x300 + 8 * n)

/-! ### Reset values -/

/-- The region of agent entry `a` (13 R290): core j of cluster c is in region 6c + j / 2, unit u in region 48 + u. -/
def agentRegion (a : Nat) : Nat := if a < 96 then 6 * (a / 12) + a % 12 / 2 else 48 + (a - 96)

/-- Reset value of an offset `o` within the register space of die `d` (13 R299, 14 R309 to R328, 17 R391, R392). -/
def dieRegReset (d o : Nat) : BitVec 64 :=
  if o = 0 then 0x00FF101808_0C2850#64
  else if o = 8 then 0x60
  else if o = 0x10 then 0x0040_0022
  else if 0x800 ≤ o ∧ o < 0x1000 then (Config.fusedMask d ((o - 0x800) / 8)).setWidth 64
  else if 0x1000 ≤ o ∧ o < 0x1000 + 8 * 111 then
    let a := (o - 0x1000) / 8
    BitVec.ofNat 64 (agentRegion a + if a < 96 then 64 else 0)
  else if o = 0x10000 then if Config.stacked d then 0x360A_0180 else 0x360A_0040
  else if o = 0x20000 then 0x0040_1004
  else if 0x20100 ≤ o ∧ o < 0x20100 + 8 * 129 then 0xFFFFFF
  else if o = 0x30080 ∨ o = 0x30088 then BitVec.ofNat 64 (0x100 * 2 ^ 18)
  else if o = 0x40000 then 0x1006
  else if o = 0x40008 then 0x4010
  else if 0x40040 ≤ o ∧ o < 0x40080 then 0x80020
  else if 0x40080 ≤ o ∧ o < 0x400C0 then 0x81
  else if 0x40100 ≤ o ∧ o < 0x40120 then 0x282828
  else if 0x40200 ≤ o ∧ o < 0x40230 then Config.vtab d ((o - 0x40200) / 16) ((o - 0x40200) % 16 / 8)
  else if o = 0x40600 ∧ d = 0 then 2080
  else if o = 0x50008 then 0x07D0_0730
  else if 0x50300 ≤ o ∧ o < 0x50500 then (Config.thmCal d ((o - 0x50300) / 8)).setWidth 64
  else 0

/-- Reset value of a register (the Reset columns of chapters 13 to 18; log entry 10 for those without one, so for the mask bit of
an MSI-X vector). -/
def regReset (key : Nat) : BitVec 64 :=
  let f := key / 2 ^ 26
  let o := key % 2 ^ 26
  if o < 0x100000 then
    if 0x400 ≤ o ∧ o < 0xC00 ∧ o % 32 = 8 then 0x400
    else if o = 0x1008 then 0x2000_0000_0000_0000
    else if 0x3000 ≤ o ∧ o < 0x3100 ∧ o % 16 = 8 then 0x1_0000_0000
    else 0
  else if f ≠ 0 then 0
  else if o = rPreempt then 100
  else if o = rDieRst then BitVec.ofNat 64 (1000 * 2 ^ 16)
  else if fw 0x100 ≤ o ∧ o < fw 0x160 ∧ o % 16 = 8 then BitVec.ofNat 64 (1000 * 2 ^ 8 + 2 * 2 ^ 24)
  else if o = rBootStat then (Config.fusedSvn 0).setWidth 64 <<< 32
  else if 0x1000000 ≤ o ∧ o < 0x2000000 then dieRegReset ((o - 0x1000000) / 0x400000) ((o - 0x1000000) % 0x400000)
  else 0

/-! ### Accessors -/

/-- The value of a register. -/
def State.reg (s : State) (key : Nat) : BitVec 64 := Sparse.getD s.regs (regReset key) key
/-- A register set to a value. -/
def State.setReg (s : State) (key : Nat) (x : BitVec 64) : State := { s with regs := Sparse.put s.regs key x }
/-- Field `[hi:lo]` of a register. -/
def State.regF (s : State) (key hi lo : Nat) : Nat := getFld (s.reg key) hi lo
/-- A register with field `[hi:lo]` replaced. -/
def State.setRegF (s : State) (key hi lo x : Nat) : State := s.setReg key (setFld (s.reg key) hi lo x)

/-- The package is in recovery: the PF can only use its host window and FW_PKGRST (18 R396). -/
def State.recovering (s : State) : Bool := s.regF rBootStat 3 0 == 0xF
/-- Q of a die (13 R292). -/
def State.window (s : State) (d : Fin 4) : Nat := s.regF (rQsmWindow d) 9 0
/-- Partition of a function (16 R374). -/
def State.partOf (s : State) (f : Nat) : Nat := s.regF (rFuncPart f) 4 0
/-- Signals of a function (15 R345). -/
def State.sigCount (s : State) (f : Nat) : Nat := s.regF (rFuncB f) 28 16
def State.sigBase (s : State) (f : Nat) : Nat := s.regF (rFuncB f) 14 0
def State.nodeCount (s : State) (f : Nat) : Nat := s.regF (rFuncA f) 16 0
def State.nodeBase (s : State) (f : Nat) : Nat := s.regF (rFuncA f) 47 32
/-- The mask of a cell (13 R291): fused bits never clear (R299). -/
def State.cellMask (s : State) (d : Fin 4) (c : Fin 256) : BitVec 64 :=
  s.reg (rQsmCell d c) ||| (Config.fusedMask d c).setWidth 64

def State.die (s : State) (d : Fin 4) : Die := vget s.dies d
def State.setDie (s : State) (d : Fin 4) (x : Die) : State := { s with dies := vset s.dies d x }
def State.updDie (s : State) (d : Fin 4) (f : Die → Die) : State := s.setDie d (f (s.die d))

end Sys2Proof.Machine
end

