-- ==== Sys2Proof/Machine/Units.lean ====
section
/-! DEFINITION. Fields of launch packets (15 R335) and the accessors of wales, fragments, hoops, skeins and baskets. -/

namespace Sys2Proof.Machine

/-- The element with the least measure; the first on a tie. -/
def argmin {α : Type} (f : α → Nat) : List α → Option α
  | [] => none
  | x :: xs => some (xs.foldl (fun m y => if f y < f m then y else m) x)

/-! ### Packet fields (15 R335) -/

def pkF (p : BitVec 512) (lo n : Nat) : Nat := (p.extractLsb' lo n).toNat
def pkHeld (p : BitVec 512) : Bool := p.getLsbD 8
def pkSpread (p : BitVec 512) : Bool := p.getLsbD 9
def pkPrio (p : BitVec 512) : Nat := pkF p 10 2
def pkClass (p : BitVec 512) : Nat := pkF p 12 2
def pkRecov (p : BitVec 512) : Bool := p.getLsbD 14
def pkGnode (p : BitVec 512) : Bool := p.getLsbD 15
def pkHoops (p : BitVec 512) : Nat := pkF p 16 16
def pkWales (p : BitVec 512) : Nat := pkF p 32 5 + 1
def pkRim (p : BitVec 512) : Nat := pkF p 37 4 + 1
def pkVregs (p : BitVec 512) : Nat := 32 * (pkF p 41 3 + 1)
def pkDies (p : BitVec 512) : BitVec 4 := p.extractLsb' 44 4
def pkYdl (p : BitVec 512) : Nat := pkF p 48 12
def pkSp (p : BitVec 512) : Nat := 1024 * pkF p 64 9
def pkTiles (p : BitVec 512) : Nat := pkF p 73 9
def pkProducer (p : BitVec 512) : Nat := pkF p 82 5
def pkPv (p : BitVec 512) : Nat := 256 * pkF p 87 9
def pkRsDie (p : BitVec 512) : Fin 4 := (p.extractLsb' 96 2).toFin
def pkRsBase (p : BitVec 512) : Nat := pkF p 98 8
def pkRsCount (p : BitVec 512) : Nat := pkF p 106 9
def pkCbase (p : BitVec 512) : Dword := p.extractLsb' 128 64
def pkEntry (p : BitVec 512) : Dword := pkCbase p + (p.extractLsb' 192 32).setWidth 64
/-- The handler PC, zero for none (11 R264). -/
def pkHandler (p : BitVec 512) : Dword :=
  if p.extractLsb' 224 32 == 0 then 0 else pkCbase p + (p.extractLsb' 224 32).setWidth 64
def pkParam (p : BitVec 512) : Dword := p.extractLsb' 256 64
def pkCdone (p : BitVec 512) : Dword := p.extractLsb' 320 64
def pkFaultRep (p : BitVec 512) : Dword := p.extractLsb' 384 64
def pkNode (p : BitVec 512) : Nat := pkF p 448 16
def pkCsig (p : BitVec 512) : Nat := pkF p 480 12
def pkCsigDie (p : BitVec 512) : Fin 4 := (p.extractLsb' 492 2).toFin
def pkCsigEn (p : BitVec 512) : Bool := p.getLsbD 494

/-! ### PCs (04 R84, R85) -/

/-- The PC names a slot. -/
def slotPc (pc : Dword) : Bool :=
  (pc >>> 53 == 0) && (pc.toNat % 64 % 12 == 0) && (pc.toNat % 64 ≤ 48)
/-- The slot that follows in sequence. -/
def nextSlot (pc : Dword) : Dword := if pc.toNat % 64 = 48 then pc + 16 else pc + 12
/-- The linear slot number. -/
def linSlot (pc : Dword) : Int := Int.ofNat (pc.toNat / 64 * 5 + pc.toNat % 64 / 12)
/-- The PC of a linear slot number. -/
def pcOfLin (n : Int) : Dword := BitVec.ofInt 64 (n / 5 * 64 + n % 5 * 12)
/-- The target of a slot distance. -/
def target (pc : Dword) (dist : Word) : Dword := pcOfLin (linSlot pc + dist.toInt)

/-! ### Fragments (07 R159) -/

def Arm.none : Arm := { st := .free, pc := 0, em := 0, mem := 0, split := false, arr := false, retry := Option.none }
def Arm.start (pc : Dword) (m : Mask) : Arm :=
  { st := .running, pc := pc, em := m, mem := m, split := false, arr := true, retry := Option.none }
/-- Live: running or waiting. -/
def Arm.live (a : Arm) : Bool := a.st == .running || a.st == .waiting

/-- The fragment of a name. -/
def WaleCore.frag (c : WaleCore) (a : ArmId) : Arm :=
  match a, c.stack with
  | .sole, _ => c.base
  | .a0, t :: _ => t.a0
  | .a1, t :: _ => t.a1
  | _, [] => Arm.none
def WaleCore.setFrag (c : WaleCore) (a : ArmId) (f : Arm) : WaleCore :=
  match a, c.stack with
  | .sole, _ => { c with base := f }
  | .a0, t :: ts => { c with stack := { t with a0 := f } :: ts }
  | .a1, t :: ts => { c with stack := { t with a1 := f } :: ts }
  | _, [] => c
/-- The other fragment that can be live beside this one. -/
def ArmId.sib : ArmId → ArmId
  | .sole => .sole
  | .a0 => .a1
  | .a1 => .a0
/-- Names of the fragments that exist at the top: the sole one, or the arms of the top token. -/
def WaleCore.armIds (c : WaleCore) : List ArmId := if c.stack.isEmpty then [.sole] else [.a0, .a1]
/-- Live fragments. -/
def WaleCore.live (c : WaleCore) : List ArmId := c.armIds.filter fun a => (c.frag a).live
/-- The pending fault of a fragment (11 R263). -/
def WaleCore.pend (c : WaleCore) (a : ArmId) : Option FaultRec := if a = .a1 then c.pend1 else c.pend0
def WaleCore.setPend (c : WaleCore) (a : ArmId) (f : Option FaultRec) : WaleCore :=
  if a = .a1 then { c with pend1 := f } else { c with pend0 := f }
/-- The fragment stands in a lookahead shadow (04 R94). -/
def WaleCore.inShadow (c : WaleCore) (a : ArmId) : Bool := c.shadows.any fun x => x.arm == a && x.depth == c.stack.length && x.left != 0
/-- A fragment at the top is stalled. -/
def WaleCore.stalled (c : WaleCore) : Bool := c.armIds.any fun a => (c.frag a).stall
/-- No fragment is stalled: each is tried again (01 R25). -/
def WaleCore.unstall (c : WaleCore) : WaleCore :=
  { c with
    base := { c.base with stall := false }
    stack := c.stack.map fun (t : Token) => { t with a0 := { t.a0 with stall := false }, a1 := { t.a1 with stall := false } } }
/-- A fragment that may be selected: running, not stalled, not stopped by a fault, not behind a HOMEOFF reply (11 R263), not waiting
for the firmware (R260). -/
def WaleCore.issuable (c : WaleCore) (a : ArmId) : Bool :=
  (c.frag a).st == .running && !(c.frag a).stall && (c.pend a).isNone && !(c.call.any fun k => k.arm == a)
  && (match c.hoff with | some h => !(h.arm == a && h.left == 0) | none => true)

/-- The location is in no hoop or wale. -/
def Loc.outlives : Loc → Bool
  | .glob .. | .dsc .. => true
  | _ => false

/-! ### Units -/

def State.wale? (s : State) (w : Nat) : Option Wale := Sparse.find? s.wales w
def State.setWale (s : State) (w : Nat) (x : Wale) : State := { s with wales := Sparse.put s.wales w x }
def State.updWale (s : State) (w : Nat) (f : Wale → Wale) : State := { s with wales := Sparse.upd s.wales w f }
def State.hoop? (s : State) (h : Nat) : Option Hoop := Sparse.find? s.hoops h
def State.updHoop (s : State) (h : Nat) (f : Hoop → Hoop) : State := { s with hoops := Sparse.upd s.hoops h f }
def State.skein? (s : State) (k : Nat) : Option Skein := Sparse.find? s.skeins k
def State.updSkein (s : State) (k : Nat) (f : Skein → Skein) : State := { s with skeins := Sparse.upd s.skeins k f }
def State.basket? (s : State) (b : Nat) : Option Basket := Sparse.find? s.baskets b
def State.updBasket (s : State) (b : Nat) (f : Basket → Basket) : State := { s with baskets := Sparse.upd s.baskets b f }

/-- The core of a hoop within the package, 0 to 383. -/
def Hoop.core (h : Hoop) : Nat := h.die * 96 + h.cluster * 12 + h.coreNo
/-- Its guard region on its die (13 R290). -/
def Hoop.region (h : Hoop) : Nat := 6 * h.cluster + h.coreNo / 2
/-- Rim index of a hoop (01 R14). -/
def rimOf (p : BitVec 512) (h : Nat) : Nat := h / pkRim p

/-- Where a wale stands: its hoop, skein and basket. -/
structure Site where
  w : Nat
  wl : Wale
  hoop : Hoop
  skein : Skein
  basket : Basket
  deriving DecidableEq, Repr

def State.site? (s : State) (w : Nat) : Option Site :=
  match s.wale? w with
  | none => none
  | some wl =>
    match s.hoop? wl.hoop with
    | none => none
    | some h =>
      match s.skein? h.skein with
      | none => none
      | some k =>
        match s.basket? k.basket with
        | none => none
        | some b => some { w := w, wl := wl, hoop := h, skein := k, basket := b }

/-- The wales of a hoop, with their numbers. -/
def State.walesOf (s : State) (h : Nat) : List (Nat × Wale) := s.wales.filter fun e => e.2.hoop == h
/-- The hoops of a skein. -/
def State.hoopsOf (s : State) (k : Nat) : List (Nat × Hoop) := s.hoops.filter fun e => e.2.skein == k
/-- The skeins of a basket. -/
def State.skeinsOf (s : State) (b : Nat) : List (Nat × Skein) := s.skeins.filter fun e => e.2.basket == b
/-- The commands of a wale. -/
def State.cmdsOf (s : State) (w : Nat) : List (Nat × Cmd) := s.cmds.filter fun e => e.2.wale == w

/-- The wale goes on from a wait: it waits for issue from now on, and its fragments are tried again (01 R25, 15 R346). -/
def Wale.goOn (w : Wale) (turn cc : Nat) : Wale :=
  { w with core := w.core.unstall, st := .ready, since := turn, ready1 := cc }
/-- The fragments of a wale that wait for a change of their own are tried again, and with `drain` those that wait for a
release (01 R25, R30, 02 R54); a region that had closed with them at a wait is open again. -/
def Wale.tryAgain (w : Wale) (drain : Bool) (turn cc : Nat) : Wale :=
  match w.st with
  | .wait _ => { w with cur := { w.cur with q := none } }.goOn turn cc
  | .drain _ => if drain then w.goOn turn cc else w
  | .ready =>
    if w.core.stalled then
      { w with core := w.core.unstall, cur := { w.cur with q := none }, ready1 := if (w.core.frag .a1).stall then cc else w.ready1 }
    else w
  | _ => w
/-- The cycle of the die on which a wale's hoop is resident. -/
def State.ccOf (s : State) (w : Wale) : Nat := match s.hoop? w.hoop with | some h => (s.die h.die).cc | none => 0
/-- A wale goes on from its wait. -/
def State.goOn (s : State) (w : Nat) : State := s.updWale w fun x => x.goOn s.turn (s.ccOf x)

/-- A cycle of the die passes. -/
def State.tick (s : State) (d : Fin 4) : State := s.updDie d fun x => { x with cc := x.cc + 1 }
/-- The die's cycle counter is past `n`. -/
def State.waitPast (s : State) (d : Fin 4) (n : Nat) : State := s.updDie d fun x => { x with cc := max x.cc (n + 1) }

/-- A core loses a resident hoop: the cycle from which its L1 may count towards gating (14 R316). -/
def State.markIdle (s : State) (h : Hoop) : State :=
  s.updDie h.die fun x => { x with coreIdle := Sparse.setD x.coreIdle 0 (12 * h.cluster.val + h.coreNo.val) x.cc }

/-- A fresh free choice. -/
def State.choose (s : State) : Bool × State := (Config.freeBool s.free, { s with free := s.free + 1 })

end Sys2Proof.Machine
end

