-- ==== Sys2Proof/Machine/Memory.lean ====
section
/-! DEFINITION. Memory: the physical map, keys, translation, device pages, the performing of accesses and held memory
effects, and a wale's view of its own held effects (08 R180 to R204, 14 R306 to R326, 12 R284, 16 R357 to R364). -/

namespace Sys2Proof.Machine

/-! ### The physical map (14 R307) -/

def isNear (pa : Nat) : Bool := pa < 0x0080_0000_0000
def isFar (pa : Nat) : Bool := 0x0100_0000_0000 ≤ pa && pa < 0x0200_0000_0000
def isPeer (pa : Nat) : Bool := 0x1000_0000_0000 ≤ pa && pa < 0x2000_0000_0000
def isIo (pa : Nat) : Bool := 0x3000_0000_0000 ≤ pa && pa < 0x3000_4000_0000
/-- The last 64 KiB of a peer window (16 R364). -/
def isDoorbell (pa : Nat) : Bool := isPeer pa && 0xFF_FFFF_0000 ≤ pa % 2 ^ 40

/-- The home die of a physical address (14 R307). -/
def State.homeDie (s : State) (pa : Nat) : Fin 4 :=
  if isNear pa then Fin.ofNat 4 (pa / 2 ^ 37)
  else if isFar pa then Fin.ofNat 4 (pa / 2 ^ 38)
  else if isPeer pa then Fin.ofNat 4 (s.regF (rUlPeer (pa / 2 ^ 40 % 16)) 17 16)
  else Fin.ofNat 4 (pa / 2 ^ 28)

/-- A die past its home-off point and not yet re-admitted (16 R360, R361). -/
def State.homeOff (s : State) (d : Fin 4) : Bool :=
  match s.warm with
  | some r => r.die == d && 2 ≤ r.phase && r.phase ≤ 4
  | none => false

/-- The link of a pair of dies (16 R354). -/
def linkOf (a b : Fin 4) : Nat :=
  let lo := min a.val b.val
  let hi := max a.val b.val
  match lo with
  | 0 => hi - 1
  | 1 => hi + 1
  | _ => 5
/-- Dies of a link. -/
def linkDies (k : Fin 6) : Fin 4 × Fin 4 :=
  match k.val with
  | 0 => (0, 1) | 1 => (0, 2) | 2 => (0, 3) | 3 => (1, 2) | 4 => (1, 3) | _ => (2, 3)
/-- The link carries packets: it is ACTIVE. -/
def State.linkUp (s : State) (a b : Fin 4) : Bool := a == b || s.regF (rDlStat (linkOf a b)) 2 0 == 2

/-- Both directions of the link between two dies are held: it has not trained, or trains again (16 R356). Where one of the dies is in
warm reset, 16 R361 says what an access meets. -/
def State.linkHeld (s : State) (a b : Fin 4) : Bool := !s.linkUp a b && !s.homeOff a && !s.homeOff b
/-- A write of die `d` to die `h` waits. -/
def State.dieWaits (s : State) (d h : Fin 4) : Bool := s.homeOff h || s.linkHeld d h

/-- A page of this device is granted to peers, so that an access here waits until it has been revoked and released: any
access to one granted exclusively, a write to one granted shared (14 R315). -/
def State.pageAway (s : State) (pa : Nat) (wr : Bool) : Bool :=
  match Sparse.find? s.grants (pa / 8192) with
  | some g => !g.stations.isEmpty && (g.excl || wr)
  | none => false

/-! ### Plain bytes (14 R319) -/

/-- What an address that holds no listed byte reads as under a key: a free byte (log entries 4 and 13). -/
def unlistedByte (s : State) (key pa : Nat) : Byte :=
  if isPeer pa then Config.peerByte (Sparse.getD s.peerEpochs 0 (pa / 8192)) pa else Config.rawByte s.epoch key pa

/-- A byte of physical memory under a key. -/
def State.physByte (s : State) (key pa : Nat) : Byte :=
  match Sparse.find? s.lines (pa / 64) with
  | some i =>
    if i.key = key then (Sparse.find? s.mem pa).getD (unlistedByte s key pa)
    else Config.unrelatedByte i.stamp key pa
  | none => (Sparse.find? s.mem pa).getD (unlistedByte s key pa)

/-- `n` bytes from `pa` on. -/
def State.physRead (s : State) (key pa : Nat) : Nat → List Byte
  | 0 => []
  | n + 1 => s.physByte key pa :: State.physRead s key (pa + 1) n

def putBytes : Mem → Nat → List Byte → Mem
  | m, _, [] => m
  | m, a, b :: bs => putBytes (Sparse.put m a b) (a + 1) bs

/-- The line of `pa` read, merged and written whole under `key` where it was last written under another (14 R319). -/
def State.rekey (s : State) (key pa : Nat) : State :=
  match Sparse.find? s.lines (pa / 64) with
  | some i =>
    if i.key = key then s
    else { s with mem := putBytes s.mem (pa / 64 * 64) (s.physRead key (pa / 64 * 64) 64) }
  | none => s

/-- Bytes of one line written under a key. -/
def State.physWrite (s : State) (key pa : Nat) (bs : List Byte) : State :=
  let s := s.rekey key pa
  { s with
    mem := putBytes s.mem pa bs
    lines := Sparse.put s.lines (pa / 64) { key := key, stamp := s.free }
    free := s.free + 1 }

/-- A write of a run of bytes, line by line; `fuel` bounds the lines. -/
def State.physWriteRun : Nat → State → Nat → Nat → List Byte → State
  | 0, s, _, _, _ => s
  | fuel + 1, s, key, pa, bs =>
    match bs with
    | [] => s
    | _ =>
      let n := 64 - pa % 64
      State.physWriteRun fuel (s.physWrite key pa (bs.take n)) key (pa + n) (bs.drop n)

/-! ### Code lines and the watch table (08 R198, 10 R248) -/

/-- A store of agent `g` is performed: it is unpublished for every core, and the cached copies of its line are dropped (08
R198). -/
def State.unpublish (s : State) (g : Agent) (pa : Nat) : State :=
  { s with
    unpub := Sparse.put s.unpub (pa / 64)
      ((g, BitVec.allOnes 384) :: (Sparse.getD s.unpub [] (pa / 64)).filter fun e => e.1 != g)
    icache := s.icache.filter fun e => e.1 % 2 ^ 46 / 64 != pa / 64 }

/-- The write touches a watch range. -/
def ReuseEntry.watches (x : ReuseEntry) (func va n : Nat) : Bool :=
  x.vf == func && x.wlines != 0 && decide (x.wfirst ≤ (va + n - 1) / 64) && decide (va / 64 < x.wfirst + x.wlines)
/-- The entries whose staged update watches the write, with their dies: the update has read weights there (R251). -/
def State.stagedWatch (s : State) (func va n : Nat) : List (Fin 4 × Nat) :=
  s.cmds.filterMap fun e => match e.2.staged.entry with
    | some (d, k, x) => if e.2.stage.held && x.watches func va n then some (d, k) else none
    | none => none
/-- The version of each watch entry of a die that a write touches goes up by one, and so does that of the entries `also`. -/
def bumpWatch (func va n : Nat) (also : List Nat) (d : Die) : Die :=
  let up (x : ReuseEntry) : ReuseEntry := { x with version := x.version + 1 }
  let at_ (k : Nat) : ReuseEntry := Sparse.getD d.reuse ReuseEntry.reset k
  let own := d.reuse.map fun e => if e.2.watches func va n then (e.1, up e.2) else e
  { d with reuse := (also.filter fun k => !(at_ k).watches func va n).foldl (fun m k => Sparse.put m k (up (at_ k))) own }
/-- A write of function `func` at `va` before it is performed (R248). An entry whose staged update watches it is bumped too: the
increment then comes after the version that the update holds (R251). -/
def State.watch (s : State) (func va n : Nat) : State :=
  let st := s.stagedWatch func va n
  { s with dies := Vector.ofFn fun d => bumpWatch func va n (st.filterMap fun e => if e.1 = d then some e.2 else none) (s.die d) }

/-! ### Device pages (16 R357 to R359) -/

/-- The word of the status pages (16 R359). -/
def State.statusWord (s : State) : Nat :=
  s.dieUp.toNat + natLE (List.map (fun i => vget s.dieEpoch i) (List.finRange 4)) * 2 ^ 32

def Mbox.empty : Mbox := { msgs := [], ovf := false }

/-- A load of `n` bytes from the I/O range: the value and the state it leaves (16 R358, R359). Offsets that the spec
gives to nothing read as free bytes (log entry 15). -/
def State.ioLoad (s : State) (pa n : Nat) : List Byte × State :=
  let d : Fin 4 := Fin.ofNat 4 (pa / 2 ^ 28)
  let o := pa % 2 ^ 28
  if 0x0801_0000 ≤ o ∧ o < 0x0802_0000 then
    let slot := (o - 0x0801_0000) / 256
    let box := Sparse.getD (s.die d).mbox Mbox.empty slot
    let put (b : Mbox) : State := s.updDie d fun x => { x with mbox := Sparse.setD x.mbox Mbox.empty slot b }
    if o % 256 = 0x10 ∧ n = 16 then
      match box.msgs with
      | [] => (bytesLE 16 0, s)
      | m :: ms => (bytesLE 16 m.toNat, put { box with msgs := ms })
    else if o % 256 = 0x20 ∧ n = 4 then
      (bytesLE 4 (box.msgs.length + if box.ovf then 256 else 0), put { box with ovf := false })
    else (bytesLE n 0, s)
  else if 0x0800_0000 ≤ o ∧ o < 0x0800_2000 then
    (bytesLE n (s.statusWord / 2 ^ (8 * (o % 0x2000))), s)
  else
    ((List.range n).map fun i => (Config.freeWord (s.free + i)).setWidth 8, { s with free := s.free + n })

/-- A store to the I/O range by function `func` from die `sd` (16 R358). -/
def State.ioStore (s : State) (pa func : Nat) (sd : Fin 4) (bs : List Byte) : State :=
  let d : Fin 4 := Fin.ofNat 4 (pa / 2 ^ 28)
  let o := pa % 2 ^ 28
  if 0x0801_0000 ≤ o ∧ o < 0x0802_0000 ∧ o % 256 = 0 ∧ bs.length = 16 then
    let slot := (o - 0x0801_0000) / 256
    let box := Sparse.getD (s.die d).mbox Mbox.empty slot
    let sender : Word := BitVec.ofNat 32 (func % 256 + sd.val * 256 + 2 ^ 31)
    let msg : BitVec 128 := sender ++ (BitVec.ofNat 128 (natLE bs)).setWidth 96
    let box' := if 16 ≤ box.msgs.length then { box with ovf := true } else { box with msgs := box.msgs ++ [msg] }
    s.updDie d fun x => { x with mbox := Sparse.setD x.mbox Mbox.empty slot box' }
  else s

/-! ### Locations -/

/-- The die on which a location's memory is homed. -/
def State.locDie (s : State) : Loc → Option (Fin 4)
  | .glob pa _ _ _ _ _ => some (s.homeDie pa)
  | .dsc d _ => some (Fin.ofNat 4 d)
  | _ => none

/-- A write of die `d` to the location waits: for a die in warm reset, for the link to its die, or for a page granted to peers. -/
def State.locWaits (s : State) (d : Fin 4) (l : Loc) : Bool :=
  (match s.locDie l with | some h => s.dieWaits d h | none => false)
  || (match l with | .glob pa _ _ _ _ _ => s.pageAway pa true | _ => false)

/-- A byte at a location that is no device page. -/
def State.locByte (s : State) (l : Loc) (i : Nat) : Byte :=
  match l with
  | .glob pa _ key _ _ _ => s.physByte key (pa + i)
  | .sp h o => Sparse.getD s.spad 0 (h * 2 ^ 19 + (o + i))
  | .dsc d o => Sparse.getD (s.die (Fin.ofNat 4 d)).dsc 0 (o + i)
  | .priv w o => (Sparse.find? s.priv (w * 2 ^ 21 + (o + i))).getD (Config.privByte w (o + i))
  | .tile h o => match s.hoop? h with
    | some x => ((Sparse.getD x.tiles 0 ((o + i) / 4)) >>> (8 * ((o + i) % 4))).setWidth 8
    | none => 0

/-- `n` bytes at a location. -/
def State.locRead (s : State) (l : Loc) (n : Nat) : List Byte := (List.range n).map fun i => s.locByte l i

/-- Zero-default byte maps, written in place. -/
def putZ : Sparse Byte → Nat → List Byte → Sparse Byte
  | m, _, [] => m
  | m, a, b :: bs => putZ (Sparse.setD m 0 a b) (a + 1) bs

/-- One byte of a map of words. -/
def putWordByte (m : Sparse Word) (a : Nat) (b : Byte) : Sparse Word :=
  let k := 8 * (a % 4)
  Sparse.setD m 0 (a / 4) ((Sparse.getD m 0 (a / 4) &&& ~~~(0xFF#32 <<< k)) ||| (b.setWidth 32 <<< k))
def putWordBytes : Sparse Word → Nat → List Byte → Sparse Word
  | m, _, [] => m
  | m, a, b :: bs => putWordBytes (putWordByte m a b) (a + 1) bs

/-- A store to a doorbell area: 4 bytes at offset 8n, for n below 256, send SIGADD(n, value) to the peer of the window; anything
else sends nothing (16 R364). -/
def State.ring (s : State) (pa : Nat) (bs : List Byte) : State :=
  let o := pa % 2 ^ 16
  if o % 8 = 0 ∧ o < 2048 ∧ bs.length = 4 then
    { s with peerOut := s.peerOut ++ [.sigadd (pa / 2 ^ 40 % 16) (o / 8) (BitVec.ofNat 32 (natLE bs))] }
  else s
/-- One access of agent `g` on die `sd` written at its location: the watch entries first, then the bytes, then the line is
unpublished; device pages act as 16 R358 says; a doorbell sends a message out (R364). Each access counts as one write for the watch
entries (10 R248; log entry 95). A write that finds its page poisoned has no effect (14 R315; log entry 97). -/
def State.locWrite (s : State) (g : Agent) (sd : Fin 4) (a : Acc) : State :=
  match a.loc with
  | .glob pa va key func _ mt =>
    if s.poisoned.contains (pa / 8192) then s
    else if isIo pa then s.ioStore pa func sd a.bytes
    else if isDoorbell pa && mt == 3 then s.ring pa a.bytes
    else (State.physWriteRun 8 (s.watch func va a.bytes.length) key pa a.bytes).unpublish g pa
  | .sp h o => { s with spad := putZ s.spad (h * 2 ^ 19 + o) a.bytes }
  | .dsc d o => s.updDie (Fin.ofNat 4 d) fun x => { x with dsc := putZ x.dsc o a.bytes }
  | .priv v o => { s with priv := putBytes s.priv (v * 2 ^ 21 + o) a.bytes }
  | .tile h o => s.updHoop h fun x => { x with tiles := putWordBytes x.tiles o a.bytes }

def State.locWrites (s : State) (g : Agent) (sd : Fin 4) (as : List Acc) : State :=
  as.foldl (fun s a => s.locWrite g sd a) s

/-! ### Atomics (08 R193) -/

/-- The new value of a location of `n` bits. -/
def applyAop (aop : Nat) (u : Bool) (n : Nat) (cur x y : Nat) : Nat :=
  let sg (v : Nat) : Int := if decide (2 ^ (n - 1) ≤ v) then (v : Int) - 2 ^ n else v
  let lt (a b : Nat) : Bool := if u then decide (a < b) else decide (sg a < sg b)
  match aop with
  | 0 => (cur + x) % 2 ^ n
  | 1 => if lt x cur then x else cur
  | 2 => if lt cur x then x else cur
  | 3 => cur &&& x
  | 4 => cur ||| x
  | 5 => cur ^^^ x
  | 6 => x
  | _ => if cur = y then x else cur

/-- The place of a location in its address space: two addresses of one physical byte under one key are one location. -/
def Loc.base (l : Loc) : Nat × Nat × Nat :=
  match l with
  | .glob pa _ key _ _ _ => (0, key, pa)
  | .sp h o => (1, h, o)
  | .dsc d o => (2, d, o)
  | .priv w o => (3, w, o)
  | .tile h o => (4, h, o)
/-- The locations that the strands of an instruction name, each once, in the order of their lowest strands (08 R193). -/
def locsOf : List Loc → List Loc
  | [] => []
  | l :: ls => l :: (locsOf ls).filter fun k => k.base != l.base
/-- The strands of a location after each other, in ascending order (08 R193): the old value of each, and what they leave. -/
def combine {α : Type} (f : Nat → α → Nat) : Nat → List α → List Nat × Nat
  | cur, [] => ([], cur)
  | cur, x :: xs => let r := combine f (f cur x) xs; (cur :: r.1, r.2)
/-- The operands of the strands that name a location. -/
def atLoc {α : Type} (l : Loc) (xs : List (Loc × α)) : List α := (xs.filter fun e => e.1.base == l.base).map (·.2)
/-- Each strand's old value: that of its location in memory with the operations of the lower strands there. -/
def oldVals {α : Type} (f : Nat → α → Nat) (rd : Loc → Nat) : List (Loc × α) → List (Loc × α) → List Nat
  | _, [] => []
  | done, e :: r => (combine f (rd e.1) (atLoc e.1 done)).2 :: oldVals f rd (done ++ [e]) r
/-- An operation on the locations that its strands name: one update of each (08 R193, 12 R273). -/
def State.combineAll {α : Type} (s : State) (g : Agent) (sd : Fin 4) (n : Nat) (f : Nat → α → Nat) (xs : List (Loc × α)) : State :=
  (locsOf (xs.map (·.1))).foldl (fun (s : State) l =>
    s.locWrite g sd { loc := l, bytes := bytesLE n (combine f (natLE (s.locRead l n)) (atLoc l xs)).2 }) s

/-- One strand's operation on the value of a location of `n` bytes. -/
def aopStep (aop : Nat) (u : Bool) (n cur : Nat) (e : Dword × Dword) : Nat :=
  applyAop aop u (8 * n) cur (e.1.toNat % 2 ^ (8 * n)) (e.2.toNat % 2 ^ (8 * n))
/-- The strands of an atomic: the old value of each, and the state with one update of each location. -/
def State.rmwAll (s : State) (g : Agent) (sd : Fin 4) (aop : Nat) (u : Bool) (n : Nat) (xs : List (Loc × Dword × Dword)) :
    List Nat × State :=
  (oldVals (aopStep aop u n) (fun l => natLE (s.locRead l n)) [] xs, s.combineAll g sd n (aopStep aop u n) xs)

/-! ### Sync words (08 R200 to R202) -/

/-- EXP, ARR, GEN, TGT, CNT of a sync word. -/
structure SyncW where
  exp : Nat
  arr : Nat
  gen : Nat
  tgt : Nat
  cnt : Nat
  deriving DecidableEq, Repr

def SyncW.ofNat (x : Nat) : SyncW := ⟨nfld x 15 0, nfld x 31 16, nfld x 63 32, nfld x 95 64, nfld x 127 96⟩
def SyncW.toNat (y : SyncW) : Nat := y.exp + y.arr * 2 ^ 16 + y.gen * 2 ^ 32 + y.tgt * 2 ^ 64 + y.cnt * 2 ^ 96

/-- The advance check (08 R202). -/
def SyncW.advance (y : SyncW) : SyncW :=
  if y.exp ≤ y.arr ∧ y.tgt ≤ y.cnt then
    { y with gen := (y.gen + 1) % 2 ^ 32, arr := y.arr - y.exp, cnt := y.cnt - y.tgt, tgt := 0 }
  else y

/-- One update of a sync word (08 R201, R202, 09 R214). -/
def SyncW.update (op : SyncOp) (x y : Nat) (v : SyncW) : SyncW :=
  match op with
  | .init => { v with exp := x % 2 ^ 16, tgt := y, arr := 0, cnt := 0 }
  | .exp => SyncW.advance { v with tgt := (v.tgt + x) % 2 ^ 32 }
  | .arv => SyncW.advance { v with arr := min (v.arr + x) 0xFFFF }
  | .add => SyncW.advance { v with cnt := (v.cnt + x) % 2 ^ 32 }

/-- The wales recorded at a word are woken at its advance (08 R203). -/
def State.wakeWord (s : State) (l : Loc) : State :=
  match l with
  | .sp h o =>
    { s with wales := s.wales.map fun e =>
        if e.2.st == .gen h o then (e.1, { e.2 with st := WSt.woken }) else e }
  | _ => s

def State.syncUpdate (s : State) (g : Agent) (sd : Fin 4) (op : SyncOp) (l : Loc) (x y : Nat) : State :=
  let v := SyncW.ofNat (natLE (s.locRead l 16))
  let v' := v.update op x y
  let s := s.locWrite g sd { loc := l, bytes := bytesLE 16 v'.toNat }
  if v'.gen = v.gen then s else s.wakeWord l

/-! ### Held memory effects and a wale's own view (02 R49, R50) -/

/-- One strand's `xadd` on the value of a cell (03 R81). -/
def xaddStep (bf : Bool) (cur : Nat) (x : Word) : Nat :=
  (cellAdd (BitVec.ofNat 512 cur) (if bf then x.toNat % 2 ^ 16 * 2 ^ 16 else x.toNat)).toNat

/-- A held tensor-slot write (10 R234). A `tsset` on an invalid slot is discarded. -/
def SlotOp.apply (op : SlotOp) (t : TSlot) : TSlot :=
  match op with
  | .def d => { valid := true, desc := d }
  | .set w x =>
    if t.valid then
      { t with desc := (t.desc &&& ~~~((0xFFFFFFFF#512) <<< (32 * w.val))) ||| (x.setWidth 512 <<< (32 * w.val)) }
    else t
  | .inv => { t with valid := false }

def TSlot.invalid : TSlot := { valid := false, desc := 0 }
def Hoop.slotAt (h : Hoop) (n : Nat) : TSlot := Sparse.getD h.slots TSlot.invalid n
def Hoop.setSlot (h : Hoop) (n : Nat) (t : TSlot) : Hoop := { h with slots := Sparse.setD h.slots TSlot.invalid n t }

/-- Perform the memory part of a held effect of wale `w`, hoop `h`, on die `sd`. Commands, seals and arrivals have
none. -/
def State.performMem (s : State) (w h : Nat) (sd : Fin 4) : Held → State
  | .store ws _ => s.locWrites (.wale w) sd ws
  | .rmw aop u n xs _ => (s.rmwAll (.wale w) sd aop.toNat u n xs).2
  | .xadd bf xs _ => s.combineAll (.wale w) sd 64 (xaddStep bf) xs
  | .sync op l x y => s.syncUpdate (.wale w) sd op l x.toNat y.toNat
  | .slot n op => s.updHoop h fun hp => hp.setSlot n.val (op.apply (hp.slotAt n.val))
  | .cmd _ | .seal | .arrive _ | .mfence => s

/-- The held effects of a wale, oldest first. -/
def Wale.heldAll (wl : Wale) : List Held :=
  wl.due ++ (match wl.old with | some r => r.held | none => []) ++ wl.cur.held

/-- The bytes that a held effect writes: location, length, and the bytes where they are settled. -/
def Held.updates : Held → List (Loc × Nat × Bool)
  | .store ws _ => ws.map fun a => (a.loc, a.bytes.length, true)
  | .rmw _ _ n xs _ => xs.map fun e => (e.1, n, false)
  | .xadd _ xs _ => xs.map fun e => (e.1, 64, false)
  | .sync _ l _ _ => [(l, 16, false)]
  | _ => []
/-- `n` bytes at `l` and `m` bytes at `k` share a byte. -/
def Loc.meets (l : Loc) (n : Nat) (k : Loc) (m : Nat) : Bool :=
  l.base.1 == k.base.1 && l.base.2.1 == k.base.2.1 && decide (l.base.2.2 < k.base.2.2 + m) && decide (k.base.2.2 < l.base.2.2 + n)
/-- `n` bytes at `l` lie within `m` bytes at `k`. -/
def Loc.within (l : Loc) (n : Nat) (k : Loc) (m : Nat) : Bool :=
  l.base.1 == k.base.1 && l.base.2.1 == k.base.2.1 && decide (k.base.2.2 ≤ l.base.2.2)
  && decide (l.base.2.2 + n ≤ k.base.2.2 + m)
/-- The latest held update of the wale that shares a byte with `n` bytes at `l` is not one plain store of them all. -/
def Wale.unsettled (wl : Wale) (l : Loc) (n : Nat) : Bool :=
  match ((wl.heldAll.flatMap Held.updates).filter fun u => l.meets n u.1 u.2.1).getLast? with
  | none => false
  | some u => !(u.2.2 && l.within n u.1 u.2.1)

/-- Memory as the wale sees it (02 R50): its own held effects as if they had been performed. -/
def State.ownView (s : State) (w : Nat) (wl : Wale) (sd : Fin 4) : State :=
  wl.heldAll.foldl (fun s e => s.performMem w wl.hoop sd e) s

end Sys2Proof.Machine
end

