-- ==== Sys2Proof/Machine/Cache.lean ====
section
/-! DEFINITION. Cached lines, coherence within a die, across dies and between devices, translation with its TLBs, and accesses
by the front end and the host (14 R306 to R326, 08 R185, R194, 16 R362, R367). -/

namespace Sys2Proof.Machine

/-! ### Cached lines (14 R308, R314, R317, R321) -/

/-- The line of a physical address under a key: two keys name two lines (12 R285). -/
def lineKey (key pa : Nat) : Nat := key * 2 ^ 40 + pa / 64
/-- The physical address of a line. -/
def linePa (l : Nat) : Nat := l % 2 ^ 40 * 64
/-- The home die of a line. -/
def State.lineHome (s : State) (l : Nat) : Fin 4 := s.homeDie (linePa l)
/-- Key of a line's state in the L1 of a core. -/
def l1Key (core l : Nat) : Nat := core * 2 ^ 52 + l
/-- The lines of an L1 map that satisfy `f` of core and line. -/
def l1At (f : Nat → Nat → Bool) (e : Nat × L1St) : Bool := f (e.1 / 2 ^ 52) (e.1 % 2 ^ 52)
/-- Home slice of a line (R308). -/
def sliceOf (line : Nat) : Nat := (line % 32) ^^^ (line / 32 % 32) ^^^ (line / 1024 % 32)

/-- A change of every die, which may depend on its number. -/
def State.mapDies (s : State) (f : Fin 4 → Die → Die) : State := { s with dies := Vector.ofFn fun d => f d (s.die d) }

/-- The ways of a die in which a function's requests allocate: those of its mask whose group is not gated (R316, R321). -/
def State.ways (s : State) (d : Fin 4) (func : Nat) : List Nat :=
  (List.range 24).filter fun w => (s.reg (rWayMask d func)).getLsbD w && !(s.reg (rWayGate d)).getLsbD (w / 4)
/-- A line allocates in its slice of die `d`, in a way that the spec leaves open among those permitted; a hit is taken where the
line is (log entry 91). -/
def State.allocate (s : State) (d : Fin 4) (l part func : Nat) : State :=
  if (Sparse.find? (s.die d).l2 l).isSome then s
  else match s.ways d func with
    | [] => s
    | w :: ws => s.updDie d fun x => { x with
        l2 := Sparse.put x.l2 l { part := part, way := ((w :: ws)[(Config.freeWord s.turn).toNat % (ws.length + 1)]?).getD w } }
/-- The partition recorded for a line: by its home slice, or by its directory entry (R317). -/
def State.recorded (s : State) (l : Nat) : Option Nat :=
  let x := s.die (s.lineHome l)
  match Sparse.find? x.l2 l with
  | some e => some e.part
  | none => (Sparse.find? x.dir l).map (·.part)

/-- Every cached copy of a line is recalled, dirty data written back, and its directory entry dropped; `but` is a core that keeps
its own. -/
def State.recall (s : State) (l : Nat) (but : Option Nat := none) : State :=
  let h := s.lineHome l
  s.mapDies fun d x => { x with
    l1 := x.l1.filter fun e => !l1At (fun c k => k == l && but != some c) e
    l2 := if d = h then x.l2 else Sparse.del x.l2 l
    dir := if d = h then Sparse.del x.dir l else x.dir }
/-- Every copy of a line becomes shared, dirty data written back. -/
def State.share (s : State) (l : Nat) : State :=
  let h := s.lineHome l
  s.mapDies fun d x => { x with
    l1 := x.l1.map fun e => if l1At (fun _ k => k == l) e then (e.1, .s) else e
    dir := if d = h then Sparse.upd x.dir l fun e => { e with owner := none } else x.dir }
/-- Room in the directory cache of a die for the entry of line `l`: before an entry of a full set is reused, its line is recalled
(R314). Which set a line falls into, and which entry is reused, are the model's choice (log entry 92). -/
def State.dirRoom (s : State) (h : Fin 4) (l : Nat) : State :=
  let set := (s.die h).dir.filter fun e => e.1 % 2 ^ 16 == l % 2 ^ 16 && e.1 != l
  if set.length < 16 then s
  else match set with
    | e :: _ => s.recall e.1
    | [] => s
/-- The entry of a line in its home directory is set; it has none where no other die caches the line. -/
def State.setDir (s : State) (l : Nat) (x : Option DirE) : State :=
  let h := s.lineHome l
  match x with
  | some e => (s.dirRoom h l).updDie h fun y => { y with dir := Sparse.put y.dir l e }
  | none => s.updDie h fun y => { y with dir := Sparse.del y.dir l }

/-! ### Hot lines (R313, 08 R194) -/

/-- The counts of a line after its ownership has gone to `core`. -/
def hotAfter (hs : List HotL) (core line cc th win : Nat) : List HotL :=
  let next (h : HotL) : HotL :=
    if h.owner = core then h
    else
      let ms := (cc :: h.moves).filter fun t => decide (cc < t + 64 * win)
      { h with owner := core, moves := ms, hot := h.hot || decide (th < ms.length) }
  match hs.find? fun h => h.line == line with
  | some h => hs.filter (fun k => k.line != line) ++ [next h]
  | none => hs ++ [{ line := line, owner := core, moves := [], last := cc, hot := false }]
/-- A slice keeps 64 hot lines: the least recently used cools. -/
def trimHot (hs : List HotL) (line : Nat) : List HotL :=
  let mine (h : HotL) : Bool := h.hot && sliceOf h.line == sliceOf line
  if (hs.filter mine).length ≤ 64 then hs
  else match hs.find? mine with
    | some h => hs.erase h
    | none => hs
/-- The home counts a move of ownership. -/
def State.countMove (s : State) (core line : Nat) : State :=
  let h := s.lineHome line
  let th := s.regF (rHotTh h) 7 0
  let win := s.regF (rHotTh h) 15 8
  s.updDie h fun x => { x with hot := trimHot (hotAfter x.hot core line x.cc th win) line }
/-- The line is hot: atomics to it are performed at its home slice. -/
def State.isHot (s : State) (line : Nat) : Bool := (s.die (s.lineHome line)).hot.any fun h => h.line == line && h.hot
/-- An atomic has gone to the line. -/
def State.heat (s : State) (line : Nat) : State :=
  s.updDie (s.lineHome line) fun x => { x with
    hot := (x.hot.filter fun h => h.line != line)
      ++ (x.hot.filter fun h => h.line == line).map fun h => { h with last := x.cc } }

/-! ### Requests that take effect (R312, R314) -/

/-- A request for ownership takes effect: every other copy leaves, the core holds the line modified, or clean where what it wrote has
been written back meanwhile (R312, R314). -/
def State.takeOwn (s : State) (d : Fin 4) (n : Note) : State :=
  let h := s.lineHome n.line
  let s := s.recall n.line (some n.core)
  let s := s.setDir n.line
    (if d = h then none else some { owner := some d, sharers := BitVec.twoPow 4 d.val, part := n.part })
  let s := s.updDie d fun x => { x with l1 := Sparse.put x.l1 (l1Key n.core n.line) (if n.back then .e else .m) }
  s.allocate d n.line n.part n.func
/-- A read request takes effect: an owner is recalled to shared, and the core holds the line exclusive where nothing else of the
module does, which the home counts as ownership (R312, R313, R314). -/
def State.takeRead (s : State) (d : Fin 4) (n : Note) : State :=
  let h := s.lineHome n.line
  let bit := BitVec.twoPow 4 d.val
  let other := (List.finRange 4).any fun e => (s.die e).l1.any (l1At fun c k => k == n.line && c != n.core)
  let was := match Sparse.find? (s.die h).dir n.line with | some e => e.sharers | none => 0
  let alone := !other && was &&& ~~~bit == 0
  let s := if alone then s.countMove n.core n.line else s.share n.line
  let s :=
    if d = h then s
    else s.setDir n.line (some { owner := if alone then some d else none, sharers := was ||| bit, part := n.part })
  let s := s.updDie d fun x => { x with l1 := Sparse.put x.l1 (l1Key n.core n.line) (if alone then .e else .s) }
  s.allocate d n.line n.part n.func

/-! ### Notifications (R311) -/

/-- A notification takes its place in die order: by cycle of injection, then by cluster. -/
def insertNote (n : Note) : List Note → List Note
  | [] => [n]
  | m :: ms => if n.at_ < m.at_ ∨ (n.at_ = m.at_ ∧ n.core / 12 < m.core / 12) then n :: m :: ms else m :: insertNote n ms
/-- How far the round of a cluster's 12 cores and 4 slices is from agent `i`, when `last` had the chance last. -/
def roundDist (last i : Nat) : Nat := (i + 15 - last) % 16
/-- The cycle in which a cluster injects next: the first free one from the oldest request on; none without a request. -/
def Die.nextGrant (x : Die) (c : Nat) : Option Nat :=
  (argmin (fun (n : Note) => n.at_) (x.asks.filter fun n => n.core / 12 % 8 == c)).map fun m => max (Sparse.getD x.granted (15, 0) c).2 m.at_
/-- The injections of a cluster in the cycles that have passed: in each the requests made by then take turns in its round. -/
def Die.grantCluster (c : Nat) : Nat → Die → Die
  | 0, x => x
  | fuel + 1, x =>
    match x.nextGrant c with
    | none => x
    | some t =>
      if x.cc ≤ t then x
      else match argmin (fun (n : Note) => roundDist (Sparse.getD x.granted (15, 0) c).1 (n.core % 12))
          (x.asks.filter fun n => n.core / 12 % 8 == c && decide (n.at_ ≤ t)) with
        | none => x
        | some n => Die.grantCluster c fuel { x with
            asks := x.asks.erase n
            notes := insertNote { n with at_ := t } x.notes
            granted := Sparse.put x.granted c (n.core % 12, t + 1) }
/-- Every injection of the cycles that have passed. No slice of the L2 injects: the spec names no notification of one. -/
def Die.grantAll (x : Die) : Die := (List.range 8).foldl (fun x c => x.grantCluster c x.asks.length) x
/-- The notifications of a core that are under way, injected or not. -/
def Die.pending (x : Die) : List Note := x.notes ++ x.asks
/-- A notification is asked for. -/
def State.notify (s : State) (d : Fin 4) (core line : Nat) (kind : NoteKind) (part func : Nat) : State :=
  s.updDie d fun x => { x with
    asks := x.asks ++ [{ core := core, line := line, kind := kind, at_ := x.cc, part := part, func := func }] }
/-- A change of the notifications under way. -/
def Die.mapNotes (x : Die) (f : Note → Note) : Die := { x with notes := x.notes.map f, asks := x.asks.map f }
/-- An access of a core at level 1: a miss in its L1, or an upgrade for ownership, asks for one notification. -/
def State.inject (s : State) (d : Fin 4) (core line : Nat) (own : Bool) (part func : Nat) : State :=
  let x := s.die d
  let kind := if own then NoteKind.own else .read
  match Sparse.find? x.l1 (l1Key core line), own with
  | some .m, _ | some _, false => s
  | some .e, true => s.setDie d { x with l1 := Sparse.put x.l1 (l1Key core line) .m }
  | _, _ =>
    let mine (n : Note) : Bool := n.core == core && n.line == line && n.kind == kind
    if x.pending.any mine then s.setDie d (x.mapNotes fun n => if mine n then { n with back := false } else n)
    else s.notify d core line kind part func

/-- A line whose data a core holds modified is written back, and stays in its L1 clean (R311). -/
def State.clean (s : State) (d : Fin 4) (core line part func : Nat) : State :=
  (s.updDie d fun x => { x with l1 := Sparse.put x.l1 (l1Key core line) .e }).notify d core line .back part func
/-- A write-back point of a wale (08 R185, 12 R283): every line that its core's L1 holds modified, or will hold so when a request that
is under way takes effect, is written back. An L1 does not know which of its wales wrote a line (log entry 93). -/
def State.writeBack (s : State) (d : Fin 4) (core part func : Nat) : State :=
  let dirty := (s.die d).l1.filter fun e => e.2 == .m && l1At (fun c _ => c == core) e
  (dirty.foldl (fun s e => s.clean d core (e.1 % 2 ^ 52) part func) s).updDie d fun x =>
    x.mapNotes fun n => if n.core = core ∧ n.kind = .own then { n with back := true } else n

/-- A write-back point of a release to a level: level 1 needs none. -/
def State.writeBackTo (s : State) (lv : Nat) (d : Fin 4) (core part func : Nat) : State :=
  if lv < 2 then s else s.writeBack d core part func
/-- Another core's request to own the line of a location is under way: a write to it waits, so that data move in die order (R312). -/
def State.contested (s : State) (core : Option Nat) (l : Loc) : Bool :=
  match l with
  | .glob pa _ key _ _ 0 => !isIo pa && (List.finRange 4).any fun d => (s.die d).pending.any fun n =>
      n.kind == .own && n.line == lineKey key pa && core != some n.core
  | _ => false

/-! ### Performing levels (08 R185, R189, R194, 14 R308) -/

/-- The performing level of an access: of its CP, or of its scope where it is ordered and that is wider. -/
def levelOf (cp ord scope : Nat) : Nat := max (cp + 1) (if ord = 0 then 1 else if scope < 2 then 1 else if scope < 4 then 2 else 3)
/-- The level of an access with its release. -/
def Level.of (cp ord scope : Nat) : Level :=
  { at_ := levelOf cp ord scope, back := if 2 ≤ ord then levelOf 0 ord scope else 0 }
/-- What an access is to the caches. -/
inductive Use where
  | read | write | atomic
  deriving DecidableEq, Repr
/-- What an access at a level does to the caches (log entry 93): at level 1 the core's L1 takes the line; at level 2 it is performed
in the home slice and at level 3 at the home's memory, where a write recalls every copy. A hot line's atomics stay at the home
slice. -/
def State.touchLine (s : State) (d : Fin 4) (core lv : Nat) (u : Use) (k part func : Nat) : State :=
  match u, lv with
  | .read, 1 => s.inject d core k false part func
  | .read, 2 => s.allocate (s.lineHome k) k part func
  | .read, _ => s.share k
  | .write, 1 => s.inject d core k true part func
  | .write, 2 => (s.recall k).allocate (s.lineHome k) k part func
  | .write, _ => s.recall k
  | .atomic, 1 =>
    if s.isHot k then ((s.recall k).allocate (s.lineHome k) k part func).heat k else (s.inject d core k true part func).heat k
  | .atomic, 2 => ((s.recall k).allocate (s.lineHome k) k part func).heat k
  | .atomic, _ => (s.recall k).heat k
/-- What an access does to the caches: only lines of normal pages are cached (R318). -/
def State.touch (s : State) (d : Fin 4) (core lv : Nat) (u : Use) (l : Loc) : State :=
  match l with
  | .glob pa _ key func part 0 => if isIo pa then s else s.touchLine d core lv u (lineKey key pa) part func
  | _ => s
def State.touchAll (s : State) (d : Fin 4) (core lv : Nat) (u : Use) (ls : List Loc) : State :=
  ls.foldl (fun s l => s.touch d core lv u l) s

/-! ### Grants (R315) -/

/-- The device holds a grant of a peer's page, made on demand. -/
def State.takeGrant (s : State) (pa : Nat) (wr : Bool) : State :=
  if isPeer pa then
    { s with peerGrants := Sparse.put s.peerGrants (pa / 8192) (Sparse.getD s.peerGrants false (pa / 8192) || wr) }
  else s
/-- The home calls a page back from the stations that hold it. -/
def State.callBack (s : State) (page : Nat) : State :=
  match Sparse.find? s.grants page with
  | some g =>
    if g.revoking then s
    else { s with
      grants := Sparse.put s.grants page { g with revoking := true }
      peerOut := s.peerOut ++ g.stations.map fun t => .revoke t page }
  | none => s

/-! ### Translation (14 R322 to R326) -/

/-- Why a translation fails. `part`: a partition check on the line's home die (R317). `wait`: a table lies on a die in warm
reset (16 R361), or the link to the die of a table or of the line is held (16 R356). `away`: the page is granted to peers and is to be called back (R315). -/
inductive XErr where
  | xlate | perm | demand | wait
  | part (d : Fin 4)
  | away (page : Nat)
  deriving DecidableEq, Repr

/-- The access waits. -/
def XErr.waits : XErr → Bool
  | .wait | .away _ => true
  | _ => false
/-- What an access needs of its page (14 R323). -/
inductive Need where
  | r | w | rw | x
  deriving DecidableEq, Repr

/-- A translation: physical address, key, memory type, the addresses of the entries walked, leaf first (none: it came from a
TLB), and the size of the page as a power of two. -/
structure Xl where
  pa : Nat
  key : Nat
  mt : Nat
  ptes : List Nat
  size : Nat := 13
  deriving DecidableEq, Repr

/-- A page-table entry, read at level 3 under key 0. -/
def State.pte (s : State) (a : Nat) : Nat := natLE (s.physRead 0 a 8)

/-- New requests under a key are refused: its retirement is in progress, or it is erased and has not been loaded again (14 R320; log
entry 98). -/
def State.keyGone (s : State) (key : Nat) : Bool :=
  s.retired.contains key
  && ((List.finRange 4).any (fun d => (s.die d).keyRet == some key) || !Config.keyLoaded s.turn key)
/-- The physical address names memory that exists and whose route is open (14 R307, R315, R320, 16 R362). -/
def State.paOk (s : State) (pa key : Nat) : Bool :=
  (isNear pa || isFar pa || isIo pa
    || (isPeer pa && s.regF (rUlPeer (pa / 2 ^ 40 % 16)) 31 31 == 1 && s.regF (rUlPeer (pa / 2 ^ 40 % 16)) 22 20 != 0))
  && !(s.poisoned.contains (pa / 8192)) && !s.keyGone key

/-- Permission of a leaf (14 R323). -/
def leafPerm (p : Nat) (n : Need) : Bool :=
  let r := nfld p 2 2 == 1
  let w := nfld p 3 3 == 1
  let x := nfld p 4 4 == 1
  !(w && x) && (match n with | .r => r | .w => w | .rw => r && w | .x => x)

/-- The translation that a leaf entry gives, whatever the partition of the line. -/
def State.leafXl (s : State) (p va size : Nat) (n : Need) (ptes : List Nat) : Except XErr Xl :=
  let pa := nfld p 45 13 * 8192 + va % 2 ^ size
  if !leafPerm p n || !s.paOk pa (nfld p 59 48) then .error .perm
  else if s.pageAway pa (n == .w || n == .rw) then .error (.away (pa / 8192))
  else .ok { pa := pa, key := nfld p 59 48, mt := nfld p 6 5, ptes := ptes, size := size }

/-- The walk from a table at `lvl` (3 to 0). -/
def State.walk (s : State) (va : Nat) (n : Need) : Nat → Nat → List Nat → Except XErr Xl
  | lvl, tab, acc =>
    let a := tab + 8 * (va / 2 ^ (13 + 10 * lvl) % 1024)
    if !s.paOk a 0 then .error .perm
    else if s.homeOff (s.homeDie a) then .error .wait else
    let p := s.pte a
    if nfld p 0 0 = 0 then (if nfld p 7 7 = 1 then .error .demand else .error .xlate)
    else if nfld p 12 10 ≠ 0 ∨ nfld p 47 46 ≠ 0 ∨ nfld p 63 60 ≠ 0 then .error .xlate
    else if nfld p 1 1 = 1 then
      if lvl = 3 ∨ nfld p 45 13 * 8192 % 2 ^ (13 + 10 * lvl) ≠ 0 then .error .xlate
      else s.leafXl p va (13 + 10 * lvl) n (a :: acc)
    else match lvl with
      | 0 => .error .xlate
      | l + 1 =>
        if nfld p 7 2 ≠ 0 ∨ nfld p 59 48 ≠ 0 then .error .xlate
        else State.walk s va n l (nfld p 45 13 * 8192) (a :: acc)

/-- The first leaf of a function's tables, below the table at a level, that `ok` accepts by its entry and the size of its page; what a walk
would refuse is passed over. -/
def State.leafIn (s : State) (ok : Nat → Nat → Bool) : Nat → Nat → Option Nat
  | lvl, tab => (List.range 1024).findSome? fun i =>
    let p := s.pte (tab + 8 * i)
    if nfld p 0 0 = 0 ∨ nfld p 12 10 ≠ 0 ∨ nfld p 47 46 ≠ 0 ∨ nfld p 63 60 ≠ 0 then none
    else if nfld p 1 1 = 1 then
      (if lvl = 3 ∨ nfld p 45 13 * 8192 % 2 ^ (13 + 10 * lvl) ≠ 0 ∨ !ok p (13 + 10 * lvl) then none else some p)
    else match lvl with
      | 0 => none
      | l + 1 => if nfld p 7 2 ≠ 0 ∨ nfld p 59 48 ≠ 0 then none else State.leafIn s ok l (nfld p 45 13 * 8192)
/-- Likewise from the function's root. -/
def State.leafFor (s : State) (func : Nat) (ok : Nat → Nat → Bool) : Option Nat :=
  if s.regF (rPtRoot func) 0 0 = 0 then none else s.leafIn ok 3 (s.regF (rPtRoot func) 45 13 * 8192)
/-- A leaf of the size maps the page. -/
def leafMaps (page pte size : Nat) : Bool := decide (nfld pte 45 13 ≤ page) && decide (page < nfld pte 45 13 + 2 ^ (size - 13))

/-- The check of a line's partition, on its home die (R317); pages other than normal ones skip it (R318). -/
def State.inPart (s : State) (part : Nat) (x : Xl) : Except XErr Xl :=
  if x.mt = 0 && (match s.recorded (lineKey x.key x.pa) with | some p => p != part | none => false)
  then .error (.part (s.homeDie x.pa)) else .ok x
/-- The walk of a function's tables for a virtual address (R322). -/
def State.walkOf (s : State) (func va : Nat) (n : Need) : Except XErr Xl :=
  if 2 ^ 53 ≤ va then .error .xlate
  else if s.regF (rPtRoot func) 0 0 = 0 then .error .xlate
  else s.walk va n 3 (s.regF (rPtRoot func) 45 13 * 8192) []
/-- Translation by the tables of function `func` in partition `part`, without a TLB (R317, R322). -/
def State.translate (s : State) (func part va : Nat) (n : Need) : Except XErr Xl :=
  match s.walkOf func va n with
  | .error e => .error e
  | .ok x => s.inPart part x

/-! ### TLBs (R324) -/

/-- A cached entry of the page of `va`; a write needs one with D set, since the walker sets D. -/
def TlbE.hits (e : TlbE) (core : Option Nat) (func va : Nat) (n : Need) : Bool :=
  e.core == core && e.func == func && e.page == va / 2 ^ e.size && (!(n == .w || n == .rw) || nfld e.pte 9 9 == 1)
/-- What the TLBs hold for an access: the core's own entry before the die's shared one. -/
def State.cached (s : State) (d : Fin 4) (core : Option Nat) (func va : Nat) (n : Need) : Option (Except XErr Xl) :=
  let t := (s.die d).tlb
  let own := match core with | some c => t.find? fun (e : TlbE) => e.hits (some c) func va n | none => none
  (own.or (t.find? fun (e : TlbE) => e.hits none func va n)).map fun (e : TlbE) => s.leafXl e.pte va e.size n []
/-- Two outcomes of a translation give the same access. -/
def sameXl : Except XErr Xl → Except XErr Xl → Bool
  | .ok x, .ok y => x.pa == y.pa && x.key == y.key && x.mt == y.mt
  | .error e, .error f => e == f
  | _, _ => false
/-- Translation by a core, or by an engine, of die `d`. An entry that a TLB still holds is used though the tables now say otherwise
(R325); whether it has been replaced meanwhile the spec leaves open (log entry 94). -/
def State.xlat (s : State) (d : Fin 4) (core : Option Nat) (func part va : Nat) (n : Need) : Except XErr Xl :=
  if 2 ^ 53 ≤ va then .error .xlate
  else if s.regF (rPtRoot func) 0 0 = 0 then .error .xlate
  else
    let w := s.walkOf func va n
    let r := match s.cached d core func va n with
      | none => w
      | some h => if sameXl h w then w else if Config.tlbKept s.turn (va / 8192) then h else w
    match r with
    | .error e => .error e
    | .ok x => if (x.pa :: x.ptes).any fun a => s.linkHeld d (s.homeDie a) then .error .wait else s.inPart part x

/-- A TLB keeps its newest entries: 128 of a core, 8,192 of the die. -/
def trimTlb (core : Option Nat) (t : List TlbE) : List TlbE :=
  let n := match core with | some _ => 128 | none => 8192
  let old := (t.filter fun e => e.core == core).drop n
  if old.isEmpty then t else t.filter fun e => e.core != core || !old.contains e
/-- The entry that a walk has read is kept by the TLBs of the core and of its die, in place of what they held for the page. -/
def State.keepXl (s : State) (d : Fin 4) (core : Option Nat) (func va : Nat) (x : Xl) : State :=
  match x.ptes with
  | [] => s
  | leaf :: _ =>
    let e : TlbE := { core := none, func := func, page := va / 2 ^ x.size, size := x.size, pte := s.pte leaf }
    let new := match core with | some c => [{ e with core := some c }, e] | none => [e]
    let stale (q : TlbE) : Bool := new.any fun n => q.core == n.core && q.func == func && q.page == va / 2 ^ q.size
    s.updDie d fun y => { y with tlb := trimTlb none (trimTlb core (new ++ y.tlb.filter fun q => !stale q)) }

/-- The walker's updates of A, and of D in the leaf for a write (14 R323). -/
def State.setAD (s : State) (x : Xl) (wr : Bool) : State :=
  match x.ptes with
  | [] => s
  | leaf :: up =>
    let upd (s : State) (a m : Nat) : State :=
      let p := s.pte a
      if p ||| m = p then s else s.physWrite 0 a (bytesLE 8 (p ||| m))
    up.foldl (fun s a => upd s a 0x100) (upd s leaf (if wr then 0x300 else 0x100))

/-- The location of a translated address. -/
def Xl.loc (x : Xl) (va func part : Nat) : Loc := .glob x.pa va x.key func part x.mt

/-- The walker's marks, the TLB entries and the grant that an access leaves. -/
def State.noteXl (s : State) (d : Fin 4) (core : Option Nat) (func va : Nat) (x : Xl) (wr : Bool) : State :=
  ((s.setAD x wr).keepXl d core func va x).takeGrant x.pa wr

/-- A request that a partition check on die `d` rejects is counted there (R317). -/
def State.countRej (s : State) (d : Fin 4) : State := s.setReg (rXpRej d.val) (s.reg (rXpRej d.val) + 1)
/-- What a failed translation leaves: a rejection counted, a page called back. -/
def State.failed (s : State) (e : XErr) : State :=
  match e with
  | .part d => s.countRej d
  | .away p => s.callBack p
  | _ => s

/-- Accesses by the front end or the host at level 3 through a function's page tables (15 R330, R335, 16 R367). They walk the
tables and use no core's TLB (log entry 94). -/
def State.feRead (s : State) (func va n : Nat) : Except XErr (List Byte × State) :=
  match s.translate func (s.partOf func) va .r with
  | .error e => .error e
  | .ok x =>
    if s.dieWaits 0 (s.homeDie x.pa) then .error .wait else
    let s := (s.setAD x false).takeGrant x.pa false
    if isIo x.pa then .ok (s.ioLoad x.pa n)
    else .ok (s.physRead x.key x.pa n, s.touch (s.homeDie x.pa) 0 3 .read (x.loc va func (s.partOf func)))

/-- What the front end does for the function waits behind something it did earlier (log entry 38). -/
def State.feBusy (s : State) (func : Nat) : Bool := s.owed.any fun o => o.origin == (none, func)
/-- It waits. -/
def State.owe (s : State) (func : Nat) (x : FeFx) : State := { s with owed := s.owed ++ [.fe func x] }
/-- What comes of a write by the front end. -/
inductive FeOut where
  | done (s : State)
  | waits (s : State)
  | refused (e : XErr)
/-- A write by the front end or the host, tried now: it waits for a table or a home on a die in warm reset, for a link, and for a page
that peers hold (16 R356, R361, 14 R315). -/
def State.fePut (s : State) (func va : Nat) (bs : List Byte) : FeOut :=
  match s.translate func (s.partOf func) va .w with
  | .error e => if e.waits then .waits (s.failed e) else .refused e
  | .ok x =>
    let l := x.loc va func (s.partOf func)
    if s.locWaits 0 l || s.contested none l then .waits s
    else .done (((((s.setAD x true).takeGrant x.pa true).touch (s.homeDie x.pa) 0 3 .write l).locWrite .other 0 { loc := l, bytes := bs }))
/-- A write by the front end or the host: performed, or kept until it can be; none when translation or permission refuses it. -/
def State.feWrite (s : State) (func va : Nat) (bs : List Byte) : Option State :=
  if s.feBusy func then some (s.owe func (.write va bs))
  else match s.fePut func va bs with
    | .done t => some t
    | .waits t => some (t.owe func (.write va bs))
    | .refused _ => none
/-- A write that, where it is refused, leaves only the count of a rejection. -/
def State.feTry (s : State) (func va : Nat) (bs : List Byte) : State :=
  match s.feWrite func va bs with
  | some t => t
  | none => (match s.translate func (s.partOf func) va .w with
    | .error e => s.failed e
    | .ok _ => s)

/-- A long run written through a function's page tables, 16 bytes at a time; false when a piece is refused. -/
def State.feWriteRun : Nat → State → Nat → Nat → List Byte → State × Bool
  | 0, s, _, _, bs => (s, bs.isEmpty)
  | fuel + 1, s, func, va, bs =>
    match bs with
    | [] => (s, true)
    | _ =>
      match s.feWrite func va (bs.take 16) with
      | none => (s.feTry func va (bs.take 16), false)
      | some s => State.feWriteRun fuel s func (va + 16) (bs.drop 16)

/-- A long run read through a function's page tables. -/
def State.feReadRun : Nat → State → Nat → Nat → Except XErr (List Byte × State)
  | 0, s, _, _ => .ok ([], s)
  | fuel + 1, s, func, va =>
    match s.feRead func va 16 with
    | .error e => .error e
    | .ok (bs, s) =>
      match State.feReadRun fuel s func (va + 16) with
      | .error e => .error e
      | .ok (cs, s) => .ok (bs ++ cs, s)

/-- Publication for every core of every line written so far (12 R284). -/
def State.publishAll (s : State) : State := { s with unpub := [] }

end Sys2Proof.Machine
end

