-- ==== Sys2Proof/Machine/Basket.lean ====
section
/-! DEFINITION. Baskets and skeins: signals, graph nodes, completion, the end of a basket (01 R16, R36, 15 R333 to
R341, 11 R267). -/

namespace Sys2Proof.Machine

/-! ### Signals (15 R334) -/

def State.signal (s : State) (d : Fin 4) (i : Nat) : Word := Sparse.getD (s.die d).signals 0 i
def State.setSignal (s : State) (d : Fin 4) (i : Nat) (x : Word) : State :=
  s.updDie d fun y => { y with signals := Sparse.setD y.signals 0 i x }
/-- The condition of `hwaitd` and of a signal wait: unsigned at least, equal, not equal (09 R228). -/
def hwaitCond (cc : Nat) (v x : Word) : Bool :=
  match cc with
  | 0 => decide (x.toNat ≤ v.toNat)
  | 1 => v == x
  | _ => v != x

/-! ### Queue heads (15 R329, R330) -/

def State.qLog (s : State) (f q : Nat) : Nat := max 4 (s.regF (rQCtl f q) 11 8)
def State.qHead (s : State) (f q : Nat) : Nat := s.regF (rQStat f q) 15 0
def State.setWaiting (s : State) (f q : Nat) (b : Bool) : State := s.setRegF (rQStat f q) 41 41 (if b then 1 else 0)
/-- The queue's head entry is no signal wait that holds it any more. -/
def State.endWait (s : State) (f q : Nat) : State :=
  { s with sigWaits := s.sigWaits.filter fun w => !(w.func == f && w.queue == q) }
/-- HEAD moves past `n` entries. -/
def State.pass (s : State) (f q n : Nat) : State :=
  ((s.setRegF (rQStat f q) 15 0 ((s.qHead f q + n) % 2 ^ s.qLog f q)).setWaiting f q false).endWait f q
/-- An entry is taken in the front end's round, which goes on to the next queue. -/
def State.advance (s : State) (f q n : Nat) : State := { s.pass f q n with rr := 64 * f + q + 1 }

/-- The signal waits that the new value of a signal satisfies are over; a function that a world switch has closed keeps its
waits (15 R333, 16 R372). Over a held link the front end learns of it later, when it looks at the queue (16 R356). -/
def State.testWaits (s : State) (d : Fin 4) (i : Nat) (v : Word) : State :=
  if s.dieWaits 0 d then s
  else (s.sigWaits.filter fun w => w.die == d && w.idx == i && hwaitCond w.cc v w.value && !s.closed.contains w.func).foldl
    (fun (s : State) w => s.pass w.func w.queue 1) s
/-- An update of a signal: a store or an add; the waits for it are tested again. -/
def State.sigOp (s : State) (d : Fin 4) (i : Nat) (add : Bool) (x : Word) : State :=
  let v := if add then s.signal d i + x else x
  (s.setSignal d i v).testWaits d i v

/-- An update of a signal by the front end for a function: it waits for a die in warm reset and for a link (16 R356, R361), and behind what
the front end did earlier for the function. -/
def State.feSig (s : State) (f : Nat) (d : Fin 4) (i : Nat) (add : Bool) (x : Word) : State :=
  if s.feBusy f || s.dieWaits 0 d then s.owe f (.sig d i add x) else s.sigOp d i add x

/-- Wales that wait for something else than a region or a barrier are tried again. -/
def State.wakeWale (s : State) (w : Nat) : State := s.updWale w fun x => x.tryAgain false s.turn (s.ccOf x)
def State.wakeAll (s : State) : State :=
  { s with wales := s.wales.map fun e => (e.1, e.2.tryAgain false s.turn (s.ccOf e.2)) }

/-! ### Events to the host (15 R347, 16 R368) -/

/-- An MSI-X message of a function: sent when its table entry is unmasked, else recorded as pending. -/
def State.msixSend (s : State) (f v : Nat) : State :=
  if s.regF (vfKey f (0x3000 + 16 * v + 8)) 32 32 = 1 then
    s.setReg (vfKey f 0x3800) (s.reg (vfKey f 0x3800) ||| BitVec.twoPow 64 v)
  else { s with msix := s.msix ++ [(f, v)] }

/-- A record of the function's event ring is posted: TAIL passes it and vector 0 signals it. -/
def State.evPost (s : State) (f : Nat) : State :=
  (s.setRegF (rEvPtr f) 15 0 ((s.regF (rEvPtr f) 15 0 + 1) % 2 ^ s.regF (rEvBase f) 63 59)).msixSend f 0
def State.fePost (s : State) (f : Nat) : State := if s.feBusy f then s.owe f .post else s.evPost f
/-- A 32-byte record in a function's event ring; none when the ring is full (15 R347). Records that wait to be posted keep their
places. -/
def State.eventRecord (s : State) (f : Nat) (bs : List Byte) : Option State :=
  let log := s.regF (rEvBase f) 63 59
  let size := 2 ^ log
  let tail := (s.regF (rEvPtr f) 15 0 + (s.owed.filter fun o => o == .fe f .post).length) % size
  let head := s.regF (rEvPtr f) 31 16
  if (tail + 1) % size = head % size then none
  else
    let va := s.regF (rEvBase f) 52 5 * 32 + 32 * tail
    some (((s.feTry f va (bs.take 16)).feTry f (va + 16) (bs.drop 16)).fePost f)

/-- A hypervisor record of a kind (16 R368). -/
def hvRecord (addr kind die tag fn : Nat) : List Byte :=
  bytesLE 8 addr ++ [BitVec.ofNat 8 kind, BitVec.ofNat 8 die] ++ bytesLE 2 tag ++ [BitVec.ofNat 8 fn] ++ bytesLE 19 0
def State.hvEvent (s : State) (addr kind die tag fn : Nat) : State :=
  (s.eventRecord 0 (hvRecord addr kind die tag fn)).getD s

/-! ### Rails (17 R381, R382) -/

/-- Wales resident in a cluster. -/
def State.clusterWales (s : State) (d : Fin 4) (c : Fin 8) : Nat :=
  (s.wales.filter fun e => match s.hoop? e.2.hoop with
    | some h => h.die == d && h.cluster == c && h.st == .resident
    | none => false).length
/-- Target of a rail: the higher vote of its two clusters, VIDLE with none. -/
def State.railTarget (s : State) (d : Fin 4) (k : Nat) : Nat :=
  let v := max (s.regF (rClust d (2 * k)) 15 8) (s.regF (rClust d (2 * k + 1)) 15 8)
  if v = 0 then s.regF (rRail d k) 23 16 else v
/-- A cluster votes for an admission that waits for its rail: its skein still has units to admit. -/
def State.pledges (s : State) (d : Fin 4) (c : Fin 8) : Bool :=
  match Sparse.find? (s.die d).pledged c.val with
  | some k => (match s.skein? k with | some x => !x.waiting.isEmpty || !x.saved.isEmpty | none => false)
  | none => false
/-- A cluster that votes with no resident wale, and for no admission, withdraws: the rail's target is formed again, and where it falls,
the rail holds its voltage. -/
def State.withdraw (s : State) (d : Fin 4) (c : Fin 8) : State :=
  if s.regF (rClust d c) 15 8 = 0 ∨ s.clusterWales d c ≠ 0 ∨ s.pledges d c then s
  else
    let s := (s.setRegF (rClust d c) 15 8 0).updDie d fun x => { x with pledged := Sparse.del x.pledged c.val }
    let k := c.val / 2
    let t := s.railTarget d k
    let falls := decide (t < s.regF (rRail d k) 15 8)
    let s := s.setRegF (rRail d k) 15 8 t
    if falls then s.setRegF (rRail d k) 24 24 1 else s
/-- Every cluster without a resident wale withdraws its vote. -/
def State.withdrawAll (s : State) : State :=
  (List.finRange 4).foldl (fun s d => (List.finRange 8).foldl (fun s c => State.withdraw s d c) s) s

/-! ### Recovery mode (15 R340, R341) -/

/-- The producers of a hoop have all completed: their bits of PRODBM, read at level 3. -/
def State.producersDone (s : State) (f : Nat) (v : Recov) (h : Nat) : Except XErr Bool :=
  let lo := h * v.mul / 2 ^ v.shift
  let hi := min (lo + v.span) v.phoops
  (List.range (hi - lo)).foldl (fun r i => match r with
    | .ok true => (match s.feRead f (v.prodbm + (lo + i) / 8) 1 with
      | .ok (b, _) => .ok (natLE b / 2 ^ ((lo + i) % 8) % 2 == 1)
      | .error e => .error e)
    | r => r) (.ok true)

/-! ### Skeins -/

/-- A skein made when its launch or `spawn` is performed (01 R23): all its rims wait for admission. -/
def State.addSkein (s : State) (b num : Nat) (pkt : BitVec 512) : State :=
  { s with
    skeins := Sparse.put s.skeins s.nextId
      { basket := b, num := num, pkt := pkt, place := s.nextPlace, waiting := List.range (pkHoops pkt / pkRim pkt),
        saved := [], preempt := [], doneHoops := [], done := false, params := none }
    nextId := s.nextId + 1
    nextPlace := s.nextPlace + 1 }

/-- A dispatched basket: its counter is 1 and its root skein waits (01 R15, R16). -/
def State.startBasket (s : State) (b : Nat) : State :=
  match s.basket? b with
  | none => s
  | some x => (s.updBasket b fun x => { x with ctr := 1, nextSkein := 1 }).addSkein b 0 x.pkt

/-! ### Graph nodes (15 R337, R338) -/

/-- A number put into an ascending list. -/
def insNat (n : Nat) : List Nat → List Nat
  | [] => [n]
  | m :: ms => if n ≤ m then n :: m :: ms else m :: insNat n ms
def sortNat (l : List Nat) : List Nat := l.foldr insNat []
/-- One decrement: a node whose counter reaches zero is dispatched; an EMPTY one then completes, and joins the completions `e`. -/
def State.decNode (a : State × List Nat) (n : Nat) : State × List Nat :=
  let (s, e) := a
  match Sparse.find? s.nodes n with
  | none => a
  | some g =>
    let s := { s with nodes := Sparse.put s.nodes n { g with preds := g.preds - 1 } }
    if g.preds ≠ 1 then (s, e)
    else if g.empty then (s, insNat n e)
    else match g.launch with
      | some b => ({ s with nodes := Sparse.put s.nodes n { g with preds := 0, running := true } }.startBasket b, e)
      | none => (s, e)
/-- Completions of one cycle, in ascending node number: each frees its node and decrements its successors, in ascending node
number. A node that SUCC lists twice is decremented once for each listing (log entry 107, DESIGN CHOICE). `fuel` bounds the completions. -/
def State.completeNodes : Nat → State → List Nat → State
  | 0, s, _ => s
  | fuel + 1, s, ns =>
    match ns with
    | [] => s
    | n :: rest =>
      match Sparse.find? s.nodes n with
      | none => State.completeNodes fuel s rest
      | some g =>
        let (s, e) := (sortNat g.succ).foldl State.decNode ({ s with nodes := Sparse.del s.nodes n }, rest)
        State.completeNodes fuel s e

/-- A node completes, with the EMPTY nodes that this dispatches: each completes at most once. -/
def State.nodeComplete (s : State) (n : Nat) : State := State.completeNodes (s.nodes.length + 1) s [n]

/-- The completion of a node by the front end for a function, behind what it did earlier. -/
def State.feNode (s : State) (f n : Nat) : State := if s.feBusy f then s.owe f (.node n) else s.nodeComplete n

/-! ### Completion (15 R336) -/

/-- The completion word. -/
def completionWord (status : Nat) (rej : Bool) : List Byte := bytesLE 8 (status + if rej then 256 else 0)

/-- The completion word of the launch that a ring entry holds, if it is one and names one (16 R369). -/
def cancelWord (bs : List Byte) : Option Nat :=
  let cd := (pkCdone (BitVec.ofNat 512 (natLE bs))).toNat
  if natLE (bs.take 1) ≠ 1 ∨ cd = 0 ∨ cd % 8 ≠ 0 then none else some cd

/-- The three steps of 15 R336 for a launch of function `f`: completion word, CSIG, graph successors. Each waits for the one before (log
entry 38). -/
def State.complete (s : State) (f : Nat) (pkt : BitVec 512) (status : Nat) (rej : Bool) : State :=
  let s := if pkCdone pkt == 0 ∨ (pkCdone pkt).toNat % 8 ≠ 0 then s
    else s.feTry f (pkCdone pkt).toNat (completionWord status rej)
  let s := if pkCsigEn pkt ∧ pkCsig pkt < s.sigCount f then
      s.feSig f (pkCsigDie pkt) (s.sigBase f + pkCsig pkt) true 1
    else s
  if pkGnode pkt then s.feNode f (s.nodeBase f + pkNode pkt) else s

/-- What remains of a released effect when its wale and hoop are gone: its accesses to memory outside them, and a signal (11
R267). -/
def Held.outlives : Held → Option Held
  | .store ws k => let l := ws.filter fun a => a.loc.outlives; if l.isEmpty then none else some (.store l k)
  | .rmw a u w xs k => let l := xs.filter fun e => e.1.outlives; if l.isEmpty then none else some (.rmw a u w l k)
  | .xadd b xs k => let l := xs.filter fun e => e.1.outlives; if l.isEmpty then none else some (.xadd b l k)
  | .cmd o => (match o.ins with | .sig _ => some (.cmd o) | _ => none)
  | _ => none
/-- The released effects of a wale that wait. -/
def State.owedOf (s : State) (w : Nat) (x : Wale) : List Owed :=
  match s.hoop? x.hoop with
  | none => []
  | some h =>
    let f := match s.skein? h.skein with
      | some k => (match s.basket? k.basket with | some b => b.func | none => 0)
      | none => 0
    (x.due.filterMap Held.outlives).map fun e => .held w x.hoop h.die h.core (s.partOf f) f e
/-- The basket's units are gone: wales, hoops, skeins, commands. What they have released stays to be performed.
Context units of its saved hoops stay in use until a function-level reset (15 R348; log entry 109, DESIGN CHOICE). -/
def State.dropBasket (s : State) (b : Nat) : State :=
  let ks := (s.skeinsOf b).map (·.1)
  let gone := s.hoops.filter fun e => ks.contains e.2.skein
  let hs := gone.map (·.1)
  let s := (gone.filter fun e => e.2.st == .resident).foldl (fun s e => s.markIdle e.2) s
  { s with
    owed := s.owed ++ (s.wales.filter fun e => hs.contains e.2.hoop).flatMap fun e => s.owedOf e.1 e.2
    order := s.order.filter fun w => match s.wale? w with | some x => !hs.contains x.hoop | none => false
    wales := s.wales.filter fun e => !hs.contains e.2.hoop
    hoops := s.hoops.filter fun e => !ks.contains e.2.skein
    skeins := s.skeins.filter fun e => e.2.basket != b
    cmds := s.cmds.filter fun e => e.2.basket != b }

/-- A fault report (11 R267): the fault, the wale's place, a double fault. -/
structure Report where
  fcause : Word
  fmask : Word
  fpc : Dword
  faddr : Dword
  skein : Nat
  hoop : Nat
  wale : Nat
  die : Nat
  double : Bool
  deriving DecidableEq, Repr

def Report.bytes (r : Report) : List Byte :=
  bytesLE 4 r.fcause.toNat ++ bytesLE 4 r.fmask.toNat ++ bytesLE 8 r.fpc.toNat ++ bytesLE 8 r.faddr.toNat
  ++ bytesLE 4 r.skein ++ bytesLE 2 r.hoop
  ++ [BitVec.ofNat 8 r.wale, BitVec.ofNat 8 (r.die % 4 + if r.double then 128 else 0)]

/-- A basket is ended (11 R267): its units are removed with their unreleased effects, the report is written before the
completion signal, and its entry is freed after the steps of 15 R336. -/
def State.endBasket (s : State) (b status : Nat) (rej : Bool) (rep : Option Report) : State :=
  match s.basket? b with
  | none => s
  | some x =>
    let s := s.dropBasket b
    let s := match rep with
      | some r =>
        if pkFaultRep x.pkt == 0 then s
        else match s.feWrite x.func (pkFaultRep x.pkt).toNat (r.bytes.take 16) with
          | none => s.feTry x.func (pkFaultRep x.pkt).toNat (r.bytes.take 16)
          | some s' => s'.feTry x.func ((pkFaultRep x.pkt).toNat + 16) (r.bytes.drop 16)
      | none => s
    let s := s.complete x.func x.pkt status rej
    State.withdrawAll { s with baskets := Sparse.del s.baskets b }

/-- The basket's counter after a skein has completed; at zero the basket is complete (01 R16). -/
def State.skeinDone (s : State) (k : Nat) : State :=
  match s.skein? k with
  | none => s
  | some x =>
    let s := (s.updSkein k fun x => { x with done := true }).updBasket x.basket fun b => { b with ctr := b.ctr - 1 }
    let s := s.wakeAll
    match s.basket? x.basket with
    | some b => if b.ctr = 0 then s.endBasket x.basket 0 false none else s
    | none => s

/-- Status of an address that a bitmap read or the parameter block cannot use (R335). -/
def xStatus : XErr → Nat
  | .xlate | .demand | .wait | .away _ => 0x05
  | .perm | .part _ => 0x06
/-- An address of a basket's packet cannot be used: its launch is rejected when no wale of it has run, else it is ended. -/
def State.addressFails (s : State) (b : Nat) (e : XErr) : State :=
  match s.basket? b with
  | some x => s.endBasket b (xStatus e) (!x.ran) none
  | none => s

/-- The hoop's bit of OWNBM, for a root skein in recovery mode. -/
def State.ownBit (s : State) (k : Skein) (b : Basket) (h : Nat) : Except XErr Bool :=
  match b.recov, k.num with
  | some v, 0 =>
    (match s.translate b.func (s.partOf b.func) (v.ownbm + h / 8) .rw with
      | .error e => .error e
      | .ok t => .ok (natLE (s.physRead t.key t.pa 1) / 2 ^ (h % 8) % 2 == 1))
  | _, _ => .ok false

/-- The hoop may go on to admission: it is done already, or its producers have all completed. -/
def State.hoopReady (s : State) (k : Skein) (b : Basket) (v : Recov) (h : Nat) : Except XErr Bool :=
  match s.ownBit k b h with
  | .ok false => s.producersDone b.func v h
  | r => r

/-- The hoops of a recovery-mode skein that wait are judged again (R341). -/
def State.pollBasket (s : State) (b : Nat) : State :=
  match s.basket? b with
  | none => s
  | some x =>
    match x.recov with
    | none => s
    | some v =>
      let rs := ((s.skeinsOf b).filter fun e => e.2.num == 0).flatMap fun e =>
        e.2.waiting.map fun h => (h, s.hoopReady e.2 x v h)
      let bad := rs.findSome? fun r => match r.2 with
        | .error e => if e.waits then none else some e
        | .ok _ => none
      let good := rs.filter fun r => match r.2 with
        | .ok true => true
        | _ => false
      let v' : Recov := { v with ready := good.map (·.1) }
      match bad with
      | some e => (s.failed e).addressFails b e
      | none => s.updBasket b fun y => { y with recov := some v' }
def State.pollAll (s : State) : State := (Sparse.keys s.baskets).foldl State.pollBasket s

/-- The report of a fault record of a wale at a place. -/
def faultReport (st : Site) (f : FaultRec) (arm : ArmId) (double : Bool) : Report :=
  { fcause := f.code.setWidth 32 ||| flagIf (arm == .a1) 0x100 ||| flagIf f.eng 0x200 ||| flagIf f.shd 0x400,
    fmask := f.mask, fpc := f.pc, faddr := f.addr, skein := st.skein.num, hoop := st.hoop.idx, wale := st.wl.idx,
    die := st.hoop.die.val, double := double }

end Sys2Proof.Machine
end

