-- ==== Sys2Proof/Machine/Info.lean ====
section
/-! DEFINITION. What issue needs to know of an instruction: header, registers, and its kind in the sense of 02 R49 and
R53, 04 R93 and R95, 07 R166. -/

namespace Sys2Proof.Machine

/-- `regs`: every register operand (02 R42). `dst`: the register destination. `lld`: the registers a long-latency result
writes (04 R95). `sfp`: a single-fragment point whatever its operands (07 R166). `single`: a single region by its encoding
(02 R53). `ctl`: may not stand in a shadow (04 R95). `held`: has a held effect (02 R49). -/
structure Info where
  h : Hdr
  regs : List Opnd
  dst : Opnd
  lld : List Opnd := []
  sfp : Bool := false
  single : Bool := false
  ctl : Bool := false
  held : Bool := false
  deriving DecidableEq, Repr

/-- `n` registers from an operand on (02 R41). -/
def spanOf (o : Opnd) (n : Nat) : List Opnd :=
  (List.range n).map fun i => match o with
    | .v k => .v (Fin.ofNat 256 (k.val + i))
    | .s k => .s (Fin.ofNat 64 (k.val + i))
    | x => x

def rInfo (o : ROps) : Info := { h := o.h, regs := [o.d, o.a, o.b, o.c], dst := o.d }
def rSrc (o : ROps) : Info := { h := o.h, regs := [o.d, o.a, o.b, o.c], dst := .none }
def rLong (o : ROps) : Info := { rInfo o with lld := [o.d] }
def iInfo (o : IOps) : Info := { h := o.h, regs := [o.d, o.a], dst := o.d }
def iLong (o : IOps) : Info := { iInfo o with lld := [o.d] }
def bInfo (o : BOps) : Info := { h := o.h, regs := [o.a], dst := .none }
/-- `call` writes its link pair. -/
def callInfo (o : BOps) : Info := { h := o.h, regs := [o.a], dst := o.a }
/-- Registers of a data operand of width code `w` (08 R182). -/
def dataRegs (w : Nat) : Nat := if w = 3 then 2 else if w = 4 then 4 else 1
def mLoad (o : MOps) : Info :=
  { h := o.h, regs := [o.d, o.base, o.idx], dst := o.d, lld := spanOf o.d (dataRegs o.w.toNat) }
def mStore (o : MOps) : Info := { h := o.h, regs := [o.d, o.base, o.idx], dst := .none }
def aInfo (o : AOps) : Info := { h := o.h, regs := [o.d, o.base, o.idx, o.y, o.x], dst := o.d }
/-- An atomic with a destination is long-latency and a single region; without one it is held (08 R195). -/
def atomInfo (o : AOps) : Info :=
  if o.d = .none then { aInfo o with held := true }
  else { aInfo o with lld := spanOf o.d (dataRegs o.w.toNat), single := true, ctl := true }
def xInfo (o : XOps) : Info := { h := o.h, regs := [o.d, o.a, o.b, o.c], dst := o.d }
def xSrc (o : XOps) : Info := { h := o.h, regs := [o.d, o.a, o.b, o.c], dst := .none }
/-- A scalar form of `pmov` is a single-fragment point; `pmov` p, s counts as one (DESIGN CHOICE, log entry 81). -/
def pmovInfo (o : ROps) : Info := { rInfo o with sfp := o.d.isS || o.a.isS }
def srdInfo (o : IOps) : Info :=
  { iInfo o with lld := if srLong (fld o.imm 5 0) then spanOf o.d (1 + fld o.imm 6 6) else [] }

/-- The information of an instruction; none for an event or control operation. -/
def infoOf : Instr → Option Info
  | .nop => some { h := ⟨0, false, 0⟩, regs := [], dst := .none }
  | .iadd o | .isub o | .iadds o | .isubs o | .imul o | .imulh o | .imad o | .imadw o | .imin o | .imax o
  | .iabs o | .iadd64 o | .isub64 o | .lea o | .iand o | .ior o | .ixor o | .iandn o | .inot o | .shl o
  | .shr o | .sar o | .rotl o | .bfe o | .bfi o | .popc o | .clz o | .brev o | .icmp o | .sel o | .mov o
  | .idp4 o | .vote o | .rdfl o | .rdln o | .bcast o | .lmatch o | .elect o | .pand o | .por o | .pxor o
  | .pnot o | .fadd o | .fsub o | .fmul o | .fma o | .fmin o | .fmax o | .fcmp o | .fclass o | .frnd o
  | .hadd2 o | .hmul2 o | .hfma2 o | .fdp2 o | .cvt o | .cvtb o | .cvtbx o | .rhead o | .mfence o => some (rInfo o)
  | .iaddI o | .isubI o | .iaddsI o | .isubsI o | .imulI o | .imulhI o | .iminI o | .imaxI o | .iadd64I o
  | .isub64I o | .leaI o | .iandI o | .iorI o | .ixorI o | .iandnI o | .shlI o | .shrI o | .sarI o | .rotlI o
  | .bfeI o | .icmpI o | .movi o | .rdlnI o | .bcastI o | .faddI o | .fsubI o | .fmulI o | .fminI o | .fmaxI o
  | .fcmpI o | .trap o | .brkpt o => some (iInfo o)
  | .idiv o | .irem o | .shfl o | .lred o | .lscan o | .fdiv o | .frcp o | .fsqrt o | .frsq o | .fpow2 o
  | .flog2 o => some (rLong o)
  | .idivI o | .iremI o | .shflI o | .fdivI o => some (iLong o)
  | .pmov o => some (pmovInfo o)
  | .emget o | .tretTo o | .tretRetry o | .tretSkip o => some ({ rInfo o with sfp := true })
  | .emset o | .join o | .jmp o | .callr o | .ret o | .exit o => some ({ rInfo o with ctl := true })
  | .bra o | .brcNz o | .brcZ o | .brd o | .tok o | .brk o => some ({ bInfo o with ctl := true })
  | .call o => some ({ callInfo o with ctl := true })
  | .loop o => some ({ bInfo o with sfp := true, ctl := true })
  | .yield o => some ({ iInfo o with sfp := true, ctl := true })
  | .ld o | .ldsp o | .ldcl o | .lddie o | .ldpv o | .xrd o => some (mLoad o)
  | .st o | .stsp o | .stcl o | .stdie o | .stpv o | .xclr o => some ({ mStore o with held := true })
  | .pref o | .fence o | .cpub o => some (mStore o)
  | .atom o | .atomsp o => some (atomInfo o)
  | .red o | .xadd o | .swinit o | .swexp o | .arv o => some ({ aInfo o with held := true })
  | .wtg o => some ({ aInfo o with sfp := true, single := true, ctl := true })
  | .bar o | .rbar o | .sbar o => some ({ rInfo o with sfp := true, single := true, ctl := true, held := true })
  | .cpy o | .cpyst o => some ({ rSrc o with sfp := true, held := true })
  | .seal o | .spawn o | .sig o => some ({ rInfo o with sfp := true, held := true })
  | .wtbSrc o | .wtbVis o | .wtc o => some ({ iInfo o with sfp := true, single := true, ctl := true })
  | .cpyt o | .cpymm o | .gthr o | .scat o | .coll o => some ({ xSrc o with sfp := true, held := true })
  | .hwaitd o => some ({ rInfo o with sfp := true, single := true, ctl := true })
  | .tsdef o | .tsset o | .tsinv o | .mma o | .mmad o | .mconv o | .mzero o | .mld o | .mst o | .rsdef o
  | .rsinv o | .rssave o | .rsload o => some ({ xSrc o with held := true })
  | .rsstat o => some (xInfo o)
  | .srd o => some ({ srdInfo o with sfp := true })
  | .swr o => some ({ iInfo o with sfp := true })
  | .fwcall o => some ({ iInfo o with single := true, ctl := true })
  | .fwcallReply _ | .resultLand _ | .regionRelease _ | .wakeWave _ _ | .hwaitdWake _ | .wdog _
  | .homeoffReply _ | .pageReplyMapped _ _ | .pageReplyRefused _ _ | .waleRetire _ | .engineCommandComplete _
  | .sourcePoint _ | .engineFault _ | .stagingClear _ | .cpymmFollowOn _ | .matrixBurstStart _
  | .matrixResultClear _ | .unitPreempt _ _ | .unitResume _ _ | .lineFill _ _ | .sensorReport _ _ _
  | .guardEvent _ _ _ | .tagWindowClose _ _ | .clearSend _ _ | .taggedFlitReceive _ _ _
  | .clearReceive _ _ _ _ _ | .squashReceive _ _ _ _ _ | .vfQnotify _ _ _ | .queueEnable _ _ _
  | .queueDisable _ _ _ | .queueResume _ _ _ | .nopEntry _ _ | .launch _ _ | .signalWait _ _ | .signalWrite _ _
  | .graphNodeDeclaration _ _ | .recoveryExtension _ _ | .unknownEntry _ _ | .rimAdmit _ | .heldSkeinAdmit _
  | .prodbmPoll | .priorityPreempt _ | .vfEvbaseWrite _ _ | .vfEvptrWrite _ _ | .functionLevelReset _
  | .purge _ _ | .wsSave _ | .wsMsave _ | .wsRestore _ | .qcancel _ _ | .partitionChange | .funcpartWrite _ _
  | .dieResetGo _ | .quiesceTimeout | .flush | .dieReset | .retrain | .readmit | .attestationRequest _
  | .flitCrcRetry _ | .protocolError _ _ | .linkRetrain _ | .retryThreshold _ | .laneFailure _
  | .trainingTimeout _ | .sigadd _ _ _ | .revoke _ | .grantRelease _ _ _ | .grantTimeout _
  | .notificationDelivery _ | .hotLineCool _ _ | .l1Gate _ _ | .waygateWrite _ _ | .keyRetire _ _
  | .keyRetireDone _ | .tlbInvalidate _ _ | .tlbInvalidateDone _ | .dscWinWrite _ _ _ | .windowZeroingDone _ _
  | .bwshareWrite _ _ _ | .hbmModeChange _ _ _ | .qsmWindowWrite _ _ | .qsmCtlWrite _ _ | .qsmInjectArm _ _
  | .qsmInjectDisarm _ _ | .injectionFire _ | .stormIntervalEnd _ | .sensorSelfTest _ _ _ | .tokenHop _
  | .tokenHoldLimit _ _ | .pwrTokensWrite _ _ | .classWrite _ _ _ | .classChangeApply _ _ | .railStep _ _
  | .railHoldExpiry _ _ | .allotmentThrottle _ _ _ | .pwrAllotWrite _ _ | .thermalSensorUpdate _ _
  | .thermalThrottleStep _ | .thermalTrip _ | .noValidSensorTimeout _ | .packageReset | .fwPkgrstGo _
  | .pluginTimeout _ | .pluginViolation _ | .telemetryRecord | .hostWindowRead _ _ _ | .hostWindowWrite _ _ _
  | .registerWrite _ _ _ _ | .trainingComplete _ _ _ | .burstEnd _ | .wayGatingDone _ | .regionUnfence _ _
  | .peerRequest _ _ _ => none

end Sys2Proof.Machine
end

