-- ==== Sys2Proof/Machine/Ops.lean ====
section
/-! DEFINITION. Issue: the checks before an instruction, its completion, region heads, raising a fault, taking it and
returning from it (01 R25 to R34, 02 R51 to R57, 04 R91 to R96, 07 R163 to R175, 11 R261 to R270). -/

namespace Sys2Proof.Machine

/-- The outcome of a step. -/
abbrev Out := Host.Outcome State Fault Refusal

/-! ### Fault codes (11 R261) -/

def cILL : BitVec 8 := 0x01
def cLINE : BitVec 8 := 0x02
def cBTGT : BitVec 8 := 0x03
def cUNPUB : BitVec 8 := 0x04
def cXLATE : BitVec 8 := 0x05
def cPERM : BitVec 8 := 0x06
def cALIGN : BitVec 8 := 0x07
def cRANGE : BitVec 8 := 0x08
def cHOMEOFF : BitVec 8 := 0x09
def cSYNC : BitVec 8 := 0x0A
def cJOVF : BitVec 8 := 0x0B
def cSLOT : BitVec 8 := 0x0C
def cSHAPE : BitVec 8 := 0x0D
def cRIGHTS : BitVec 8 := 0x0E
def cWDOG : BitVec 8 := 0x0F
def cTRAP : BitVec 8 := 0x10
def cBRKP : BitVec 8 := 0x11
def cIXLATE : BitVec 8 := 0x12
def cIPERM : BitVec 8 := 0x13

/-- A fault an instruction raises at issue: code, `sr.faddr`, `sr.fmask`. -/
structure Flt where
  code : BitVec 8
  addr : Dword
  mask : Mask
  deriving DecidableEq, Repr

/-! ### Registers -/

def zeroLanes : Lanes := Lanes.all 0
/-- A v register (02 R41). -/
def WaleCore.getV (c : WaleCore) (n : Fin 256) : Lanes := Sparse.getD c.v zeroLanes n.val
def WaleCore.getS (c : WaleCore) (n : Fin 64) : Word := vget c.s n
/-- A p register; p0 always reads all ones (02 R42). -/
def WaleCore.getP (c : WaleCore) (n : Fin 8) : Mask := if n = 0 then 0xFFFFFFFF else vget c.p n

/-- One register write; a write to p0 is discarded (02 R42). -/
def WaleCore.write (c : WaleCore) : RegWrite → WaleCore
  | .v n m x => { c with v := Sparse.put c.v n.val (Lanes.mix (c.getV n) m x) }
  | .s n x => { c with s := vset c.s n x }
  | .p n m x => if n = 0 then c else { c with p := vset c.p n ((vget c.p n &&& ~~~m) ||| (x &&& m)) }
def WaleCore.writes (c : WaleCore) (ws : List RegWrite) : WaleCore := ws.foldl WaleCore.write c

/-- The register that a write names. -/
def RegWrite.name : RegWrite → Opnd
  | .v n _ _ => .v n
  | .s n _ => .s n
  | .p n _ _ => .p n

/-! ### Landing of results (04 R94, 06 R138) -/

/-- The result of a shadow lands: its destination and its flags. -/
def WaleCore.land (c : WaleCore) (x : Shadow) : WaleCore :=
  let c := c.writes x.writes
  { c with fflags := c.fflags ||| x.flags }

/-- One instruction of the fragment has issued: its shadows count down, and those that end land. -/
def WaleCore.countShadows (c : WaleCore) (a : ArmId) : WaleCore :=
  let xs := c.shadows.map fun x => if x.arm == a && x.depth == c.stack.length then { x with left := x.left - 1 } else x
  (xs.filter fun x => x.left == 0).foldl WaleCore.land { c with shadows := xs.filter fun x => x.left != 0 }

/-! ### Hardware loops (07 R171) -/

/-- The loop end at slot `x`: the core, the next PC, and whether it is a back-edge. `popped` holds the loops that ended,
outermost first. -/
def loopEnd (x : Dword) : WaleCore → List (Fin 3) → List (Fin 3) → WaleCore × Dword × Bool
  | c, [], _ => ({ c with lstack := [] }, nextSlot x, false)
  | c, n :: rest, popped =>
    let l := vget c.loops n
    if l.lend ≠ x then ({ c with lstack := n :: rest }, nextSlot x, false)
    else
      let k := vget c.lc n - 1
      let c := { c with lc := vset c.lc n k }
      if k ≠ 0 then
        let c := popped.foldl (fun (c : WaleCore) m =>
          { c with
            lc := vset c.lc m (vget c.loops m).lreload
            loops := vset c.loops m { (vget c.loops m) with lact := true } }) c
        ({ c with lstack := popped.reverse ++ n :: rest }, l.lstart, true)
      else loopEnd x { c with loops := vset c.loops n { l with lact := false } } rest (n :: popped)

/-! ### Regions -/

/-- A region closes: it records the Q in force (13 R292). -/
def Region.close (r : Region) (q : Nat) : Region := match r.q with | some _ => r | none => { r with q := some q }
/-- A region that opens at the wale's present state (02 R52). -/
def freshRegion (c : WaleCore) (cc : Nat) : Region :=
  { ckpt := { c with icount := 0, wcount := 0 }, held := [], last := cc, q := none, refused := [] }
/-- The results in flight belong to the older region from a head on (02 R51). -/
def WaleCore.age (c : WaleCore) : WaleCore :=
  { c with
    shadows := c.shadows.map fun x => { x with old := true }
    hoff := c.hoff.map fun h => { h with old := true } }
/-- The wale with a region head made at its present state: the current region becomes the older one (01 R30, 02 R52). -/
def Wale.head (w : Wale) (q cc : Nat) : Wale :=
  let c := { w.core.age with icount := 0, wcount := 0 }
  { w with core := c, old := some (w.cur.close q), cur := freshRegion c cc }
/-- The wale with a new region in place of a drained one (02 R53). -/
def Wale.reopen (w : Wale) (cc : Nat) : Wale :=
  let c := { w.core with icount := 0, wcount := 0 }
  { w with core := c, cur := freshRegion c cc }
/-- Every older region is released and the window is drained (02 R53): no fault is pending in it, and no effect waits for a
die (08 R191). -/
def Wale.drained (w : Wale) : Bool :=
  w.old.isNone && w.cur.held.isEmpty && w.core.icount == 0 && w.core.shadows.all (fun x => x.landed) && w.due.isEmpty
  && w.cur.q.isNone && w.core.pend0.isNone && w.core.pend1.isNone

/-! ### Context of an issue -/

/-- The issuing fragment in its place: the state, the wale, the fragment, its guard, lookahead count and long-latency
destinations. -/
structure Ctx where
  s : State
  st : Site
  arm : ArmId
  fr : Arm
  la : Nat
  vis : Mask
  lld : List Opnd := []
  pre : Bool := false
  deriving DecidableEq, Repr

def Ctx.core (x : Ctx) : WaleCore := x.st.wl.core
def Ctx.die (x : Ctx) : Fin 4 := x.st.hoop.die
def Ctx.func (x : Ctx) : Nat := x.st.basket.func
def Ctx.part (x : Ctx) : Nat := x.s.partOf x.st.basket.func
/-- Cycle of the wale's die. -/
def Ctx.cc (x : Ctx) : Nat := (x.s.die x.die).cc

/-! ### Raising a fault (11 R263) -/

/-- A fault stops its fragment; the region closes when no fragment is left to issue or to be answered by the firmware. -/
def State.raiseRec (s : State) (st : Site) (a : ArmId) (f : FaultRec) : State :=
  let core := st.wl.core.setPend a (some f)
  let wl := { st.wl with core := core }
  s.setWale st.w
    (if core.live.any core.issuable || core.call.isSome then wl
     else { wl with cur := wl.cur.close (s.window st.hoop.die), st := .drain false })

/-- A fault raised at issue by the fragment's instruction. -/
def Ctx.raise (x : Ctx) (f : Flt) : State :=
  x.s.raiseRec x.st x.arm
    { code := f.code, shd := x.core.inShadow x.arm, eng := false, fetch := false, pc := x.fr.pc, addr := f.addr,
      mask := f.mask, resume := (match x.fr.retry with | some r => r | none => nextSlot x.fr.pc), cmd := none }

/-- A fault that involves no strand address: `sr.fmask` is the fragment's `em` (11 R262). -/
def Ctx.raiseEm (x : Ctx) (code : BitVec 8) : State := x.raise { code := code, addr := 0, mask := x.fr.em }

/-- WDOG ends the basket at once (01 R34, 07 R175). -/
def State.wdog (s : State) (st : Site) (a : ArmId) : State :=
  let fr := st.wl.core.frag a
  let f : FaultRec :=
    { code := cWDOG, shd := st.wl.core.inShadow a, eng := false, fetch := false, pc := fr.pc, addr := 0, mask := fr.em,
      resume := fr.pc, cmd := none }
  s.endBasket st.skein.basket cWDOG.toNat false (some (faultReport st f a false))

/-! ### Waiting -/

/-- The fragment waits and its sibling keeps issuing (01 R25); none when no other fragment can issue. -/
def Ctx.stalls (x : Ctx) : Option Wale :=
  let c := x.core.setFrag x.arm { x.core.frag x.arm with stall := true }
  if c.live.any c.issuable then some { x.st.wl with core := c } else none
/-- The fragment waits, its instruction not issued; where no other fragment can issue, the wale waits. -/
def Ctx.hold (x : Ctx) (w : WSt) : State := x.s.setWale x.st.w (x.stalls.getD { x.st.wl with st := w })
/-- The wale waits for a release: its current region closes first. -/
def Ctx.drainAll (x : Ctx) : State :=
  x.s.setWale x.st.w { x.st.wl with cur := x.st.wl.cur.close (x.s.window x.die), st := .drain x.pre }
/-- The fragment waits for a release (01 R30, 02 R54); where no other fragment can issue, the current region closes. -/
def Ctx.drainWait (x : Ctx) : State :=
  match x.stalls with
  | some w => x.s.setWale x.st.w w
  | none => x.drainAll

/-- The wale arrives at a hoop-collective operation and waits (01 R27). -/
def Ctx.arriveColl (x : Ctx) (i : Instr) (a b : Word) : State :=
  let c := { x.core with nColl := x.core.nColl + 1 }
  x.s.setWale x.st.w { x.st.wl with core := c, st := .coll, collArg := some (i, a, b) }

/-! ### Single-fragment points (07 R166) -/

/-- What a fragment does at a single-fragment point. -/
inductive Sfp where
  | go | wait | sync0 | swap0 | swap1
  deriving DecidableEq, Repr

/-- The instruction is a `brd` that would split the fragment (07 R161). -/
def splits (i : Instr) (c : WaleCore) (fr : Arm) : Bool :=
  match i with
  | .brd o => match o.a with
    | .p n => !c.stack.isEmpty && fr.em &&& c.getP n != 0 && fr.em &&& ~~~(c.getP n) != 0
    | _ => false
  | _ => false

/-- The judgement for a fragment that has come to its point; `split` says that the point is a `brd` that would split.
`swap0`: ARM0 is suspended and ARM1 proceeds; `swap1`: ARM1 is suspended and ARM0 proceeds. Beside a fragment that a trap handler
has suspended the handler goes on (11 R264), but a split has no free arm (log entry 17). -/
def judge (c : WaleCore) (a : ArmId) (split : Bool) : Sfp :=
  match a with
  | .sole => .go
  | _ =>
    let o := c.frag a.sib
    if o.st == .suspended && o.why == .trap then (if split then .wait else .go)
    else
    let s0 := if a == .a0 then split else o.split
    let s1 := if a == .a1 then split else o.split
    match o.st with
    | .free | .opened => .go
    | .running => .wait
    | .waiting | .suspended =>
      if s0 && s1 then .sync0
      else if s0 then .swap0
      else .swap1

/-- A live arm is suspended. -/
def Arm.suspend (f : Arm) (why : Susp) : Arm := if f.live then { f with st := .suspended, stall := false, why := why } else f
/-- An arm that waits or is suspended runs again and examines its own point. -/
def Arm.resume (f : Arm) : Arm := { f with st := .running, split := false, stall := false }
/-- The core after a judgement other than `go`. -/
def applyJudge (c : WaleCore) (a : ArmId) (split : Bool) : Sfp → WaleCore
  | .go | .sync0 => c
  | .wait => c.setFrag a { c.frag a with st := .waiting, split := split }
  | .swap0 =>
    let c := c.setFrag a { c.frag a with split := split }
    (c.setFrag .a0 { c.frag .a0 with st := .suspended, why := .point }).setFrag .a1 { c.frag .a1 with st := .running }
  | .swap1 =>
    let c := c.setFrag a { c.frag a with split := split }
    (c.setFrag .a1 { c.frag .a1 with st := .suspended, why := .point }).setFrag .a0 { c.frag .a0 with st := .running }

/-- The fragment proceeds past its point. -/
def Sfp.proceeds (j : Sfp) (a : ArmId) : Bool :=
  match j with
  | .go => true
  | .swap1 => a == .a0
  | .swap0 => a == .a1
  | .wait | .sync0 => false

/-- The sibling examines its point again after this arm has parked, ended or been suspended (R166); one that a handler
suspends does not (11 R264). -/
def WaleCore.resumeSib (c : WaleCore) (a : ArmId) : WaleCore :=
  match a with
  | .sole => c
  | _ =>
    let o := c.frag a.sib
    if o.st == .waiting || (o.st == .suspended && o.why != .trap) then c.setFrag a.sib o.resume else c
/-- The sibling resumes that was suspended for the reason `why`. -/
def WaleCore.resumeFor (c : WaleCore) (a : ArmId) (why : Susp) : WaleCore :=
  match a with
  | .sole => c
  | _ =>
    let o := c.frag a.sib
    if o.st == .suspended && o.why == why then c.setFrag a.sib o.resume else c

/-- The instruction stands at the end of the innermost active loop (07 R166). -/
def atLoopEnd (c : WaleCore) (pc : Dword) : Bool :=
  match c.lstack with
  | n :: _ => (vget c.loops n).lend == pc
  | [] => false

/-! ### The checks before an instruction -/

/-- The result of the checks: the outcome when the instruction does not issue now, or its context. -/
inductive Gate where
  | stop (o : Out)
  | go (x : Ctx)

/-- A v register at or above VREGS is named (02 R42). -/
def vregsOk (n : Nat) (rs : List Opnd) : Bool := rs.all fun r => match r with | .v k => decide (k.val < n) | _ => true

/-- A case of 04 R95: illegal in a shadow, or a long-latency destination that overlaps one that has not landed. -/
def shadowIll (c : WaleCore) (a : ArmId) (f : Info) : Bool :=
  c.inShadow a && (f.ctl
    || c.shadows.any fun x => x.arm == a && x.depth == c.stack.length && x.dst.any fun r => f.lld.contains r)

/-- Strands that a guarded instruction visits (04 R92). -/
def visited (c : WaleCore) (em : Mask) (h : Hdr) : Mask :=
  if h.gn then em &&& ~~~(c.getP h.gp) else em &&& c.getP h.gp

/-- The context of the issuing fragment. -/
def State.ctx? (s : State) : Option Ctx :=
  match s.cur with
  | none => none
  | some c =>
    match s.site? c.wale with
    | none => none
    | some st =>
      some { s := s, st := st, arm := c.arm, fr := st.wl.core.frag c.arm, la := 0, vis := (st.wl.core.frag c.arm).em }

/-- Guard, lookahead count and long-latency destinations of the instruction, and whether it is one of 01 R26; `tret.retry` treats LA as 0 (11 R265). -/
def Ctx.header (x : Ctx) (f : Info) : Ctx :=
  { x with la := if x.fr.retry.isSome then 0 else f.h.la.val, vis := visited x.core x.fr.em f.h, lld := f.lld, pre := f.sfp && f.single }

/-- The context with another core. -/
def Ctx.withCore (x : Ctx) (c : WaleCore) : Ctx :=
  let wl := { x.st.wl with core := c }
  { x with s := x.s.setWale x.st.w wl, st := { x.st with wl := wl }, fr := c.frag x.arm }

/-- Both arms wait at a `brd` that would split: ARM0 raises SYNC (07 R166). -/
def Ctx.sync0 (x : Ctx) : State :=
  let f0 := x.core.frag .a0
  let c := (x.core.setFrag .a0 { f0 with st := .running }).setFrag .a1 { x.core.frag .a1 with st := .waiting, split := true }
  let x := x.withCore c
  Ctx.raiseEm { x with arm := .a0, fr := c.frag .a0 } cSYNC

/-- An implicit plain head is due (02 R52). -/
def Ctx.headDue (x : Ctx) : Bool := 512 ≤ x.core.icount || 64 ≤ x.core.wcount

/-- The context after a region head made before the instruction. -/
def Ctx.withHead (x : Ctx) : Ctx :=
  let wl := x.st.wl.head (x.s.window x.die) x.cc
  { x with s := x.s.setWale x.st.w wl, st := { x.st with wl := wl } }

/-- The checks of an issue, in the order WDOG, ILL, single-fragment point, implicit head, single region (11 R262, 07
R166, R175, 02 R52, R53). -/
def gate (i : Instr) (s : State) : Gate :=
  match infoOf i, s.ctx? with
  | some f, some x =>
    if x.core.yleft = 0 then .stop (.next (s.wdog x.st x.arm))
    else if !i.wf || !vregsOk x.st.wl.vregs f.regs || shadowIll x.core x.arm f then .stop (.next (x.raiseEm cILL))
    else
      let x := x.header f
      let sp := splits i x.core x.fr
      let j : Sfp := if sp || f.sfp || f.dst.isS || atLoopEnd x.core x.fr.pc then judge x.core x.arm sp else .go
      let x := x.withCore (applyJudge x.core x.arm sp j)
      if j == .sync0 then .stop (.next x.sync0)
      else if !j.proceeds x.arm then .stop (.next x.s)
      else if f.single then
        if x.st.wl.drained then .go x else .stop (.next x.drainWait)
      else if x.headDue then
        if x.st.wl.old.isSome then .stop (.next x.drainWait) else .go x.withHead
      else .go x
  | _, _ => .stop (.fault .noIssuer)

/-! ### Completion of an instruction -/

/-- What an instruction does besides moving on: register writes, flags, held effects. -/
structure Res where
  writes : List RegWrite := []
  flags : Word := 0
  held : List Held := []
  deriving DecidableEq, Repr

/-- The effects of a result on the core: at once, or as a shadow when the instruction carries a lookahead count. The
shadows of earlier instructions count down (04 R94). -/
def WaleCore.effect (c : WaleCore) (a : ArmId) (la : Nat) (dst : List Opnd) (r : Res) : WaleCore :=
  if la = 0 then
    let c := c.writes r.writes
    ({ c with fflags := c.fflags ||| r.flags }).countShadows a
  else
    let c := c.countShadows a
    let x : Shadow :=
      { left := la, landed := false, arm := a, depth := c.stack.length, writes := r.writes, flags := r.flags, dst := dst, old := false }
    { c with shadows := c.shadows ++ [x] }

/-- The instruction counts as issued (02 R46, R52, 01 R34). -/
def WaleCore.counted (c : WaleCore) (held : Bool) : WaleCore :=
  { c with icount := c.icount + 1, wcount := c.wcount + (if held then 1 else 0), yleft := c.yleft - 1,
           hoff := c.hoff.map fun h => { h with left := h.left - 1 } }

/-- The fragment continues in sequence: at the slot after its instruction, or as the loop ends there say (07 R171), or
at the resume PC of a `tret.retry` (11 R265). -/
def WaleCore.advance (c : WaleCore) (a : ArmId) : WaleCore :=
  let fr := c.frag a
  match fr.retry with
  | some r =>
    let (c, pc, arr) := if r == nextSlot fr.pc then loopEnd fr.pc c c.lstack [] else (c, r, false)
    c.setFrag a { c.frag a with pc := pc, st := .running, split := false, arr := arr, retry := none }
  | none =>
    let (c, pc, arr) := loopEnd fr.pc c c.lstack []
    c.setFrag a { c.frag a with pc := pc, st := .running, split := false, arr := arr }

/-- The fragment is transferred to `pc`, where BTM is checked (04 R88, 07 R156). -/
def WaleCore.transfer (c : WaleCore) (a : ArmId) (pc : Dword) : WaleCore :=
  c.setFrag a { c.frag a with pc := pc, st := .running, split := false, arr := true, retry := none }

/-- The cycle from which ARM1 is ready, when a fragment has issued in cycle `cc` and left `core`: it becomes ready anew when
it has issued itself, or was not ready in this token before (15 R346). -/
def Ctx.ready1 (x : Ctx) (core : WaleCore) : Nat :=
  if x.arm == .a1 || !(x.core.issuable .a1) || core.stack.length != x.core.stack.length then x.cc + 1 else x.st.wl.ready1
/-- The wale has issued; with its last strand gone its region closes (01 R31). It waits for issue again, and its die's cycle passes
(15 R346). -/
def Ctx.commit (x : Ctx) (core : WaleCore) (held : List Held) : State :=
  let gone := core.stack.isEmpty && core.base.st == .free
  let cur := { x.st.wl.cur with held := x.st.wl.cur.held ++ held, last := x.cc + 1 }
  let wl := { x.st.wl with
    core := core
    st := if gone then .exited else .ready
    cur := if gone then cur.close (x.s.window x.die) else cur
    ready1 := x.ready1 core
    since := x.s.turn + 1 }
  let s := (x.s.setWale x.st.w wl).tick x.die
  { s with turn := s.turn + 1 }

/-- An instruction completes and its fragment continues in sequence. -/
def Ctx.finish (x : Ctx) (held : Bool) (r : Res) : State :=
  x.commit (((x.core.effect x.arm x.la x.lld r).counted held).advance x.arm) r.held

/-- A single region completes: its value is recorded in the checkpoint of the region that opens after it (02 R53). -/
def Ctx.finishSingle (x : Ctx) (r : Res) : State :=
  let s := x.finish false r
  s.updWale x.st.w fun w => w.reopen ((s.die x.die).cc)

/-- An instruction with a register result only: its fault, or its result. -/
def issueReg (i : Instr) (s : State) (f : Ctx → Except Flt Res) : Out :=
  match gate i s with
  | .stop o => o
  | .go x =>
    match f x with
    | .error e => .next (x.raise e)
    | .ok r => .next (x.finish (match infoOf i with | some g => g.held | none => false) r)

/-- An instruction whose meaning gives the next state itself. -/
def issueWith (i : Instr) (s : State) (f : Ctx → State) : Out :=
  match gate i s with
  | .stop o => o
  | .go x => .next (f x)

/-- An instruction completes with a change of control of its own. -/
def Ctx.after (x : Ctx) (f : WaleCore → WaleCore) : State :=
  x.commit (f ((x.core.effect x.arm x.la x.lld {}).counted false)) []
/-- A region head after the instruction (07 R174, 11 R265). -/
def State.headAfter (s : State) (x : Ctx) : State :=
  s.updWale x.st.w fun w => w.head (s.window x.die) ((s.die x.die).cc)

/-- A reported engine fault is taken at a delivery instruction, which is the resume PC (09 R211, 11 R269). -/
def Ctx.raiseEng (x : Ctx) (e : EngFault) : State :=
  x.s.raiseRec x.st x.arm { e.f with mask := x.fr.em, resume := x.fr.pc }

/-! ### Settling tokens (07 R163) -/

/-- The opened arm of a token, if any. -/
def Token.openedArm (t : Token) : Option ArmId :=
  if t.a0.st == .opened then some .a0 else if t.a1.st == .opened then some .a1 else none

/-- Put a fragment in place of the opened arm of the top token, or as the sole fragment; its sibling resumes if the inner
token suspended it. -/
def WaleCore.replaceOpened (c : WaleCore) (f : Arm) : WaleCore :=
  match c.stack with
  | [] => { c with base := f }
  | t :: _ =>
    match t.openedArm with
    | none => c
    | some a => (c.setFrag a f).resumeFor a .tok
/-- The trap frame that a fragment carries ends with it, and a fragment that the handler suspended resumes (log entry 16). -/
def WaleCore.leaveFrame (c : WaleCore) (a : ArmId) : WaleCore :=
  if c.frame.any fun f => f.depth == c.stack.length && f.arm == a then ({ c with frame := none } : WaleCore).resumeFor a .trap
  else c
/-- The opened arm of the top token ends, or the sole fragment; its sibling resumes. -/
def WaleCore.endOpened (c : WaleCore) : WaleCore :=
  match c.stack with
  | [] => (c.leaveFrame .sole).replaceOpened Arm.none
  | t :: _ =>
    match t.openedArm with
    | none => c
    | some a => (c.leaveFrame a).replaceOpened Arm.none

/-- Pop the tokens that have no running or waiting arm; `fuel` bounds the depth. An arm suspended under R160 or R166 resumes first; one
that a trap handler has suspended does not, and the token is popped with its members (log entry 16). -/
def settle : Nat → WaleCore → WaleCore
  | 0, c => c
  | fuel + 1, c =>
    match c.stack with
    | [] => c
    | t :: ts =>
      if t.a0.live || t.a1.live then c
      else if t.a0.st == .suspended && t.a0.why != .trap then c.setFrag .a0 t.a0.resume
      else if t.a1.st == .suspended && t.a1.why != .trap then c.setFrag .a1 t.a1.resume
      else
        let m := t.mem &&& ~~~c.exited
        let c := { c with stack := ts }
        if m ≠ 0 then c.replaceOpened (Arm.start t.l m)
        else
          match ts with
          | [] => c.endOpened
          | _ :: _ => settle fuel c.endOpened

/-- The fragment parks in the top token (07 R162). A trap handler's fragment that parks at its frame's depth pops the token as the arm it
replaced would have done (11 R264; log entry 16, DEDUCED). -/
def WaleCore.park (c : WaleCore) (a : ArmId) : WaleCore :=
  match c.stack with
  | [] => c
  | t :: ts =>
    let fr := c.frag a
    let c := { c with stack := { t with pk := t.pk ||| fr.mem } :: ts }
    settle 65 ((c.setFrag a Arm.none).resumeSib a)

/-- The fragment ends; with it ends the trap frame that it carries. -/
def WaleCore.endFrag (c : WaleCore) (a : ArmId) : WaleCore := settle 65 (((c.leaveFrame a).setFrag a Arm.none).resumeSib a)

/-! ### Taking an exception and returning from it (11 R264, R265) -/

/-- A fault in a basket without a handler, and a double fault, end the basket (11 R266, R267). -/
def State.abort (s : State) (st : Site) (a : ArmId) (f : FaultRec) (double : Bool) : State :=
  s.endBasket st.skein.basket (if double then 0xFE else f.code.toNat) false (some (faultReport st f a double))

/-- A command is gone from its batch; a batch none of whose commands is left is complete (09 R215). -/
def Wale.dropCmd (w : Wale) (id : Nat) : Wale :=
  { w with
    opn := w.opn.filter fun c => c != id
    sealed := (w.sealed.map fun b => { b with cmds := b.cmds.filter fun c => c != id }).filter fun b => !b.cmds.isEmpty }
/-- An engine fault has been taken. -/
def Wale.dropFault (w : Wale) (f : FaultRec) : Wale :=
  if f.eng then { w.dropCmd f.id with engFaults := w.engFaults.filter fun e => e.cmd != f.id } else w

/-- The lookahead shadows of a fragment end: their results, which have landed, are written (11 R264; log entry 77). -/
def WaleCore.endShadows (c : WaleCore) (a : ArmId) : WaleCore :=
  let mine (x : Shadow) : Bool := x.arm == a && x.depth == c.stack.length
  (c.shadows.filter mine).foldl WaleCore.land { c with shadows := c.shadows.filter fun x => !mine x }
/-- A handler suspends the fragment, which may be suspended at a point already. -/
def Arm.trapped (f : Arm) : Arm := if f.st == .suspended then { f with why := .trap } else f.suspend .trap
/-- The other fragment at a delivery: it is suspended; a fault pending in it is not delivered, and its instruction issues again
after the return, a load or atomic whose reply was HOMEOFF alone and without its shadow, before the fragment continues (11 R263). -/
def WaleCore.suspendSib (c : WaleCore) (a : ArmId) : WaleCore :=
  match a with
  | .sole => c
  | _ =>
    match c.pend a.sib with
    | some g =>
      let again := g.code == cHOMEOFF && !g.eng
      let o := if again then { c.frag a.sib with pc := g.pc, retry := some g.resume } else c.frag a.sib
      let c := if again then
          { c with shadows := c.shadows.filter fun x => !(x.off && x.arm == a.sib && x.depth == c.stack.length) } else c
      (c.setPend a.sib none).setFrag a.sib o.trapped
    | none => c.setFrag a.sib (c.frag a.sib).trapped
/-- Take a fault of fragment `a`, its region released: the fault record and a trap frame are written, and the fragment
continues at the handler with its `em` unchanged, in a region of its own; the other fragment is suspended (11 R264). -/
def State.takeFault (s : State) (st : Site) (a : ArmId) (f : FaultRec) : State :=
  if st.wl.core.frame.isSome then s.abort st a f true
  else if pkHandler st.basket.pkt == 0 then s.abort st a f false
  else
    let c := st.wl.core
    let fr := c.frag a
    let c := { c with
      fcause := f.code.setWidth 32 ||| flagIf (a == ArmId.a1) 0x100 ||| flagIf f.eng 0x200 ||| flagIf f.shd 0x400
      fpc := f.pc
      faddr := f.addr
      fmask := f.mask
      frame := some { arm := a, em := fr.em, pc := f.pc, resume := f.resume, depth := c.stack.length, fetch := f.fetch, cmd := f.cmd, eng := f.eng } }
    let c := ((c.setPend a none).suspendSib a).endShadows a
    let c := c.setFrag a
      { fr with pc := pkHandler st.basket.pkt, st := .running, split := false, arr := true, retry := none, stall := false }
    let cc := (s.die st.hoop.die).cc
    let w := Wale.goOn { st.wl.dropFault f with core := c } s.turn cc
    s.setWale st.w
      (if st.wl.cur.held.isEmpty && st.wl.core.icount == 0 && st.wl.old.isNone then w.reopen cc
       else w.head (s.window st.hoop.die) cc)

/-- The trap frame closes (11 R265): `em` is restored without the strands that have exited; the fragment continues at
`pc`, or ends when no member is left; the fragment that the handler suspended resumes. -/
def WaleCore.closeFrame (c : WaleCore) (a : ArmId) (f : TrapFrame) (pc : Dword) (arr : Bool) (retry : Option Dword) :
    WaleCore :=
  let em := f.em &&& ~~~c.exited
  let c := ({ c with frame := none } : WaleCore).resumeFor a .trap
  let fr := c.frag a
  if fr.mem &&& ~~~c.exited = 0 then c.endFrag a
  else c.setFrag a { fr with em := em, pc := pc, st := .running, split := false, arr := arr, retry := retry }

end Sys2Proof.Machine
end

