-- ==== Sys2Proof/Machine/Operands.lean ====
section
/-! DEFINITION. Operand reads and results by class (02 R41, R42, 04 R98, 05 R112, R113). -/

namespace Sys2Proof.Machine

/-! ### Sources -/

/-- The value of register `k` after a v or s operand for a strand; an s register gives its uniform value (05 R112). -/
def WaleCore.laneAt (c : WaleCore) (o : Opnd) (k : Nat) (i : Fin 32) : Word :=
  match o with
  | .v n => vget (c.getV (Fin.ofNat 256 (n.val + k))) i
  | .s n => c.getS (Fin.ofNat 64 (n.val + k))
  | _ => 0
/-- A v or s operand for a strand. -/
def Ctx.src (x : Ctx) (o : Opnd) (i : Fin 32) : Word := x.core.laneAt o 0 i
/-- A pair operand for a strand (02 R42). -/
def Ctx.src64 (x : Ctx) (o : Opnd) (i : Fin 32) : Dword := pair (x.core.laneAt o 0 i) (x.core.laneAt o 1 i)
/-- An s operand. -/
def Ctx.uni (x : Ctx) (o : Opnd) : Word := x.src o 0
/-- An s pair operand. -/
def Ctx.uni64 (x : Ctx) (o : Opnd) : Dword := x.src64 o 0
/-- A p operand: all 32 bits. -/
def Ctx.pred (x : Ctx) (o : Opnd) : Mask := match o with | .p n => x.core.getP n | _ => 0
/-- A source of class p or s as a mask. -/
def Ctx.maskSrc (x : Ctx) (o : Opnd) : Mask := match o with | .s n => x.core.getS n | o => x.pred o

/-! ### Results -/

/-- The union of the flags of the visited strands. -/
def Ctx.flagsOf (x : Ctx) (f : Fin 32 → Word) : Word := x.vis.strands.foldl (fun a i => a ||| f i) 0

/-- A 32-bit result: once per visited strand to a v register, once to an s register (04 R98). -/
def Ctx.out (x : Ctx) (d : Opnd) (f : Fin 32 → FRes Word) : Except Flt Res :=
  .ok (match d with
    | .v n => { writes := [.v n x.vis (Vector.ofFn fun i => (f i).val)], flags := x.flagsOf fun i => (f i).fl }
    | .s n => { writes := [.s n (f 0).val], flags := (f 0).fl }
    | _ => {})

/-- A 64-bit result to a pair: the even register takes the low half (02 R42). -/
def Ctx.out64 (x : Ctx) (d : Opnd) (f : Fin 32 → Dword) : Except Flt Res :=
  .ok (match d with
    | .v n => { writes := [.v n x.vis (Vector.ofFn fun i => lo32 (f i)),
                           .v (n + 1) x.vis (Vector.ofFn fun i => hi32 (f i))] }
    | .s n => { writes := [.s n (lo32 (f 0)), .s (n + 1) (hi32 (f 0))] }
    | _ => {})

/-- A predicate result: the bits of the visited strands (05 R122). -/
def Ctx.outP (x : Ctx) (d : Opnd) (f : Fin 32 → FRes Bool) : Except Flt Res :=
  .ok (match d with
    | .p n => { writes := [.p n x.vis (maskOf fun i => (f i).val)], flags := x.flagsOf fun i => (f i).fl }
    | _ => {})

/-! ### Forms -/

/-- A of a format R entry. -/
def Ctx.r1 (x : Ctx) (o : ROps) (f : Word → FRes Word) : Except Flt Res := x.out o.d fun i => f (x.src o.a i)
/-- A and B. -/
def Ctx.r2 (x : Ctx) (o : ROps) (f : Word → Word → FRes Word) : Except Flt Res :=
  x.out o.d fun i => f (x.src o.a i) (x.src o.b i)
/-- A, B and C. -/
def Ctx.r3 (x : Ctx) (o : ROps) (f : Word → Word → Word → FRes Word) : Except Flt Res :=
  x.out o.d fun i => f (x.src o.a i) (x.src o.b i) (x.src o.c i)
/-- A and IMM in the place of B. -/
def Ctx.i2 (x : Ctx) (o : IOps) (f : Word → Word → FRes Word) : Except Flt Res :=
  x.out o.d fun i => f (x.src o.a i) o.imm

/-- Sign extension to 64 bits. -/
def sx64 (x : Word) : Dword := x.signExtend 64
/-- Sign or zero extension as an integer. -/
def extInt (u : Bool) (x : Word) : Int := if u then x.toNat else x.toInt
/-- Bit `k` of a modifier. -/
def mbit {n : Nat} (m : BitVec n) (k : Nat) : Bool := m.getLsbD k

end Sys2Proof.Machine
end

