-- ==== Sys2Proof/Machine/Access.lean ====
section
/-! DEFINITION. Accesses of a wale: effective addresses, the limits of the spaces, the faults of an access, demand
requests, room in the hold buffer (04 R103, 08 R180 to R191, 02 R54, 11 R268, 13 R293, 15 R347). -/

namespace Sys2Proof.Machine

/-- The address spaces (08 R180). -/
inductive Sp where
  | glob | sp | cl | dsc | pv
  deriving DecidableEq, Repr

/-! ### Effective address (04 R103) -/

/-- The address of a strand: base, index treatment XS, width code, offset. -/
def Ctx.ea (x : Ctx) (glob : Bool) (base idx : Opnd) (xs w : Nat) (off : Dword) (i : Fin 32) : Dword :=
  let b : Dword := if base = .none then 0 else x.uni64 base
  let ix : Dword :=
    if idx = .none then 0
    else if glob && base == .none then x.src64 idx i
    else
      let v := x.src idx i
      (if 2 ≤ xs then sx64 v else v.setWidth 64) * (if xs % 2 = 1 then BitVec.ofNat 64 (2 ^ w) else 1)
  b + ix + off

/-! ### Placing an access -/

/-- Why a strand's access faults, or that its page is to be brought in or called back, or that a table is out of reach. -/
inductive AErr where
  | align | range | xlate | perm | demand | wait
  | part (d : Fin 4)
  | away (page : Nat)
  deriving DecidableEq, Repr

/-- Where an access lies: pieces in address order, memory type I/O or mailbox, the translation, the needed direction. -/
structure Place where
  pcs : List (Loc × Nat)
  io : Bool
  xl : Option Xl
  deriving DecidableEq, Repr

/-- The hoop of a skein with an index. -/
def State.hoopAt (s : State) (k idx : Nat) : Option Nat :=
  (List.find? (fun (e : Nat × Hoop) => e.2.skein == k && e.2.idx == idx) s.hoops).map (·.1)

/-- Pieces of at most 4 bytes of a strand-private access (08 R180: word w of strand s lies at 128w + 4s). -/
def privPieces (w strand a n : Nat) : List (Loc × Nat) :=
  if n ≤ 4 then [(.priv w (128 * (a / 4) + 4 * strand + a % 4), n)]
  else (List.range (n / 4)).map fun k => (.priv w (128 * (a / 4 + k) + 4 * strand), 4)

/-- A local address of `n` bytes below `lim`. -/
def localOk (a n lim : Nat) : Bool := a < 2 ^ 32 && a + n ≤ lim

/-- The page of a demand access has been refused to this wale (11 R268). -/
def Ctx.refusedAt (x : Ctx) (va : Nat) : Bool := x.st.wl.cur.refused.contains (va / 8192)

/-- Translation at issue, by the TLBs of the wale's core and die (14 R324). -/
def Ctx.xlat (x : Ctx) (va : Nat) (need : Need) : Except XErr Xl :=
  x.s.xlat x.die (some x.st.hoop.core) x.func x.part va need
/-- Place an access of `n` bytes aligned to `al` of strand `i` at `a` (08 R181, R183, R191). `atomic` forbids I/O and mailbox
pages. A page of another type that maps the I/O range is accessed as I/O too, atomics apart (log entry 96). -/
def Ctx.place (x : Ctx) (spc : Sp) (i : Fin 32) (a : Dword) (n al : Nat) (need : Need) (atomic : Bool) :
    Except AErr Place :=
  let a := a.toNat
  if a % al ≠ 0 then .error .align
  else match spc with
    | .glob =>
      match x.xlat a need with
      | .error .xlate => .error .xlate
      | .error .perm => .error .perm
      | .error (.part d) => .error (.part d)
      | .error .wait => .error .wait
      | .error (.away p) => .error (.away p)
      | .error .demand => .error (if x.refusedAt a then .xlate else .demand)
      | .ok t =>
        if atomic && 2 ≤ t.mt then .error .perm
        else .ok { pcs := [(t.loc a x.func x.part, n)], io := decide (2 ≤ t.mt) || isIo t.pa, xl := some t }
    | .sp =>
      if localOk a n (pkSp x.st.skein.pkt) then .ok { pcs := [(.sp x.st.wl.hoop a, n)], io := false, xl := none }
      else .error .range
    | .cl =>
      let g := pkRim x.st.skein.pkt
      let j := a / 393216
      if !localOk (a % 393216) n (pkSp x.st.skein.pkt) || g ≤ j || 2 ^ 32 ≤ a then .error .range
      else match x.s.hoopAt x.st.hoop.skein (x.st.hoop.idx / g * g + j) with
        | some h => .ok { pcs := [(.sp h (a % 393216), n)], io := false, xl := none }
        | none => .error .range
    | .dsc =>
      let r := x.s.reg (rDscWin x.die x.part)
      if getFld r 16 16 = 1 && localOk a n (getFld r 15 8 * 2 ^ 20) then
        .ok { pcs := [(.dsc x.die (getFld r 7 0 * 2 ^ 20 + a), n)], io := false, xl := none }
      else .error .range
    | .pv =>
      if localOk a n (pkPv x.st.skein.pkt) then .ok { pcs := privPieces x.st.w i.val a n, io := false, xl := none }
      else .error .range

/-- One strand of an access with its place. -/
structure SAcc where
  i : Fin 32
  a : Dword
  p : Place
  deriving DecidableEq, Repr

/-- The outcome of placing every strand: places, or the error taken with the strands that raise it and the address of the
lowest. -/
inductive Placed where
  | ok (ss : List SAcc)
  | err (e : AErr) (m : Mask) (a : Dword) (parts : List (Fin 4))
  deriving Repr

/-- The order of 08 R191; an access that waits for a table or a page comes before the translation faults. -/
def AErr.rank : AErr → Nat
  | .align => 0 | .range => 1 | .wait | .away _ => 2 | .demand => 3 | .xlate => 4 | .perm | .part _ => 5
def AErr.code : AErr → BitVec 8
  | .align => cALIGN | .range => cRANGE | .perm | .part _ => cPERM | _ => cXLATE

/-- Place the strands `ss` (with their addresses) of an access. A scalar access is one strand that stands for `em`. -/
def Ctx.placeAll (x : Ctx) (spc : Sp) (ss : List (Fin 32 × Dword)) (n al : Nat) (need : Need) (atomic scalar : Bool) :
    Placed :=
  let rs := ss.map fun e => (e.1, e.2, x.place spc e.1 e.2 n al need atomic)
  let errs := rs.filterMap fun e => match e.2.2 with | .error k => some (e.1, e.2.1, k) | .ok _ => none
  match errs with
  | [] => .ok (rs.filterMap fun e => match e.2.2 with | .ok p => some { i := e.1, a := e.2.1, p := p } | .error _ => none)
  | e0 :: _ =>
    let r := errs.foldl (fun (m : Nat) e => min m e.2.2.rank) 9
    let hit := errs.filter fun e => e.2.2.rank == r
    let e1 := hit.headD e0
    .err e1.2.2 (if scalar then x.fr.em else maskOf fun i => hit.any fun e => e.1 == i) e1.2.1
      (hit.filterMap fun e => match e.2.2 with | .part d => some d | _ => none)

/-! ### Demand requests (11 R268, 14 R326, 15 R347) -/

/-- The lowest tag that no request of the function bears. -/
def State.freeTag (s : State) (f : Nat) : BitVec 16 :=
  let used := (s.pageReqs.filter fun r => r.func == f).map (·.tag)
  ((List.range (used.length + 1)).map (BitVec.ofNat 16)).find? (fun t => !used.contains t) |>.getD 0

/-- The record of a page request. -/
def PageReq.record (r : PageReq) : List Byte :=
  bytesLE 8 (r.page * 8192) ++ [BitVec.ofNat 8 r.kind, BitVec.ofNat 8 r.die] ++ bytesLE 2 r.tag.toNat ++ bytesLE 20 0

/-- Post the requests of a function that found the ring full. -/
def State.postRequests (s : State) (f : Nat) : List PageReq → State
  | [] => s
  | r :: rs =>
    if r.func ≠ f ∨ r.posted then State.postRequests s f rs
    else match s.eventRecord f r.record with
      | none => s
      | some s =>
        State.postRequests
          { s with pageReqs := s.pageReqs.map fun q => if q.func == f && q.tag == r.tag then { q with posted := true } else q }
          f rs

/-- Request a page: two requests for one page from one die share one tag. -/
def State.requestPage (s : State) (f va : Nat) (die : Fin 4) (kind : Nat) : BitVec 16 × State :=
  let page := va / 8192
  match s.pageReqs.find? fun r => r.func == f && r.page == page && r.die == die.val with
  | some r => (r.tag, s)
  | none =>
    let t := s.freeTag f
    let r : PageReq := { func := f, page := page, kind := kind, die := die, tag := t, posted := false }
    let s := { s with pageReqs := s.pageReqs ++ [r] }
    (t, s.postRequests f s.pageReqs)

/-- The wale's current region is discarded and the wale waits for the page at its head (11 R268). -/
def Ctx.demand (x : Ctx) (va : Nat) (kind : Nat) : State :=
  let (t, s) := x.s.requestPage x.func va x.die kind
  let c := x.st.wl.cur.ckpt.unstall
  s.setWale x.st.w
    { x.st.wl with core := c, cur := { x.st.wl.cur with held := [], q := none }, st := .page t }

/-! ### Raising the faults of an access -/

/-- An access is refused: L2C_XPREJ counts the requests that a partition check refuses (14 R317). -/
def Ctx.refuse (x : Ctx) (parts : List (Fin 4)) : Ctx :=
  { x with s := parts.foldl State.countRej x.s }
/-- The outcome of an access that faults. -/
def Ctx.accessErr (x : Ctx) (e : AErr) (m : Mask) (a : Dword) (parts : List (Fin 4)) (kind : Nat) : State :=
  match e with
  | .wait => x.hold (.wait false)
  | .away p => Ctx.hold { x with s := x.s.callBack p } (.wait false)
  | .demand => x.demand a.toNat kind
  | e => (x.refuse parts).raise { code := e.code, addr := a, mask := m }

/-- The walker's marks, TLB entries and grants of a placed access. -/
def Ctx.notePlaces (x : Ctx) (ss : List SAcc) (wr : Bool) : Ctx :=
  { x with s := ss.foldl (fun (s : State) e => match e.p.xl with
      | some t => s.noteXl x.die (some x.st.hoop.core) x.func e.a.toNat t wr
      | none => s) x.s }
/-- What a placed access that is performed now does to the caches, at its level (08 R185). -/
def Ctx.touchPlaces (x : Ctx) (ss : List SAcc) (lv : Nat) (u : Use) : Ctx :=
  { x with s := x.s.touchAll x.die x.st.hoop.core lv u (ss.flatMap fun e => e.p.pcs.map (·.1)) }

/-- The strands of an access whose home die is past its home-off point (08 R191, 16 R361). -/
def Ctx.homeOffStrands (x : Ctx) (ss : List SAcc) : List SAcc :=
  ss.filter fun e => e.p.pcs.any fun p => match x.s.locDie p.1 with | some d => x.s.homeOff d | none => false

/-- The access completes without a value; its reply will raise HOMEOFF (11 R263). -/
def Ctx.sendHomeOff (x : Ctx) (off : List SAcc) (scalar : Bool) : State :=
  match off with
  | [] => x.finish false {}
  | e :: _ =>
    let h : HomeOff :=
      { pc := x.fr.pc, addr := e.a, mask := if scalar then x.fr.em else maskOf fun i => off.any fun q => q.i == i,
        arm := x.arm, left := x.la, shd := x.core.inShadow x.arm }
    let s := x.finish false {}
    s.updWale x.st.w fun w => { w with core := { w.core with
      hoff := some h
      shadows := if x.la = 0 then w.core.shadows else w.core.shadows.dropLast ++ (w.core.shadows.getLast?.map fun q => { q with off := true }).toList } }

/-! ### Values -/

/-- The extended value of a load of width code `w` (08 R182). -/
def extendTo (w : Nat) (sx : Bool) (v : Nat) : Nat :=
  if sx && w < 2 && decide (2 ^ (8 * 2 ^ w - 1) ≤ v) then v + (2 ^ 32 - 2 ^ (8 * 2 ^ w)) else v

/-- The registers of a data result of width code `w`, from the lowest (08 R182). -/
def Ctx.dataWrites (x : Ctx) (d : Opnd) (w : Nat) (f : Fin 32 → Nat) : List RegWrite :=
  (List.range (dataRegs w)).map fun k =>
    let word (i : Fin 32) : Word := BitVec.ofNat 32 (f i / 2 ^ (32 * k))
    match d with
    | .v n => .v (Fin.ofNat 256 (n.val + k)) x.vis (Vector.ofFn word)
    | .s n => .s (Fin.ofNat 64 (n.val + k)) (word 0)
    | _ => .p 0 0 0

/-- The bytes that a data operand of width code `w` stores. -/
def Ctx.dataBytes (x : Ctx) (d : Opnd) (w : Nat) (i : Fin 32) : List Byte :=
  ((List.range (dataRegs w)).flatMap fun k => bytesLE 4 (x.core.laneAt d k i).toNat).take (2 ^ w)

/-- Bytes at a place. -/
def State.placeRead (s : State) (p : Place) : List Byte := p.pcs.flatMap fun e => s.locRead e.1 e.2
/-- The accesses that write bytes at a place. -/
def placeAccs : List (Loc × Nat) → List Byte → List Acc
  | [], _ => []
  | (l, n) :: r, bs => { loc := l, bytes := bs.take n } :: placeAccs r (bs.drop n)

/-! ### Room in the hold buffer (02 R54, 13 R293) -/

/-- Entries of 64 bytes that an effect takes, 1 to 8. -/
def heldEntries (n : Nat) : Nat := min 8 (max 1 ((n + 63) / 64))
def Held.entries : Held → Nat
  | .store ws _ => heldEntries (ws.foldl (fun n a => n + a.bytes.length) 0)
  | .rmw _ _ w xs _ => heldEntries (w * xs.length)
  | .xadd _ xs _ => heldEntries (4 * xs.length)
  | .mfence => 0
  | _ => 1
/-- Entries that a wale holds. -/
def Wale.heldUse (w : Wale) : Nat := (w.heldAll.map Held.entries).foldl (· + ·) 0
/-- There is room for an effect: in the wale's reserve of 8 entries or in what the reserves leave of 1,024. -/
def Ctx.room (x : Ctx) (h : Held) : Bool :=
  let mine := x.st.wl.heldUse + h.entries
  let sameCore (e : Nat × Wale) : Bool := match x.s.hoop? e.2.hoop with
    | some hp => hp.core == x.st.hoop.core && e.1 != x.st.w && e.2.st != .saved
    | none => false
  let others := x.s.wales.filter sameCore
  decide (mine ≤ 8) ||
    decide ((others.map fun e => max 8 e.2.heldUse).foldl (· + ·) mine ≤ 1024)

/-- An instruction with a held effect completes; with no room it waits for a release (log entry 18). -/
def Ctx.holdEffect (x : Ctx) (h : Held) : State :=
  if x.room h then x.finish true { held := [h] } else x.drainWait

end Sys2Proof.Machine
end

