-- ==== Sys2Proof/Machine/Fetch.lean ====
section
/-! DEFINITION. Instruction fetch, its faults, and the selection of the fragment that issues (04 R83 to R90, 08 R198,
12 R284, 15 R346). -/

namespace Sys2Proof.Machine

/-! ### Selection (R346) -/

/-- The fragment that a wale issues for in cycle `cc`: the taken arm, unless the other arm has been ready for 8 cycles. -/
def Wale.pick (w : Wale) (cc : Nat) : Option ArmId :=
  if w.st != .ready then none
  else match w.core.armIds.filter w.core.issuable with
    | [a] => some a
    | a :: b :: _ => some (if w.ready1 + 8 ≤ cc then b else a)
    | [] => none
/-- A wale goes before another among those that can issue: it has waited longer; of two that began together, one whose `sr.yleft`
is below 256, the smaller first. -/
def Wale.before (a b : Wale) : Bool :=
  decide (a.since < b.since)
  || (a.since == b.since && decide (a.core.yleft.toNat < 256) && decide (a.core.yleft < b.core.yleft))
/-- Of the wales that can issue, in order of residence, the one that goes first. -/
def firstWale : List (Cur × Wale) → Option (Cur × Wale)
  | [] => none
  | e :: es => match firstWale es with
    | some q => if q.2.before e.2 then some q else some e
    | none => some e
/-- The fragment that issues next. -/
def State.select (s : State) : Option Cur :=
  if s.fatal then none
  else
    (firstWale (s.order.filterMap fun w => match s.wale? w with
      | some x => (x.pick (s.ccOf x)).map fun a => ({ wale := w, arm := a }, x)
      | none => none)).map (·.1)

/-! ### Fetch -/

/-- What comes of a fetch: a fault or a wait; a line to be filled first; the word to be issued. -/
inductive Fetched where
  | stop (s : State)
  | fill (va : Dword)
  | word (s : State) (w : BitVec 96)

/-- A fault raised at fetch: nothing has issued at the PC, and the resume PC is that PC (11 R263). -/
def Ctx.fetchFault (x : Ctx) (code : BitVec 8) (addr : Dword) : State :=
  x.s.raiseRec x.st x.arm
    { code := code, shd := x.core.inShadow x.arm, eng := false, fetch := true, pc := x.fr.pc, addr := addr,
      mask := x.fr.em, resume := x.fr.pc, cmd := none }

/-- Key of a line in the instruction cache of a core. -/
def icacheKey (core pa : Nat) : Nat := core * 2 ^ 46 + pa / 64 * 64
/-- A write to the line is unpublished for a core (08 R198). -/
def State.unpublished (s : State) (core pa : Nat) : Bool :=
  (Sparse.getD s.unpub [] (pa / 64)).any fun e => e.2.getLsbD core
/-- The slot of a PC. -/
def slotOf (pc : Dword) : Nat := pc.toNat % 64 / 12
/-- The address of a PC's line. -/
def lineVa (pc : Dword) : Dword := pc &&& ~~~(63 : Dword)

/-- The line of physical address `pa` read under a key (12 R284). -/
def State.codeLine (s : State) (key pa : Nat) : BitVec 512 := BitVec.ofNat 512 (natLE (s.physRead key (pa / 64 * 64) 64))

/-- The line that a fetch finds: in the core's instruction cache, or, in a page that no cache holds, in memory (14 R318). -/
def State.codeAt (s : State) (core : Nat) (t : Xl) : Option ILine :=
  if t.mt = 0 then Sparse.find? s.icache (icacheKey core t.pa)
  else some { data := s.codeLine t.key t.pa, key := t.key, ok := lineOk (s.codeLine t.key t.pa) }

/-- The arrival of fragment `a`, whose record is `f`, has passed its check, also in the checkpoints that hold it: a resumption there is
not checked again (R88). -/
def WaleCore.arrived (c : WaleCore) (a : ArmId) (f : Arm) : WaleCore :=
  if c.frag a = f then c.setFrag a { f with arr := false } else c
def Wale.arrived (w : Wale) (a : ArmId) (f : Arm) : Wale :=
  { w with
    core := w.core.arrived a f
    cur := { w.cur with ckpt := w.cur.ckpt.arrived a f }
    old := w.old.map fun r => { r with ckpt := r.ckpt.arrived a f } }

/-- Fetch at the fragment's PC, in the order of R90. A PC beyond 53 bits names no instruction and raises BTGT (R84; log
entry 21). -/
def State.fetch (x : Ctx) : Fetched :=
  let pc := x.fr.pc
  if pc >>> 53 ≠ 0 then .stop (x.fetchFault cBTGT pc)
  else match x.xlat pc.toNat .x with
    | .error .wait => .stop (x.hold (.wait false))
    | .error (.away p) => .stop (Ctx.hold { x with s := x.s.callBack p } (.wait false))
    | .error .perm => .stop (x.fetchFault cIPERM pc)
    | .error (.part d) => .stop (Ctx.fetchFault { x with s := x.s.countRej d } cIPERM pc)
    | .error .xlate | .error .demand => .stop (x.fetchFault cIXLATE pc)
    | .ok t =>
      if x.s.homeOff (x.s.homeDie t.pa) then .stop (x.hold (.wait false))
      else if x.s.unpublished x.st.hoop.core t.pa then .stop (x.fetchFault cUNPUB (lineVa pc))
      else match x.s.codeAt x.st.hoop.core t with
        | none => .fill (lineVa pc)
        | some l =>
          if l.key ≠ t.key then .fill (lineVa pc)
          else if !l.ok then .stop (x.fetchFault cLINE (lineVa pc))
          else if !slotPc pc || (x.fr.arr && !lineBtm l.data (slotOf pc)) then .stop (x.fetchFault cBTGT pc)
          else
            let s := x.s.noteXl x.die (some x.st.hoop.core) x.func pc.toNat t false
            .word (s.setWale x.st.w (x.st.wl.arrived x.arm x.fr)) (lineSlot l.data (slotOf pc))

/-- LINE_FILL: the line is read whole at level 2 and its check is made (R87). Nothing is filled when the fetch would fault before, or
in a page that no cache holds (14 R318). -/
def execLineFill (w : Nat) (va : Dword) (s : State) : Out :=
  .next (match s.site? w with
    | none => s
    | some st =>
      let c := st.hoop.core
      let f := st.basket.func
      match s.xlat st.hoop.die (some c) f (s.partOf f) va.toNat .x with
      | .error _ => s
      | .ok t =>
        if s.homeOff (s.homeDie t.pa) || s.unpublished c t.pa || t.mt != 0 then s
        else
          let d := s.codeLine t.key t.pa
          let s := s.touch st.hoop.die c 2 .read (t.loc va.toNat f (s.partOf f))
          { s with icache := Sparse.put s.icache (icacheKey c t.pa) { data := d, key := t.key, ok := lineOk d } })

/-- The BTM check of `tret.to` at its target, made before the frame closes (11 R265): the target names no slot, or its
line can be fetched and its bit is clear. -/
def Ctx.targetRejected (x : Ctx) (pc : Dword) : Bool :=
  !slotPc pc ||
  (match x.xlat pc.toNat .x with
    | .error _ => false
    | .ok t =>
      let d := x.s.codeLine t.key t.pa
      !x.s.unpublished x.st.hoop.core t.pa && lineOk d && !lineBtm d (slotOf pc))

end Sys2Proof.Machine
end

