-- ==== Sys2Proof/Machine/LoadStore.lean ====
section
/-! DEFINITION. Loads, stores, `pref`, `fence`, `cpub` and exact cells (08 R180 to R191, R196 to R199). -/

namespace Sys2Proof.Machine

/-- The strands of an access with their addresses: the visited ones, or one for a scalar form, which uses the private slice of strand
0 where its space is strand-private (log entry 82). -/
def Ctx.strandsOf (x : Ctx) (scalar : Bool) (f : Fin 32 → Dword) : List (Fin 32 × Dword) :=
  if scalar then [(0, f 0)] else x.vis.strands.map fun i => (i, f i)
/-- The address of a format M access in a space (04 R103). -/
def Ctx.mAddr (x : Ctx) (spc : Sp) (o : MOps) (i : Fin 32) : Dword :=
  x.ea (spc == .glob) o.base o.idx o.xs.toNat o.w.toNat (sx64 o.off) i
def Ctx.aAddr (x : Ctx) (spc : Sp) (o : AOps) (i : Fin 32) : Dword :=
  x.ea (spc == .glob) o.base o.idx o.xs.toNat o.w.toNat (o.off8.signExtend 64) i

/-! ### Loads (R187, R188) -/

/-- The place is the PUSH or POP offset of a mailbox slot, where each strand's access acts by itself (16 R358). -/
def isMailbox (p : Place) : Bool :=
  p.pcs.any fun e => match e.1 with
    | .glob pa _ _ _ _ _ => isIo pa && decide (0x0801_0000 ≤ pa % 2 ^ 28) && decide (pa % 2 ^ 28 < 0x0802_0000)
      && (pa % 256 == 0 || pa % 256 == 0x10)
    | _ => false
/-- One strand's read of a page of type I/O or mailbox. -/
def State.ioRead (s : State) (p : Place) (n : Nat) : List Byte × State :=
  match p.pcs with
  | [(.glob pa va key func part mt, _)] =>
    if isIo pa then s.ioLoad pa n else (s.locRead (.glob pa va key func part mt) n, s)
  | _ => (s.placeRead p, s)
/-- The reads of all strands in ascending order; strands at one address share a value but at a PUSH or POP. -/
def State.ioReads (s : State) (n : Nat) : List SAcc → List (Fin 32 × Dword × List Byte) → List (Fin 32 × Dword × List Byte) × State
  | [], acc => (acc, s)
  | e :: r, acc =>
    match acc.find? fun q => q.2.1 == e.a && !isMailbox e.p with
    | some q => State.ioReads s n r (acc ++ [(e.i, e.a, q.2.2)])
    | none =>
      let (bs, s1) := s.ioRead e.p n
      State.ioReads s1 n r (acc ++ [(e.i, e.a, bs)])
/-- The value of a strand among reads. -/
def strandVal (vs : List (Fin 32 × Nat)) (i : Fin 32) : Nat :=
  match vs.find? fun e => e.1 == i with
  | some e => e.2
  | none => 0
/-- A read at a place would take bytes from a held update of the wale whose value is settled only at its release, or from a held
store and from other writes together (12 R272, R274): it waits for the release (log entry 79). A strand-private slice has no
other writer. -/
def Ctx.underOwn (x : Ctx) (ps : List SAcc) : Bool :=
  ps.any fun e => e.p.pcs.any fun p => match p.1 with
    | .priv _ _ => false
    | _ => x.st.wl.unsettled p.1 p.2
/-- The values that a load of ordinary memory reads, under 02 R50. -/
def Ctx.loadVals (x : Ctx) (ps : List SAcc) : List (Fin 32 × Nat) :=
  let v := x.s.ownView x.st.w x.st.wl x.die
  ps.map fun e => (e.i, natLE (v.placeRead e.p))

/-- The level of a format M access (R185). -/
def mLevel (o : MOps) : Level := .of o.cp.toNat o.ord.toNat o.scope.toNat
/-- A load of `n` bytes per strand at a level with the result that `res` makes of the values. -/
def Ctx.loadWith (x : Ctx) (spc : Sp) (scalar : Bool) (addr : Fin 32 → Dword) (n lv : Nat)
    (res : Ctx → List (Fin 32 × Nat) → Res) : State :=
  match x.placeAll spc (x.strandsOf scalar addr) n n .r false scalar with
  | .err e m a parts => x.accessErr e m a parts 0
  | .ok ps =>
    let x := x.notePlaces ps false
    let io := ps.any fun e => e.p.io
    if io && !x.st.wl.drained then x.drainWait
    else if x.underOwn ps then x.drainWait
    else match x.homeOffStrands ps with
      | e :: r => if x.core.hoff.isSome then x.hold (.wait false) else x.sendHomeOff (e :: r) scalar
      | [] =>
        if io then
          let (vs, s) := x.s.ioReads n ps []
          let x := { x with s := s }
          x.finishSingle (res x (vs.map fun e => (e.1, natLE e.2.2)))
        else
          let x := x.touchPlaces ps lv .read
          x.finish false (res x (x.loadVals ps))
/-- A load instruction of one space. -/
def Ctx.load (x : Ctx) (spc : Sp) (o : MOps) : State :=
  x.loadWith spc (!o.d.isV) (x.mAddr spc o) (2 ^ o.w.toNat) (mLevel o).at_ fun x vs =>
    { writes := x.dataWrites o.d o.w.toNat fun i => extendTo o.w.toNat (mbit o.var 0) (strandVal vs i) }

def execLd (o : MOps) (s : State) : Out := issueWith (.ld o) s fun x => x.load .glob o
def execLdsp (o : MOps) (s : State) : Out := issueWith (.ldsp o) s fun x => x.load .sp o
def execLdcl (o : MOps) (s : State) : Out := issueWith (.ldcl o) s fun x => x.load .cl o
def execLddie (o : MOps) (s : State) : Out := issueWith (.lddie o) s fun x => x.load .dsc o
def execLdpv (o : MOps) (s : State) : Out := issueWith (.ldpv o) s fun x => x.load .pv o

/-! ### Stores (R187, R188) -/

/-- The strands of a store that write: of those at one address the highest (R187, 12 R273); each at a PUSH of a mailbox (16 R358). -/
def storing : List SAcc → List SAcc
  | [] => []
  | e :: r =>
    let covers (q : SAcc) : Bool := q.p.pcs.map (fun p => p.1.base) == e.p.pcs.map fun p => p.1.base
    if r.any covers && !isMailbox e.p then storing r else e :: storing r
/-- A store of bytes per strand: the held effect that writes them in ascending strand order. -/
def Ctx.storeWith (x : Ctx) (spc : Sp) (scalar : Bool) (addr : Fin 32 → Dword) (n : Nat) (lv : Level)
    (bytes : Fin 32 → List Byte) : State :=
  match x.placeAll spc (x.strandsOf scalar addr) n n .w false scalar with
  | .err e m a parts => x.accessErr e m a parts 1
  | .ok ps => (x.notePlaces ps true).holdEffect (.store ((storing ps).flatMap fun e => placeAccs e.p.pcs (bytes e.i)) lv)
/-- A store instruction of one space; s data without an index is a scalar form. -/
def Ctx.store (x : Ctx) (spc : Sp) (o : MOps) : State :=
  x.storeWith spc (!o.d.isV && o.idx == .none) (x.mAddr spc o) (2 ^ o.w.toNat) (mLevel o) (x.dataBytes o.d o.w.toNat)

def execSt (o : MOps) (s : State) : Out := issueWith (.st o) s fun x => x.store .glob o
def execStsp (o : MOps) (s : State) : Out := issueWith (.stsp o) s fun x => x.store .sp o
def execStcl (o : MOps) (s : State) : Out := issueWith (.stcl o) s fun x => x.store .cl o
def execStdie (o : MOps) (s : State) : Out := issueWith (.stdie o) s fun x => x.store .dsc o
def execStpv (o : MOps) (s : State) : Out := issueWith (.stpv o) s fun x => x.store .pv o

/-- A strand's prefetch of width `n`: the line comes to the CP level; one that would fault, wait or meet a page that is not cached is
ignored, and so is one whose line is homed on a die in warm reset (R189, R191, 16 R361). -/
def Ctx.prefetch (x : Ctx) (lv n : Nat) (a : Dword) : Ctx :=
  if a.toNat % n ≠ 0 then x
  else match x.xlat a.toNat .r with
  | .error _ => x
  | .ok t =>
    if t.mt ≠ 0 ∨ isIo t.pa ∨ x.s.homeOff (x.s.homeDie t.pa) then x
    else
      let s := x.s.noteXl x.die (some x.st.hoop.core) x.func a.toNat t false
      { x with s := s.touch x.die x.st.hoop.core lv .read (t.loc a.toNat x.func x.part) }
/-- `pref` performs nothing and raises no fault but ILL (R189). -/
def execPref (o : MOps) (s : State) : Out :=
  issueWith (.pref o) s fun x =>
    (((x.strandsOf false (x.mAddr .glob o)).foldl (fun (x : Ctx) e => x.prefetch (mLevel o).at_ (2 ^ o.w.toNat) e.2) x)).finish false {}

/-! ### Exact cells (R196) -/

def Ctx.cellAcc (x : Ctx) (addr : Fin 32 → Dword) (scalar : Bool) (need : Need) : Placed :=
  x.placeAll .glob (x.strandsOf scalar addr) 64 64 need true scalar

/-- The level of a format M access with the fields of 04 R104. -/
def aLevel (o : AOps) : Level := .of o.cp.toNat o.ord.toNat o.scope.toNat
def execXadd (o : AOps) (s : State) : Out :=
  issueWith (.xadd o) s fun x =>
    let scalar := !o.x.isV && o.idx == .none
    match x.cellAcc (x.aAddr .glob o) scalar .w with
    | .err e m a parts => x.accessErr e m a parts 2
    | .ok ps =>
      (x.notePlaces ps true).holdEffect
        (.xadd (mbit o.var 0) (ps.flatMap fun e => e.p.pcs.map fun p => (p.1, x.src o.x e.i)) (aLevel o))
/-- The value of R82 for each strand, and the flags of the visited ones. -/
def xrdRes (d : Opnd) (x : Ctx) (vs : List (Fin 32 × Nat)) : Res :=
  let v (i : Fin 32) : FRes Nat := cellRead (BitVec.ofNat 512 (strandVal vs i))
  { writes := x.dataWrites d 2 fun i => (v i).val, flags := vs.foldl (fun a e => a ||| (v e.1).fl) 0 }
def execXrd (o : MOps) (s : State) : Out :=
  issueWith (.xrd o) s fun x =>
    let scalar := !o.d.isV
    match x.cellAcc (x.mAddr .glob o) scalar .r with
    | .err e m a parts => x.accessErr e m a parts 0
    | .ok ps =>
      let x := x.notePlaces ps false
      if x.underOwn ps then x.drainWait
      else match x.homeOffStrands ps with
      | e :: r => if x.core.hoff.isSome then x.hold (.wait false) else x.sendHomeOff (e :: r) scalar
      | [] =>
        let x := x.touchPlaces ps (mLevel o).at_ .read
        x.finish false (xrdRes o.d x (x.loadVals ps))
def execXclr (o : MOps) (s : State) : Out :=
  issueWith (.xclr o) s fun x =>
    match x.cellAcc (x.mAddr .glob o) false .w with
    | .err e m a parts => x.accessErr e m a parts 2
    | .ok ps =>
      (x.notePlaces ps true).holdEffect (.store ((storing ps).flatMap fun e => placeAccs e.p.pcs (bytesLE 64 0)) (mLevel o))

/-! ### Fences and code publication (R197 to R199) -/

/-- The drain of `fence` and `cpub`: every earlier region released, every held effect performed. -/
def Ctx.drainThen (x : Ctx) (f : Ctx → State) : State := if x.st.wl.drained then f x else x.drainWait
/-- The wale's stores below a level are written back to it (R197). -/
def Ctx.writeBack (x : Ctx) (lv : Nat) : Ctx :=
  { x with s := x.s.writeBackTo lv x.die x.st.hoop.core x.part x.func }
/-- `fence`: a `nop` at scope wale; else it takes a reported engine fault (09 R211) and drains. -/
def execFence (o : MOps) (s : State) : Out :=
  issueWith (.fence o) s fun x =>
    if o.scope = 0 then x.finish false {}
    else match x.st.wl.engFaults with
      | e :: _ => x.raiseEng e
      | [] => x.drainThen fun x => (x.writeBack (levelOf 0 1 o.scope.toNat)).finish false {}

/-- The cores that a publication of a scope reaches (R199): core, cluster, die, all. -/
def pubCores (scope core : Nat) : BitVec 384 :=
  match scope with
  | 1 => BitVec.twoPow 384 core
  | 2 => (BitVec.ofNat 384 (2 ^ 12 - 1)) <<< (core / 12 * 12)
  | 3 => (BitVec.ofNat 384 (2 ^ 96 - 1)) <<< (core / 96 * 96)
  | _ => BitVec.allOnes 384
/-- A number that tells agents apart. -/
def Agent.code : Agent → Nat
  | .other => 0
  | .wale w => 2 * w + 1
  | .cmd w _ _ _ => 2 * w + 2
/-- The writes of an agent to a line are ordered before this `cpub` of wale `w` (R199): those of the wale itself; not those of its own
engine commands that no `wtb.vis` or `wtc` has covered. Of the writes of other agents the model does not know the order of 12 R282: for
them it is a free choice (log entry 19). -/
def State.ordersBefore (s : State) (w line : Nat) (g : Agent) : Bool :=
  match g with
  | .wale v => v == w || Config.publishChoice s.free line g.code
  | .cmd v _ _ _ => v != w && Config.publishChoice s.free line g.code
  | .other => Config.publishChoice s.free line g.code
/-- A publication by wale `w` for `cores`. -/
def State.publish (s : State) (w : Nat) (cores : BitVec 384) : State :=
  { s with
    unpub := s.unpub.filterMap fun e =>
      let es := (e.2.map fun q => (q.1, if s.ordersBefore w e.1 q.1 then q.2 &&& ~~~cores else q.2)).filter fun q => q.2 != 0
      if es.isEmpty then none else some (e.1, es)
    free := s.free + 1 }
/-- `cpub`: the write-back takes in every line that it publishes and the core's L1 holds modified, to level 2 at least (R199). -/
def execCpub (o : MOps) (s : State) : Out :=
  issueWith (.cpub o) s fun x =>
    x.drainThen fun x =>
      let s := (x.writeBack (max 2 (levelOf 0 1 o.scope.toNat))).s
      Ctx.finish { x with s := s.publish x.st.w (pubCores o.scope.toNat x.st.hoop.core) } false {}

end Sys2Proof.Machine
end

