-- ==== Sys2Proof/Machine/Copy.lean ====
section
/-! DEFINITION. Engine commands at issue, batches and waits (09 R206 to R228): the checks and the held effects. What the
engines do after release is in Engine.lean. -/

namespace Sys2Proof.Machine

/-! ### Classes and counters (R44, R209) -/

/-- The classes whose counters a command uses (R206, 10 R249). -/
def cmdClasses : Instr → List (Fin 4)
  | .cpy _ | .cpyst _ | .cpyt _ => [0]
  | .cpymm _ => [0, 2]
  | .gthr _ | .scat _ => [1]
  | .coll _ => [3]
  | .mma _ | .mmad _ | .mconv _ | .mzero _ | .mld _ | .mst _ | .rsdef _ | .rsinv _ | .rssave _ | .rsload _ => [2]
  | _ => []
/-- The classes of a retained command: a follow-on released again alone is a matrix command. -/
def CmdOps.classes (o : CmdOps) : List (Fin 4) := if o.fo then [2] else cmdClasses o.ins
/-- A command held by the wale uses class `k`. -/
def Held.usesClass (k : Fin 4) : Held → Bool
  | .cmd o => o.classes.contains k
  | _ => false
/-- The command would raise a counter above 255 (R209). -/
def Ctx.counterFull (x : Ctx) (ks : List (Fin 4)) : Bool :=
  ks.any fun k => decide (255 ≤ vget x.st.wl.cnt k + (x.st.wl.heldAll.filter (Held.usesClass k)).length)

/-- The retained command of an instruction at the issuing fragment. -/
def Ctx.cmdOps (x : Ctx) (i : Instr) (d a b c : Dword) (idx : List (Nat × Word)) : CmdOps :=
  { ins := i, pc := x.fr.pc, d := d, a := a, b := b, c := c, idx := idx, off := 0, again := false, fo := false }

/-- The first fault of a list of checks (condition, code, address), strands `em`. -/
def Ctx.firstFault (x : Ctx) (cs : List (Bool × BitVec 8 × Dword)) : Option Flt :=
  (cs.find? (·.1)).map fun e => { code := e.2.1, addr := e.2.2, mask := x.fr.em }

/-- A command issues: its checks, its counters, then its held effect. -/
def Ctx.command (x : Ctx) (checks : List (Bool × BitVec 8 × Dword)) (o : CmdOps) : State :=
  match x.firstFault checks with
  | some f => x.raise f
  | none => if x.counterFull o.classes then x.hold (.wait false) else x.holdEffect (.cmd o)

/-- The value of an s register or pair operand, zero for none. -/
def Ctx.opt (x : Ctx) (o : Opnd) : Dword := if o = .none then 0 else (x.uni o).setWidth 64

/-! ### Address checks at issue (R213) -/

def aligned (a : Dword) (n : Nat) : Bool := a.toNat % n == 0
/-- A local address range lies within its space (08 R180, R181); `k` is a space code of R212. -/
def Ctx.localRange (x : Ctx) (k : Nat) (a n : Nat) : Bool :=
  let spb := pkSp x.st.skein.pkt
  match k with
  | 1 => localOk a n spb
  | 2 => decide (a < 2 ^ 32) && decide (a / 393216 < pkRim x.st.skein.pkt) && localOk (a % 393216) n spb
  | _ =>
    let r := x.s.reg (rDscWin x.die x.part)
    getFld r 16 16 == 1 && localOk a n (getFld r 15 8 * 2 ^ 20)
/-- A sync word operand is out of alignment, or out of range. -/
def Ctx.syncBad (x : Ctx) (o : Opnd) (cl : Bool) : List (Bool × BitVec 8 × Dword) × List (Bool × BitVec 8 × Dword) :=
  if o = .none then ([], [])
  else
    let a := x.opt o
    ([(!aligned a 16, cALIGN, a)], [(!x.localRange (if cl then 2 else 1) a.toNat 16, cRANGE, a)])

/-! ### Copies (R212 to R214) -/

/-- The checks of `cpy` and `cpyst` in the order of 11 R262. -/
def Ctx.copyChecks (x : Ctx) (o : ROps) : List (Bool × BitVec 8 × Dword) :=
  let d := x.uni64 o.d
  let a := x.uni64 o.a
  let n := (x.uni o.b).toNat
  let dsp := fld o.mod 1 0
  let ssp := fld o.mod 3 2
  let sy := x.syncBad o.c (mbit o.mod 4)
  [(!aligned d 16, cALIGN, d), (!aligned a 16, cALIGN, a), (n % 16 != 0, cALIGN, d)] ++ sy.1
  ++ [(decide (2 ^ 24 < n), cRANGE, 0), (dsp != 0 && !x.localRange dsp d.toNat n, cRANGE, d),
      (ssp != 0 && !x.localRange ssp a.toNat n, cRANGE, a)] ++ sy.2
  ++ [(dsp == 0 && d >>> 53 != 0, cXLATE, d), (ssp == 0 && a >>> 53 != 0, cXLATE, a)]
def execCpy (o : ROps) (s : State) : Out :=
  issueWith (.cpy o) s fun x =>
    x.command (x.copyChecks o)
      (x.cmdOps (.cpy o) (x.uni64 o.d) (x.uni64 o.a) ((x.uni o.b).setWidth 64) (x.opt o.c) [])
def execCpyst (o : ROps) (s : State) : Out :=
  issueWith (.cpyst o) s fun x =>
    x.command (x.copyChecks o)
      (x.cmdOps (.cpyst o) (x.uni64 o.d) (x.uni64 o.a) ((x.uni o.b).setWidth 64) (x.opt o.c) [])

/-! ### Batches (R215 to R218) -/

/-- Sealed batches of the wale not yet complete, and seals not yet released. A batch is complete when its commands are, with an
error or without (R211). -/
def Ctx.sealCount (x : Ctx) : Nat :=
  (x.st.wl.sealed.filter fun b => b.cmds.any fun c => (Sparse.find? x.s.cmds c).isSome).length
  + (x.st.wl.heldAll.filter fun h => h == .seal).length
def execSeal (o : ROps) (s : State) : Out :=
  issueWith (.seal o) s fun x =>
    if 64 ≤ x.sealCount then (if x.st.wl.heldAll.contains .seal then x.drainWait else x.hold (.wait false))
    else if !x.room .seal then x.drainWait
    else (x.withCore { x.core with batch := x.core.batch + 1 }).finish true { held := [.seal] }

/-- The batch is not among the `n` most recently sealed (R216). -/
def Ctx.covers (x : Ctx) (n : Nat) (b : Batch) : Bool := decide (n < (x.core.batch - b.num).toNat)
/-- The copy commands of a batch have all reached their source point, or their visibility point; a failed batch counts as
having reached both (11 R269). -/
def State.cmdReached (s : State) (vis : Bool) (c : Nat) : Bool :=
  match Sparse.find? s.cmds c with
  | none => true
  | some k => k.stage == .done || (!vis && k.stage == .sourced && k.upTo.isNone)
def State.batchReached (s : State) (vis : Bool) (b : Batch) : Bool := b.failed || b.cmds.all (s.cmdReached vis)
/-- The writes of commands of wale `w` that a wait has covered are ordered before what follows as the wale's own are (R217, 08 R199):
class, place in the class and batch say which. -/
def State.covered (s : State) (w : Nat) (f : Fin 4 → Nat → Option (BitVec 16) → Bool) : State :=
  let own (e : Agent × BitVec 384) : Bool := match e.1 with
    | .wale v => v == w
    | .cmd v c q b => v == w && f c q b
    | .other => false
  { s with unpub := s.unpub.map fun e =>
      match e.2.filter own with
      | [] => e
      | es => (e.1, (.wale w, es.foldl (fun m q => m ||| q.2) 0) :: e.2.filter fun q => !own q) }
/-- The first engine fault whose command a `wtb` covers. -/
def Ctx.batchFault (x : Ctx) (n : Nat) : Option EngFault :=
  x.st.wl.engFaults.find? fun e => x.st.wl.sealed.any fun b => x.covers n b && b.cmds.contains e.cmd
def Ctx.waitBatch (x : Ctx) (vis : Bool) (n : Nat) : State :=
  match x.batchFault n with
  | some e => x.raiseEng e
  | none =>
    if x.st.wl.sealed.all fun b => !x.covers n b || x.s.batchReached vis b then
      let s := if vis then x.s.covered x.st.w fun _ _ b => b.any fun k => decide (n < (x.core.batch - k).toNat) else x.s
      Ctx.finishSingle { x with s := s } {}
    else x.hold (.wait true)
def execWtbSrc (o : IOps) (s : State) : Out := issueWith (.wtbSrc o) s fun x => x.waitBatch false (fld o.imm 3 0)
def execWtbVis (o : IOps) (s : State) : Out := issueWith (.wtbVis o) s fun x => x.waitBatch true (fld o.imm 3 0)

/-- `wtc` (R218): an engine fault of a command that is not among the `n` youngest of the class is taken here. -/
def execWtc (o : IOps) (s : State) : Out :=
  issueWith (.wtc o) s fun x =>
    let c : Fin 4 := Fin.ofNat 4 (fld o.imm 1 0)
    let n := fld o.imm 9 2
    match x.st.wl.engFaults.find? fun e => e.cls == some c && decide (n < vget x.st.wl.relSeq c - e.seq) with
    | some e => x.raiseEng e
    | none =>
      if vget x.st.wl.cnt c ≤ n then
        let s := x.s.covered x.st.w fun k q _ => k == c && decide (n < vget x.st.wl.relSeq c - q)
        Ctx.finishSingle { x with s := s } {}
      else x.hold (.wait true)

/-! ### Streamer copies (R219 to R221) -/

/-- The checks of `cpyt` and `cpymm`: producer wale, sync word, origins. -/
def Ctx.streamChecks (x : Ctx) (o : XOps) : List (Bool × BitVec 8 × Dword) :=
  let sy := x.syncBad o.d (mbit o.flags 0)
  [(x.st.wl.idx != pkProducer x.st.skein.pkt, cRIGHTS, 0)] ++ sy.1 ++ sy.2
  ++ [((x.opt o.b).toNat / 2 ^ 30 != 0, cRANGE, 0)]
def execCpyt (o : XOps) (s : State) : Out :=
  issueWith (.cpyt o) s fun x =>
    x.command (x.streamChecks o) (x.cmdOps (.cpyt o) (x.opt o.d) (x.opt o.a) (x.opt o.b) 0 [])
def execCpymm (o : XOps) (s : State) : Out :=
  issueWith (.cpymm o) s fun x =>
    x.command (x.streamChecks o) (x.cmdOps (.cpymm o) (x.opt o.d) (x.opt o.a) (x.opt o.b) (x.opt o.c) [])

/-! ### Gather and scatter (R222) -/

/-- The global address of a row. -/
def rowAddr (b : Dword) (ix : Word) (k : Nat) : Dword := b + ix.setWidth 64 * BitVec.ofNat 64 (2 ^ k)
/-- A row command issues; a row address beyond 53 bits raises XLATE for its strands. -/
def Ctx.rowCommand (x : Ctx) (i : Instr) (o : XOps) : State :=
  let k := fld o.flags 3 0
  let d := x.opt o.d
  let b := x.uni64 o.b
  let sy := x.syncBad o.c (mbit o.flags 4)
  let idx := x.fr.em.strands.map fun s => (s.val, x.src o.a s)
  let far := idx.filter fun e => rowAddr b e.2 k >>> 53 != 0
  let checks : List (Bool × BitVec 8 × Dword) :=
    [(!aligned d (2 ^ k), cALIGN, d), (!aligned b (2 ^ k), cALIGN, b)] ++ sy.1
    ++ [(!x.localRange 1 d.toNat (32 * 2 ^ k), cRANGE, d)] ++ sy.2
  match x.firstFault checks with
  | some f => x.raise f
  | none =>
    match far with
    | e :: _ =>
      x.raise { code := cXLATE, addr := rowAddr b e.2 k, mask := maskOf fun s => far.any fun q => q.1 == s.val }
    | [] => x.command [] (x.cmdOps i d 0 b (x.opt o.c) idx)
def execGthr (o : XOps) (s : State) : Out := issueWith (.gthr o) s fun x => x.rowCommand (.gthr o) o
def execScat (o : XOps) (s : State) : Out := issueWith (.scat o) s fun x => x.rowCommand (.scat o) o

/-! ### Collectives (R223) -/

def execColl (o : XOps) (s : State) : Out :=
  issueWith (.coll o) s fun x =>
    let d := x.uni64 o.d
    let a := x.uni64 o.a
    let n := (x.uni o.b).toNat
    let g := (x.uni o.c).toNat
    let p := x.s.regF (rCollGrp g) 10 0
    x.command
      [(!aligned d 16, cALIGN, d), (!aligned a 16, cALIGN, a), (n == 0 || decide (2 ^ 24 < n), cRANGE, 0),
       (fld o.flags 2 0 == 3 && decide (g < 256) && decide (p ≤ o.ts.toNat), cRANGE, 0),
       (d >>> 53 != 0, cXLATE, d), (a >>> 53 != 0, cXLATE, a)]
      (x.cmdOps (.coll o) d a (BitVec.ofNat 64 n) (BitVec.ofNat 64 g) [])

/-! ### Spawn, signals, cross-die waits (R225 to R228) -/

/-- Unreleased `spawn`s of a basket. -/
def State.heldSpawns (s : State) (b : Nat) : Nat :=
  let ks := (s.skeinsOf b).map (·.1)
  let hs := (s.hoops.filter fun e => ks.contains e.2.skein).map (·.1)
  ((s.wales.filter fun e => hs.contains e.2.hoop).flatMap fun e => e.2.heldAll.filter fun h => match h with
    | .cmd o => (match o.ins with | .spawn _ => true | _ => false)
    | _ => false).length
/-- The spawn-tree counter, with the spawns not yet released, has no room (01 R18). -/
def Ctx.spawnFull (x : Ctx) : Bool := decide (0xFFFFF ≤ x.st.basket.ctr + x.s.heldSpawns x.st.skein.basket)
def execSpawn (o : ROps) (s : State) : Out :=
  issueWith (.spawn o) s fun x =>
    let a := x.uni64 o.a
    if !aligned a 64 then x.raise { code := cALIGN, addr := a, mask := x.fr.em }
    else if a >>> 53 ≠ 0 then x.raise { code := cXLATE, addr := a, mask := x.fr.em }
    else if x.spawnFull then x.hold (.wait true)
    else x.holdEffect (.cmd (x.cmdOps (.spawn o) 0 a 0 0 []))
def execSig (o : ROps) (s : State) : Out :=
  issueWith (.sig o) s fun x =>
    let t := x.uni o.a
    x.command [(t >>> 14 != 0, cRANGE, 0)]
      (x.cmdOps (.sig o) 0 (t.setWidth 64) ((x.uni o.b).setWidth 64) 0 [])

def execHwaitd (o : ROps) (s : State) : Out :=
  issueWith (.hwaitd o) s fun x =>
    let t := x.uni o.a
    if t >>> 14 ≠ 0 then x.raise { code := cRANGE, addr := 0, mask := x.fr.em }
    else x.arriveColl (.hwaitd o) t (x.uni o.b)

end Sys2Proof.Machine
end

