-- ==== Sys2Proof/Machine/Launch.lean ====
section
/-! DEFINITION. Launch packets: the checks of 01 R13, R20 and 15 R335, and the performing of a `spawn` (01 R17, 09 R226). -/

namespace Sys2Proof.Machine

/-- Number of dies of a mask. -/
def dieCount (m : BitVec 4) : Nat := ((List.range 4).filter fun i => m.getLsbD i).length
def dieList (m : BitVec 4) : List (Fin 4) := (List.finRange 4).filter fun i => m.getLsbD i.val

/-- A PC given as an offset from CBASE names a slot (04 R84). -/
def pcField (cb off : Nat) : Bool := slotPc (BitVec.ofNat 64 (cb + off)) && decide (cb + off < 2 ^ 53)

/-- The packet fails a shape check common to launches and spawns. -/
def shapeBad (p : BitVec 512) : Bool :=
  let cb := (pkCbase p).toNat
  pkHoops p == 0 || pkHoops p % pkRim p != 0 || pkDies p == 0 || pkYdl p == 0 || pkF p 60 4 != 0
  || decide (384 < pkF p 64 9) || decide (256 < pkTiles p) || decide (pkWales p ≤ pkProducer p) || decide (256 < pkF p 87 9)
  || decide (256 < pkRsBase p + pkRsCount p) || pkF p 115 13 != 0
  || cb % 64 != 0 || decide (2 ^ 53 ≤ cb) || !pcField cb (pkF p 192 32)
  || (pkF p 224 32 != 0 && !pcField cb (pkF p 224 32))
  || (pkParam p).toNat % 64 != 0 || (pkCdone p).toNat % 8 != 0 || (pkFaultRep p).toNat % 32 != 0
  || (!pkGnode p && pkNode p != 0) || pkF p 464 16 != 0 || pkF p 495 17 != 0
  || (pkRecov p && (pkHeld p || decide (1 < pkRim p)))
  || (pkSpread p && decide (1 < pkRim p) && decide (1 < dieCount (pkDies p)))

/-- A launch of function `f` is rejected with SHAPE. -/
def State.launchBad (s : State) (f : Nat) (p : BitVec 512) : Bool :=
  shapeBad p || (pkCsigEn p && decide (s.sigCount f ≤ pkCsig p))

/-- A spawn packet is rejected with SHAPE: the fields marked launch only must be zero, and PRIO may not exceed the
basket's. -/
def spawnBad (b : Basket) (p : BitVec 512) : Bool :=
  shapeBad p || pkF p 0 8 != 1 || pkRecov p || pkGnode p || pkF p 96 19 != 0 || pkF p 224 32 != 0 || pkCdone p != 0
  || pkFaultRep p != 0 || pkF p 448 16 != 0 || pkF p 480 15 != 0 || decide (pkPrio b.pkt < pkPrio p)

/-- What comes of performing a `spawn`: it waits for its packet's page, faults, or its skein exists. -/
inductive Spawned where
  | wait (s : State)
  | fault (s : State) (code : BitVec 8) (addr : Dword)
  | done (s : State)

/-- A `spawn` of the wale at `st` is performed: the packet is read at level 3 and checked, the counter is incremented, the
skein takes the next number, every write performed so far is published (12 R284). -/
def State.spawnPerform (s : State) (st : Site) (a : Dword) : Spawned :=
  match s.xlat st.hoop.die (some st.hoop.core) st.basket.func (s.partOf st.basket.func) a.toNat .r with
  | .error .wait => .wait s
  | .error (.away p) => .wait (s.callBack p)
  | .error .demand =>
    if st.wl.refused.contains (a.toNat / 8192) then .fault s cXLATE a
    else .wait (s.requestPage st.basket.func a.toNat st.hoop.die 3).2
  | .error .xlate => .fault s cXLATE a
  | .error (.part d) => .fault (s.countRej d) cPERM a
  | .error .perm => .fault s cPERM a
  | .ok t =>
    if isIo t.pa || 2 ≤ t.mt then .fault s cPERM a
    else if s.homeOff (s.homeDie t.pa) then .fault s cHOMEOFF a
    else
      let s := s.noteXl st.hoop.die (some st.hoop.core) st.basket.func a.toNat t false
      let s := s.touch st.hoop.die st.hoop.core 3 .read (t.loc a.toNat st.basket.func (s.partOf st.basket.func))
      let p : BitVec 512 := BitVec.ofNat 512 (natLE (s.physRead t.key t.pa 64))
      if spawnBad st.basket p then .fault s cSHAPE 0
      else
        let b := st.skein.basket
        let s := s.updBasket b fun x => { x with ctr := x.ctr + 1, nextSkein := x.nextSkein + 1 }
        .done (s.addSkein b st.basket.nextSkein p).publishAll

end Sys2Proof.Machine
end

