-- ==== Sys2Proof/Machine/Matrix.lean ====
section
/-! DEFINITION. Tensor slots and the issue of matrix and reuse commands (10 R230 to R236, R240, R241, R249, R252). What the
array and the reuse unit do after release is in Array.lean. -/

namespace Sys2Proof.Machine

/-! ### Descriptors (R231, R232) -/

/-- The fields of a descriptor. -/
structure Desc where
  base : Nat
  sbase : Nat
  dims : List Nat
  strs : List Nat
  fmt : Nat
  rank : Nat
  conv : Bool
  space : Nat
  sdie : Nat
  rsv : Nat
  pad : Nat
  geo : Nat
  deriving DecidableEq, Repr

def Desc.of (d : BitVec 512) : Desc :=
  let f (lo n : Nat) : Nat := (d.extractLsb' lo n).toNat
  { base := f 0 64, sbase := f 64 64, dims := (List.range 5).map fun i => f (128 + 32 * i) 32,
    strs := (List.range 4).map fun i => f (288 + 32 * i) 32, fmt := f 416 4, rank := f 420 3, conv := d.getLsbD 423,
    space := f 424 3, sdie := f 427 2, rsv := f 429 19, pad := f 448 32, geo := f 480 32 }

def Desc.kh (d : Desc) : Nat := nfld d.geo 3 0
def Desc.kw (d : Desc) : Nat := nfld d.geo 7 4
def Desc.stride (d : Desc) : Nat := nfld d.geo 10 8 + 1
def Desc.padg (d : Desc) : Nat := nfld d.geo 14 11
def Desc.dil (d : Desc) : Nat := nfld d.geo 17 15 + 1
def Desc.dim (d : Desc) (k : Nat) : Nat := d.dims.getD k 1
/-- Byte stride of dimension `k`, 1 to 4. -/
def Desc.str (d : Desc) (k : Nat) : Nat := d.strs.getD (k - 1) 0
def isBfp (f : Nat) : Bool := 7 ≤ f && f ≤ 9

/-- Limits of each field, and those that join fields of one word (R231, R232). -/
def Desc.fieldsOk (d : Desc) : Bool :=
  decide (d.base < 2 ^ 53) && d.dims.all (fun x => decide (1 ≤ x) && decide (x ≤ 2 ^ 24))
  && decide (d.fmt ≤ 9) && decide (1 ≤ d.rank) && decide (d.rank ≤ 5) && decide (d.space ≤ 4) && d.rsv == 0
  && (d.sdie == 0 || d.space == 3) && nfld d.geo 31 18 == 0
  && (!d.conv || (d.rank == 4 && (d.fmt == 1 || d.fmt == 2 || isBfp d.fmt)))
/-- The rules that join fields of more than one word (R232). -/
def Desc.jointOk (d : Desc) : Bool :=
  (List.range 5).all (fun k => decide (k < d.rank) || d.dim k == 1)
  && (List.range 4).all (fun k => decide (k + 1 < d.rank) || d.strs.getD k 0 == 0)
  && (d.sbase == 0 || isBfp d.fmt) && (d.pad == 0 || !isBfp d.fmt)
  && (d.space == 4 || (d.base % 16 == 0 && d.sbase % 16 == 0 && d.strs.all fun x => x % 16 == 0))
  && (!isBfp d.fmt || d.dim 0 % 32 == 0)
  && (d.space != 4 || (d.fmt == 0 && d.rank == 2 && decide (d.dim 0 ≤ 16) && decide (d.dim 1 ≤ 16)
      && decide (d.base < 256)))
  && (if d.conv then d.kh != 0 && d.kw != 0 else d.geo == 0)
def Desc.ok (d : Desc) : Bool := d.fieldsOk && d.jointOk

/-- The checks that `tsset` makes of word `k` (R232). -/
def wordOk (k : Nat) (x : Word) : Bool :=
  if k = 1 then fld x 31 21 == 0
  else if 4 ≤ k ∧ k ≤ 8 then decide (1 ≤ x.toNat) && decide (x.toNat ≤ 2 ^ 24)
  else if k = 13 then
    decide (fld x 3 0 ≤ 9) && decide (1 ≤ fld x 6 4) && decide (fld x 6 4 ≤ 5) && decide (fld x 10 8 ≤ 4)
    && fld x 31 13 == 0 && (fld x 12 11 == 0 || fld x 10 8 == 3)
    && (fld x 7 7 == 0 || (fld x 6 4 == 4 && (fld x 3 0 == 1 || fld x 3 0 == 2 || isBfp (fld x 3 0))))
  else if k = 15 then fld x 31 18 == 0
  else true

/-! ### Slot instructions (R234) -/

/-- A tensor slot as the wale sees it: its own held writes count (R50). -/
def Wale.slotView (w : Wale) (h : Hoop) (n : Nat) : TSlot :=
  w.heldAll.foldl (fun t e => match e with
    | .slot m op => if m.val = n then op.apply t else t
    | _ => t) (h.slotAt n)

/-- `tsdef` reads the descriptor as a load of the wale does: not from under its own held updates (log entry 79). -/
def execTsdef (o : XOps) (s : State) : Out :=
  issueWith (.tsdef o) s fun x =>
    let a := x.uni o.a
    if a.toNat % 64 ≠ 0 then x.raise { code := cALIGN, addr := a.setWidth 64, mask := x.fr.em }
    else if !localOk a.toNat 64 (pkSp x.st.skein.pkt) then
      x.raise { code := cRANGE, addr := a.setWidth 64, mask := x.fr.em }
    else if x.st.wl.unsettled (.sp x.st.wl.hoop a.toNat) 64 then x.drainWait
    else
      let d : BitVec 512 :=
        BitVec.ofNat 512 (natLE ((x.s.ownView x.st.w x.st.wl x.die).locRead (.sp x.st.wl.hoop a.toNat) 64))
      if (Desc.of d).ok then x.holdEffect (.slot (Fin.ofNat 64 o.ts.toNat) (.def d)) else x.raiseEm cSHAPE
def execTsset (o : XOps) (s : State) : Out :=
  issueWith (.tsset o) s fun x =>
    let k := (x.uni o.a).toNat
    if 15 < k then x.raiseEm cRANGE
    else if !(x.st.wl.slotView x.st.hoop o.ts.toNat).valid || !wordOk k (x.uni o.b) then x.raiseEm cSHAPE
    else x.holdEffect (.slot (Fin.ofNat 64 o.ts.toNat) (.set (Fin.ofNat 16 k) (x.uni o.b)))
def execTsinv (o : XOps) (s : State) : Out :=
  issueWith (.tsinv o) s fun x => x.holdEffect (.slot (Fin.ofNat 64 o.ts.toNat) .inv)

/-! ### Commands (R235, R236) -/

/-- Queued matrix and reuse commands of a core (R241). -/
def State.queuedMatrix (s : State) (core : Nat) : Nat :=
  (s.cmds.filter fun e => e.2.cls == 2 && e.2.stage == .queued && (match s.hoop? e.2.hoop with
    | some h => h.core == core
    | none => false)).length
/-- A matrix or reuse command issues: its checks, room in the core's queue, then its held effect. -/
def Ctx.matrix (x : Ctx) (checks : List (Bool × BitVec 8 × Dword)) (o : CmdOps) : State :=
  match x.firstFault checks with
  | some f => x.raise f
  | none => if 16 ≤ x.s.queuedMatrix x.st.hoop.core then x.hold (.wait false) else x.command [] o
/-- The check of a tile number and of a reuse-slot number. -/
def Ctx.tileBad (x : Ctx) (t : Nat) : Bool × BitVec 8 × Dword :=
  (decide (pkTiles x.st.skein.pkt ≤ t), cSLOT, BitVec.ofNat 64 t)
def Ctx.reuseBad (x : Ctx) (o : XOps) : Bool × BitVec 8 × Dword :=
  (decide (pkRsCount x.st.basket.pkt ≤ o.rs.toNat), cSLOT, BitVec.ofNat 64 o.rs.toNat)
/-- The retained command of format X operands held in s registers. -/
def Ctx.xOps (x : Ctx) (i : Instr) (o : XOps) : CmdOps :=
  x.cmdOps i (x.opt o.d) (x.opt o.a) (x.opt o.b) (x.opt o.c) []
def tileOf (d : Dword) : Nat := d.toNat % 256

def execMma (o : XOps) (s : State) : Out :=
  issueWith (.mma o) s fun x =>
    let k := (x.uni o.b).toNat
    x.matrix [x.tileBad (tileOf (x.opt o.d)),
      (k == 0 || decide (4096 < k) || (isBfp o.sub.toNat && k % 32 != 0), cRANGE, 0)] (x.xOps (.mma o) o)
def execMmad (o : XOps) (s : State) : Out :=
  issueWith (.mmad o) s fun x => x.matrix [x.tileBad (tileOf (x.opt o.d)), x.reuseBad o] (x.xOps (.mmad o) o)
def execMconv (o : XOps) (s : State) : Out :=
  issueWith (.mconv o) s fun x =>
    let k := fld (x.uni o.b) 31 16
    x.matrix [x.tileBad (tileOf (x.opt o.d)), (k == 0 || (isBfp o.sub.toNat && k % 32 != 0), cRANGE, 0)]
      (x.xOps (.mconv o) o)
def execMzero (o : XOps) (s : State) : Out :=
  issueWith (.mzero o) s fun x =>
    let t := pkTiles x.st.skein.pkt
    x.matrix [(decide (t ≤ o.ts.toNat + o.ts2.toNat), cSLOT, BitVec.ofNat 64 (max o.ts.toNat t))] (x.xOps (.mzero o) o)
def execMld (o : XOps) (s : State) : Out :=
  issueWith (.mld o) s fun x => x.matrix [x.tileBad (tileOf (x.opt o.d))] (x.xOps (.mld o) o)
def execMst (o : XOps) (s : State) : Out :=
  issueWith (.mst o) s fun x => x.matrix [x.tileBad (tileOf (x.opt o.d))] (x.xOps (.mst o) o)

/-- NLIM, SATTH and K of `rsdef` are out of range (R249). -/
def rsdefBad (b : Word) : Bool :=
  decide (64 < fld b 6 0) || decide (256 < fld b 15 7) || fld b 26 16 % 32 != 0 || decide (fld b 26 16 < 32)
  || decide (1024 < fld b 26 16) || fld b 31 27 != 0
def execRsdef (o : XOps) (s : State) : Out :=
  issueWith (.rsdef o) s fun x =>
    x.matrix [x.reuseBad o, (rsdefBad (x.uni o.b), cRANGE, 0)] (x.xOps (.rsdef o) o)
def execRsinv (o : XOps) (s : State) : Out :=
  issueWith (.rsinv o) s fun x => x.matrix [x.reuseBad o] (x.xOps (.rsinv o) o)
/-- `rssave` and `rsload`: the image address is a pair. -/
def Ctx.imageCmd (x : Ctx) (i : Instr) (o : XOps) : State :=
  let a := x.uni64 o.a
  x.matrix [x.reuseBad o, (!aligned a 64, cALIGN, a)] (x.cmdOps i 0 a 0 0 [])
def execRssave (o : XOps) (s : State) : Out := issueWith (.rssave o) s fun x => x.imageCmd (.rssave o) o
def execRsload (o : XOps) (s : State) : Out := issueWith (.rsload o) s fun x => x.imageCmd (.rsload o) o

/-! ### rsstat, mfence (R240, R252) -/

/-- A reuse entry. -/
def State.reuseEntry (s : State) (d : Fin 4) (n : Nat) : ReuseEntry := Sparse.getD (s.die d).reuse ReuseEntry.reset n
def State.setReuse (s : State) (d : Fin 4) (n : Nat) (e : ReuseEntry) : State :=
  s.updDie d fun x => { x with reuse := Sparse.setD x.reuse ReuseEntry.reset n e }
/-- The words of `rsstat`. -/
def rsWord (e : ReuseEntry) : Nat → Word
  | 0 => flagIf e.valid 1 ||| BitVec.ofNat 32 (2 * e.count) ||| flagIf (e.wver != e.version) 0x100
         ||| (e.sver.setWidth 32 <<< 16)
  | 1 => e.layer
  | 2 => e.wver
  | _ => BitVec.ofNat 32 (e.nlim + e.satth * 2 ^ 7 + e.k * 2 ^ 16)
def execRsstat (o : XOps) (s : State) : Out :=
  issueReg (.rsstat o) s fun x =>
    if (x.reuseBad o).1 then .error { code := cSLOT, addr := BitVec.ofNat 64 o.rs.toNat, mask := x.fr.em }
    else
      let p := x.st.basket.pkt
      let e := x.s.reuseEntry (pkRsDie p) (pkRsBase p + o.rs.toNat)
      x.out o.d fun _ => ⟨rsWord e (fld o.flags 1 0), 0⟩
/-- `mfence` (R240): its place in the stream of matrix commands stands among the held effects as a mark (log entry 111, DESIGN CHOICE). -/
def execMfence (o : ROps) (s : State) : Out :=
  issueWith (.mfence o) s fun x => x.finish false { held := [.mfence] }

end Sys2Proof.Machine
end

