-- ==== Sys2Proof/Machine/Barrier.lean ====
section
/-! DEFINITION. Barriers (08 R204, R205): the arrival, and when an instance is complete. -/

namespace Sys2Proof.Machine

/-- A barrier's arrival: a held effect of a region of its own, which closes at once. The wale waits at the instruction. -/
def Ctx.arrive (x : Ctx) (k : BarKind) (f : WaleCore → WaleCore) : State :=
  let s := x.commit (f ((x.core.effect x.arm x.la x.lld {}).counted true)) [.arrive k]
  s.updWale x.st.w fun w => { w with cur := w.cur.close (s.window x.die), st := .barrier k }

def execBar (o : ROps) (s : State) : Out :=
  issueWith (.bar o) s fun x => x.arrive .bar fun c => { c with nBar := c.nBar + 1 }
def execRbar (o : ROps) (s : State) : Out :=
  issueWith (.rbar o) s fun x => x.arrive .rbar fun c => { c with nRbar := c.nRbar + 1 }
/-- `sbar` is a hoop-collective operation (R27). In a skein that is not held the wales of the hoop come to it without an arrival,
and every one of them raises SYNC (R12; log entry 78). -/
def execSbar (o : ROps) (s : State) : Out :=
  issueWith (.sbar o) s fun x =>
    if !pkHeld x.st.skein.pkt then x.arriveColl (.sbar o) 0 0
    else
      let s := x.arrive .sbar fun c => { c with nSbar := c.nSbar + 1, nColl := c.nColl + 1 }
      s.updWale x.st.w fun w => { w with collArg := some (.sbar o, 0, 0) }

/-- The wale has exited and nothing of it is unreleased (R29; log entry 20). -/
def Wale.gone (w : Wale) : Bool := w.st == .exited && w.drained
/-- Arrivals of a kind that the wale has released, and those it has made. -/
def Wale.released (w : Wale) : BarKind → Nat
  | .bar => w.rBar
  | .rbar => w.rRbar
  | .sbar => w.rSbar
def Wale.made (w : Wale) : BarKind → Nat
  | .bar => w.core.nBar
  | .rbar => w.core.nRbar
  | .sbar => w.core.nSbar
/-- The hoop takes part in the barrier of hoop `h`: itself, its rim, its skein. -/
def takesPart (k : BarKind) (pkt : BitVec 512) (h : Nat) (hp : Hoop) (h' : Nat) (hp' : Hoop) : Bool :=
  match k with
  | .bar => h' == h
  | .rbar => hp'.skein == hp.skein && rimOf pkt hp'.idx == rimOf pkt hp.idx
  | .sbar => hp'.skein == hp.skein
/-- The barrier instance at which a wale waits is complete: every participant has released its arrival or is gone. -/
def State.barDone (s : State) (w : Nat) (k : BarKind) : Bool :=
  match s.site? w with
  | none => false
  | some st =>
    s.wales.all fun e => match s.hoop? e.2.hoop with
      | none => true
      | some hp =>
        !takesPart k st.skein.pkt st.wl.hoop st.hoop e.2.hoop hp || e.2.gone || decide (st.wl.made k ≤ e.2.released k)

end Sys2Proof.Machine
end

