-- ==== Sys2Proof/Machine/Pending.lean ====
section
/-! DEFINITION. Deadlines that are known and guard events that are pending (02 R51, 13 R288, R289, R292, R301). -/

namespace Sys2Proof.Machine

/-! ### Closed regions of a wale (02 R51) -/

/-- Every result of the wale has landed. -/
def Wale.allLanded (w : Wale) : Bool := w.core.shadows.all (fun x => x.landed) && w.core.hoff.isNone
/-- Every result of its older region has landed. -/
def Wale.oldLanded (w : Wale) : Bool :=
  w.core.shadows.all (fun x => x.landed || !x.old) && (match w.core.hoff with | some h => !h.old | none => true)
/-- A fault is pending in a region that is already released: it stood in the checkpoint of the current region. -/
def Wale.faultReady (w : Wale) : Bool :=
  w.old.isNone && ((w.cur.ckpt.pend0.isSome && w.core.pend0.isSome) || (w.cur.ckpt.pend1.isSome && w.core.pend1.isSome))
/-- The current region is closed: it has recorded Q, or no fragment can issue and a fault is pending or a fragment waits for a
release (log entry 18). -/
def Wale.curClosed (w : Wale) : Bool :=
  w.cur.q.isSome
  || ((w.core.pend0.isSome || w.core.pend1.isSome || w.core.stalled) && !w.core.live.any w.core.issuable
      && w.core.hoff.isNone && w.core.call.isNone)
/-- A release is due. -/
def Wale.releasable (w : Wale) : Bool :=
  w.st != .saved && (if w.old.isSome then w.oldLanded else w.allLanded && (w.faultReady || w.curClosed))
/-- The closed regions whose last result has landed. -/
def Wale.closed (w : Wale) : List Region :=
  (if w.oldLanded then w.old.toList else []) ++ (if w.allLanded && w.curClosed then [w.cur] else [])
/-- The deadline of a closed region: Q cycles after its last result, Q as recorded at the close or, where none has changed since, the
die's. -/
def State.deadline (s : State) (d : Fin 4) (r : Region) : Nat := r.last + r.q.getD (s.window d)

/-! ### Tag windows (13 R295) -/

def TagRgn.empty : TagRgn := { serial := 0, wins := [] }
/-- Tag state of a region of a die. -/
def State.tagsOf (s : State) (d : Fin 4) (g : Nat) : TagRgn := Sparse.getD (s.die d).tags TagRgn.empty g

/-! ### Injections (13 R301) -/

/-- Deadlines known now of the results of a class in a region. -/
def State.deadlines (s : State) (d : Fin 4) (cls g : Nat) : List Nat :=
  match cls with
  | 0 =>
    s.wales.flatMap fun e => match s.hoop? e.2.hoop with
      | some h => if h.die == d && h.st == .resident && h.region == g then e.2.closed.map (s.deadline d) else []
      | none => []
  | 3 => ((s.tagsOf d g).wins.filter fun w => !w.opened).map fun w => w.last + w.q
  | n =>
    ((s.cmds.filter fun e => e.2.stage.held && (e.2.cls == 2) == (n == 2)).flatMap fun e => e.2.rgns.filter fun r =>
      r.die == d && r.rgn == g && !r.opened).map fun r => r.last + s.window d
/-- The cycle at which an armed injection is applied, when that is known. -/
def State.injectAt (s : State) (d : Fin 4) : Option Nat :=
  let x := s.die d
  let r := s.reg (rQsmInject d)
  let off := getFld r 31 20
  if !x.injArmed then none
  else if getFld r 10 10 = 0 then some (x.injStart + max 1 off)
  else
    argmin id (((s.deadlines d (getFld r 19 18) (getFld r 17 12)).filter fun dl =>
      decide (x.injStart + off + 1 ≤ dl) && decide (x.cc + off ≤ dl)).map fun dl => dl - off)

/-! ### Pending events (13 R288, R289) -/

/-- The apply cycle of a report on die `d`. -/
def CellReport.due (r : CellReport) (d : Fin 4) : Nat := r.at_ + (Config.cellDelay d r.cell).val + 1
/-- The report that is applied first; of those of one cycle, the one that came first. -/
def firstReport (d : Fin 4) : List CellReport → Option CellReport
  | [] => none
  | r :: rs => match firstReport d rs with
    | some q => if q.due d < r.due d then some q else some r
    | none => some r
/-- An injection comes before the event of a report. -/
def State.injectFirst (s : State) (d : Fin 4) (r : CellReport) : Bool := (s.injectAt d).any fun n => decide (n < r.due d)
/-- An event will be applied on die `d` at or before cycle `n`: a result whose deadline is `n` is not released before it (R289). -/
def State.eventBy (s : State) (d : Fin 4) (n : Nat) : Bool :=
  (s.die d).reports.any (fun r => decide (r.due d ≤ n)) || (s.injectAt d).any fun m => decide (m ≤ n)

end Sys2Proof.Machine
end

