-- ==== Sys2Proof/Machine/Release.lean ====
section
/-! DEFINITION. Events of a wale: landing, region release and delivery of a fault, wakes, hoop-collective operations, the
watchdog, replies, retirement (01 R27 to R36, 02 R51 to R57, 08 R203, R204, 09 R208 to R228, 11 R260 to R270). An event
that is not due leaves the state as it is. -/

namespace Sys2Proof.Machine

/-! ### Engine faults (09 R211) -/

/-- An engine fault is reported to wale `w`: it is kept until a delivery instruction takes it; when the wale's last strand
has exited, it ends the basket. -/
def State.reportFault (s : State) (w : Nat) (o : CmdOps) (cls : Option (Fin 4)) (cmd seq : Nat) (code : BitVec 8)
    (addr : Dword) : State :=
  match s.site? w with
  | none => s
  | some st =>
    let f : FaultRec :=
      { code := code, shd := false, eng := true, fetch := false, pc := o.pc, addr := addr, mask := 0, resume := 0,
        cmd := some o, id := cmd }
    if st.wl.st == .exited then s.endBasket st.skein.basket code.toNat false (some (faultReport st f .sole false))
    else
      (s.updWale w fun x => { x with engFaults := x.engFaults ++ [{ f := f, cls := cls, cmd := cmd, seq := seq }] }).wakeWale w

/-! ### Commands handed to their engines (09 R208) -/

/-- The tensor slots a command reads, as the wale's view holds them at release. -/
def cmdSlots (o : CmdOps) : List Nat :=
  match o.ins with
  | .cpyt x => [x.ts.toNat, x.ts2.toNat]
  | .cpymm x => if o.fo then [x.ts.toNat, o.c.toNat % 256] else [x.ts.toNat, x.ts2.toNat]
  | .mma x | .mmad x | .mconv x => [x.ts.toNat, x.ts2.toNat]
  | .mld x | .mst x => [x.ts.toNat]
  | .rsdef x => [x.ts2.toNat]
  | _ => []

/-- The reuse slot of a command. -/
def cmdReuse (o : CmdOps) : Option Nat :=
  match o.ins with
  | .mmad x | .rsdef x | .rsinv x | .rssave x | .rsload x => some x.rs.toNat
  | _ => none

/-- SUB, K and tile of a command that the matrix order compares (10 R239). The K of `mmad` is that of its reuse entry when it
runs, which a release does not know; a follow-on's is the extent of its A operand. -/
def orderKey (o : CmdOps) (slots : List TSlot) : Option (Nat × Option Nat × Nat) :=
  match o.ins with
  | .mma x => some (x.sub.toNat, some o.b.toNat, tileOf o.d)
  | .mconv x => some (x.sub.toNat, some (nfld o.b.toNat 31 16), tileOf o.d)
  | .mmad x => some (x.sub.toNat, none, tileOf o.d)
  | .cpymm _ =>
    if o.fo then some (nfld o.c.toNat 19 16, some ((Desc.of (slots.headD TSlot.invalid).desc).dim 0), nfld o.c.toNat 15 8)
    else none
  | _ => none
/-- Two commands of one wale are ordered by their keys: equal SUB and tile, and K equal or not known (log entry 84). -/
def keysMeet : Option (Nat × Option Nat × Nat) → Option (Nat × Option Nat × Nat) → Bool
  | some (a, k, t), some (b, j, u) => a == b && t == u && (k.isNone || j.isNone || k == j)
  | _, _ => false

/-- Commands of the wale that a class 2 command is ordered after (10 R239, R240, R251): those before the last `mfence`, those
whose order key meets its own, those that use its reuse slot. -/
def State.matrixDeps (s : State) (w : Nat) (wl : Wale) (o : CmdOps) (slots : List TSlot) : List Nat :=
  ((s.cmdsOf w).filter fun e => e.2.cls == 2 && (decide (e.2.seq < wl.mfenceAt)
      || keysMeet (orderKey o slots) (orderKey e.2.ops e.2.slots)
      || ((cmdReuse o).isSome && cmdReuse e.2.ops == cmdReuse o))).map (·.1)

/-- The packet of a command's skein. -/
def State.cmdPkt (s : State) (c : Cmd) : BitVec 512 :=
  match s.hoop? c.hoop with
  | some h => (match s.skein? h.skein with | some k => k.pkt | none => 0)
  | none => 0

/-- A cluster-shared address of a hoop: the hoop it names and the offset there (08 R180). -/
def State.clusterLoc (s : State) (hoop : Nat) (a : Nat) : Option Loc :=
  match s.hoop? hoop with
  | none => none
  | some h =>
    match s.skein? h.skein with
    | none => none
    | some k =>
      let g := pkRim k.pkt
      if g ≤ a / 393216 then none
      else (s.hoopAt h.skein (h.idx / g * g + a / 393216)).map fun j => Loc.sp j (a % 393216)

/-- The sync word of a command: address, cluster-shared. -/
def syncOf (o : CmdOps) : Option (Nat × Bool) :=
  match o.ins with
  | .cpy x | .cpyst x => if x.c = .none then none else some (o.c.toNat, mbit x.mod 4)
  | .cpyt x | .cpymm x => if x.d = .none then none else some (o.d.toNat, mbit x.flags 0)
  | .gthr x | .scat x => if x.c = .none then none else some (o.c.toNat, mbit x.flags 4)
  | _ => none
/-- `n` bytes are added to the sync word of a command at its visibility point (09 R214). -/
def State.syncAdd (s : State) (c : Cmd) (n : Nat) : State :=
  if c.followOn then s
  else match syncOf c.ops with
    | none => s
    | some (a, cl) =>
      match (if cl then s.clusterLoc c.hoop a else some (.sp c.hoop a)) with
      | some l => s.syncUpdate .other c.die .add l (n % 2 ^ 32) 0
      | none => s
/-- The command leaves: its counter falls and, when it has succeeded, it leaves its batch. -/
def State.popCmd (s : State) (id : Nat) (c : Cmd) (failed : Bool) : State :=
  let s := { s with cmds := Sparse.del s.cmds id }
  let s := s.updWale c.wale fun w =>
    let w := { w with cnt := vset w.cnt c.cls (vget w.cnt c.cls - 1) }
    if !c.inBatch then w
    else if failed then
      { w with
        opnFailed := w.opnFailed || w.opn.contains id
        sealed := w.sealed.map fun b => if b.cmds.contains id then { b with failed := true } else b }
    else w.dropCmd id
  s.wakeAll

/-- A command with nothing to move: a count of zero (09 R213), or no visited strand (R222). -/
def CmdOps.moot (o : CmdOps) : Bool :=
  match o.ins with
  | .cpy _ | .cpyst _ => o.b == 0
  | .gthr _ | .scat _ => o.idx.isEmpty
  | _ => false

/-- One command enters its engine's queue and its counter is incremented; the identity of the new command. A matrix queue of
16 commands that is full at the release takes it all the same (log entry 86). -/
def State.pushCmd (s : State) (st : Site) (o : CmdOps) (cls : Fin 4) (fo : Bool) (after : List Nat) : Nat × State :=
  let id := s.nextId
  let wl := (s.wale? st.w).getD st.wl
  let hp := (s.hoop? wl.hoop).getD st.hoop
  let o' := { o with fo := fo }
  let slots := (cmdSlots o').map hp.slotAt
  let inBatch := cls == 0 && !o.again
  let c : Cmd :=
    { ops := o', wale := st.w, hoop := wl.hoop, basket := st.skein.basket, func := st.basket.func,
      part := s.partOf st.basket.func, die := st.hoop.die, cluster := st.hoop.cluster, cls := cls, slots := slots,
      stage := if o.moot then .done else .queued, staged := { writes := [], tiles := [], entry := none },
      deps := after ++ (if cls = 2 then s.matrixDeps st.w wl o' slots else []), followOn := fo, copy := if fo then after.head? else none,
      burst := false, inBatch := inBatch, seq := vget wl.relSeq cls, inst := 0,
      refused := none, rgns := [] }
  let s := { s with cmds := Sparse.put s.cmds id c, nextId := id + 1 }
  (id, s.updWale st.w fun x => { x with
    cnt := vset x.cnt cls (vget x.cnt cls + 1)
    relSeq := vset x.relSeq cls (vget x.relSeq cls + 1)
    opn := if inBatch then x.opn ++ [id] else x.opn })

/-- The signal named by a `sig` or `hwaitd` target: die and index (R227). -/
def sigTarget (t : Nat) : Fin 4 × Nat := (Fin.ofNat 4 (nfld t 13 12), nfld t 11 0)

/-- A held command is released. `none`: it cannot be performed yet and stays held. -/
def State.releaseCmd (s : State) (st : Site) (o : CmdOps) : State × Bool :=
  match o.ins with
  | .spawn _ =>
    match s.spawnPerform st o.a with
    | .wait s => (s, false)
    | .fault s code addr =>
      let s := s.updWale st.w fun x => { x with refused := [] }
      (({ s with nextId := s.nextId + 1 }).reportFault st.w { o with again := true } none s.nextId 0 code addr, true)
    | .done s => (s, true)
  | .sig x =>
    let (d, i) := sigTarget o.a.toNat
    if s.dieWaits st.hoop.die d then (s, false)
    else if s.sigCount st.basket.func ≤ i then
      (({ s with nextId := s.nextId + 1 }).reportFault st.w { o with again := true } none s.nextId 0 cRANGE 0, true)
    else (s.sigOp d (s.sigBase st.basket.func + i) (mbit x.mod 0) (lo32 o.b), true)
  | .coll _ =>
    let g := o.c.toNat
    let n := Sparse.getD s.collInst 0 g
    let (id, s) := s.pushCmd st o 3 false []
    ({ s with cmds := Sparse.upd s.cmds id (fun c => { c with inst := n }), collInst := Sparse.setD s.collInst 0 g (n + 1) },
      true)
  | .cpymm _ =>
    if o.fo then ((s.pushCmd st o 2 true []).2, true)
    else
      let (id, s) := s.pushCmd st o 0 false []
      ((s.pushCmd st o 2 true [id]).2, true)
  | i =>
    match cmdClasses i with
    | c :: _ =>
      let (id, s) := s.pushCmd st o c false []
      (match Sparse.find? s.cmds id with
        | some k =>
          if o.moot && (s.cmdsOf st.w).all (fun e => e.2.cls != c || e.1 == id) then ((s.syncAdd k 0).popCmd id k false, true)
          else (s, true)
        | none => (s, true))
    | [] => (s, true)

/-! ### Performing held effects (02 R51, 08 R191) -/

/-- The locations a held effect writes. -/
def Held.locs : Held → List Loc
  | .store ws _ => ws.map (·.loc)
  | .rmw _ _ _ xs _ => xs.map (·.1)
  | .xadd _ xs _ => xs.map (·.1)
  | .sync _ l _ _ => [l]
  | _ => []
/-- An effect of a wale of a core of die `d` that waits for a die in warm reset, for a link, for a page granted to peers, or for another
core's request to own its line. -/
def State.blocked (s : State) (d : Fin 4) (core : Nat) (h : Held) : Bool :=
  h.locs.any fun l => s.locWaits d l || s.contested (some core) l

/-- `seal` closes the open batch, which takes the batch number from before its increment (09 R215); a batch with no command
left is complete at once. -/
def Wale.seal (w : Wale) (pending : Nat) : Wale :=
  { w with
    sealed := w.sealed ++ if w.opn.isEmpty then [] else [{ num := w.core.batch - BitVec.ofNat 16 (pending + 1), cmds := w.opn, failed := w.opnFailed }]
    opn := []
    opnFailed := false }

/-- What an effect is to the caches, its level, and the level to which the wale's earlier stores are written back first: those of a
release, of an arrival at its scope, of a command, a `spawn` or a `sig` at level 2 (08 R185, R204, 09 R208). -/
def Held.uses : Held → Use × Nat × Nat
  | .store _ k => (.write, k.at_, k.back)
  | .rmw _ _ _ _ k | .xadd _ _ k => (.atomic, k.at_, k.back)
  | .cmd o => (.write, 0, match o.ins with | .spawn _ | .sig _ => 3 | _ => 2)
  | .arrive .bar => (.write, 0, 1)
  | .arrive .rbar => (.write, 0, 2)
  | .arrive .sbar => (.write, 0, 3)
  | _ => (.write, 0, 0)
/-- The grants of peers' pages under which writes are performed: one that has been revoked since is taken again (14 R315). -/
def State.takeGrants (s : State) (ls : List Loc) : State :=
  ls.foldl (fun s l => match l with | .glob pa _ _ _ _ _ => s.takeGrant pa true | _ => s) s
/-- The caches before a held effect is performed: its die, core, partition and function. -/
def State.prepareAt (s : State) (d : Fin 4) (core part func : Nat) (h : Held) : State :=
  let u := h.uses
  ((s.writeBackTo u.2.2 d core part func).touchAll d core u.2.1 u.1 h.locs).takeGrants h.locs
/-- The caches before a held effect of the wale at `st` is performed. -/
def State.prepare (s : State) (st : Site) (h : Held) : State :=
  s.prepareAt st.hoop.die st.hoop.core (s.partOf st.basket.func) st.basket.func h
/-- The pages granted to peers for which an effect waits are called back (14 R315). -/
def State.callBackFor (s : State) (ls : List Loc) : State :=
  ls.foldl (fun s l => match l with
    | .glob pa _ _ _ _ _ => if s.pageAway pa true then s.callBack (pa / 8192) else s
    | _ => s) s

/-- Perform one held effect; `later` are the effects held behind it. False when it has to wait. -/
def State.performHeld (s : State) (st : Site) (later : List Held) (h : Held) : State × Bool :=
  if s.blocked st.hoop.die st.hoop.core h then (s.callBackFor h.locs, false)
  else
    let s := s.prepare st h
    match h with
    | .cmd o => s.releaseCmd st o
    | .seal =>
      (s.updWale st.w fun w => w.seal (later.filter fun e => e == .seal).length, true)
    | .arrive k =>
      (s.updWale st.w fun w => match k with
        | .bar => { w with rBar := w.rBar + 1 }
        | .rbar => { w with rRbar := w.rRbar + 1 }
        | .sbar => { w with rSbar := w.rSbar + 1 }, true)
    | .mfence => (s.updWale st.w fun w => { w with mfenceAt := vget w.relSeq 2 }, true)
    | h => (s.performMem st.w st.wl.hoop st.hoop.die h, true)

/-- Effects performed in program order; from the first that has to wait on, they stay in `due`. `rest` are held behind. -/
def State.performAll (w : Nat) (rest : List Held) : List Held → State → State
  | [], s => s
  | h :: hs, s =>
    match s.site? w with
    | none => s
    | some st =>
      let (s', ok) := s.performHeld st (hs ++ rest) h
      if ok then State.performAll w rest hs s' else s'.updWale w fun x => { x with due := h :: hs }

/-- Effects that leave the hold buffer together are performed in program order; between two of them another wale may act, so that all
are performed now, or the first, and the others stay in `due` (log entry 12). -/
def State.performSome (s : State) (w : Nat) (rest l : List Held) : State :=
  let (n, s) := if l.length < 2 then (l.length, s) else (match s.choose with | (b, s) => (if b then l.length else 1, s))
  (State.performAll w (l.drop n ++ rest) (l.take n) s).updWale w fun x => { x with due := x.due ++ l.drop n }
/-- The first effect in `due` is performed. -/
def State.performDue (s : State) (w : Nat) : State :=
  match s.wale? w with
  | some x => (match x.due with
    | h :: hs =>
      let s := State.performAll w (hs ++ (match x.old with | some r => r.held | none => []) ++ x.cur.held) [h]
        (s.updWale w fun y => { y with due := [] })
      s.updWale w fun y => ({ y with due := y.due ++ hs } : Wale).tryAgain true s.turn (s.ccOf y)
    | [] => s)
  | none => s

/-- The effects that wait are tried again. -/
def State.retryDue (s : State) (w : Nat) : State :=
  match s.wale? w with
  | some x =>
    if x.due.isEmpty then s
    else
      let s := s.updWale w fun y => { y with due := [] }
      (State.performAll w ((match x.old with | some r => r.held | none => []) ++ x.cur.held) x.due s).wakeWale w
  | none => s
/-- An effect of the front end is performed; false when it has to wait. A write that is refused by then has no effect. -/
def State.performFe (s : State) (f : Nat) : FeFx → State × Bool
  | .write va bs => (match s.fePut f va bs with
    | .done t => (t, true)
    | .waits t => (t, false)
    | .refused e => (s.failed e, true))
  | .sig d i add x => if s.dieWaits 0 d then (s, false) else (s.sigOp d i add x, true)
  | .node n => (s.nodeComplete n, true)
  | .post => (s.evPost f, true)
  | .cancel va => (match s.feRead f va 64 with
    | .error e => (s.failed e, !e.waits)
    | .ok (bs, s) => (match cancelWord bs with
      | none => (s, true)
      | some cd => (match s.fePut f cd (completionWord 0x21 false) with
        | .done t => (t, true)
        | .waits t => (t, false)
        | .refused e => (s.failed e, true))))
/-- An effect that no wale holds is performed; false when it has to wait (11 R267, 08 R191, 16 R361). -/
def State.performOwed (s : State) : Owed → State × Bool
  | .fe f x => s.performFe f x
  | .held w hoop die core part func h =>
    if s.blocked die core h then (s.callBackFor h.locs, false)
    else
      let s := s.prepareAt die core part func h
      match h with
      | .cmd k =>
        (match k.ins with
          | .sig x =>
            let (d, i) := sigTarget k.a.toNat
            if s.dieWaits die d then (s, false)
            else if s.sigCount func ≤ i then (s, true)
            else (s.sigOp d (s.sigBase func + i) (mbit x.mod 0) (lo32 k.b), true)
          | _ => (s, true))
      | h => (s.performMem w hoop die h, true)
/-- The effects that no wale holds are tried again, those of one origin in order. -/
def State.retryOwed : List Owed → State → State
  | [], s => s
  | o :: os, s =>
    if s.owed.any fun q => q.origin == o.origin then State.retryOwed os { s with owed := s.owed ++ [o] }
    else match s.performOwed o with
      | (t, true) => State.retryOwed os t
      | (t, false) => State.retryOwed os { t with owed := t.owed ++ [o] }
def State.retryAllDue (s : State) : State :=
  let s := (Sparse.keys s.wales).foldl State.retryDue s
  State.retryOwed s.owed { s with owed := [] }

/-! ### Release (02 R51) -/

/-- The fault to deliver first, of those of released regions: ARM0's, or the sole fragment's (11 R263). -/
def Wale.dueFault (w : Wale) : Option (ArmId × FaultRec) :=
  match w.core.pend0, w.core.pend1 with
  | some f, some g =>
    if w.cur.ckpt.pend0.isSome then some (if w.core.stack.isEmpty then .sole else .a0, f)
    else if w.cur.ckpt.pend1.isSome then some (.a1, g) else none
  | some f, none => if w.cur.ckpt.pend0.isSome then some (if w.core.stack.isEmpty then .sole else .a0, f) else none
  | none, some f => if w.cur.ckpt.pend1.isSome then some (.a1, f) else none
  | none, none => none
/-- A pending fault is delivered (11 R264). -/
def State.deliver (s : State) (w : Nat) : State :=
  match s.site? w with
  | none => s
  | some st =>
    match st.wl.dueFault with
    | some (a, f) => s.takeFault st a f
    | none => s

/-- The oldest closed region is released: the cycle after its deadline comes, its effects leave the hold buffer together,
and a fault pending in it is delivered. -/
def State.releaseRegion (s : State) (st : Site) : State :=
  let w := st.w
  match st.wl.old with
  | some r =>
    let s := s.waitPast st.hoop.die (s.deadline st.hoop.die r)
    let s := s.updWale w fun x => { x with old := none }.tryAgain true s.turn (s.ccOf x)
    let s := (s.updWale w fun x => { x with due := [] }).performSome w st.wl.cur.held (st.wl.due ++ r.held)
    match s.wale? w with
    | some x => if x.faultReady then s.deliver w else s
    | none => s
  | none =>
    if st.wl.faultReady then s.deliver w
    else
      let r := st.wl.cur
      let s := s.waitPast st.hoop.die (s.deadline st.hoop.die r)
      let s := s.updWale w fun x => { x with cur := { x.cur with held := [], q := none } }
      let s := (s.updWale w fun x => { x with due := [] }).performSome w [] (st.wl.due ++ r.held)
      let s := s.updWale w fun x => (x.reopen ((s.die st.hoop.die).cc)).tryAgain true s.turn (s.ccOf x)
      s.deliver w

/-- The region to be released next has no event at or before its deadline still to come (13 R289). -/
def State.clearToRelease (s : State) (st : Site) : Bool :=
  match st.wl.old with
  | some r => !s.eventBy st.hoop.die (s.deadline st.hoop.die r)
  | none => st.wl.faultReady || !s.eventBy st.hoop.die (s.deadline st.hoop.die st.wl.cur)
/-- REGION_RELEASE: the oldest closed region, or the next effect of one that is released already. -/
def execRegionRelease (w : Nat) (s : State) : Out :=
  .next (match s.site? w with
    | some st => if st.wl.releasable && s.clearToRelease st then s.releaseRegion st else s.performDue w
    | none => s)

/-- The oldest long-latency result in flight lands (04 R94): it is held for the end of its shadow. -/
def landFirst (n : Nat) : List Shadow → List Shadow
  | [] => []
  | x :: xs => if x.landed then x :: landFirst n xs else { x with landed := true } :: xs
/-- The oldest result in flight is one of the older region. -/
def landsOld : List Shadow → Bool
  | [] => false
  | x :: xs => if x.landed then landsOld xs else x.old
def execResultLand (w : Nat) (s : State) : Out :=
  .next (match s.site? w with
    | none => s
    | some st =>
      if st.wl.core.shadows.all (fun x => x.landed) then s
      else
        let s := s.tick st.hoop.die
        let cc := (s.die st.hoop.die).cc
        let old := st.wl.old.isSome && landsOld st.wl.core.shadows
        s.updWale w fun x => { x with
          core := { x.core with shadows := landFirst 0 x.core.shadows }
          cur := if old then x.cur else { x.cur with last := cc }
          old := if old then x.old.map fun r => { r with last := cc } else x.old })

/-! ### Wakes (08 R203, R204, 17 R384) -/

/-- The context of a fragment outside issue. -/
def State.ctxAt (s : State) (w : Nat) (a : ArmId) : Option Ctx :=
  (s.site? w).map fun st =>
    { s := s, st := st, arm := a, fr := st.wl.core.frag a, la := 0, vis := (st.wl.core.frag a).em }
/-- The single live fragment of a wale. -/
def WaleCore.single (c : WaleCore) : ArmId := c.live.headD .sole

/-- The wale at a completed barrier continues at the next instruction, in a new region. -/
def State.passBarrier (s : State) (w : Nat) : State :=
  match s.wale? w with
  | none => s
  | some x =>
    let c := x.core.advance x.core.single
    let cc := s.ccOf x
    s.setWale w ((Wale.goOn { x with core := c, collArg := none } s.turn cc).reopen cc)

/-- Wales of a cluster due for a wake, in ascending core, then wale order. -/
def State.wakeList (s : State) (d : Fin 4) (c : Fin 8) : List Nat :=
  let due (e : Nat × Wale) : Bool := match s.hoop? e.2.hoop with
    | none => false
    | some h => h.die == d && h.cluster == c && (match e.2.st with
      | .woken => true
      | .barrier k => e.2.drained && s.barDone e.1 k
      | _ => false)
  let coreOf (e : Nat × Wale) : Nat := match s.hoop? e.2.hoop with | some h => h.coreNo | none => 0
  let ws := s.wales.filter due
  (List.range 12).flatMap fun k => ((ws.filter fun e => coreOf e == k).map (·.1))

def execWakeWave (d : Fin 4) (c : Fin 8) (s : State) : Out :=
  .next (((s.wakeList d c).take (s.regF (rSlope d c) 8 0)).foldl (fun (s : State) w =>
    match s.wale? w with
    | some x => (match x.st with
      | .woken => s.goOn w
      | _ => s.passBarrier w)
    | none => s) s)

/-! ### Hoop-collective operations (01 R27, R28, 09 R228) -/

/-- The wale stands at a hoop-collective operation. -/
def Wale.atColl (w : Wale) : Bool :=
  match w.st with
  | .coll => true
  | .barrier .sbar => w.drained
  | _ => false
/-- The collective instruction of a wale and its operands, without its destination. -/
def Wale.collKey (w : Wale) : Option (Bool × Nat × Word × Word) :=
  match w.collArg with
  | some (.hwaitd o, a, b) => some (true, fld o.mod 1 0, a, b)
  | some (.sbar _, a, b) => some (false, 0, a, b)
  | _ => none

/-- A wale at a collective takes a fault there; its arrival is taken back. -/
def State.collFault (s : State) (w : Nat) (code : BitVec 8) (eng : Bool) : State :=
  match s.site? w with
  | none => s
  | some st =>
    let sb : Bool := match st.wl.st with | .barrier .sbar => true | _ => false
    let c := st.wl.core
    let c := { c with nColl := c.nColl - 1, nSbar := if sb then c.nSbar - 1 else c.nSbar }
    let wl := Wale.goOn { st.wl with core := c, collArg := none, rSbar := if sb then st.wl.rSbar - 1 else st.wl.rSbar }
      s.turn (s.die st.hoop.die).cc
    let a := c.single
    let fr := c.frag a
    (s.setWale w wl).raiseRec { st with wl := wl } a
      { code := code, shd := false, eng := eng, fetch := false, pc := fr.pc, addr := 0, mask := fr.em,
        resume := if eng then fr.pc else (match fr.retry with | some r => r | none => nextSlot fr.pc), cmd := none }

/-- The hoop performs its `hwaitd`: every waiting wale takes the value and continues. -/
def State.hwaitPass (s : State) (v : Word) (w : Nat) : State :=
  match s.ctxAt w ((s.wale? w).map (fun x => x.core.single) |>.getD .sole) with
  | none => s
  | some x =>
    let ws : List RegWrite := match x.st.wl.collArg with
      | some (.hwaitd o, _, _) => (match o.d with | .s n => [.s n v] | _ => [])
      | _ => []
    (x.finishSingle { writes := ws }).updWale w fun y => { y with collArg := none }

/-- The wale has come to an `sbar` of a skein that is not held (01 R12). -/
def State.sbarAlone (s : State) (w : Wale) : Bool :=
  match w.collArg, s.hoop? w.hoop with
  | some (.sbar _, _, _), some h => (match s.skein? h.skein with | some k => !pkHeld k.pkt | none => false)
  | _, _ => false
def execHwaitdWake (h : Nat) (s : State) : Out :=
  .next (
    let ws := (s.walesOf h).filter fun e => !e.2.gone
    let names := ws.map (·.1)
    if ws.isEmpty || !(ws.all fun e => e.2.atColl) || !(ws.any fun e => e.2.st == .coll) then s
    else match ws with
      | [] => s
      | e :: _ =>
        if !(ws.all fun q => q.2.collKey == e.2.collKey) || ws.all (fun q => s.sbarAlone q.2) then names.foldl (fun s w => s.collFault w cSYNC false) s
        else match e.2.collKey, s.site? e.1 with
          | some (_, cc, a, b), some st =>
            let (d, i) := sigTarget a.toNat
            if s.dieWaits st.hoop.die d then s
            else if s.sigCount st.basket.func ≤ i then names.foldl (fun s w => s.collFault w cRANGE true) s
            else
              let v := s.signal d (s.sigBase st.basket.func + i)
              if hwaitCond cc v b then names.foldl (fun (s : State) w => s.hwaitPass v w) s else s
          | _, _ => s)

/-! ### Watchdog, firmware reply, HOMEOFF reply -/

def execWdog (w : Nat) (s : State) : Out :=
  .next (match s.site? w with
    | none => s
    | some st =>
      match st.wl.pick (s.die st.hoop.die).cc with
      | some a => if st.wl.core.yleft == 0 then s.wdog st a else s
      | none => s)

/-- The firmware's answer to a service (11 R260). -/
def State.service (s : State) (d : Fin 4) (func n : Nat) (a : Word) : Word × State :=
  match n with
  | 0 => (Config.fwVersion, s)
  | 1 => ((BitVec.ofNat 16 (s.regF (rThmMax d) 15 0)).signExtend 32, s)
  | 2 => (BitVec.ofNat 32 (s.regF (rAllot (s.partOf func)) 11 0), s)
  | 3 =>
    let t := Sparse.getD s.telem (0, 0, 0, 0, 0) func
    (0, { s with telem := Sparse.put s.telem func (t.1, t.2.1, t.2.2.1, t.2.2.2.1 + 1, a) })
  | _ => (0xFFFFFFFF, s)
/-- The answer reaches the fragment that made the call: its result is written and it continues, in whatever state it stands. -/
def WaleCore.answered (c : WaleCore) (k : FwCall) (v : Word) : WaleCore :=
  let st := (c.frag k.arm).st
  let ws : List RegWrite := match k.d with | .s n => [.s n v] | _ => []
  let c := (({ c with call := none }.effect k.arm 0 [] { writes := ws }).counted false).advance k.arm
  c.setFrag k.arm { c.frag k.arm with st := st }
/-- The answer is recorded in the checkpoints too, so that no restart repeats the call; where nothing else has issued since, a new
region opens (02 R53). -/
def Wale.answered (w : Wale) (k : FwCall) (v : Word) (turn cc : Nat) : Wale :=
  let at_ (r : Region) : Region :=
    if r.ckpt.call.isSome then { r with ckpt := { r.ckpt.answered k v with icount := 0, wcount := 0 } } else r
  let w' := { w with core := w.core.answered k v, cur := at_ { w.cur with last := cc }, old := w.old.map at_ }
  (if w.drained then w'.reopen cc else w').tryAgain false turn cc
def execFwcallReply (w : Nat) (s : State) : Out :=
  .next (match s.site? w with
    | none => s
    | some st =>
      match st.wl.core.call with
      | some k =>
        let (v, s) := s.service st.hoop.die st.basket.func k.n k.x
        let s := s.tick st.hoop.die
        s.updWale w fun x => x.answered k v s.turn (s.ccOf x)
      | none => s)

/-- The reply to a load or atomic from a die in warm reset raises HOMEOFF (11 R263); it takes precedence over a fault of a
later instruction of the fragment. -/
def execHomeoffReply (w : Nat) (s : State) : Out :=
  .next (match s.site? w with
    | none => s
    | some st =>
      match st.wl.core.hoff with
      | none => s
      | some h =>
        let f : FaultRec :=
          { code := cHOMEOFF, shd := h.shd, eng := false, fetch := false, pc := h.pc, addr := h.addr, mask := h.mask,
            resume := (st.wl.core.frag h.arm).pc, cmd := none }
        let wl := Wale.tryAgain { st.wl with core := { st.wl.core with hoff := none } } false s.turn (s.die st.hoop.die).cc
        let wl := if h.old then { wl with cur := { wl.cur with
            ckpt := ({ wl.cur.ckpt with hoff := none } : WaleCore).setPend h.arm (some f) } } else wl
        s.raiseRec { st with wl := wl } h.arm f)

/-! ### Page replies (11 R268, 15 R347) -/

/-- Wales and commands that wait for the page of a tag go on; `bad`: the page was refused. -/
def State.pageDone (s : State) (f : Nat) (r : PageReq) (bad : Bool) : State :=
  let mine (b : Nat) : Bool := match s.basket? b with | some x => x.func == f | none => false
  let waleFunc (e : Nat × Wale) : Bool := match s.hoop? e.2.hoop with
    | some h => (match s.skein? h.skein with | some k => mine k.basket | none => false)
    | none => false
  let spawnAt (w : Wale) : Bool := match w.due with
    | .cmd o :: _ => (match o.ins with | .spawn _ => o.a.toNat / 8192 == r.page | _ => false)
    | _ => false
  let s := { s with
    pageReqs := s.pageReqs.filter fun q => !(q.func == f && q.tag == r.tag)
    wales := s.wales.map fun (e : Nat × Wale) =>
      if waleFunc e && e.2.st == WSt.page r.tag then
        (e.1, Wale.goOn { e.2 with cur := { e.2.cur with
            refused := if bad then e.2.cur.refused ++ [r.page] else e.2.cur.refused } } s.turn (s.ccOf e.2))
      else if waleFunc e && spawnAt e.2 && bad then (e.1, { e.2 with refused := e.2.refused ++ [r.page] })
      else e
    cmds := s.cmds.map fun (e : Nat × Cmd) =>
      if e.2.func == f && e.2.stage == CStage.page r.tag then
        (e.1, { e.2 with stage := CStage.queued, refused := if bad then some r.page else none })
      else e }
  s.retryAllDue
def State.pageReply (s : State) (f : Nat) (tag : BitVec 16) (bad : Bool) : State :=
  match s.pageReqs.find? fun r => r.func == f && r.tag == tag && r.posted with
  | none => s
  | some r => s.pageDone f r bad
def execPageReplyMapped (f : Nat) (tag : BitVec 16) (s : State) : Out := .next (s.pageReply f tag false)
def execPageReplyRefused (f : Nat) (tag : BitVec 16) (s : State) : Out := .next (s.pageReply f tag true)

/-! ### Retirement (01 R31, R36, 15 R341) -/

/-- Set bit `h` of a bitmap in function memory with an OR at level 3; a request that a partition check refuses is counted (14 R317). -/
def State.orBit (s : State) (f base h : Nat) : Except (BitVec 8 × State) State :=
  match s.translate f (s.partOf f) (base + h / 8) .rw with
  | .error e => .error (match e with | .perm | .part _ => cPERM | _ => cXLATE, s.failed e)
  | .ok t =>
    let b := s.physByte t.key t.pa
    let l := t.loc (base + h / 8) f (s.partOf f)
    .ok ((((s.setAD t true).takeGrant t.pa true).touch (s.homeDie t.pa) 0 3 .atomic l).locWrite .other 0
      { loc := l, bytes := [b ||| BitVec.ofNat 8 (2 ^ (h % 8))] })

/-- A hoop is done: in recovery mode its OWNBM bit is set; the skein is complete when all its hoops are. -/
def State.hoopDone (s : State) (k idx : Nat) : State :=
  match s.skein? k with
  | none => s
  | some x =>
    let s := s.updSkein k fun y => { y with doneHoops := y.doneHoops ++ [idx] }
    match s.basket? x.basket with
    | none => s
    | some b =>
      let r : Except (BitVec 8 × State) State := match b.recov with
        | some v => if x.num = 0 then s.orBit b.func v.ownbm idx else .ok s
        | none => .ok s
      match r with
      | .error (code, s) => s.endBasket x.basket code.toNat false none
      | .ok s =>
        let s := if b.recov.isSome then s.pollAll else s
        if x.doneHoops.length + 1 = pkHoops x.pkt then s.skeinDone k else s

/-- The bitmap write of a recovery-mode hoop has to wait for a die in warm reset (16 R361). -/
def State.ownbmWaits (s : State) (st : Site) : Bool :=
  match st.basket.recov with
  | some v =>
    st.skein.num == 0 && (match s.translate st.basket.func (s.partOf st.basket.func) (v.ownbm + st.hoop.idx / 8) .rw with
      | .error .wait | .error (.away _) => true
      | .ok t => s.dieWaits 0 (s.homeDie t.pa)
      | .error _ => false)
  | none => false
/-- A wale whose effects are all performed and whose counters are zero. -/
def Wale.retirable (w : Wale) : Bool :=
  w.gone && w.engFaults.isEmpty && (List.finRange 4).all fun k => vget w.cnt k == 0
def execWaleRetire (w : Nat) (s : State) : Out :=
  .next (match s.site? w with
    | none => s
    | some st =>
      if !st.wl.retirable || s.ownbmWaits st then s
      else
        let f := st.basket.func
        let s := { (s.writeBack st.hoop.die st.hoop.core (s.partOf f) f).markIdle st.hoop with
          wales := Sparse.del s.wales w
          order := s.order.filter fun x => x != w
          priv := s.priv.filter fun e => e.1 / 2 ^ 21 != w }
        if (s.walesOf st.wl.hoop).isEmpty then
          let s := { s with
            hoops := Sparse.del s.hoops st.wl.hoop
            spad := s.spad.filter fun e => e.1 / 2 ^ 19 != st.wl.hoop }
          (s.wakeAll.hoopDone st.hoop.skein st.hoop.idx).withdrawAll
        else s.withdrawAll)

end Sys2Proof.Machine
end

