-- ==== Sys2Proof/Machine/Admit.lean ====
section
/-! DEFINITION. Placement and admission of rims and held skeins (01 R15, R19 to R23, 15 R335, R341 to R343, 17 R381, R382,
R385). -/

namespace Sys2Proof.Machine

/-! ### Room (01 R19 to R22) -/

/-- A partition change that has not applied takes a cluster from partition `p` or gives it one (16 R375). -/
def State.affected (s : State) (p : Nat) : Bool :=
  match s.partPending with
  | none => false
  | some m => (List.finRange 32).any fun c =>
      let a := vget s.partMap c
      let b := m.getD c.val 0x3F
      a != b && (a == p || b == p)

/-- A guard region is fenced (13 R304). -/
def State.fenced (s : State) (d : Fin 4) (g : Nat) : Bool := s.regF (rQsmRgn d g) 1 1 == 1

/-- A cluster of the partition and of the class pool that no fence closes. With `fit`, only what decides whether a unit can
ever be resident is asked; else the cluster has to be open to admission now. -/
def State.openCluster (s : State) (fit : Bool) (p cls : Nat) (d : Fin 4) (c : Fin 8) : Bool :=
  vget s.partMap (Fin.ofNat 32 (8 * d.val + c.val)) == p && s.regF (rClust d c) 1 0 == cls && !s.fenced d (48 + c.val)
  && (fit || (s.dieUp.getLsbD d.val && s.warm.all (fun r => r.die != d) && s.regF (rClust d c) 2 2 == 0
    && s.regF (rDscWin d p) 17 17 == 0))

def State.hoopPkt (s : State) (h : Hoop) : BitVec 512 := match s.skein? h.skein with | some k => k.pkt | none => 0
/-- The resident hoops of a core. -/
def State.coreHoops (s : State) (d : Fin 4) (c : Fin 8) (k : Fin 12) : List (BitVec 512) :=
  (s.hoops.filter fun e => e.2.die == d && e.2.cluster == c && e.2.coreNo == k && e.2.st == .resident).map
    fun e => s.hoopPkt e.2
def sumBy (f : BitVec 512 → Nat) (ps : List (BitVec 512)) : Nat := ps.foldl (fun n p => n + f p) 0
/-- The limits of a core (R21). -/
def coreFits (ps : List (BitVec 512)) : Bool :=
  decide (ps.length ≤ 8) && decide (sumBy (fun p => pkWales p * pkVregs p * 128) ps ≤ 524288)
  && decide (sumBy pkSp ps ≤ 393216) && decide (sumBy pkTiles ps ≤ 256) && decide (sumBy pkWales ps ≤ 32)
/-- Resident wales of a core. -/
def State.coreWales (s : State) (d : Fin 4) (c : Fin 8) (k : Fin 12) : Nat :=
  (s.wales.filter fun e => match s.hoop? e.2.hoop with
    | some h => h.die == d && h.cluster == c && h.coreNo == k && h.st == .resident
    | none => false).length
/-- Resident wales of a die in a class pool. -/
def State.poolWales (s : State) (d : Fin 4) (cls : Nat) : Nat :=
  ((List.finRange 8).filter fun (c : Fin 8) => s.regF (rClust d c) 1 0 == cls).foldl (fun n c => n + s.clusterWales d c) 0

/-- Cores for `n` more hoops of a packet in a cluster: each takes the core with the fewest resident wales that has room
(R342). -/
def State.planCores (s : State) (pkt : BitVec 512) (d : Fin 4) (c : Fin 8) : Nat → List (Fin 12) → Option (List (Fin 12))
  | 0, ks => some ks
  | n + 1, ks =>
    let had (k : Fin 12) : Nat := (ks.filter fun j => j == k).length
    let cs := (List.finRange 12).filter fun k =>
      !s.fenced d (6 * c.val + k.val / 2) && coreFits (s.coreHoops d c k ++ List.replicate (had k + 1) pkt)
    match argmin (fun k => s.coreWales d c k + had k * pkWales pkt) cs with
    | some k => State.planCores s pkt d c n (ks ++ [k])
    | none => none

/-- A place for `n` hoops of a rim on one die: its cluster and the cores of its hoops. -/
def State.planDie (s : State) (fit : Bool) (p n : Nat) (pkt : BitVec 512) (d : Fin 4) : Option (Fin 8 × List (Fin 12)) :=
  let cs := (List.finRange 8).filterMap fun c =>
    if s.openCluster fit p (pkClass pkt) d c then (s.planCores pkt d c n []).map fun ks => (c, ks) else none
  argmin (fun e => s.clusterWales d e.1) cs
/-- A place for a rim among dies: the one with the fewest resident wales in the pool, the lowest on a tie (R342). -/
def State.planRim (s : State) (fit : Bool) (p n : Nat) (pkt : BitVec 512) (ds : List (Fin 4)) :
    Option (Fin 4 × Fin 8 × List (Fin 12)) :=
  argmin (fun e => s.poolWales e.1 (pkClass pkt))
    (ds.filterMap fun d => (s.planDie fit p n pkt d).map fun e => (d, e.1, e.2))

/-- The dies on which a rim may be placed (R19, R20). -/
def rimDies (pkt : BitVec 512) (r : Nat) : List (Fin 4) :=
  let ds := dieList (pkDies pkt)
  if pkSpread pkt && ds.length != 0 then (ds[r * pkRim pkt % ds.length]?).toList else ds

/-! ### Placing (01 R15, 02 R41) -/

/-- A wale at the start of its entry PC. -/
def WaleCore.start (pkt : BitVec 512) (params : List Word) : WaleCore :=
  { v := [], s := Vector.ofFn fun i => params.getD i.val 0, p := Vector.ofFn fun _ => 0,
    base := Arm.start (pkEntry pkt) 0xFFFFFFFF, stack := [], serial := 0, exited := 0, lc := Vector.ofFn fun _ => 0,
    loops := Vector.ofFn fun _ => { lact := false, lstart := 0, lend := 0, lreload := 0 }, lstack := [], batch := 0,
    fflags := 0, fcause := 0, fpc := 0, faddr := 0, fmask := 0, yleft := BitVec.ofNat 32 (64 * pkYdl pkt), icount := 0,
    wcount := 0, shadows := [], pend0 := none, pend1 := none, frame := none, hoff := none, nBar := 0, nRbar := 0,
    nSbar := 0, nColl := 0 }
def Wale.start (pkt : BitVec 512) (hoop idx slot : Nat) (params : List Word) (cc turn : Nat) : Wale :=
  let c := WaleCore.start pkt params
  { core := c, hoop := hoop, idx := idx, slot := slot, vregs := pkVregs pkt, st := .ready, qev := 0,
    cnt := Vector.ofFn fun _ => 0, cur := freshRegion c cc, old := none, due := [], opn := [], opnFailed := false,
    sealed := [], relSeq := Vector.ofFn fun _ => 0, mfenceAt := 0, engFaults := [], rBar := 0, rRbar := 0, rSbar := 0,
    collArg := none, ready1 := cc, since := turn, refused := [] }

/-- Wale slots in use on a core. -/
def State.slotsUsed (s : State) (d : Fin 4) (c : Fin 8) (k : Fin 12) : List Nat :=
  (s.wales.filter fun e => match s.hoop? e.2.hoop with
    | some h => h.die == d && h.cluster == c && h.coreNo == k && h.st == .resident
    | none => false).map fun e => e.2.slot
/-- The lowest free slot: its sub-scheduler has room (R342). -/
def freeSlot (used : List Nat) : Nat := ((List.range 32).find? fun j => !used.contains j).getD 0

/-- One wale of a new hoop starts, last in the order of issue. -/
def State.startWale (s : State) (h : Nat) (hp : Hoop) (pkt : BitVec 512) (params : List Word) (i : Nat) : State :=
  let w := s.nextId
  let slot := freeSlot (s.slotsUsed hp.die hp.cluster hp.coreNo)
  { s with
    wales := Sparse.put s.wales w (Wale.start pkt h i slot params (s.die hp.die).cc s.turn)
    order := s.order ++ [w]
    nextId := w + 1 }
/-- The L1 of a core that takes a wale is powered (14 R316). -/
def State.wakeL1 (s : State) (d : Fin 4) (c : Fin 8) (n : Fin 12) : State :=
  if (s.die d).l1gated.isEmpty then s
  else s.updDie d fun x => { x with l1gated := x.l1gated.filter fun a => a.val != 12 * c.val + n.val }
/-- A hoop of skein `k` starts on a core with all its wales. -/
def State.startHoop (s : State) (k idx : Nat) (pkt : BitVec 512) (params : List Word) (d : Fin 4) (c : Fin 8) (n : Fin 12) :
    State :=
  let h := s.nextId
  let hp : Hoop := { skein := k, idx := idx, die := d, cluster := c, coreNo := n, st := .resident, slots := [], tiles := [] }
  let s := ({ s with hoops := Sparse.put s.hoops h hp, nextId := h + 1 }).wakeL1 d c n
  (List.range (pkWales pkt)).foldl (fun s i => s.startWale h hp pkt params i) s

/-- The hoops of a rim start on their cores. -/
def State.startRim (s : State) (k r : Nat) (pkt : BitVec 512) (params : List Word) (d : Fin 4) (c : Fin 8)
    (ks : List (Fin 12)) : State :=
  (ks.zipIdx).foldl (fun s e => s.startHoop k (r * pkRim pkt + e.2) pkt params d c e.1) s

/-! ### Votes (17 R381, R382) -/

/-- Degraded regions on a rail. -/
def State.degradedOn (s : State) (d : Fin 4) (k : Nat) : Nat :=
  ((List.range 12).map (fun i => 12 * k + i) ++ [48 + 2 * k, 49 + 2 * k]).foldl
    (fun n g => n + s.regF (rQsmRgn d g) 0 0) 0
/-- The vote of a cluster: its class's voltage at its temperature bin, and a code for each degraded region on its rail. -/
def State.voteOf (s : State) (d : Fin 4) (c : Fin 8) : Nat :=
  let cls := s.regF (rClust d c) 1 0
  let b := if (s.die d).noSensor then 15 else vget (s.die d).bins c
  let base := if cls = 3 then s.regF (rHoldPt d) 15 8
    else nfld (s.reg (rVtab d cls (b / 8))).toNat (8 * (b % 8) + 7) (8 * (b % 8))
  min 255 (base + s.degradedOn d (c.val / 2))
/-- A cluster votes for an admission of a skein; true when the rail has reached the vote. With no resident wale, the vote is formed of
the class that the cluster has now. A vote that returns cancels a fall. -/
def State.raiseVote (s : State) (id : Nat) (d : Fin 4) (c : Fin 8) : State × Bool :=
  let k := c.val / 2
  let s := if s.clusterWales d c = 0 then
      let s := (s.setRegF (rClust d c) 15 8 (s.voteOf d c)).updDie d fun x => { x with pledged := Sparse.put x.pledged c.val id }
      let t := s.railTarget d k
      let s := s.setRegF (rRail d k) 15 8 t
      if s.regF (rRail d k) 7 0 ≤ t then s.setRegF (rRail d k) 24 24 0 else s
    else s
  (s, decide (s.regF (rClust d c) 15 8 ≤ s.regF (rRail d k) 7 0))

/-- Votes for an admission of a skein that are for no cluster of the list are given up. -/
def State.unpledge (s : State) (id : Nat) (l : List (Fin 4 × Fin 8)) : State :=
  ((List.finRange 4).flatMap fun d => (List.finRange 8).map fun c => (d, c)).foldl (fun (s : State) p =>
    if Sparse.find? (s.die p.1).pledged p.2.val = some id ∧ p ∉ l then
      (s.updDie p.1 fun x => { x with pledged := Sparse.del x.pledged p.2.val }).withdraw p.1 p.2
    else s) s
/-- The clusters of a plan vote for it; when every rail has reached its vote the wales start, and the votes are theirs. -/
def State.voteFor (s : State) (id : Nat) (l : List (Fin 4 × Fin 8)) : State × Bool :=
  let r := l.foldl (fun (a : State × Bool) p =>
    let (s, ok) := a.1.raiseVote id p.1 p.2
    (s, a.2 && ok)) (s.unpledge id l, true)
  if r.2 then
    ({ r.1 with dies := vmap (fun (x : Die) => { x with pledged := x.pledged.filter fun e => e.2 != id }) r.1.dies }, true)
  else r

/-! ### What waits for admission (01 R23, 15 R343) -/

/-- A unit that waits: a rim, or a whole held skein; `saved`: it was pre-empted. -/
structure Cand where
  skein : Nat
  rim : Nat
  held : Bool
  saved : Bool
  prio : Nat
  place : Nat
  dies : List (Fin 4)
  deriving DecidableEq, Repr

/-- A rim of the skein is held back for another reason than room: its partition's allotment is zero, its producers have not
finished, or admission for it is closed. -/
def State.heldBack (s : State) (k : Skein) (b : Basket) (r : Nat) (saved : Bool) : Bool :=
  let p := s.partOf b.func
  s.regF (rAllot p) 11 0 == 0 || s.closed.contains b.func || b.moved || s.affected p || s.fatal
  || (!saved && k.num == 0 && (match b.recov with | some v => !v.ready.contains r | none => false))

/-- The units of a skein that wait. -/
def State.candsOf (s : State) (e : Nat × Skein) : List Cand :=
  match s.basket? e.2.basket with
  | none => []
  | some b =>
    let one (held saved : Bool) (r : Nat) : Cand :=
      { skein := e.1, rim := r, held := held, saved := saved, prio := pkPrio e.2.pkt, place := e.2.place,
        dies := if held then dieList (pkDies e.2.pkt) else rimDies e.2.pkt r }
    let all := if pkHeld e.2.pkt then
        (if !e.2.saved.isEmpty then [one true true 0] else if !e.2.waiting.isEmpty then [one true false 0] else [])
      else e.2.waiting.map (one false false) ++ e.2.saved.map (one false true)
    all.filter fun c => !s.heldBack e.2 b c.rim c.saved
def State.cands (s : State) : List Cand := s.skeins.flatMap s.candsOf
/-- Order of admission: highest priority, then oldest, then lowest rim. -/
def Cand.before (a b : Cand) : Bool :=
  decide (b.prio < a.prio) || (a.prio == b.prio && (decide (a.place < b.place) || (a.place == b.place && decide (a.rim < b.rim))))
/-- The unit that admission to a die considers. -/
def State.headOn (s : State) (d : Fin 4) : Option Cand :=
  match s.cands.filter fun c => c.dies.contains d with
  | [] => none
  | x :: xs => some (xs.foldl (fun m y => if y.before m then y else m) x)

/-- The partition with no work on it. -/
def State.idle (s : State) : State := { s with hoops := [], wales := [] }

/-- A skein that cannot fit: before any wale of its basket has run the launch is rejected, else the basket is ended (R22). -/
def State.nofit (s : State) (b : Nat) : State :=
  match s.basket? b with
  | some x => s.endBasket b 0x20 (!x.ran) none
  | none => s

/-- s0 to s15 of a skein, read at its first admission (R335). -/
def State.skeinParams (s : State) (k : Skein) (func : Nat) : Except XErr (List Word × State) :=
  match k.params with
  | some ps => .ok (ps, s)
  | none =>
    if pkParam k.pkt == 0 then .ok (List.replicate 16 0, s)
    else match s.feRead func (pkParam k.pkt).toNat 64 with
      | .error e => .error e
      | .ok (bs, s) => .ok ((List.range 16).map fun i => BitVec.ofNat 32 (natLE ((bs.drop (4 * i)).take 4)), s)

/-- A hoop that a recovery-mode skein does not run counts as complete (R341). -/
def State.skipHoop (s : State) (k idx : Nat) : State :=
  match s.skein? k with
  | none => s
  | some x =>
    let s := s.updSkein k fun y => { y with waiting := y.waiting.filter fun r => r != idx, doneHoops := y.doneHoops ++ [idx] }
    if x.doneHoops.length + 1 = pkHoops x.pkt then s.skeinDone k else s

/-- A waiting rim of the skein has no place on an otherwise idle partition (R343). -/
def State.neverFits (s : State) (k : Skein) (p : Nat) : Bool :=
  (k.waiting.map (rimDies k.pkt)).eraseDups.any fun ds => (s.idle.planRim true p (pkRim k.pkt) k.pkt ds).isNone

/-- RIM_ADMIT: the die scheduler considers the unit at the head of its order; a rim for which this die is chosen starts
there. -/
def State.rimAdmit (s : State) (d : Fin 4) : State :=
  match s.headOn d with
  | none => s
  | some c =>
    match s.skein? c.skein with
    | none => s
    | some k =>
      match s.basket? k.basket with
      | none => s
      | some b =>
        if c.held || c.saved then s
        else
          let p := s.partOf b.func
          match s.ownBit k b c.rim with
          | .error e => if e.waits then s.failed e else (s.failed e).addressFails k.basket e
          | .ok true => s.skipHoop c.skein c.rim
          | .ok false =>
            match s.skeinParams k b.func with
            | .error e => if e.waits then s.failed e else (s.failed e).addressFails k.basket e
            | .ok (ps, s1) =>
              match s.planRim false p (pkRim k.pkt) k.pkt (c.dies.filter fun x => s.headOn x == some c) with
              | none => if s.neverFits k p then s.nofit k.basket else s
              | some (dd, cl, ks) =>
                if s.neverFits k p then s.nofit k.basket
                else if dd ≠ d then s
                else
                  let (s2, ready) := s1.voteFor c.skein [(d, cl)]
                  if !ready then s2
                  else
                    let s3 := (s2.updSkein c.skein fun x =>
                      { x with waiting := x.waiting.filter fun r => r != c.rim, params := some ps }).updBasket k.basket
                        fun x => { x with ran := true }
                    s3.startRim c.skein c.rim k.pkt ps d cl ks
def execRimAdmit (d : Fin 4) (s : State) : Out := .next (s.rimAdmit d)

/-- Places for the rims of a whole skein, reserved one after another; `size` gives the hoops of a rim, `dies` where it may go, `mark`
makes a reservation visible to the next. -/
def State.planAll (fit : Bool) (p : Nat) (size : Nat → Nat) (dies : Nat → List (Fin 4)) (pkt : BitVec 512) (mark : State → Nat → Fin 4 → Fin 8 → List (Fin 12) → State) :
    List Nat → State → Option (State × List (Nat × Fin 4 × Fin 8 × List (Fin 12)))
  | [], s => some (s, [])
  | r :: rs, s =>
    match s.planRim fit p (size r) pkt (dies r) with
    | none => none
    | some (d, c, ks) =>
      match State.planAll fit p size dies pkt mark rs (mark s r d c ks) with
      | none => none
      | some (s', l) => some (s', (r, d, c, ks) :: l)

/-- All rims of a skein. -/
def allRims (pkt : BitVec 512) : List Nat := List.range (pkHoops pkt / pkRim pkt)
/-- The votes for a list of places; true when every rail has reached its vote. -/
def State.raiseVotes (s : State) (id : Nat) (l : List (Nat × Fin 4 × Fin 8 × List (Fin 12))) : State × Bool :=
  s.voteFor id (l.map fun e => (e.2.1, e.2.2.1))
/-- The unit stands at the head on every die of its mask. -/
def State.isHead (s : State) (c : Cand) : Bool := c.dies.all fun d => s.headOn d == some c

/-- The rims of a plan start. -/
def State.startAll (s : State) (id : Nat) (pkt : BitVec 512) (ps : List Word)
    (l : List (Nat × Fin 4 × Fin 8 × List (Fin 12))) : State :=
  l.foldl (fun s e => s.startRim id e.1 pkt ps e.2.1 e.2.2.1 e.2.2.2) s
/-- HELD_SKEIN_ADMIT: all hoops of the skein start in one step when every reservation succeeds. -/
def State.heldAdmit (s : State) (id : Nat) : State :=
  match s.cands.find? fun c => c.skein == id && c.held && !c.saved with
  | none => s
  | some c =>
    match s.skein? id with
    | none => s
    | some k =>
      match s.basket? k.basket with
      | none => s
      | some b =>
        let p := s.partOf b.func
        let mark (ps : List Word) (s : State) (r : Nat) (d : Fin 4) (c : Fin 8) (ks : List (Fin 12)) : State :=
          s.startRim id r k.pkt ps d c ks
        if !s.isHead c then s
        else if (State.planAll true p (fun _ => pkRim k.pkt) (rimDies k.pkt) k.pkt (mark []) (allRims k.pkt) s.idle).isNone then s.nofit k.basket
        else match s.skeinParams k b.func with
          | .error e => if e.waits then s.failed e else (s.failed e).addressFails k.basket e
          | .ok (ps, s1) =>
            match State.planAll false p (fun _ => pkRim k.pkt) (rimDies k.pkt) k.pkt (mark ps) (allRims k.pkt) s1 with
            | none => s
            | some (_, l) =>
              if (s1.raiseVotes id l).2 then
                ((s1.raiseVotes id l).1.startAll id k.pkt ps l |>.updSkein id fun x => { x with waiting := [], params := some ps }).updBasket k.basket
                  fun x => { x with ran := true }
              else (s1.raiseVotes id l).1
def execHeldSkeinAdmit (k : Nat) (s : State) : Out := .next (s.heldAdmit k)

/-- PRODBM_POLL: PRODBM is read again for every waiting hoop (R341). -/
def execProdbmPoll (s : State) : Out := .next s.pollAll

end Sys2Proof.Machine
end

