-- ==== Sys2Proof/Machine/Engine.lean ====
section
/-! DEFINITION. The copy engine, the streamer, the gather engine and the collective engine after release: reading the source,
staging, the visibility point, completion and faults (09 R206 to R224, R229, 13 R294 to R298). -/

namespace Sys2Proof.Machine

/-! ### What an engine's access can meet -/

/-- Why an engine stops: a fault, a refusal of a partition check on a home die, a demand page, a wait for a die. -/
inductive EErr where
  | fault (code : BitVec 8) (addr : Dword)
  | part (d : Fin 4) (addr : Dword)
  | demand (va kind : Nat)
  | wait
  | away (page : Nat)
  deriving Repr

/-- The state as the engine reads, the bytes read from the die scratchpads of other dies, whether its own die's scratchpad
port has been used, and the bytes in streamer staging that stand before memory (R221). -/
structure EngSt where
  s : State
  far : List (Fin 4 × Nat)
  port : Bool
  front : List Acc := []

/-- Engine work: it may stop. -/
abbrev EM := StateT EngSt (Except EErr)

/-- The performing level of a command's accesses to global memory (08 R185): its reads, its writes. Those of SCOPE die are performed at
level 2, of dev and sys at level 3 (09 R214, R220, R222, R224, 10 R244); a reuse image is read and written at level 3 (10 R252). -/
def Cmd.levels (c : Cmd) : Nat × Nat :=
  match c.ops.ins with
  | .cpyst o => (2, max 2 (levelOf 0 1 (fld o.mod 7 5)))
  | .cpyt o | .cpymm o | .mst o => (2, max 2 (levelOf 0 1 (fld o.flags 3 1)))
  | .scat o => (2, max 2 (levelOf 0 1 (fld o.flags 7 5)))
  | .coll _ => (2, 3)
  | .rssave _ | .rsload _ => (3, 3)
  | _ => (2, 2)
/-- Place `n` bytes of a command in a space of 10 R231; `die` is the die of a die-scratchpad space. A tile that is not granted
raises SLOT, as at issue. -/
def engAt (c : Cmd) (space : Nat) (die : Fin 4) (a n : Nat) (wr : Bool) : EM Loc := fun e =>
  let s := e.s
  let ad : Dword := BitVec.ofNat 64 a
  let bad : Except EErr (Loc × EngSt) := .error (.fault cRANGE ad)
  match space with
  | 0 =>
    match s.xlat c.die none c.func c.part ad.toNat (if wr then .w else .r) with
    | .error .xlate => .error (.fault cXLATE ad)
    | .error .perm => .error (.fault cPERM ad)
    | .error (.part d) => .error (.part d ad)
    | .error (.away p) => .error (.away p)
    | .error .demand =>
      if c.refused = some (ad.toNat / 8192) then .error (.fault cXLATE ad) else .error (.demand ad.toNat (if wr then 4 else 3))
    | .error .wait => .error .wait
    | .ok t =>
      if 2 ≤ t.mt || isIo t.pa then .error (.fault cPERM ad)
      else if !wr && s.homeOff (s.homeDie t.pa) then .error (.fault cHOMEOFF ad)
      else
        let l := t.loc ad.toNat c.func c.part
        let s := s.noteXl c.die none c.func ad.toNat t wr
        .ok (l, { e with s := if wr then s else s.touch c.die 0 c.levels.1 .read l })
  | 1 => if localOk a n (pkSp (s.cmdPkt c)) then .ok (.sp c.hoop a, e) else bad
  | 2 =>
    if a < 2 ^ 32 && localOk (a % 393216) n (pkSp (s.cmdPkt c)) then
      (match s.clusterLoc c.hoop a with | some l => .ok (l, e) | none => bad)
    else bad
  | 4 =>
    if a / 1024 < pkTiles (s.cmdPkt c) then .ok (.tile c.hoop a, e) else .error (.fault cSLOT (BitVec.ofNat 64 (a / 1024)))
  | _ =>
    let r := s.reg (rDscWin die c.part)
    if getFld r 16 16 = 1 && localOk a n (getFld r 15 8 * 2 ^ 20) then
      if !wr && s.homeOff die then .error (.fault cHOMEOFF ad)
      else if !wr && s.linkHeld c.die die then .error .wait
      else
        let e := if wr then e else if die = c.die then { e with port := true } else { e with far := (die, n) :: e.far }
        .ok (.dsc die (getFld r 7 0 * 2 ^ 20 + a), e)
    else bad

/-- The bytes at `l` with those that an access writes. -/
def Acc.onto (l : Loc) (bs : List Byte) (a : Acc) : List Byte :=
  if l.base.1 = a.loc.base.1 ∧ l.base.2.1 = a.loc.base.2.1 then
    bs.zipIdx.map fun e =>
      let p := l.base.2.2 + e.2
      if a.loc.base.2.2 ≤ p then (a.bytes[p - a.loc.base.2.2]?).getD e.1 else e.1
  else bs
/-- Read `n` bytes that lie in one page. -/
def engRead (c : Cmd) (space : Nat) (die : Fin 4) (a n : Nat) : EM (List Byte) := do
  let l ← engAt c space die a n false
  let e ← get
  return e.front.foldl (Acc.onto l) (e.s.locRead l n)
/-- Read a run, at most 16 bytes at a time; `fuel` bounds the pieces. -/
def engReadRun (c : Cmd) (space : Nat) (die : Fin 4) : Nat → Nat → Nat → EM (List Byte)
  | 0, _, _ => pure []
  | fuel + 1, a, n =>
    if n = 0 then pure []
    else do
      let k := min n (16 - a % 16)
      let bs ← engRead c space die a k
      let rest ← engReadRun c space die fuel (a + k) (n - k)
      return bs ++ rest
/-- Place the writes of a run, at most 16 bytes at a time. -/
def engWriteRun (c : Cmd) (space : Nat) (die : Fin 4) : Nat → Nat → List Byte → EM (List Acc)
  | 0, _, _ => pure []
  | fuel + 1, a, bs =>
    if bs.isEmpty then pure []
    else do
      let k := min bs.length (16 - a % 16)
      let l ← engAt c space die a k true
      let rest ← engWriteRun c space die fuel (a + k) (bs.drop k)
      return { loc := l, bytes := bs.take k } :: rest

/-- The elements of a command from the `k`-th on, one after the other: the writes placed so far, latest first, and where the
engine stops (09 R211). A command that meets a page to be served, or that must wait, has placed nothing. -/
def runElems : List (EM (List Acc)) → Nat → List (List Acc) → EM (List (List Acc) × Option Stop)
  | [], _, ws => pure (ws, none)
  | m :: ms, k, ws => fun e =>
    match m.run e with
    | .ok (a, e) => runElems ms (k + 1) (a :: ws) e
    | .error (.fault code addr) => .ok ((ws, some ⟨code, addr, k⟩), e)
    | .error (.part d addr) =>
      .ok ((ws, some ⟨cPERM, addr, k⟩), { e with s := e.s.countRej d })
    | .error x => .error x
/-- What a command has read: the writes it stages, where it stopped, and, where its staging had no room for more, the element
with which it goes on; data for peers. -/
structure Moved where
  writes : List Acc := []
  stop : Option Stop := none
  upTo : Option Nat := none
  msgs : List PeerMsg := []
/-- The elements of a command that it has not made visible yet (11 R269), at most `room` of them. -/
def moveElems (c : Cmd) (room : Nat) (ms : List (EM (List Acc))) : EM Moved := do
  let (ws, x) ← runElems ((ms.drop c.ops.off).take room) c.ops.off []
  let k := c.ops.off + room
  return { writes := ws.reverse.flatten, stop := x, upTo := if x.isNone ∧ k < ms.length then some k else none }
/-- A command that moves its results whole. -/
def moveWhole (m : EM (List Acc)) : EM Moved := do return { writes := ← m }

/-! ### Tensor elements (10 R233, 03 R73) -/

/-- A slot that a command may use: valid, and its descriptor consistent (10 R232, R236). -/
def slotDesc (t : TSlot) : EM Desc :=
  if t.valid && (Desc.of t.desc).ok then pure (Desc.of t.desc) else throw (.fault cSHAPE 0)
/-- Bytes of a block of a BFP format. -/
def blockBytes (f : Nat) : Nat := match f with | 7 => 32 | 8 => 24 | _ => 16
/-- Byte offset of indices above dimension 0. -/
def Desc.upper (d : Desc) (i : List Nat) : Nat := (List.range 4).foldl (fun n k => n + i.getD (k + 1) 0 * d.str (k + 1)) 0
/-- Address of the element of a scalar format, or of the block that holds it; in SPACE 4, its place in the tiles. -/
def Desc.elemAddr (d : Desc) (i : List Nat) : Nat :=
  if d.space = 4 then 1024 * d.base + 64 * i.getD 1 0 + 4 * i.getD 0 0
  else d.base + (if isBfp d.fmt then i.getD 0 0 / 32 * blockBytes d.fmt else i.getD 0 0 * (fmtWidth d.fmt / 8)) + d.upper i
/-- Index tuples of the extents, dimension 0 fastest. -/
def indices : List Nat → List (List Nat)
  | [] => [[]]
  | n :: ns => (indices ns).flatMap fun r => (List.range n).map fun i => i :: r
/-- Number of the block at an index: blocks in the order of their first elements' positions (03 R73). Blocks whose first
elements share one position share one number (log entry 53). -/
def Desc.blockNo (d : Desc) (i : List Nat) : Nat :=
  let pos (b : Nat) (r : List Nat) : Nat := b * blockBytes d.fmt + d.upper r
  let here := pos (i.getD 0 0 / 32) i
  ((indices (d.dim 0 / 32 :: (List.range 4).map fun k => d.dim (k + 1))).filter fun r =>
    decide (pos (r.getD 0 0) r < here)).length
def Desc.inside (d : Desc) (i : List Nat) : Bool := (List.range 5).all fun k => decide (i.getD k 0 < d.dim k)
def Desc.die (d : Desc) : Fin 4 := Fin.ofNat 4 d.sdie

/-- Element bits of a BFP block. -/
def bfpField (f : Nat) (bs : List Byte) (j : Nat) : Nat :=
  match f with
  | 7 => natLE bs / 2 ^ (8 * j) % 256
  | 8 => natLE bs / 2 ^ (6 * j) % 64
  | _ => natLE bs / 2 ^ (4 * j) % 16

/-- The number an element of a slot holds; PAD beyond the dims. -/
def elemVal (c : Cmd) (d : Desc) (i : List Nat) : EM FV := do
  if isBfp d.fmt then
    if d.inside i then
      let b ← engReadRun c d.space d.die 8 (d.elemAddr i) (blockBytes d.fmt)
      let sc ← engRead c d.space d.die (d.sbase + 2 * d.blockNo i) 2
      return bfpValue (bfpBits d.fmt) (bfpField d.fmt b (i.getD 0 0 % 32)) (natLE (sc.take 1)) (natLE (sc.drop 1))
    else return .fin false 0 0
  else
    let f := (fmtOf d.fmt).getD fp32
    if d.inside i then
      let b ← engRead c d.space d.die (d.elemAddr i) (fmtWidth d.fmt / 8)
      return unpack f (natLE b)
    else return unpack f (d.pad % 2 ^ fmtWidth d.fmt)

/-! ### The work of each command -/

/-- The destination space, source space and SCOPE of a slot's use agree (09 R220). -/
def scopeFits (d : Desc) (scope : Nat) : Bool := (d.space == 0) == (scope != 0)

/-- The destination of a copy begins within its source, so that it is moved from its end on (R213). -/
def copyBack (c : Cmd) (o : ROps) : EM Bool := fun e =>
  let at0 (space a : Nat) (wr : Bool) : Option Loc := match engAt c space c.die a 1 wr e with
    | .ok (l, _) => some l
    | .error _ => none
  match at0 (fld o.mod 3 2) c.ops.a.toNat false, at0 (fld o.mod 1 0) c.ops.d.toNat true with
  | some l, some k => .ok (l.base.1 == k.base.1 && l.base.2.1 == k.base.2.1 && decide (l.base.2.2 < k.base.2.2)
      && decide (k.base.2.2 < l.base.2.2 + c.ops.b.toNat), e)
  | _, _ => .ok (false, e)
/-- `cpy`, `cpyst` (R212, R213). -/
def copyWork (c : Cmd) (room : Nat) (o : ROps) : EM Moved := do
  let n := (c.ops.b.toNat + 15) / 16
  let back ← copyBack c o
  moveElems c room ((List.range n).map fun j => do
    let i := if back then n - 1 - j else j
    let bs ← engReadRun c (fld o.mod 3 2) c.die 2 (c.ops.a.toNat + 16 * i) 16
    engWriteRun c (fld o.mod 1 0) c.die 2 (c.ops.d.toNat + 16 * i) bs)

/-- Origins of `cpyt` (R220). -/
def boxOrigin (o : CmdOps) : List Nat :=
  [nfld o.a.toNat 15 0, nfld o.a.toNat 31 16, nfld o.b.toNat 9 0, nfld o.b.toNat 19 10, nfld o.b.toNat 29 20]
def addIdx (a b : List Nat) : List Nat := (List.range 5).map fun k => a.getD k 0 + b.getD k 0

/-- One element of the box, of a scalar format. -/
def boxElem (c : Cmd) (d s : Desc) (org i : List Nat) : EM (List Acc) := do
  let w := fmtWidth d.fmt / 8
  let j := addIdx org i
  let bs ← if s.inside j then engRead c s.space s.die (s.elemAddr j) w else pure (bytesLE w s.pad)
  engWriteRun c d.space d.die 2 (d.elemAddr i) bs
/-- One block of the box with its scale pair. -/
def boxBlock (c : Cmd) (d s : Desc) (org i : List Nat) : EM (List Acc) := do
  let n := blockBytes d.fmt
  let j := addIdx org i
  let bs ← if s.inside j then engReadRun c s.space s.die 4 (s.elemAddr j) n else pure (bytesLE n 0)
  let sc ← if s.inside j then engRead c s.space s.die (s.sbase + 2 * s.blockNo j) 2 else pure (bytesLE 2 0)
  let a ← engWriteRun c d.space d.die 4 (d.elemAddr i) bs
  let b ← engWriteRun c d.space d.die 1 (d.sbase + 2 * d.blockNo i) sc
  return a ++ b
/-- `cpyt`, and the copy part of `cpymm` (R220): destination indices in ascending linear order, so that the higher wins. A
tile is no destination: it changes only by a matrix result (02 R47; log entry 83). -/
def boxWork (c : Cmd) (room scope : Nat) : EM Moved := do
  let d ← slotDesc (c.slots.getD 0 TSlot.invalid)
  let s ← slotDesc (c.slots.getD 1 TSlot.invalid)
  let org := boxOrigin c.ops
  if d.fmt ≠ s.fmt ∨ d.rank ≠ s.rank ∨ d.space = 4 ∨ !scopeFits d scope
      ∨ (isBfp d.fmt && org.getD 0 0 % 32 != 0) then
    throw (.fault cSHAPE 0)
  else if isBfp d.fmt then
    let blocks := indices (d.dim 0 / 32 :: d.dims.drop 1)
    moveElems c room (blocks.map fun i => boxBlock c d s org (i.getD 0 0 * 32 :: i.drop 1))
  else moveElems c room ((indices d.dims).map fun i => boxElem c d s org i)

/-- The streamer's check of a `cpymm`'s C operand (R221): B slot, tile, format. -/
def followBad (s : State) (c : Cmd) : Option (BitVec 8 × Dword) :=
  let x := c.ops.c.toNat
  let f := nfld x 19 16
  let d := Desc.of (c.slots.getD 0 TSlot.invalid).desc
  if 64 ≤ nfld x 7 0 ∨ nfld x 31 20 ≠ 0 ∨ !([1, 2, 7, 8, 9].contains f) ∨ f ≠ d.fmt then some (cSHAPE, 0)
  else if pkTiles (s.cmdPkt c) ≤ nfld x 15 8 then some (cSLOT, BitVec.ofNat 64 (nfld x 15 8))
  else none

/-- `gthr`, `scat` (R222). -/
def rowWork (c : Cmd) (room k : Nat) (scat : Bool) : EM Moved :=
  let rb := 2 ^ k
  moveElems c room (c.ops.idx.map fun e => do
    let g := (rowAddr c.ops.b e.2 k).toNat
    let l := c.ops.d.toNat + e.1 * rb
    if scat then
      let bs ← engReadRun c 1 c.die (rb / 4 + 1) l rb
      engWriteRun c 0 c.die (rb / 4 + 1) g bs
    else
      let bs ← engReadRun c 0 c.die (rb / 4 + 1) g rb
      engWriteRun c 1 c.die (rb / 4 + 1) l bs)

/-! ### Collectives (R223, R224, 16 R363) -/

/-- The combination of two elements: operation code 0 sum, 4 max, 5 min; type code of R59. BF16 is combined in FP32. -/
def collOp (op ty : Nat) (a b : Nat) : Nat :=
  if ty = 0 ∨ ty = 2 then
    (if op = 4 then (fMinMax fp32 true a b).val else if op = 5 then (fMinMax fp32 false a b).val
     else (fAdd fp32 .rne a b).val)
  else if op = 4 ∨ op = 5 then
    let lt : Bool := if ty = 3 then decide ((BitVec.ofNat 32 a).toInt < (BitVec.ofNat 32 b).toInt) else decide (a < b)
    if lt == (op == 4) then b else a
  else (a + b) % 2 ^ 32
/-- The fixed tree over the ranks; level `l` combines elements 2^l apart. -/
def collTree (f : Nat → Nat → Nat) : Nat → Nat → List Nat → List Nat
  | 0, _, xs => xs
  | fuel + 1, l, xs =>
    if xs.length ≤ 2 ^ l then xs
    else
      collTree f fuel (l + 1)
        ((List.range xs.length).map fun r =>
          if r % 2 ^ (l + 1) = 0 ∧ r + 2 ^ l < xs.length then f (xs.getD r 0) (xs.getD (r + 2 ^ l) 0) else xs.getD r 0)
def collReduce (op ty : Nat) (xs : List Nat) : Nat := (collTree (collOp op ty) 11 0 xs).getD 0 0
/-- An element as the engine combines it, and as it is stored. -/
def collIn (ty x : Nat) : Nat := if ty = 2 then x % 2 ^ 16 * 2 ^ 16 else x
def collOut (ty x : Nat) : Nat := if ty = 2 then (roundFV bf16 .rne (unpack fp32 x)).val else x

/-- Station and partition of a rank, by the rank map of its group (16 R363). -/
def State.rankAt (s : State) (g r : Nat) : BitVec 10 × Nat :=
  let e := natLE (s.physRead 0 (s.regF (rCollGrp g + 8) 45 6 * 64 + 2 * r) 2)
  (BitVec.ofNat 10 (nfld e 9 0), nfld e 14 10)
/-- Ranks that the subtree of rank `r` spans: the largest power of two that divides `r`, every rank for the root (R224). -/
def treeSpan (r : Nat) : Nat := ((List.range 12).map fun l => 2 ^ l).foldl (fun m k => if r % k = 0 then k else m) 1
/-- The ranks of a subtree among `p` ranks, and the ranks just below its root. -/
def treeRanks (p r : Nat) : List Nat := (List.range p).filter fun q => decide (r ≤ q) && decide (q < r + treeSpan r)
def treeKids (p r : Nat) : List Nat :=
  (List.range p).filter fun q => decide (r < q) && decide (q < r + treeSpan r) && q - treeSpan q == r
/-- The data that this rank sends (16 R363): along the edges of the tree, the partial results `part` of its subtree's root to its parent,
and to each rank below it the results `res`; in an all-gather or broadcast its elements `src` to every other rank (log entry 112). -/
def collSends (op p me root : Nat) (src up : List Byte) (down : Nat → List Byte) : List (Nat × List Byte) :=
  let others := (List.range p).filter fun q => q != me
  match op with
  | 2 => others.map fun q => (q, src)
  | 3 => if me = root then others.map fun q => (q, src) else []
  | _ => (if me = 0 ∨ p = 1 then [] else [(me - treeSpan me, up)]) ++ (treeKids p me).map fun q => (q, down q)

/-- `coll`: the group is checked, the source is read, the result elements are formed from this rank's elements and those of
its peers; what this rank brings to the operation goes out to the others. -/
def collWork (c : Cmd) (o : XOps) : EM Moved := do
  let s := (← get).s
  let g := c.ops.c.toNat
  let n := c.ops.b.toNat
  let op := fld o.flags 2 0
  let ty := fld o.flags 6 3
  let p := s.regF (rCollGrp g) 10 0
  let me := s.regF (rCollGrp g) 26 16
  if 256 ≤ g ∨ s.regF (rCollGrp g) 63 63 = 0 ∨ s.regF (rCollGrp g) 39 32 ≠ c.func ∨ p ≤ me then throw (.fault cRANGE 0)
  else if !((List.range p).all fun r => r == me || Config.peerAgrees g c.inst r) then throw (.fault cSYNC 0)
  else if p ≠ 1 ∧ s.homeOff (s.homeDie (s.regF (rCollGrp g + 8) 45 6 * 64)) then throw .wait
  else
    let w := if ty = 2 then 2 else 4
    let m := if op = 1 then n * p else n
    let src ← if op = 3 ∧ me ≠ o.ts.toNat then pure [] else engReadRun c 0 c.die (m * w / 16 + 2) c.ops.a.toNat (m * w)
    let mine (e : Nat) : Nat := natLE ((src.drop (e * w)).take w)
    let elem (r e : Nat) : Nat :=
      if r = me then mine e else (Config.peerElement g c.inst r e).toNat % 2 ^ (8 * w)
    let sub (rs : List Nat) (e : Nat) : Nat := collReduce op ty (rs.map fun r => collIn ty (elem r e))
    let red (e : Nat) : Nat := collOut ty (sub (List.range p) e)
    let res : List Nat :=
      match op with
      | 1 => (List.range n).map fun e => if p = 1 then mine e else red (me * n + e)
      | 2 => (List.range p).flatMap fun r => (List.range n).map fun e => elem r e
      | 3 => (List.range n).map fun e => elem o.ts.toNat e
      | _ => (List.range n).map fun e => if p = 1 then mine e else red e
    let up := (List.range m).flatMap fun e => bytesLE 4 (sub (treeRanks p me) e)
    let down (q : Nat) : List Byte := if op = 1 then
        (treeRanks p q).flatMap fun b => (List.range n).flatMap fun e => bytesLE w (red (b * n + e))
      else res.flatMap fun x => bytesLE w x
    let ws ← engWriteRun c 0 c.die (res.length * w / 16 + 2) c.ops.d.toNat (res.flatMap fun x => bytesLE w x)
    let msgs : List PeerMsg := (collSends op p me o.ts.toNat src up down).map fun e =>
      .coll (s.rankAt g e.1).1 (s.rankAt g e.1).2 g c.inst me e.2
    return { writes := ws, msgs := msgs }

/-- The work of a command of class 0, 1 or 3 for which its staging has room. -/
def sourceWork (c : Cmd) (room : Nat) : EM Moved :=
  match c.ops.ins with
  | .cpy o | .cpyst o => copyWork c room o
  | .cpyt o => boxWork c room (fld o.flags 3 1)
  | .cpymm o => do
    match followBad (← get).s c with
    | some (code, a) => throw (.fault code a)
    | none => boxWork c room (fld o.flags 3 1)
  | .gthr o => rowWork c room (fld o.flags 3 0) false
  | .scat o => rowWork c room (fld o.flags 3 0) true
  | .coll o => collWork c o
  | _ => pure {}

/-! ### Staging (13 R293) -/

/-- Bytes of an element of a command that moves element by element. -/
def Cmd.elemBytes (c : Cmd) : Nat :=
  let d := Desc.of (c.slots.getD 0 TSlot.invalid).desc
  match c.ops.ins with
  | .cpyt _ | .cpymm _ => if isBfp d.fmt then blockBytes d.fmt + 2 else fmtWidth d.fmt / 8
  | .gthr o | .scat o => 2 ^ fld o.flags 3 0
  | _ => 16
/-- The staging that a command uses, and its bytes per cluster: that of the copy engine, the streamer, the gather engine. The
spec gives the collective engine no capacity. -/
def Cmd.staging (c : Cmd) : Option (Nat × Nat) :=
  if c.cls = 2 then none
  else match c.ops.ins with
    | .cpy _ | .cpyst _ => some (0, 2 ^ 18)
    | .cpyt _ | .cpymm _ => some (1, 2 ^ 19)
    | .gthr _ | .scat _ => some (2, 2 ^ 17)
    | _ => none
/-- How many elements a command may read now. -/
def State.room (s : State) (c : Cmd) : Nat :=
  match c.staging with
  | none => 2 ^ 24
  | some (k, cap) =>
    let used := (s.cmds.filter fun e => e.2.die == c.die && e.2.cluster == c.cluster && e.2.stage != .done && (e.2.staging.map (·.1)) == some k).foldl
      (fun n e => n + e.2.staged.writes.foldl (fun m a => m + a.bytes.length) 0) 0
    (cap - used) / max 1 c.elemBytes

/-! ### Tags of results that cross to another die (13 R294, R295) -/

/-- A flit sent at cycle `cc` may belong to the window: it is open, and 32 cc have not passed since its first flit. -/
def TagWin.takes (w : TagWin) (cc : Nat) : Bool := w.opened && decide (cc < w.first + 32)
/-- The open window closes: it records Q, and the serial counter advances. -/
def TagRgn.close (t : TagRgn) (q : Nat) : TagRgn :=
  if t.wins.any fun w => w.opened then
    { serial := t.serial + 1, wins := t.wins.map fun w => if w.opened then { w with opened := false, q := q } else w }
  else t
/-- An open window whose 32 cc are over closes. -/
def TagRgn.closeOld (t : TagRgn) (cc q : Nat) : TagRgn :=
  if t.wins.any fun w => w.opened && !w.takes cc then t.close q else t
/-- A window takes `n` flits to a die. -/
def TagWin.add (w : TagWin) (cc : Nat) (dst : Fin 4) (n : Nat) : TagWin :=
  { w with
    last := cc
    counts := if w.counts.any fun e => e.1 == dst then w.counts.map fun e => if e.1 == dst then (e.1, e.2 + n) else e
      else w.counts ++ [(dst, n)] }
/-- The tag window of a region takes `n` flits to a die: the open one, or a new one. -/
def TagRgn.send (t : TagRgn) (cc q : Nat) (dst : Fin 4) (n : Nat) : TagRgn :=
  let t := t.closeOld cc q
  if t.wins.any fun w => w.opened then { t with wins := t.wins.map fun w => if w.opened then w.add cc dst n else w }
  else
    let w : TagWin := { ser := t.serial, opened := true, first := cc, last := cc, q := q, counts := [] }
    { t with wins := t.wins ++ [w.add cc dst n] }

/-- A 33rd window would have to open for a flit sent at cycle `cc`: 32 are neither cleared nor squashed, and none takes it. -/
def TagRgn.full (t : TagRgn) (cc : Nat) : Bool := decide (32 ≤ t.wins.length) && !t.wins.any fun w => w.takes cc

def State.setTags (s : State) (d : Fin 4) (g : Nat) (t : TagRgn) : State :=
  s.updDie d fun x => { x with tags := Sparse.setD x.tags TagRgn.empty g t }
/-- A sender of the region has to wait. -/
def State.tagsFull (s : State) (d : Fin 4) (g : Nat) : Bool := (s.tagsOf d g).full (s.die d).cc

/-- Region `g` of die `src` sends `bytes` bytes for command `c` to die `dst` in tagged flits of 64 bytes. -/
def State.sendFlits (s : State) (src : Fin 4) (g : Nat) (dst : Fin 4) (c bytes : Nat) : State :=
  let n := (bytes + 63) / 64
  let t := (s.tagsOf src g).send (s.die src).cc (s.window src) dst n
  let s := s.setTags src g t
  { s with links := s.links ++ List.replicate n (.flit dst { src := src, rgn := g, ser := t.serial, cmd := c }) }

/-- Tagged flits of a command that have not been cleared. -/
def State.uncleared (s : State) (c : Nat) : Bool :=
  (s.links.any fun m => match m with | .flit _ f => f.cmd == c | _ => false)
  || (List.finRange 4).any fun d => (s.die d).flits.any fun f => f.cmd == c

/-! ### Guards of what is staged (13 R289, R417) -/

/-- An event of regions `gs` of die `d`, applied at cycle `cc` of it, squashes what depends on the guard; `q`: the die's window. -/
def Guard.hit (g : Guard) (d : Fin 4) (gs : List Nat) (cc q : Nat) : Bool :=
  g.die == d && gs.contains g.rgn && (g.opened || decide (cc ≤ g.last + q))
/-- An event squashes what the command has staged. -/
def Cmd.hit (c : Cmd) (d : Fin 4) (gs : List Nat) (cc q : Nat) : Bool := c.stage.held && c.rgns.any fun g => g.hit d gs cc q
/-- The cycle after every deadline has come, on each guard's own die (R352). -/
def State.pastGuards (s : State) (gs : List Guard) : State := gs.foldl (fun s g => s.waitPast g.die (g.last + s.window g.die)) s
/-- An event that would squash what depends on the guards is still to come (13 R289). -/
def State.guardsWait (s : State) (gs : List Guard) : Bool := gs.any fun g => s.eventBy g.die (g.last + s.window g.die)
/-- A guard of a region added, or its last cycle set. -/
def Cmd.guardAt (c : Cmd) (d : Fin 4) (g cc : Nat) : Cmd :=
  { c with rgns := c.rgns.filter (fun x => !(x.die == d && x.rgn == g)) ++ [{ die := d, rgn := g, last := cc, opened := false }] }

/-- A command goes back to its queue, to be performed again as it was retained (02 R56). -/
def Cmd.redo (c : Cmd) : Cmd :=
  { c with stage := .queued, staged := { writes := [], tiles := [], entry := none }, burst := false, rgns := [], upTo := none }
/-- Flits of a command that it no longer depends on bear a name that no command has. -/
def Flit.forget (ids : List Nat) (n : Nat) (f : Flit) : Flit := if ids.contains f.cmd then { f with cmd := n } else f
/-- Commands are performed again, with the follow-ons that have read what they staged (02 R56, 09 R221). -/
def State.redoAll (s : State) (ids : List Nat) : State :=
  if ids.isEmpty then s
  else
    let rides (c : Cmd) : Bool := match c.copy with | some k => ids.contains k | none => false
    let gone := ids ++ (s.cmds.filter fun e => rides e.2).map (·.1)
    let n := s.nextId
    { s with
      nextId := n + 1
      cmds := s.cmds.map fun (e : Nat × Cmd) =>
        if rides e.2 then (e.1, { e.2.redo with deps := e.2.deps ++ e.2.copy.toList })
        else if ids.contains e.1 then (e.1, e.2.redo) else e
      links := s.links.map fun m => match m with | .flit d f => .flit d (f.forget gone n) | m => m
      dies := vmap (fun (x : Die) => { x with flits := x.flits.map (Flit.forget gone n) }) s.dies }

/-! ### Stages -/

def State.updCmd (s : State) (c : Nat) (f : Cmd → Cmd) : State := { s with cmds := Sparse.upd s.cmds c f }
def State.setStage (s : State) (c : Nat) (st : CStage) : State := s.updCmd c fun x => { x with stage := st }
/-- No older command of its class and wale is left (R210). -/
def State.isOldest (s : State) (c : Cmd) : Bool :=
  (s.cmdsOf c.wale).all fun e => e.2.cls != c.cls || decide (c.seq ≤ e.2.seq)

/-- An engine's stop: its fault waits to be reported, its page is requested, or it waits. -/
def State.engErr (s : State) (id : Nat) (c : Cmd) : EErr → State
  | .fault code a => s.setStage id (.faulted code a)
  | .part d a => (s.countRej d).setStage id (.faulted cPERM a)
  | .demand va kind =>
    let (t, s) := s.requestPage c.func va c.die kind
    s.setStage id (.page t)
  | .wait => s
  | .away p => s.callBack p

/-- The guard region of an engine of class `c` (13 R290). -/
def Cmd.engineRegion (c : Cmd) : Nat := if c.cls = 3 then 61 else 48 + c.cluster
/-- The dies from whose region 60 an operand has come, and the bytes from each. -/
def farOf (e : EngSt) : List (Fin 4 × Nat) :=
  ((List.finRange 4).filter fun d => e.far.any fun p => p.1 == d).map fun d =>
    (d, (e.far.filter fun p => p.1 == d).foldl (fun n p => n + p.2) 0)

/-- The command that an engine works at: none once a fatal device error has stopped the engines (18 R399). -/
def State.liveCmd (s : State) (id : Nat) : Option Cmd := if s.fatal then none else Sparse.find? s.cmds id
/-- Messages go out to peers; nothing that has not cleared does (R224). -/
def State.sendOut (s : State) (ms : List PeerMsg) : State := { s with peerOut := s.peerOut ++ ms }
/-- SOURCE_POINT: the engine reads its source and stages it; once the reads have cleared, the source point is reached. A source on
another die crosses under tags first, and is staged as if it had been read at the cycle of the CLEAR's release (R298). -/
def execSourcePoint (id : Nat) (s : State) : Out :=
  .next (match s.liveCmd id with
    | none => s
    | some c =>
      if c.cls = 2 then s
      else match c.stage with
        | .queued =>
          if s.room c = 0 then s
          else (match (sourceWork c (s.room c)).run { s := s, far := [], port := false } with
            | .error e => s.engErr id c e
            | .ok (r, e) =>
              let s := e.s
              let far := farOf e
              if far.any fun p => s.tagsFull p.1 60 then s
              else
                let cc := (s.die c.die).cc
                let s := s.updCmd id fun x =>
                  let x := { x with staged := { x.staged with writes := r.writes, msgs := r.msgs }, upTo := r.upTo,
                                    stage := match r.stop with | some z => .stopped z | none => .staged }
                  let x := if far.isEmpty then x.guardAt c.die c.engineRegion cc else x
                  if e.port then x.guardAt c.die 60 cc else x
                far.foldl (fun s p => s.sendFlits p.1 60 c.die id p.2) s)
        | .staged =>
          if s.uncleared id || s.guardsWait c.rgns then s
          else (((s.pastGuards c.rgns).setStage id .sourced).sendOut c.staged.msgs).wakeWale c.wale
        | _ => s)

/-- A command as the writer of a line: of which wale and class it is, its place, and the number that its batch has or will have (12
R284). -/
def State.agentOf (s : State) (id : Nat) (c : Cmd) : Agent :=
  match s.wale? c.wale with
  | none => .other
  | some w =>
    let seals := (w.heldAll.filter fun h => h == .seal).length
    let num := match w.sealed.find? fun b => b.cmds.contains id with
      | some b => some b.num
      | none => if c.inBatch then some (w.core.batch - BitVec.ofNat 16 seals) else none
    .cmd c.wale c.cls c.seq num
/-- A staged write of an engine of die `d` waits (16 R356, R361, 14 R312). -/
def State.writesWait (s : State) (d : Fin 4) (ws : List Acc) : Bool :=
  ws.any fun a => s.locWaits d a.loc || s.contested none a.loc
/-- The virtual address of a staged write to a page that has been poisoned meanwhile (14 R315). -/
def State.poisonedWrite (s : State) (ws : List Acc) : Option Dword :=
  ws.findSome? fun a => match a.loc with
    | .glob pa va _ _ _ _ => if s.poisoned.contains (pa / 8192) then some (BitVec.ofNat 64 va) else none
    | _ => none
/-- Staged writes are performed. A command that has stopped is faulted then, and its retained copy goes on from the element
where it stopped; one with elements left reads on. A write to a poisoned page faults its command with PERM. -/
def State.landWrites (s : State) (id : Nat) (c : Cmd) : State :=
  let ls := c.staged.writes.map (·.loc)
  let bad := s.poisonedWrite c.staged.writes
  let s := ((s.touchAll c.die 0 c.levels.2 .write ls).takeGrants ls).locWrites (s.agentOf id c) c.die c.staged.writes
  match bad with
  | some a => s.setStage id (.faulted cPERM a)
  | none =>
  match c.stage, c.upTo with
  | .stopped x, _ => s.updCmd id fun k => { k with ops := { k.ops with off := x.off }, stage := .faulted x.code x.addr }
  | _, some n => s.updCmd id fun k => { k.redo with ops := { k.ops with off := n } }
  | _, none => s.setStage id .done
/-- STAGING_CLEAR: the writes leave staging and are performed. -/
def execStagingClear (id : Nat) (s : State) : Out :=
  .next (match s.liveCmd id with
    | none => s
    | some c =>
      match c.stage with
      | .sourced => if s.writesWait c.die c.staged.writes then s.callBackFor (c.staged.writes.map (·.loc)) else (s.landWrites id c).wakeWale c.wale
      | .stopped _ =>
        if c.cls = 2 ∨ s.uncleared id ∨ s.guardsWait c.rgns ∨ s.writesWait c.die c.staged.writes then s
        else ((s.pastGuards c.rgns).landWrites id c).wakeWale c.wale
      | _ => s)

/-! ### Completion (R210, R214) and faults (R211) -/

/-- The bytes of a completed copy are added to its sync word. -/
def State.addSync (s : State) (c : Cmd) : State :=
  s.syncAdd c (c.ops.off * c.elemBytes + c.staged.writes.foldl (fun n w => n + w.bytes.length) 0)

/-- ENGINE_COMMAND_COMPLETE: in release order, the sync word first. -/
def execEngineCommandComplete (id : Nat) (s : State) : Out :=
  .next (match s.liveCmd id with
    | none => s
    | some c => if c.stage == .done && s.isOldest c then (s.addSync c).popCmd id c false else s)

/-- ENGINE_FAULT: a stopped command completes with an error and its fault is reported. A `cpymm` whose copy has failed issues
no follow-on: its matrix part has nothing left to do, and completes in its own order (R210). -/
def execEngineFault (id : Nat) (s : State) : Out :=
  .next (match s.liveCmd id with
    | none => s
    | some c =>
      match c.stage with
      | .faulted code a =>
        if !s.isOldest c then s
        else
          let s := s.popCmd id c true
          let s : State := { s with
            cmds := s.cmds.map fun (e : Nat × Cmd) =>
              if e.2.copy = some id then (e.1, { e.2.redo with stage := CStage.done }) else e }
          s.reportFault c.wale c.ops (some c.cls) id c.seq code a
      | _ => s)

/-- The bytes of a copy are all in staging, or have left it. -/
def State.operandIn (s : State) (id : Nat) : Bool :=
  match Sparse.find? s.cmds id with
  | some k => k.upTo.isNone && (match k.stage with | .staged | .sourced | .done => true | _ => false)
  | none => true
/-- CPYMM_FOLLOW_ON: the last operand byte has landed in staging, and the streamer issues the follow-on to the array (R221). -/
def execCpymmFollowOn (id : Nat) (s : State) : Out :=
  .next (match s.liveCmd id with
    | some c => (match c.copy with
        | some k => if s.operandIn k then s.updCmd id fun x => { x with deps := x.deps.filter fun d => d != k } else s
        | none => s)
    | none => s)

end Sys2Proof.Machine
end

