-- ==== Sys2Proof/Machine/Array.lean ====
section
/-! DEFINITION. The matrix array and the reuse unit after release (10 R236 to R254, 17 R383): bursts, staged results, their
entry into tiles, reuse entries and memory. -/

namespace Sys2Proof.Machine

/-! ### Operands (R237, R242) -/

/-- Key of a tile element in `Hoop.tiles`. -/
def tileKey (t i j : Nat) : Nat := 256 * t + 16 * i + j
def Hoop.tileAt (h : Hoop) (t i j : Nat) : Word := Sparse.getD h.tiles 0 (tileKey t i j)

/-- The value of an operand element for a SUB format: a tile's FP32 value is rounded to it. -/
def operand (c : Cmd) (sub : Nat) (d : Desc) (i : List Nat) : EM FV := do
  let x ← elemVal c d i
  if d.space = 4 then
    let f := (fmtOf sub).getD fp32
    return unpack f (roundFV f .rne x).val
  else return x

/-- `mapM` over a range. -/
def forN {α : Type} (n : Nat) (f : Nat → EM α) : EM (List α) := (List.range n).mapM f

/-- An operand slot of `mma` and `mconv`: valid, and of the SUB format unless it is a tile read in a scalar format (R236). -/
def operandSlot (t : TSlot) (sub : Nat) : EM Desc := do
  let d ← slotDesc t
  if (d.space = 4 ∧ isBfp sub) ∨ (d.space ≠ 4 ∧ d.fmt ≠ sub) then throw (.fault cSHAPE 0) else pure d

def groupSize (sub : Nat) : Nat := if isBfp sub then 32 else 16
/-- The accumulation of one output element from its operand rows (03 R77). -/
def dot (sub acc : Nat) (x y : List FV) : Nat := groupSum (x.length + 1) (groupSize sub) acc (x.zip y)

/-- What a matrix command stages: tile elements (keyed), writes, an entry update. -/
structure MRes where
  tiles : List (Nat × Word) := []
  writes : List Acc := []
  entry : Option (Nat × ReuseEntry) := none
  stop : Option Stop := none

/-- The 16 x 16 results of rows and columns. -/
def tileRows (t : Nat) (f : Nat → Nat → Nat) : List (Nat × Word) :=
  (List.range 16).flatMap fun i => (List.range 16).map fun j => (tileKey t i j, BitVec.ofNat 32 (f i j))

/-- `mma` (R242), and the follow-on of `cpymm`: origins (ka, ra), (kb, nb). -/
def mmaWork (c : Cmd) (h : Hoop) (sub k t : Nat) (za : Bool) (a b : Word) : EM MRes := do
  let da ← operandSlot (c.slots.getD 0 TSlot.invalid) sub
  let db ← operandSlot (c.slots.getD 1 TSlot.invalid) sub
  let ka := fld a 15 0
  let ra := fld a 31 16
  let kb := fld b 15 0
  let nb := fld b 31 16
  if isBfp sub ∧ (ka % 32 ≠ 0 ∨ kb % 32 ≠ 0) then throw (.fault cSHAPE 0)
  else
    let xs ← forN 16 fun i => forN k fun q => operand c sub da [ka + q, ra + i, 0, 0, 0]
    let ys ← forN 16 fun j => forN k fun q => operand c sub db [kb + q, nb + j, 0, 0, 0]
    let f (i j : Nat) : Nat := dot sub (if za then 0 else (h.tileAt t i j).toNat) (xs.getD i []) (ys.getD j [])
    return { tiles := tileRows t f }

/-- The output extent along one axis (R243); below 1 raises SHAPE. -/
def outExt (n pad dil kn stride : Nat) : Int := ((n : Int) + 2 * pad - dil * (kn - 1 : Int) - 1) / stride + 1

/-- `mconv` (R243). -/
def mconvWork (c : Cmd) (h : Hoop) (o : XOps) : EM MRes := do
  let sub := o.sub.toNat
  let d ← operandSlot (c.slots.getD 0 TSlot.invalid) sub
  let w ← operandSlot (c.slots.getD 1 TSlot.invalid) sub
  let p0 := c.ops.a.toNat
  let k0 := nfld c.ops.b.toNat 15 0
  let k := nfld c.ops.b.toNat 31 16
  let n0 := nfld c.ops.c.toNat 15 0
  let t := tileOf c.ops.d
  let oh := outExt (d.dim 2) d.padg d.dil d.kh d.stride
  let ow := outExt (d.dim 1) d.padg d.dil d.kw d.stride
  if !d.conv ∨ (isBfp sub ∧ k0 % 32 ≠ 0) ∨ oh < 1 ∨ ow < 1 then throw (.fault cSHAPE 0)
  else
    let oh := oh.toNat
    let ow := ow.toNat
    let cc := d.dim 0
    let pixel (i : Nat) : Nat := p0 + i
    let padv : FV := if isBfp d.fmt then .fin false 0 0 else unpack ((fmtOf d.fmt).getD fp32) (d.pad % 2 ^ fmtWidth d.fmt)
    let xs ← forN 16 fun i => forN k fun q => do
      let kk := k0 + q
      let p := pixel i
      let n := p / (oh * ow)
      let y : Int := (p / ow % oh * d.stride : Nat) - (d.padg : Int) + (kk / (cc * d.kw) * d.dil : Nat)
      let x : Int := (p % ow * d.stride : Nat) - (d.padg : Int) + (kk / cc % d.kw * d.dil : Nat)
      if d.kh * d.kw * cc ≤ kk ∨ d.dim 3 ≤ n ∨ y < 0 ∨ x < 0 ∨ (d.dim 2 : Int) ≤ y ∨ (d.dim 1 : Int) ≤ x then pure padv
      else operand c sub d [kk % cc, x.toNat, y.toNat, n, 0]
    let ys ← forN 16 fun j => forN k fun q => operand c sub w [k0 + q, n0 + j, 0, 0, 0]
    let za := mbit o.flags 0
    let f (i j : Nat) : Nat := dot sub (if za then 0 else (h.tileAt t i j).toNat) (xs.getD i []) (ys.getD j [])
    let rows := (tileRows t f).filter fun e => decide (pixel (e.1 / 16 % 16) / (oh * ow) < d.dim 3)
    return { tiles := rows }

/-- `mzero` (R244). -/
def mzeroWork (o : XOps) : MRes :=
  { tiles := (List.range (o.ts2.toNat + 1)).flatMap fun n => tileRows (o.ts.toNat + n) fun _ _ => 0 }

/-- The memory slot of `mld` and `mst`: FP32, FP16 or BF16, not a tile (R236). -/
def memSlot (t : TSlot) : EM Desc := do
  let d ← slotDesc t
  if d.space = 4 ∨ (fmtOf d.fmt).isNone then throw (.fault cSHAPE 0) else pure d

/-- An element of a scalar format as FP32: FP32 bits as they are (03 R62), others widened exactly, a NaN of FP16 or BF16 to the canonical
NaN, as in a conversion (log entry 103, DEDUCED). -/
def elemFp32 (c : Cmd) (d : Desc) (i : List Nat) : EM Nat := do
  if d.fmt = 0 then
    if d.inside i then return natLE (← engRead c d.space d.die (d.elemAddr i) 4) else return d.pad % 2 ^ 32
  else return (roundFV fp32 .rne (← elemVal c d i)).val
/-- `mld` (R244). -/
def mldWork (c : Cmd) : EM MRes := do
  let d ← memSlot (c.slots.getD 0 TSlot.invalid)
  let i0 := nfld c.ops.a.toNat 15 0
  let i1 := nfld c.ops.a.toNat 31 16
  let rows ← forN 16 fun i => forN 16 fun j => elemFp32 c d [i0 + j, i1 + i, 0, 0, 0]
  return { tiles := tileRows (tileOf c.ops.d) fun i j => (rows.getD i []).getD j 0 }

/-- `mst` (R244): elements in (i, j) order, so that the higher wins. -/
def mstWork (c : Cmd) (h : Hoop) (scope : Nat) : EM MRes := do
  let d ← memSlot (c.slots.getD 0 TSlot.invalid)
  let i0 := nfld c.ops.a.toNat 15 0
  let i1 := nfld c.ops.a.toNat 31 16
  let t := tileOf c.ops.d
  if !scopeFits d scope then throw (.fault cSHAPE 0)
  else
    let r ← moveElems c 256 ((List.range 256).map fun k => do
      let i := k / 16
      let j := k % 16
      let ix := [i0 + j, i1 + i, 0, 0, 0]
      if d.inside ix then
        let f := (fmtOf d.fmt).getD fp32
        let x := (h.tileAt t i j).toNat
        let v := if d.fmt = 0 then x else (roundFV f .rne (unpack fp32 x)).val
        engWriteRun c d.space d.die 2 (d.elemAddr ix) (bytesLE (fmtWidth d.fmt / 8) v)
      else pure [])
    return { writes := r.writes, stop := r.stop }

/-! ### The reuse unit (R247 to R253) -/

/-- The entry of a command and its number. -/
def State.entryOf (s : State) (c : Cmd) : Nat × Fin 4 :=
  match s.basket? c.basket with
  | some b => (pkRsBase b.pkt + (cmdReuse c.ops).getD 0, pkRsDie b.pkt)
  | none => (0, 0)

/-- A weight slot: global BF16 (R236, R249). -/
def weightSlot (t : TSlot) (rank2 : Bool) : EM Desc := do
  let d ← slotDesc t
  if d.space ≠ 0 ∨ d.fmt ≠ 2 ∨ (rank2 ∧ d.rank ≠ 2) then throw (.fault cSHAPE 0) else pure d
/-- First line and line count of a slot's footprint: from BASE to the last byte that its dims and strides reach. -/
def Desc.footprint (d : Desc) : Nat × Nat :=
  let last := d.base + d.dim 0 * 2 - 1 + (List.range 4).foldl (fun n k => n + (d.dim (k + 1) - 1) * d.str (k + 1)) 0
  (d.base / 64, last / 64 + 1 - d.base / 64)

/-- `rsdef` (R249): the given parameters, a new watch range, an empty image. -/
def rsdefWork (c : Cmd) (e : ReuseEntry) : EM ReuseEntry := do
  let d ← weightSlot (c.slots.getD 0 TSlot.invalid) true
  let b := lo32 c.ops.b
  let nl := fld b 6 0
  let (f, n) := d.footprint
  return { valid := false, layer := lo32 c.ops.a, wbase := BitVec.ofNat 53 d.base, wver := e.version, count := 0,
           nlim := if nl = 0 then 16 else nl, satth := fld b 15 7, k := fld b 26 16, vf := c.func, sver := e.sver + 1,
           r := [], abar := [], wfirst := f, wlines := n, version := e.version }

def rAt (e : ReuseEntry) (i j : Nat) : Nat := (Sparse.getD e.r 0 (16 * i + j)).toNat
def abarAt (e : ReuseEntry) (i k : Nat) : Nat := (Sparse.getD e.abar 0 (1024 * i + k)).toNat
/-- A zero-default map from its listed values. -/
def sparseOf {β : Type} [DecidableEq β] (d : β) (xs : List (Nat × β)) : Sparse β :=
  xs.foldl (fun m e => Sparse.setD m d e.1 e.2) []
def grid {β : Type} (n stride : Nat) (f : Nat → Nat → β) : List (Nat × β) :=
  (List.range 16).flatMap fun i => (List.range n).map fun j => (stride * i + j, f i j)
def bf16Of (v : FV) : Nat := (roundFV bf16 .rne v).val

/-- The BFP8 blocks of the differences of one row (03 R74, sh = 6). -/
def deltaRow (k : Nat) (d : List FV) : List Block :=
  (List.range (k / 32)).map fun b => formBlock ((d.drop (32 * b)).take 32) 6 6
/-- The numbers of a row of blocks, and how many saturated or read as NaN. -/
def blockVals (bs : List Block) : List FV := bs.flatMap fun b => b.elems.map fun e => bfpValue 6 e b.e0 b.e1
def blockSat (bs : List Block) : Nat :=
  (bs.flatMap fun b => (b.elems.zip b.sat).filter fun e => e.2 || (bfpValue 6 e.1 b.e0 b.e1).isNaN).length

/-- The decision and update of `mmad` (R250) from its operands: rows x, columns w. -/
def mmadStep (e : ReuseEntry) (fr : Bool) (layer : Word) (base : BitVec 53) (foot : Nat × Nat) (xs ws : List (List FV)) :
    ReuseEntry :=
  let fresh := !fr && e.valid && e.layer == layer && e.wbase == base && (e.wfirst, e.wlines) == foot
    && e.wver == e.version && decide (e.count < e.nlim)
  let row (i : Nat) : List FV := xs.getD i []
  let diff (i : Nat) : List FV := (List.range e.k).map fun q =>
    unpack fp32 (addTerms fp32 .rne [(row i).getD q (.fin false 0 0), (unpack bf16 (abarAt e i q)).neg]).val
  let dq := (List.range 16).map fun i => deltaRow e.k (diff i)
  let nsat := dq.foldl (fun n b => n + blockSat b) 0
  if fresh && decide (nsat ≤ e.satth) then
    let v := dq.map blockVals
    { e with
      r := sparseOf 0 (grid 16 16 fun i j =>
        BitVec.ofNat 32 (groupSum (e.k + 1) 32 (rAt e i j) ((v.getD i []).zip (ws.getD j []))))
      abar := sparseOf 0 (grid e.k 1024 fun i q =>
        BitVec.ofNat 16 (addTerms bf16 .rne [unpack bf16 (abarAt e i q), (v.getD i []).getD q (.fin false 0 0)]).val)
      count := e.count + 1
      sver := e.sver + 1 }
  else
    { e with
      r := sparseOf 0 (grid 16 16 fun i j => BitVec.ofNat 32 (groupSum (e.k + 1) 16 0 ((row i).zip (ws.getD j []))))
      abar := sparseOf 0 (grid e.k 1024 fun i q => BitVec.ofNat 16 (bf16Of ((row i).getD q (.fin false 0 0))))
      count := 0
      valid := true
      layer := layer
      wbase := base
      wfirst := foot.1
      wlines := foot.2
      wver := e.version
      sver := e.sver + 1 }

/-- `mmad` (R250). -/
def mmadWork (c : Cmd) (o : XOps) (n : Nat) (e : ReuseEntry) : EM MRes := do
  let da ← operandSlot (c.slots.getD 0 TSlot.invalid) 2
  let db ← weightSlot (c.slots.getD 1 TSlot.invalid) false
  let a := lo32 c.ops.a
  let b := lo32 c.ops.c
  let xs ← forN 16 fun i => forN e.k fun q => operand c 2 da [fld a 15 0 + q, fld a 31 16 + i, 0, 0, 0]
  let ws ← forN 16 fun j => forN e.k fun q => elemVal c db [fld b 15 0 + q, fld b 31 16 + j, 0, 0, 0]
  let e' := mmadStep e (mbit o.flags 0) (lo32 c.ops.b) (BitVec.ofNat 53 db.base) db.footprint xs ws
  return { tiles := tileRows (tileOf c.ops.d) fun i j => rAt e' i j, entry := some (n, e') }

/-- A reuse image without its check word (R253). Its watch line count is the entry's modulo 2^32 (log entry 89). -/
def imageBody (e : ReuseEntry) : List Byte × List Byte :=
  (bytesLE 4 e.layer.toNat ++ bytesLE 4 e.wver.toNat ++ bytesLE 8 e.wbase.toNat ++ bytesLE 2 e.sver.toNat
    ++ bytesLE 1 e.count ++ bytesLE 1 e.nlim ++ bytesLE 2 e.satth ++ bytesLE 2 e.k ++ bytesLE 1 (if e.valid then 1 else 0)
    ++ bytesLE 1 e.vf ++ bytesLE 4 e.wlines ++ bytesLE 30 0,
   ((List.range 16).flatMap fun i => (List.range 16).flatMap fun j => bytesLE 4 (rAt e i j))
    ++ (List.range 16).flatMap fun i => (List.range e.k).flatMap fun q => bytesLE 2 (abarAt e i q))
def reuseImage (e : ReuseEntry) : List Byte :=
  let (a, b) := imageBody e
  a ++ bytesLE 4 (xorWords (a ++ b)).toNat ++ b

/-- The entry that an image sets, when it passes the checks of R253. -/
def readImage (func : Nat) (bs : List Byte) : Option ReuseEntry :=
  let f (o n : Nat) : Nat := natLE ((bs.drop o).take n)
  let k := f 22 2
  let e : ReuseEntry :=
    { valid := f 24 1 % 2 == 1, layer := BitVec.ofNat 32 (f 0 4), wbase := BitVec.ofNat 53 (f 8 8),
      wver := BitVec.ofNat 32 (f 4 4), count := f 18 1, nlim := f 19 1, satth := f 20 2, k := k, vf := f 25 1,
      sver := BitVec.ofNat 16 (f 16 2),
      r := sparseOf 0 (grid 16 16 fun i j => BitVec.ofNat 32 (f (64 + 64 * i + 4 * j) 4)),
      abar := sparseOf 0 (grid k 1024 fun i q => BitVec.ofNat 16 (f (1088 + 2 * k * i + 2 * q) 2)),
      wfirst := f 8 8 / 64, wlines := f 26 4, version := BitVec.ofNat 32 (f 4 4) }
  if bs.length ≠ 1088 + 32 * k ∨ xorWords (bs.take 60 ++ bs.drop 64) ≠ BitVec.ofNat 32 (f 60 4) ∨ f 24 1 / 2 ≠ 0
      ∨ f 30 30 ≠ 0 ∨ 2 ^ 53 ≤ f 8 8 ∨ 64 < f 18 1 ∨ f 19 1 = 0 ∨ 64 < f 19 1 ∨ 256 < f 20 2 ∨ k % 32 ≠ 0 ∨ k < 32 ∨ 1024 < k
      ∨ f 25 1 ≠ func then none
  else some e

/-- The work of a class 2 command. -/
def matrixWork (c : Cmd) (h : Hoop) : EM MRes := do
  let (n, d) := (← get).s.entryOf c
  let e := (← get).s.reuseEntry d n
  match c.ops.ins with
  | .mma o => mmaWork c h o.sub.toNat c.ops.b.toNat (tileOf c.ops.d) (mbit o.flags 0) (lo32 c.ops.a) (lo32 c.ops.c)
  | .cpymm _ =>
    match followBad (← get).s c with
    | some (code, a) => throw (.fault code a)
    | none =>
      let x := c.ops.c.toNat
      let k := (Desc.of (c.slots.getD 0 TSlot.invalid).desc).dim 0
      mmaWork c h (nfld x 19 16) k (nfld x 15 8) false 0 0
  | .mmad o => mmadWork c o n e
  | .mconv o => mconvWork c h o
  | .mzero o => return mzeroWork o
  | .mld _ => mldWork c
  | .mst o => mstWork c h (fld o.flags 3 1)
  | .rsdef _ => return { entry := some (n, ← rsdefWork c e) }
  | .rsinv _ => return { entry := some (n, { e with valid := false, sver := e.sver + 1 }) }
  | .rssave _ =>
    let bs := reuseImage e
    let r ← moveElems c bs.length ((List.range (bs.length / 16)).map fun i =>
      engWriteRun c 0 c.die 1 (c.ops.a.toNat + 16 * i) ((bs.drop (16 * i)).take 16))
    return { writes := r.writes, stop := r.stop }
  | .rsload _ =>
    let a := c.ops.a.toNat
    let head ← engReadRun c 0 c.die 8 a 64
    let k := natLE ((head.drop 22).take 2)
    if 1024 < k then throw (.fault cSHAPE 0)
    else
      let bs ← engReadRun c 0 c.die 4096 a (1088 + 32 * k)
      match readImage c.func bs with
      | some e' => return { entry := some (n, e') }
      | none => throw (.fault cSHAPE 0)
  | _ => return {}

/-! ### Bursts and results (R238, R241, 17 R383) -/

/-- `mma`, `mmad`, `mconv` and a follow-on run as a burst and need a token. -/
def Cmd.isBurst (c : Cmd) : Bool :=
  match c.ops.ins with
  | .mma _ | .mmad _ | .mconv _ | .cpymm _ => true
  | _ => false
/-- The hold limit of a cluster's token in cc: HOLD x 64, twice that in a MAX cluster (17 R378). -/
def State.holdLimit (s : State) (d : Fin 4) (c : Fin 8) : Nat :=
  64 * s.regF (rTokens d) 15 8 * if s.regF (rClust d c) 1 0 = 2 then 2 else 1
/-- The cluster holds a token and is below its hold limit. -/
def State.mayBurst (s : State) (d : Fin 4) (c : Fin 8) : Bool :=
  (s.die d).tokens.any fun t => t.at_ == c && t.held && decide ((s.die d).cc < t.since + s.holdLimit d c)
/-- The tiles that a command writes. -/
def Cmd.tilesOut (c : Cmd) : List Nat :=
  match c.ops.ins with
  | .mma _ | .mmad _ | .mconv _ | .mld _ => [tileOf c.ops.d]
  | .cpymm _ => [nfld c.ops.c.toNat 15 8]
  | .mzero o => (List.range (o.ts2.toNat + 1)).map fun n => o.ts.toNat + n
  | _ => []
/-- Tile results that the core of a hoop has staged (13 R293). -/
def State.stagedTiles (s : State) (core : Nat) : Nat :=
  (s.cmds.filter fun e => e.2.cls == 2 && e.2.stage.held && (match s.hoop? e.2.hoop with
    | some h => h.core == core
    | none => false)).foldl (fun n e => n + e.2.tilesOut.length) 0
/-- The core's staging has room for the command's tile results; an `mzero` of more than 8 tiles has the staging to itself (log
entry 87). -/
def State.tilesFit (s : State) (c : Cmd) (core : Nat) : Bool :=
  let n := s.stagedTiles core
  c.tilesOut.isEmpty || n == 0 || decide (n + c.tilesOut.length ≤ 8)
/-- Another command of the hoop has staged a result for a tile that this command writes. A command that reads a tile and
writes it thus reads what the serial order before it leaves (10 R239). -/
def State.tileBusy (s : State) (c : Cmd) : Bool :=
  s.cmds.any fun e => e.2.hoop == c.hoop && e.2.cls == 2 && e.2.stage.held && e.2.tilesOut.any fun t => c.tilesOut.contains t
/-- Another update of the command's entry has not cleared, or 32 updates of the reuse unit are staged (R251, 13 R293). -/
def State.entryBusy (s : State) (c : Cmd) : Bool :=
  (cmdReuse c.ops).isSome && (
    (s.cmds.any fun e => e.2.stage.held && (cmdReuse e.2.ops).isSome && s.entryOf e.2 == s.entryOf c)
    || decide (32 ≤ (s.cmds.filter fun e => e.2.stage.held && (cmdReuse e.2.ops).isSome
        && (s.entryOf e.2).2 == (s.entryOf c).2).length))

/-- The burst or command may start. -/
def State.canStart (s : State) (c : Cmd) (h : Hoop) : Bool :=
  c.cls == 2 && c.stage == .queued && c.deps.all (fun d => (Sparse.find? s.cmds d).isNone)
  && s.tilesFit c h.core && !s.tileBusy c && !s.entryBusy c && (!c.isBurst || s.mayBurst c.die c.cluster)
  && !((cmdReuse c.ops).isSome && s.dieWaits c.die (s.entryOf c).2)

/-! ### The part of the reuse unit (R238, R245) -/

/-- Bytes of the arena image that a command reads: of K rows of Abar and R. -/
def Cmd.imageIn (c : Cmd) (k : Nat) : Nat := match c.ops.ins with | .mmad _ | .rssave _ => 1024 + 32 * k | _ => 0
/-- Bytes of its update of the entry. -/
def Cmd.updateOut (c : Cmd) (k : Nat) : Nat :=
  match c.ops.ins with
  | .mmad _ | .rsload _ => 1088 + 32 * k
  | .rsdef _ | .rsinv _ => 64
  | _ => 0
/-- The die of the entry of a command that uses one. -/
def State.reuseDie (s : State) (c : Cmd) : Option (Fin 4) := if (cmdReuse c.ops).isSome then some (s.entryOf c).2 else none
/-- The command's last result has come, at the present cycle: its own region's and, for an entry of its own die, region 60's
guard is settled; its update of an entry on another die goes out under tags of its own region, to be staged there at the cycle of
the CLEAR's release. -/
def State.lastResult (s : State) (id : Nat) : State :=
  match Sparse.find? s.cmds id with
  | none => s
  | some c =>
    match s.hoop? c.hoop with
    | none => s
    | some h =>
      let cc := (s.die c.die).cc
      let k := match c.staged.entry with | some (_, _, e) => e.k | none => 0
      match s.reuseDie c with
      | none => s.updCmd id fun x => { x with burst := false }.guardAt c.die h.region cc
      | some d =>
        if d = c.die then s.updCmd id fun x => ({ x with burst := false }.guardAt c.die h.region cc).guardAt d 60 cc
        else
          let s := s.updCmd id fun x => { x with burst := false }.guardAt c.die h.region cc
          if c.updateOut k = 0 then s else s.sendFlits c.die h.region d id (c.updateOut k)
/-- The command's last result may come: its update has a tag window to go out in. -/
def State.mayEnd (s : State) (c : Cmd) : Bool :=
  match s.reuseDie c, s.hoop? c.hoop with
  | some d, some h => d == c.die || !s.tagsFull c.die h.region
  | _, _ => true

/-- The bytes that a follow-on finds in streamer staging (09 R221). -/
def State.frontOf (s : State) (c : Cmd) : List Acc :=
  match c.copy with
  | some k => (match Sparse.find? s.cmds k with
    | some x => if x.stage == .done then [] else x.staged.writes
    | none => [])
  | none => []

/-- MATRIX_BURST_START: the command reads its operands and its result is staged; a burst's last result comes at its end. -/
def execMatrixBurstStart (id : Nat) (s : State) : Out :=
  .next (match s.liveCmd id with
    | none => s
    | some c =>
      match s.hoop? c.hoop with
      | none => s
      | some h =>
        if !s.canStart c h || !s.mayEnd c then s
        else match (matrixWork c h).run { s := s, far := [], port := false, front := s.frontOf c } with
          | .error e => s.engErr id c e
          | .ok (r, e) =>
            let s := e.s
            let rd := s.reuseDie c
            let n := c.imageIn (s.reuseEntry (s.entryOf c).2 (s.entryOf c).1).k
            let e := match rd with
              | some d => if n = 0 ∨ d = c.die then e else { e with far := e.far ++ [(d, n)] }
              | none => e
            let far := farOf e
            if far.any fun p => s.tagsFull p.1 60 then s
            else
              let cc := (s.die c.die).cc
              let own : List Guard := [{ die := c.die, rgn := h.region, last := cc, opened := true }]
              let unit : List Guard :=
                if rd = some c.die then [{ die := c.die, rgn := 60, last := cc, opened := true }]
                else if e.port then [{ die := c.die, rgn := 60, last := cc, opened := false }] else []
              let s := s.updCmd id fun x =>
                { x with stage := (match r.stop with | some z => .stopped z | none => .staged), burst := c.isBurst, rgns := own ++ unit,
                         staged := { writes := r.writes, tiles := r.tiles, entry := r.entry.map fun q => ((s.entryOf c).2, q) } }
              let s := s.wakeAll
              let s := far.foldl (fun s p => s.sendFlits p.1 60 c.die id p.2) s
              if c.isBurst then s else s.lastResult id)

/-- A queued or running burst of a cluster. -/
def State.burstsOf (s : State) (d : Fin 4) (c : Fin 8) (running : Bool) : Bool :=
  s.cmds.any fun e => e.2.die == d && e.2.cluster == c && e.2.cls == 2 && e.2.isBurst
    && (e.2.burst || (!running && e.2.stage == .queued))
/-- A cluster gives up its token: the token's next hop takes it to the next cluster of the ring, which may take it. -/
def Die.passToken (x : Die) (c : Fin 8) : Die :=
  { x with tokens := x.tokens.map fun t => if t.at_ == c && t.held then { t with held := false } else t }
/-- BURST_END: the burst is over and its last result has come; its cluster passes its token at its hold limit, or when no burst
is left. -/
def execBurstEnd (id : Nat) (s : State) : Out :=
  .next (match s.liveCmd id with
    | none => s
    | some c =>
      if !c.burst || !s.mayEnd c then s
      else
        let s := (s.tick c.die).lastResult id
        if s.burstsOf c.die c.cluster true then s
        else if s.mayBurst c.die c.cluster && s.burstsOf c.die c.cluster false then s
        else s.updDie c.die fun x => x.passToken c.cluster)

/-- A staged entry enters the table; the version counter goes on, except after `rsload` (R253). An `rsdef` sets WVER to the
version current then (R249). -/
def State.enterEntry (s : State) (c : Cmd) (d : Fin 4) (n : Nat) (e : ReuseEntry) : State :=
  let v := (s.reuseEntry d n).version
  s.setReuse d n (match c.ops.ins with
    | .rsload _ => e
    | .rsdef _ => { e with version := v, wver := v }
    | _ => { e with version := v })

/-- The bytes that a follow-on has read have all cleared (09 R221). -/
def State.copyIn (s : State) (c : Cmd) : Bool :=
  match c.copy with
  | some k => (match Sparse.find? s.cmds k with
    | some x => x.stage == .sourced || x.stage == .done
    | none => true)
  | none => true

/-- MATRIX_RESULT_CLEAR: the result and the reuse update enter together, and writes are performed (R238). The windows in force
then are those of the deadlines (log entry 88). -/
def execMatrixResultClear (id : Nat) (s : State) : Out :=
  .next (match s.liveCmd id with
    | none => s
    | some c =>
      if c.cls ≠ 2 ∨ !c.stage.held ∨ c.burst ∨ s.uncleared id ∨ !s.copyIn c ∨ s.writesWait c.die c.staged.writes
          ∨ s.guardsWait c.rgns ∨ ((cmdReuse c.ops).isSome ∧ s.dieWaits c.die (s.entryOf c).2) then s
      else
        let s := s.pastGuards c.rgns
        let s := s.updHoop c.hoop fun h =>
          { h with tiles := c.staged.tiles.foldl (fun m e => Sparse.setD m 0 e.1 e.2) h.tiles }
        let s := match c.staged.entry with
          | some (d, n, e) => s.enterEntry c d n e
          | none => s
        (s.landWrites id c).wakeAll)

end Sys2Proof.Machine
end

