-- ==== Sys2Proof/Machine/Atomic.lean ====
section
/-! DEFINITION. Atomics and sync words (08 R192 to R195, R200 to R203). -/

namespace Sys2Proof.Machine

/-! ### Atomics -/

/-- X and Y of a strand, 64 bits when W = 3. -/
def Ctx.atomSrc (x : Ctx) (o : AOps) (r : Opnd) (i : Fin 32) : Dword :=
  if o.w = 3 then x.src64 r i else (x.src r i).setWidth 64
/-- The locations of an atomic with their operands, in ascending strand order. -/
def Ctx.atomOps (x : Ctx) (o : AOps) (ps : List SAcc) : List (Loc × Dword × Dword) :=
  ps.flatMap fun e => e.p.pcs.map fun p => (p.1, x.atomSrc o o.x e.i, x.atomSrc o o.y e.i)

/-- An atomic of a space (R193, R195): held without a destination; else performed once, alone, and its old values
returned. -/
def Ctx.atomic (x : Ctx) (spc : Sp) (o : AOps) (lv : Level) : State :=
  let n := 2 ^ o.w.toNat
  let need : Need := if o.d = .none then .w else .rw
  match x.placeAll spc (x.strandsOf o.scalar (x.aAddr spc o)) n n need true o.scalar with
  | .err e m a parts => x.accessErr e m a parts 2
  | .ok ps =>
    let x := x.notePlaces ps true
    let ops := x.atomOps o ps
    if o.d = .none then x.holdEffect (.rmw o.aop (mbit o.var 0) n ops lv)
    else match x.homeOffStrands ps with
      | e :: r => if x.core.hoff.isSome then x.hold (.wait false) else x.sendHomeOff (e :: r) o.scalar
      | [] =>
        let x := { x with s := x.s.writeBackTo lv.back x.die x.st.hoop.core x.part x.func }
        let x := x.touchPlaces ps lv.at_ .atomic
        let (olds, s) := x.s.rmwAll (.wale x.st.w) x.die o.aop.toNat (mbit o.var 0) n ops
        let vs := (ps.map (·.i)).zip olds
        Ctx.finishSingle { x with s := s } { writes := x.dataWrites o.d o.w.toNat (strandVal vs) }

/-- The space that VAR [2:1] of `atomsp` names (R192). -/
def atomSpace (v : BitVec 3) : Sp := match fld v 2 1 with | 0 => .sp | 1 => .cl | _ => .dsc

def execAtom (o : AOps) (s : State) : Out := issueWith (.atom o) s fun x => x.atomic .glob o (aLevel o)
def execAtomsp (o : AOps) (s : State) : Out := issueWith (.atomsp o) s fun x => x.atomic (atomSpace o.var) o (aLevel o)
/-- `red` never takes ownership: it is performed at the home slice under `.ca` and `.byp` (R194). -/
def execRed (o : AOps) (s : State) : Out :=
  issueWith (.red o) s fun x => x.atomic .glob o { aLevel o with at_ := max 2 (aLevel o).at_ }

/-! ### Sync words -/

/-- The space of a sync word (R201). -/
def syncSpace (o : AOps) : Sp := if mbit o.var 0 then .cl else .sp
/-- Place the sync word of an instruction. -/
def Ctx.syncPlace (x : Ctx) (o : AOps) : Placed :=
  x.placeAll (syncSpace o) [(0, x.aAddr (syncSpace o) o 0)] 16 16 .rw false true
/-- A held update of a sync word. -/
def Ctx.syncHeld (x : Ctx) (o : AOps) (op : SyncOp) (a b : Word) : State :=
  match x.syncPlace o with
  | .err e m ad parts => x.accessErr e m ad parts 1
  | .ok ps =>
    match (ps.flatMap fun e => e.p.pcs : List (Loc × Nat)) with
    | (l, _) :: _ => x.holdEffect (.sync op l a b)
    | [] => x.finish true {}

def execSwinit (o : AOps) (s : State) : Out :=
  issueWith (.swinit o) s fun x => x.syncHeld o .init (x.uni o.x) (if o.y = .none then 0 else x.uni o.y)
def execSwexp (o : AOps) (s : State) : Out := issueWith (.swexp o) s fun x => x.syncHeld o .exp (x.uni o.x) 0
def execArv (o : AOps) (s : State) : Out :=
  issueWith (.arv o) s fun x => x.syncHeld o .arv (if o.x = .none then 1 else x.uni o.x) 0

/-- `wtg` (R203): with the generation still g the wale is recorded at the word. -/
def execWtg (o : AOps) (s : State) : Out :=
  issueWith (.wtg o) s fun x =>
    match x.syncPlace o with
    | .err e m ad parts => x.accessErr e m ad parts 0
    | .ok ps =>
      match (ps.flatMap fun e => e.p.pcs : List (Loc × Nat)) with
      | (.sp h a, _) :: _ =>
        let g := (SyncW.ofNat (natLE (x.s.locRead (.sp h a) 16))).gen
        if g = (x.uni o.x).toNat then x.hold (.gen h a)
        else x.finishSingle (match o.d with
          | .s n => { writes := [.s n (BitVec.ofNat 32 g)] }
          | _ => {})
      | _ => x.finishSingle {}

end Sys2Proof.Machine
end

