-- ==== Sys2Proof/Machine/Context.lean ====
section
/-! DEFINITION. Pre-emption, the context save image and resumption (01 R33 to R35, 15 R344, R348 to R351). -/

namespace Sys2Proof.Machine

/-! ### Images (R349, R350) -/

def zeros (n : Nat) : List Byte := List.replicate n 0
/-- A byte string cut or filled with zeros to a length. -/
def padTo (n : Nat) (bs : List Byte) : List Byte := bs.take n ++ zeros (n - bs.length)
def armCode : ArmSt → Nat
  | .free => 0 | .running => 1 | .waiting => 2 | .suspended => 3 | .opened => 4
def armOf : Nat → ArmSt
  | 1 => .running | 2 => .waiting | 3 => .suspended | 4 => .opened | _ => .free

def tokenBytes (t : Token) : List Byte :=
  bytesLE 8 t.l.toNat ++ bytesLE 4 t.mem.toNat ++ bytesLE 4 t.pk.toNat ++ bytesLE 2 t.ser.toNat
  ++ bytesLE 2 (armCode t.a0.st + 8 * armCode t.a1.st)
  ++ bytesLE 8 t.a0.pc.toNat ++ bytesLE 4 t.a0.em.toNat ++ bytesLE 4 t.a0.mem.toNat
  ++ bytesLE 8 t.a1.pc.toNat ++ bytesLE 4 t.a1.em.toNat ++ bytesLE 4 t.a1.mem.toNat ++ zeros 12
def loopBytes (l : LoopD) : List Byte :=
  bytesLE 8 l.lstart.toNat ++ bytesLE 8 l.lend.toNat ++ bytesLE 4 l.lreload.toNat ++ bytesLE 4 (if l.lact then 1 else 0)
/-- The trap frame with its retained command. -/
def frameBytes (f : Option TrapFrame) : List Byte :=
  match f with
  | none => zeros 80
  | some f =>
    padTo 80 (bytesLE 4 f.em.toNat ++ bytesLE 4 f.depth ++ bytesLE 8 f.resume.toNat ++ match f.cmd with
      | none => []
      | some o =>
        bytesLE 12 (match encode o.ins with | some w => w.toNat | none => 0)
        ++ bytesLE 8 o.d.toNat ++ bytesLE 8 o.a.toNat ++ bytesLE 8 o.b.toNat ++ bytesLE 8 o.c.toNat ++ bytesLE 8 o.off)

/-- The loop stack byte: depth, then the counters, outermost first. -/
def loopStackByte (l : List (Fin 3)) : Nat :=
  let r := l.reverse
  l.length + 4 * (r.getD 0 0).val + 16 * (r.getD 1 0).val + 64 * (r.getD 2 0).val

/-- A wale record; `again`: it executes its waiting instruction again. -/
def waleRecord (c : WaleCore) (vregs : Nat) (qev : Word) (again : Bool) : List Byte :=
  padTo 1024
    (padTo 256 ((List.finRange 64).flatMap fun n => bytesLE 4 (c.getS n).toNat)
      ++ (List.finRange 8).flatMap (fun n => bytesLE 4 (c.getP n).toNat)
      ++ (if c.stack.isEmpty then bytesLE 8 c.base.pc.toNat ++ bytesLE 4 c.base.em.toNat else zeros 12)
      ++ bytesLE 4 c.exited.toNat
      ++ bytesLE 1 ((if again then 1 else 0) + if c.frame.isSome then 2 else 0)
      ++ bytesLE 1 c.stack.length ++ bytesLE 1 (loopStackByte c.lstack) ++ zeros 1
      ++ bytesLE 4 c.yleft.toNat ++ bytesLE 4 qev.toNat ++ bytesLE 2 c.batch.toNat ++ bytesLE 2 c.serial.toNat
      ++ bytesLE 4 c.fflags.toNat ++ bytesLE 4 c.fcause.toNat ++ bytesLE 4 c.fmask.toNat ++ bytesLE 8 c.fpc.toNat
      ++ bytesLE 8 c.faddr.toNat
      ++ (List.finRange 3).flatMap (fun n => bytesLE 4 (vget c.lc n).toNat)
      ++ (List.finRange 3).flatMap (fun n => loopBytes (vget c.loops n))
      ++ bytesLE 4 c.nBar ++ bytesLE 4 c.nSbar ++ bytesLE 4 c.nColl ++ zeros 4
      ++ frameBytes c.frame)
  ++ padTo 4096 (c.stack.reverse.flatMap tokenBytes)
  ++ (List.range vregs).flatMap fun k => (List.finRange 32).flatMap fun i => bytesLE 4 (vget (c.getV (Fin.ofNat 256 k)) i).toNat

/-- A number from an image. -/
def at_ (bs : List Byte) (o n : Nat) : Nat := natLE ((bs.drop o).take n)

def loadArm (old : Arm) (st : Nat) (bs : List Byte) (o : Nat) : Arm :=
  { old with arr := false, st := armOf st, pc := BitVec.ofNat 64 (at_ bs o 8), em := BitVec.ofNat 32 (at_ bs (o + 8) 4),
             mem := BitVec.ofNat 32 (at_ bs (o + 12) 4) }
def loadToken (old : Option Token) (bs : List Byte) (o : Nat) : Token :=
  let a0 := match old with | some t => t.a0 | none => Arm.none
  let a1 := match old with | some t => t.a1 | none => Arm.none
  { l := BitVec.ofNat 64 (at_ bs o 8), mem := BitVec.ofNat 32 (at_ bs (o + 8) 4), pk := BitVec.ofNat 32 (at_ bs (o + 12) 4),
    ser := BitVec.ofNat 16 (at_ bs (o + 16) 2), a0 := loadArm a0 (at_ bs (o + 18) 2 % 8) bs (o + 20),
    a1 := loadArm a1 (at_ bs (o + 18) 2 / 8 % 8) bs (o + 36) }
/-- The trap frame of a record; what the image has no place for is as it was saved (log entry 23). -/
def loadFrame (old : Option TrapFrame) (bs : List Byte) : Option TrapFrame :=
  if at_ bs 304 1 / 2 % 2 = 0 then none
  else
    let w := at_ bs 464 12
    let oc := old.bind fun f => f.cmd
    let cmd := (decode (BitVec.ofNat 96 w)).bind fun i => if w = 0 then none else some
      { ins := i, pc := (match oc with | some o => o.pc | none => BitVec.ofNat 64 (at_ bs 332 8)), d := BitVec.ofNat 64 (at_ bs 476 8),
        a := BitVec.ofNat 64 (at_ bs 484 8), b := BitVec.ofNat 64 (at_ bs 492 8), c := BitVec.ofNat 64 (at_ bs 500 8),
        idx := (match oc with | some o => o.idx | none => []), off := at_ bs 508 8,
        again := (match oc with | some o => o.again | none => false), fo := (match oc with | some o => o.fo | none => false) }
    some { arm := (match old with | some f => f.arm | none => .sole), em := BitVec.ofNat 32 (at_ bs 448 4),
           pc := (match old with | some f => f.pc | none => BitVec.ofNat 64 (at_ bs 332 8)), resume := BitVec.ofNat 64 (at_ bs 456 8), depth := at_ bs 452 4,
           fetch := (match old with | some f => f.fetch | none => false), cmd := cmd,
           eng := (match old with | some f => f.eng | none => cmd.isSome) }
/-- The registers of a wale record read back over the wale that was saved; `nRbar` is the header's count. -/
def loadCore (old : WaleCore) (bs : List Byte) (vregs nRbar : Nat) : WaleCore :=
  let n := at_ bs 305 1
  let ls := at_ bs 306 1
  let olds := old.stack.reverse
  let exited : Mask := BitVec.ofNat 32 (at_ bs 300 4)
  { old with
    v := (List.range vregs).foldl (fun m k => Sparse.setD m zeroLanes k
      (Vector.ofFn fun i => BitVec.ofNat 32 (at_ bs (5120 + 128 * k + 4 * i.val) 4))) []
    s := Vector.ofFn fun i => BitVec.ofNat 32 (at_ bs (4 * i.val) 4)
    p := Vector.ofFn fun i => BitVec.ofNat 32 (at_ bs (256 + 4 * i.val) 4)
    base := if n = 0 then { old.base with pc := BitVec.ofNat 64 (at_ bs 288 8), em := BitVec.ofNat 32 (at_ bs 296 4),
                                          mem := ~~~exited, st := .running, arr := false } else old.base
    stack := ((List.range n).map fun i => loadToken olds[i]? bs (1024 + 64 * i)).reverse
    serial := BitVec.ofNat 16 (at_ bs 318 2)
    exited := exited
    lc := Vector.ofFn fun i => BitVec.ofNat 32 (at_ bs (348 + 4 * i.val) 4)
    loops := Vector.ofFn fun i =>
      { lstart := BitVec.ofNat 64 (at_ bs (360 + 24 * i.val) 8), lend := BitVec.ofNat 64 (at_ bs (368 + 24 * i.val) 8),
        lreload := BitVec.ofNat 32 (at_ bs (376 + 24 * i.val) 4), lact := at_ bs (380 + 24 * i.val) 4 % 2 == 1 }
    lstack := ((List.range (ls % 4)).map fun i => Fin.ofNat 3 (ls / 4 ^ (i + 1) % 4)).reverse
    batch := BitVec.ofNat 16 (at_ bs 316 2)
    fflags := BitVec.ofNat 32 (at_ bs 320 4)
    fcause := BitVec.ofNat 32 (at_ bs 324 4)
    fmask := BitVec.ofNat 32 (at_ bs 328 4)
    fpc := BitVec.ofNat 64 (at_ bs 332 8)
    faddr := BitVec.ofNat 64 (at_ bs 340 8)
    yleft := BitVec.ofNat 32 (at_ bs 308 4)
    icount := 0
    wcount := 0
    frame := loadFrame old.frame bs
    nBar := at_ bs 432 4
    nSbar := at_ bs 436 4
    nColl := at_ bs 440 4
    nRbar := nRbar }

/-- The wale as it is saved: an arrival at the barrier or collective operation where it waits is taken back, since it
executes that instruction again (R33; 01, worked example). -/
def Wale.unarrive (w : Wale) : Wale :=
  let c := w.core
  match w.st with
  | .barrier .bar => { w with core := { c with nBar := c.nBar - 1 }, rBar := w.rBar - 1 }
  | .barrier .rbar => { w with core := { c with nRbar := c.nRbar - 1 }, rRbar := w.rRbar - 1 }
  | .barrier .sbar => { w with core := { c with nSbar := c.nSbar - 1, nColl := c.nColl - 1 }, rSbar := w.rSbar - 1, collArg := none }
  | .coll => { w with core := { c with nColl := c.nColl - 1 }, collArg := none }
  | _ => w

/-- A hoop image from its parts (R349); `wales` by index, none for one that has retired. -/
def hoopImage (basket num idx : Nat) (pkt : BitVec 512) (slots : Nat → TSlot) (tiles : List Byte) (sp : List Byte)
    (priv : List Byte) (wales : List (Option (WaleCore × Word × Bool))) : List Byte :=
  let valid := (List.range 64).foldl (fun n k => n + if (slots k).valid then 2 ^ k else 0) 0
  let rb := (wales.findSome? fun w => w.map fun e => e.1.nRbar).getD 0
  let gone : List Byte := padTo (5120 + 4 * 32 * pkVregs pkt) (zeros 300 ++ bytesLE 4 0xFFFFFFFF)
  let body :=
    bytesLE 4 basket ++ bytesLE 4 num ++ bytesLE 4 idx ++ bytesLE 8 (pkF pkt 32 64) ++ bytesLE 8 valid ++ bytesLE 4 rb
    ++ zeros 220
    ++ (List.range 64).flatMap (fun k => bytesLE 64 (slots k).desc.toNat)
    ++ tiles ++ sp ++ priv
    ++ wales.flatMap fun w => match w with
      | some (c, q, again) => waleRecord c (pkVregs pkt) q again
      | none => gone
  bytesLE 4 (xorWords body).toNat ++ body

/-- Wales of a hoop by index. -/
def State.waleAt (s : State) (h i : Nat) : Option (Nat × Wale) := (s.walesOf h).find? fun e => e.2.idx == i
/-- The image of a hoop; `pick` gives the state of a wale that is written. -/
def State.imageOf (s : State) (h : Nat) (hp : Hoop) (pick : Wale → WaleCore) : List Byte :=
  match s.skein? hp.skein with
  | none => []
  | some k =>
    let tb : List Byte := (List.range (pkTiles k.pkt)).flatMap fun t =>
      (List.range 256).flatMap fun e => bytesLE 4 (Sparse.getD hp.tiles 0 (256 * t + e)).toNat
    let sp : List Byte := s.locRead (.sp h 0) (pkSp k.pkt)
    let n := 32 * pkPv k.pkt
    let priv : List Byte := (List.range (pkWales k.pkt)).flatMap fun i => match s.waleAt h i with
      | some e => s.locRead (.priv e.1 0) n
      | none => zeros n
    let ws := (List.range (pkWales k.pkt)).map fun i => (s.waleAt h i).map fun e =>
      (pick e.2, e.2.qev, e.2.st != .yielded)
    hoopImage k.basket k.num hp.idx k.pkt hp.slotAt tb sp priv ws

/-! ### The context area (R348) -/

/-- First free run of `n` units of 64 KiB in a function's context area, by the number of its first unit in the address space: runs stay
where they are when VF_CTXBASE is written. -/
def State.freeRun (s : State) (f n : Nat) : Option Nat :=
  let lo := s.regF (rCtxBase f) 52 16
  let hi := lo + s.regF (rCtxSize f) 31 0
  let runs := s.ctxRuns.filter fun r => r.1 == f
  let ok (u : Nat) : Bool := decide (lo ≤ u) && decide (u + n ≤ hi)
    && runs.all fun r => decide (u + n ≤ r.2.1) || decide (r.2.1 + r.2.2 ≤ u)
  argmin id ((lo :: runs.map fun r => r.2.1 + r.2.2).filter ok)
/-- Units that an image of a length takes. -/
def ctxUnits (len : Nat) : Nat := (len + 65535) / 65536

/-- An image is written to the context area: its address; none when no run is free or a write is refused (log entry 24). -/
def State.saveImage (s : State) (f : Nat) (bs : List Byte) : Option (Nat × State) :=
  match s.freeRun f (ctxUnits bs.length) with
  | none => none
  | some u =>
    match State.feWriteRun (bs.length / 16 + 1) s f (65536 * u) bs with
    | (s', true) => some (65536 * u, { s' with ctxRuns := s'.ctxRuns ++ [(f, u, ctxUnits bs.length)] })
    | (_, false) => none

/-! ### Units (01 R33) -/

/-- The resident hoops of a unit: a rim, or a whole held skein. -/
def State.unitHoops (s : State) (k r : Nat) : List (Nat × Hoop) :=
  match s.skein? k with
  | none => []
  | some x => (s.hoopsOf k).filter fun e => pkHeld x.pkt || rimOf x.pkt e.2.idx == r
/-- Pre-emption of a unit is requested. -/
def State.requestPreempt (s : State) (k r : Nat) : State :=
  s.updSkein k fun x =>
    let r := if pkHeld x.pkt then 0 else r
    if x.preempt.contains r then x else { x with preempt := x.preempt ++ [r] }
/-- Resident units: skein and rim. -/
def State.units (s : State) : List (Nat × Nat) :=
  ((s.hoops.filter fun e => e.2.st == .resident).map fun e =>
    match s.skein? e.2.skein with
    | some k => (e.2.skein, if pkHeld k.pkt then 0 else rimOf k.pkt e.2.idx)
    | none => (e.2.skein, 0)).eraseDups
def State.requestAll (s : State) (us : List (Nat × Nat)) : State := us.foldl (fun s u => s.requestPreempt u.1 u.2) s
/-- The function of a skein. -/
def State.skeinFunc (s : State) (k : Nat) : Nat :=
  match s.skein? k with
  | some x => (match s.basket? x.basket with | some b => b.func | none => 0)
  | none => 0

/-- The wale stands at a pre-emption point (R33). -/
def State.atPoint (s : State) (w : Nat) (x : Wale) : Bool :=
  match x.st with
  | .wait true | .gen _ _ | .coll | .page _ | .yielded | .drain true => true
  | .barrier k => !s.barDone w k
  | _ => false
/-- It is drained, its operations have completed, nothing is pending (R35). -/
def Wale.savable (x : Wale) : Bool :=
  x.drained && x.core.pend0.isNone && x.core.pend1.isNone && x.core.hoff.isNone && x.core.call.isNone
  && (List.finRange 4).all fun k => vget x.cnt k == 0

/-- The regions of a wale are released one after the other, where nothing of them has to wait (R35). -/
def State.drainWale (w : Nat) : Nat → State → State
  | 0, s => s
  | n + 1, s =>
    match s.site? w with
    | some st =>
      if st.wl.releasable && !st.wl.faultReady && s.clearToRelease st then State.drainWale w n (s.releaseRegion st) else s
    | none => s
/-- The wales of a unit drain at their pre-emption points: each closes its region and releases it. -/
def State.drainUnit (s : State) (ws : List (Nat × Wale)) : State :=
  ws.foldl (fun (s : State) e =>
    let s := s.updWale e.1 fun x => if x.savable then x else { x with cur := x.cur.close (s.window ((s.hoop? x.hoop).map (·.die) |>.getD 0)) }
    (State.drainWale e.1 3 s).updWale e.1 fun x => { x with st := e.2.st }) s

/-- A pending pre-emption of a unit is withdrawn: wales that stand at a `yield` for it go on. -/
def State.withdrawPreempt (s : State) (k r : Nat) : State :=
  let hs := (s.unitHoops k r).map (·.1)
  let s := s.updSkein k fun x => { x with preempt := x.preempt.filter fun q => q != r }
  { s with wales := s.wales.map fun (e : Nat × Wale) =>
      if hs.contains e.2.hoop && e.2.st == .yielded then (e.1, e.2.goOn s.turn (s.ccOf e.2)) else e }

/-- What follows when a unit cannot be saved (R348, 16 R372, R375): the request is withdrawn; a SAVE ends with NOSPACE; a
partition change stalls. -/
def State.cannotSave (s : State) (k r : Nat) : State :=
  let f := s.skeinFunc k
  let s := s.withdrawPreempt k r
  if (s.wsOp.map (·.1)) = some f then
    let s := (s.units.filter fun u => s.skeinFunc u.1 == f).foldl (fun s u => s.withdrawPreempt u.1 u.2) s
    { (s.setRegF rWsCtl 31 24 4).setRegF rWsCtl 17 17 0 with
      wsOp := none
      closed := s.closed.filter fun g => g != f }
  else if s.partPending.isSome && s.affected (s.partOf f) then s.setRegF rPartCtl 2 2 1
  else s

/-- Write the images of hoops in turn. -/
def State.saveHoops (f : Nat) : List (Nat × Hoop) → State → Option State
  | [], s => some s
  | (h, hp) :: hs, s =>
    match s.saveImage f (s.imageOf h hp fun w => w.unarrive.core) with
    | none => none
    | some (va, s) =>
      let ws := (s.walesOf h).map (·.1)
      State.saveHoops f hs
        { s.markIdle hp with
          hoops := Sparse.upd s.hoops h fun x => { x with st := .saved va, slots := [], tiles := [] }
          spad := s.spad.filter fun e => e.1 / 2 ^ 19 != h
          priv := s.priv.filter fun e => !ws.contains (e.1 / 2 ^ 21)
          order := s.order.filter fun w => !ws.contains w
          wales := s.wales.map fun (e : Nat × Wale) => if e.2.hoop == h then (e.1, { e.2.unarrive with st := WSt.saved }) else e }

/-- The saved hoops of a unit by rim, in order of index. -/
def State.savedHoops (s : State) (k r : Nat) : List (Nat × Hoop) :=
  (s.unitHoops k r).filter fun e => match e.2.st with | .saved _ => true | _ => false

/-- The hoops of a saved unit by rim, how many of a rim there are, and how a place for them is reserved. -/
def ofRim (pkt : BitVec 512) (hs : List (Nat × Hoop)) (q : Nat) : List (Nat × Hoop) := hs.filter fun e => rimOf pkt e.2.idx == q
def rimsOf (pkt : BitVec 512) (hs : List (Nat × Hoop)) : List Nat := (hs.map fun e => rimOf pkt e.2.idx).eraseDups
def markSaved (pkt : BitVec 512) (hs : List (Nat × Hoop)) (s : State) (q : Nat) (d : Fin 4) (c : Fin 8) (ks : List (Fin 12)) : State :=
  ((ofRim pkt hs q).zip ks).foldl (fun s e => s.updHoop e.1.1 fun y =>
    { y with die := d, cluster := c, coreNo := e.2, st := HoopSt.resident }) s
/-- The saved hoops of a unit have places on an otherwise idle partition (01 R22). -/
def State.savedFits (s : State) (pkt : BitVec 512) (p : Nat) (hs : List (Nat × Hoop)) : Bool :=
  (State.planAll true p (fun q => (ofRim pkt hs q).length) (rimDies pkt) pkt (markSaved pkt hs) (rimsOf pkt hs) { s.idle with hoops := hs }).isSome
/-- A held skein that waits, or that has been saved, is judged again; one that no longer fits ends its basket (01 R22, 13 R304). -/
def State.refit (s : State) (id : Nat) : State :=
  match s.skein? id with
  | none => s
  | some k =>
    if !pkHeld k.pkt then s
    else
      let p := s.partOf (s.skeinFunc id)
      if !k.waiting.isEmpty then
        if (State.planAll true p (fun _ => pkRim k.pkt) (rimDies k.pkt) k.pkt (fun s r d c ks => s.startRim id r k.pkt [] d c ks)
            (allRims k.pkt) s.idle).isNone then s.nofit k.basket else s
      else if !k.saved.isEmpty && !s.savedFits k.pkt p (s.savedHoops id 0) then s.nofit k.basket
      else s
def State.refitAll (s : State) : State := (Sparse.keys s.skeins).foldl State.refit s

/-- UNIT_PREEMPT: a unit whose pre-emption is pending and whose members all stand at pre-emption points drains and is
saved together, so that none goes on from its point in between (20 R408); where something of it has to wait first, its regions close. -/
def execUnitPreempt (k r : Nat) (s : State) : Out :=
  .next (match s.skein? k with
    | none => s
    | some x =>
      let r := if pkHeld x.pkt then 0 else r
      let hs := (s.unitHoops k r).filter fun e => e.2.st == .resident
      let names := hs.map (·.1)
      let ws := s.wales.filter fun e => names.contains e.2.hoop
      if !x.preempt.contains r || hs.isEmpty || !(ws.all fun e => s.atPoint e.1 e.2) then s
      else
        let t := s.drainUnit ws
        if !((t.wales.filter fun e => names.contains e.2.hoop).all fun e => e.2.savable) then
          { s with wales := s.wales.map fun (e : Nat × Wale) =>
              match s.hoop? e.2.hoop with
              | some h => if names.contains e.2.hoop && !e.2.savable then (e.1, { e.2 with cur := e.2.cur.close (s.window h.die) })
                  else e
              | none => e }
        else match State.saveHoops (s.skeinFunc k) hs t with
        | none => s.cannotSave k r
        | some s' =>
          ((s'.updSkein k fun y => { y with preempt := y.preempt.filter fun q => q != r, saved := y.saved ++ [r] }).withdrawAll).refit k)

/-! ### Resumption (R351) -/

/-- The image of a saved hoop agrees with its check word, its shape and its basket. -/
def imageOk (pkt : BitVec 512) (basket : Nat) (bs : List Byte) : Bool :=
  xorWords (bs.drop 4) == BitVec.ofNat 32 (at_ bs 0 4) && at_ bs 4 4 == basket && at_ bs 16 8 == pkF pkt 32 64
/-- Length of a hoop image. -/
def imageLen (pkt : BitVec 512) : Nat :=
  4352 + 1024 * pkTiles pkt + pkSp pkt + 32 * pkPv pkt * pkWales pkt + (5120 + 128 * pkVregs pkt) * pkWales pkt

/-- Read and check the images of hoops. -/
def State.readImages (f : Nat) (pkt : BitVec 512) (basket : Nat) :
    List (Nat × Hoop) → State → Except XErr (Option (List (Nat × List Byte)) × State)
  | [], s => .ok (some [], s)
  | (h, hp) :: hs, s =>
    match hp.st with
    | .saved va =>
      (match State.feReadRun (imageLen pkt / 16) s f va with
        | .error e => .error e
        | .ok (bs, s) =>
          if !imageOk pkt basket bs then .ok (none, s)
          else match State.readImages f pkt basket hs s with
            | .error e => .error e
            | .ok (some l, s) => .ok (some ((h, bs) :: l), s)
            | .ok (none, s) => .ok (none, s))
    | _ => State.readImages f pkt basket hs s

/-- Put a hoop back from its image on a core. -/
def State.loadHoop (s : State) (pkt : BitVec 512) (h : Nat) (bs : List Byte) (d : Fin 4) (c : Fin 8) (n : Fin 12) : State :=
  let a := 4352
  let sp := a + 1024 * pkTiles pkt
  let pv := sp + pkSp pkt
  let rec0 := pv + 32 * pkPv pkt * pkWales pkt
  let len := 5120 + 128 * pkVregs pkt
  let slots : Sparse TSlot := (List.range 64).foldl (fun m k => Sparse.setD m TSlot.invalid k
    { valid := at_ bs 24 8 / 2 ^ k % 2 == 1, desc := BitVec.ofNat 512 (at_ bs (256 + 64 * k) 64) }) []
  let tiles : Sparse Word := (List.range (256 * pkTiles pkt)).foldl (fun m k =>
    Sparse.setD m 0 k (BitVec.ofNat 32 (at_ bs (a + 4 * k) 4))) []
  let run := match s.hoop? h with | some x => (match x.st with | .saved va => va | _ => 0) | none => 0
  let f := match s.hoop? h with | some x => s.skeinFunc x.skein | none => 0
  let s := { s with
    hoops := Sparse.upd s.hoops h fun x =>
      { x with die := d, cluster := c, coreNo := n, st := HoopSt.resident, slots := slots, tiles := tiles }
    spad := putZ s.spad (h * 2 ^ 19) ((bs.drop sp).take (pkSp pkt))
    ctxRuns := s.ctxRuns.filter fun r => !(r.1 == f && 65536 * r.2.1 == run) }
  let s := s.wakeL1 d c n
  (s.walesOf h).foldl (fun (s : State) e =>
    let i := e.2.idx
    let core := loadCore e.2.core (bs.drop (rec0 + len * i)) (pkVregs pkt) (at_ bs 32 4)
    let slot := freeSlot (((s.wales.filter fun q => q.1 != e.1 && q.2.st != WSt.saved).filter fun q => match s.hoop? q.2.hoop with
      | some x => x.die == d && x.cluster == c && x.coreNo == n && x.st == .resident
      | none => false).map fun q => q.2.slot)
    { (s.setWale e.1 { e.2 with
        core := core, slot := slot, st := .ready, qev := BitVec.ofNat 32 (at_ bs (rec0 + len * i + 312) 4),
        cur := freshRegion core (s.die d).cc, old := none, ready1 := (s.die d).cc, since := s.turn,
        rBar := core.nBar, rRbar := core.nRbar, rSbar := core.nSbar }) with
      priv := putBytes s.priv (e.1 * 2 ^ 21) ((bs.drop (pv + 32 * pkPv pkt * i)).take (32 * pkPv pkt))
      order := s.order ++ [e.1] }) s

/-- UNIT_RESUME: a saved unit at the head of the order is checked, read back and placed; a mismatch ends its basket with
STATUS 0x23. -/
def execUnitResume (k r : Nat) (s : State) : Out :=
  .next (
    match s.cands.find? fun c => c.skein == k && c.saved && (c.held || c.rim == r) with
    | none => s
    | some c =>
      match s.skein? k with
      | none => s
      | some x =>
        match s.basket? x.basket with
        | none => s
        | some b =>
          let p := s.partOf b.func
          let hs := s.savedHoops k c.rim
          let rims := rimsOf x.pkt hs
          let open_ := c.dies.filter fun d => s.headOn d == some c
          if !(if c.held then s.isHead c else !open_.isEmpty) then s
          else if !s.savedFits x.pkt p hs then s.nofit x.basket
          else match State.planAll false p (fun q => (ofRim x.pkt hs q).length)
              (fun q => (rimDies x.pkt q).filter fun d => open_.contains d) x.pkt (markSaved x.pkt hs) rims s with
            | none => s
            | some (_, l) =>
              if !(s.raiseVotes k l).2 then (s.raiseVotes k l).1
              else match State.readImages b.func x.pkt x.basket hs s with
                | .error e => if e.waits then s.failed e else (s.failed e).endBasket x.basket 0x23 false none
                | .ok (none, _) => s.endBasket x.basket 0x23 false none
                | .ok (some imgs, s) =>
                  let s := (s.raiseVotes k l).1
                  let s := l.foldl (fun s e => ((ofRim x.pkt hs e.1).zip e.2.2.2).foldl (fun s q =>
                    match imgs.find? fun g => g.1 == q.1.1 with
                    | some g => s.loadHoop x.pkt q.1.1 g.2 e.2.1 e.2.2.1 q.2
                    | none => s) s) s
                  s.updSkein k fun y => { y with saved := y.saved.filter fun q => q != c.rim })

/-! ### Priority pre-emption (R344) -/

/-- The state without the units `us`, as their pre-emption would leave it. -/
def State.without (s : State) (us : List (Nat × Nat)) : State :=
  let hs := us.flatMap fun u => (s.unitHoops u.1 u.2).map (·.1)
  { s with hoops := s.hoops.filter fun e => !hs.contains e.1, wales := s.wales.filter fun e => !hs.contains e.2.hoop }
/-- A waiting unit finds room. -/
def State.hasRoom (s : State) (c : Cand) : Bool :=
  match s.skein? c.skein with
  | none => false
  | some k =>
    let p := s.partOf (s.skeinFunc c.skein)
    if c.held then
      (State.planAll false p (fun _ => pkRim k.pkt) (rimDies k.pkt) k.pkt
        (fun s r d cl ks => s.startRim c.skein r k.pkt [] d cl ks) (allRims k.pkt) s).isSome
    else (s.planRim false p (pkRim k.pkt) k.pkt c.dies).isSome
/-- Units in the order in which they are taken; as few as give room; none when all of them do not. -/
def State.victims (s : State) (c : Cand) : List (Nat × Nat) → List (Nat × Nat) → List (Nat × Nat)
  | took, [] => if (s.without took).hasRoom c then took else []
  | took, u :: us => if (s.without took).hasRoom c then took else State.victims s c (took ++ [u]) us
/-- Insert a unit by its key: lowest priority first, then youngest: the latest skein, and in a skein the highest rim (01 R23). -/
def insertUnit (key : Nat × Nat → Nat × Nat) (u : Nat × Nat) : List (Nat × Nat) → List (Nat × Nat)
  | [] => [u]
  | v :: vs =>
    if (key u).1 < (key v).1 ∨ ((key u).1 = (key v).1
        ∧ ((key v).2 < (key u).2 ∨ ((key v).2 = (key u).2 ∧ v.2 < u.2))) then u :: v :: vs
    else v :: insertUnit key u vs

/-- PRIORITY_PREEMPT: the rim at the head of a die's order has waited longer than CFE_PREEMPT.T. -/
def execPriorityPreempt (d : Fin 4) (s : State) : Out :=
  .next (match s.headOn d with
    | none => s
    | some c =>
      if s.regF rPreempt 15 0 = 0 ∨ s.hasRoom c then s
      else
        let key (u : Nat × Nat) : Nat × Nat := match s.skein? u.1 with
          | some k => (pkPrio k.pkt, k.place)
          | none => (0, 0)
        let low := s.units.filter fun u =>
          decide ((key u).1 < c.prio) && (s.unitHoops u.1 u.2).any fun e => c.dies.contains e.2.die
        s.requestAll (s.victims c [] (low.foldl (fun l u => insertUnit key u l) [])))

end Sys2Proof.Machine
end

