-- ==== Sys2Proof/Machine/Control.lean ====
section
/-! DEFINITION. Control flow, join tokens, hardware loops, `exit`, `yield` and `rhead` (07 R155 to R179). -/

namespace Sys2Proof.Machine

/-! ### Branches, jumps, calls (R157, R158) -/

/-- The fragment transfers to `pc` after the register writes `ws`. -/
def Ctx.jumpTo (x : Ctx) (pc : Dword) (ws : List RegWrite) : State :=
  x.commit (((x.core.effect x.arm x.la x.lld { writes := ws }).counted false).transfer x.arm pc) []
/-- A link pair written with a PC. -/
def linkWrites (d : Opnd) (pc : Dword) : List RegWrite :=
  match d with
  | .s n => [.s n (lo32 pc), .s (n + 1) (hi32 pc)]
  | _ => []

def execBra (o : BOps) (s : State) : Out := issueWith (.bra o) s fun x => x.jumpTo (target x.fr.pc o.dist) []
def execBrcNz (o : BOps) (s : State) : Out :=
  issueWith (.brcNz o) s fun x => if x.uni o.a ≠ 0 then x.jumpTo (target x.fr.pc o.dist) [] else x.finish false {}
def execBrcZ (o : BOps) (s : State) : Out :=
  issueWith (.brcZ o) s fun x => if x.uni o.a = 0 then x.jumpTo (target x.fr.pc o.dist) [] else x.finish false {}
def execJmp (o : ROps) (s : State) : Out := issueWith (.jmp o) s fun x => x.jumpTo (x.uni64 o.a) []
def execCall (o : BOps) (s : State) : Out :=
  issueWith (.call o) s fun x => x.jumpTo (target x.fr.pc o.dist) (linkWrites o.a (nextSlot x.fr.pc))
def execCallr (o : ROps) (s : State) : Out :=
  issueWith (.callr o) s fun x => x.jumpTo (x.uni64 o.a) (linkWrites o.d (nextSlot x.fr.pc))
def execRet (o : ROps) (s : State) : Out := issueWith (.ret o) s fun x => x.jumpTo (x.uni64 o.a) []

/-! ### Join tokens (R160 to R164) -/

/-- The token that `tok` pushes: the fragment becomes its ARM0 (R160). -/
def WaleCore.pushToken (c : WaleCore) (a : ArmId) (l : Dword) : WaleCore :=
  let f := c.frag a
  let c := c.setFrag a { f with st := .opened }
  let c := match a with
    | .sole => c
    | _ => c.setFrag a.sib ((c.frag a.sib).suspend .tok)
  { c with
    stack := { l := l, mem := f.mem, pk := 0, ser := c.serial, a0 := { f with st := .running }, a1 := Arm.none } :: c.stack
    serial := c.serial + 1 }
/-- The sibling has a fault, a HOMEOFF reply or the firmware's answer pending: the token waits for it (log entry 17). -/
def siblingFaulted (c : WaleCore) (a : ArmId) : Bool :=
  a != .sole && (c.frag a.sib).live && ((c.pend a.sib).isSome || c.hoff.isSome || c.call.isSome)
def execTok (o : BOps) (s : State) : Out :=
  issueWith (.tok o) s fun x =>
    if 64 ≤ x.core.stack.length then x.raiseEm cJOVF
    else if siblingFaulted x.core x.arm then x.drainWait
    else x.after fun c => (c.pushToken x.arm (target x.fr.pc o.dist)).advance .a0

/-- The split of a fragment: the strands of `t` go to `l` as ARM0, the others stay as ARM1 (R161). -/
def WaleCore.splitArms (c : WaleCore) (a : ArmId) (t : Mask) (l : Dword) : WaleCore :=
  match c.stack with
  | [] => c
  | k :: ts =>
    let f := c.frag a
    { c with stack := { k with
        a0 := Arm.start l t
        a1 := { f with em := f.em &&& ~~~t, mem := f.mem &&& ~~~t } } :: ts }
def execBrd (o : BOps) (s : State) : Out :=
  issueWith (.brd o) s fun x =>
    let t := x.fr.em &&& x.pred o.a
    let f := x.fr.em &&& ~~~(x.pred o.a)
    let l := target x.fr.pc o.dist
    if x.core.stack.isEmpty then x.raiseEm cSYNC
    else if t = 0 then x.finish false {}
    else if f = 0 then x.jumpTo l []
    else x.after fun c => (c.splitArms x.arm t l).advance .a1

def execJoin (o : ROps) (s : State) : Out :=
  issueWith (.join o) s fun x =>
    if x.core.stack.isEmpty then x.raiseEm cSYNC else x.after fun c => c.park x.arm

/-- Strands removed from an arm. -/
def Arm.without (f : Arm) (m : Mask) : Arm := { f with em := f.em &&& ~~~m, mem := f.mem &&& ~~~m }
/-- Strands removed from a token and its arms. -/
def Token.without (t : Token) (m : Mask) : Token :=
  { t with mem := t.mem &&& ~~~m, pk := t.pk &&& ~~~m, a0 := t.a0.without m, a1 := t.a1.without m }
/-- `brk` on the join stack: the strands leave the `depth` tokens above and park in the next (R164). -/
def brkStack (m : Mask) : Nat → List Token → List Token
  | _, [] => []
  | 0, t :: ts => { t with pk := t.pk ||| m } :: ts
  | n + 1, t :: ts => t.without m :: brkStack m n ts
/-- What becomes of a fragment that may have lost strands: it ends, parks, or continues. -/
def WaleCore.endOrGo (c : WaleCore) (a : ArmId) : WaleCore :=
  if (c.frag a).mem = 0 then c.endFrag a
  else if (c.frag a).em = 0 then c.park a
  else c.advance a
def execBrk (o : BOps) (s : State) : Out :=
  issueWith (.brk o) s fun x =>
    let m := x.fr.em &&& x.pred o.a
    let depth := o.sub.toNat
    if x.core.stack.length ≤ depth then x.raiseEm cSYNC
    else if m = 0 then x.finish false {}
    else x.after fun c =>
      let c := { c with stack := brkStack m depth c.stack }
      (c.setFrag x.arm ((c.frag x.arm).without m)).endOrGo x.arm

/-! ### Hardware loops (R170) -/

/-- A loop counter that is no longer active. -/
def WaleCore.dropLoop (c : WaleCore) (n : Fin 3) : WaleCore :=
  { c with lstack := c.lstack.filter fun m => m != n, loops := vset c.loops n { vget c.loops n with lact := false } }
/-- A loop started with a count other than zero. -/
def WaleCore.startLoop (c : WaleCore) (n : Fin 3) (k : Word) (st en : Dword) : WaleCore :=
  { c with
    lc := vset c.lc n k
    loops := vset c.loops n { lact := true, lstart := st, lend := en, lreload := k }
    lstack := n :: c.lstack }
def execLoop (o : BOps) (s : State) : Out :=
  issueWith (.loop o) s fun x =>
    let n : Fin 3 := Fin.ofNat 3 o.sub.toNat
    let k := x.uni o.a
    let e := target x.fr.pc o.dist
    if k = 0 then x.after fun c => (c.dropLoop n).transfer x.arm (nextSlot e)
    else x.after fun c => ((c.dropLoop n).startLoop n k (nextSlot x.fr.pc) e).advance x.arm

/-! ### exit, yield, rhead (R165, R173 to R176) -/

/-- The strands of `m` leave the wale (R165). -/
def WaleCore.exitStrands (c : WaleCore) (a : ArmId) (m : Mask) : WaleCore :=
  let c := { c with
    exited := c.exited ||| m
    stack := c.stack.map fun (t : Token) => { t with mem := t.mem &&& ~~~m, pk := t.pk &&& ~~~m } }
  let f := (c.frag a).without m
  let f := if c.stack.isEmpty && f.em == 0 then { f with em := f.mem } else f
  (c.setFrag a f).endOrGo a
def execExit (o : ROps) (s : State) : Out :=
  issueWith (.exit o) s fun x =>
    match x.st.wl.engFaults with
    | e :: _ =>
      if x.core.exited ||| x.vis = 0xFFFFFFFF then x.raiseEng e else x.after fun c => c.exitStrands x.arm x.vis
    | [] => x.after fun c => c.exitStrands x.arm x.vis

/-- Pre-emption of the wale's unit is pending (01 R33). -/
def Ctx.preemptPending (x : Ctx) : Bool :=
  x.st.skein.preempt.contains (if pkHeld x.st.skein.pkt then 0 else rimOf x.st.skein.pkt x.st.hoop.idx)
/-- The registers at and above v(n) zeroed, and a new deadline (R174). -/
def WaleCore.yieldState (c : WaleCore) (d n : Nat) : WaleCore :=
  { c with v := c.v.filter fun e => decide (e.1 < n), yleft := BitVec.ofNat 32 (d * 64) }
def execYield (o : IOps) (s : State) : Out :=
  issueWith (.yield o) s fun x =>
    if x.st.wl.vregs < fld o.imm 20 12 then x.raiseEm cILL
    else match x.st.wl.engFaults with
    | e :: _ => x.raiseEng e
    | [] =>
      if x.st.wl.old.isSome then x.drainWait
      else
        let s := (x.after fun c => (c.yieldState (fld o.imm 11 0) (fld o.imm 20 12)).advance x.arm).headAfter x
        if x.preemptPending then s.updWale x.st.w fun w => { w with st := .yielded } else s

/-- `rhead` counts in the region it opens (R52, R176). -/
def execRhead (o : ROps) (s : State) : Out :=
  issueWith (.rhead o) s fun x => if x.st.wl.old.isSome then x.drainWait else x.withHead.finish false {}

end Sys2Proof.Machine
end

