-- ==== Sys2Proof/Machine/Queue.lean ====
section
/-! DEFINITION. The command front end: notify and control writes, the entries of a queue, event rings (15 R329 to R341,
R347). -/

namespace Sys2Proof.Machine

/-! ### Queue registers (R329) -/

/-- In recovery the PF cannot write its own registers (18 R396). -/
def State.mute (s : State) (f : Fin 129) : Bool := f == 0 && s.recovering

def State.qEn (s : State) (f q : Nat) : Bool := s.regF (rQCtl f q) 0 0 == 1
def State.qTail (s : State) (f q : Nat) : Nat := s.regF (rQStat f q) 31 16
def State.qStopped (s : State) (f q : Nat) : Bool := s.regF (rQStat f q) 40 40 == 1
def State.qWaiting (s : State) (f q : Nat) : Bool := s.regF (rQStat f q) 41 41 == 1
/-- A queue stops on an error: HEAD names the entry; vector 1 signals it (16 R368). -/
def State.qStop (s : State) (f q code : Nat) : State :=
  ((((s.setRegF (rQStat f q) 39 32 code).setRegF (rQStat f q) 40 40 1).setWaiting f q false).endWait f q).msixSend f 1

/-- A write of VF_QNOTIFYq: dropped and counted when it comes after the serialisation point of a function-level reset in progress; ignored while EN is 0
(R329, R331). -/
def execVfQnotify (f : Fin 129) (q : Fin 64) (x : BitVec 64) (s : State) : Out :=
  .next (
    if s.mute f then s
    else if s.flr.contains f.val then s.setRegF (rDropCnt f) 31 0 (s.regF (rDropCnt f) 31 0 + 1)
    else if !s.qEn f q then s
    else
      let t := getFld x 15 0
      if 2 ^ s.qLog f q ≤ t then s.qStop f q 1 else s.setRegF (rQStat f q) 31 16 t)

/-- A write of VF_QCTLq. -/
def State.qctlWrite (s : State) (f q : Nat) (x : BitVec 64) : State :=
  let was := s.qEn f q
  let en := getFld x 0 0
  let s := if was then s else s.setRegF (rQCtl f q) 11 8 (max 4 (getFld x 11 8))
  let s := s.setRegF (rQCtl f q) 0 0 en
  let s := if !was && en == 1 then (s.setRegF (rQStat f q) 31 0 0) else s
  let s := if was && en == 0 then (s.setWaiting f q false).endWait f q else s
  if getFld x 1 1 = 1 ∧ s.qStopped f q then s.setRegF (rQStat f q) 40 32 0 else s

def execQueueEnable (f : Fin 129) (q : Fin 64) (x : BitVec 64) (s : State) : Out :=
  .next (if !s.mute f && !s.qEn f q && getFld x 0 0 == 1 then s.qctlWrite f q x else s)
def execQueueDisable (f : Fin 129) (q : Fin 64) (x : BitVec 64) (s : State) : Out :=
  .next (if !s.mute f && s.qEn f q && getFld x 0 0 == 0 then s.qctlWrite f q x else s)
def execQueueResume (f : Fin 129) (q : Fin 64) (x : BitVec 64) (s : State) : Out :=
  .next (if !s.mute f && s.qStopped f q && getFld x 1 1 == 1 then s.qctlWrite f q x else s)

/-! ### Entries (R330, R332) -/

/-- The queue has an entry that the front end may take. -/
def State.takeable (s : State) (f q : Nat) : Bool :=
  s.qEn f q && !s.qStopped f q && s.qHead f q != s.qTail f q && !s.closed.contains f && !s.fatal

/-- The 64 bytes of entry `i`, read at level 3. -/
def State.entryAt (s : State) (f q i : Nat) : Except XErr (List Byte × State) :=
  s.feRead f (s.regF (rQBase f q) 52 6 * 64 + 64 * i) 64
/-- Field of `n` bytes at offset `o` of an entry. -/
def entF (bs : List Byte) (o n : Nat) : Nat := natLE ((bs.drop o).take n)
/-- The bytes from `o` up to `e` are zero. -/
def zeroAt (bs : List Byte) (o e : Nat) : Bool := ((bs.drop o).take (e - o)).all fun b => b == 0

/-- Serve the entry at HEAD when its TYPE is one that `mine` names. A failed read stops the queue with ERR 0x04. -/
def State.serve (s : State) (f q : Nat) (mine : Nat → Bool) (act : State → List Byte → State) : State :=
  if !s.takeable f q then s
  else match s.entryAt f q (s.qHead f q) with
    | .error e => if e.waits then s.failed e else (s.failed e).qStop f q 4
    | .ok (bs, s') => if mine (entF bs 0 1) then act s' bs else s

/-- A no-op entry (R332); its other bytes are not looked at (log entry 108, DESIGN CHOICE). -/
def execNopEntry (f : Fin 129) (q : Fin 64) (s : State) : Out :=
  .next (s.serve f q (fun t => t == 0) fun s _ => s.advance f q 1)
def execUnknownEntry (f : Fin 129) (q : Fin 64) (s : State) : Out :=
  .next (s.serve f q (fun t => decide (6 ≤ t)) fun s _ => s.qStop f q 2)

/-! ### Signals (R333) -/

/-- What a signal entry names: die, index; none when a byte that must be zero is not, or the index is out of range. -/
def State.sigEntry (s : State) (f : Nat) (bs : List Byte) (flags codes : Nat) : Option (Fin 4 × Nat) :=
  let t := entF bs 2 2
  if flags ≤ entF bs 1 1 ∨ codes ≤ entF bs 4 1 ∨ !zeroAt bs 5 8 ∨ !zeroAt bs 12 64 ∨ 2 ^ 14 ≤ t
      ∨ s.sigCount f ≤ nfld t 11 0 then none
  else some (Fin.ofNat 4 (nfld t 13 12), nfld t 11 0)

/-- SIGNAL_WAIT: tested when it comes to the head of its queue; while it does not hold, it is tested after each update of its
signal. -/
def execSignalWait (f : Fin 129) (q : Fin 64) (s : State) : Out :=
  .next (s.serve f q (fun t => t == 2) fun s bs =>
    match s.sigEntry f bs 1 3 with
    | none => s.qStop f q 3
    | some (d, i) =>
      if !s.dieWaits 0 d && hwaitCond (entF bs 4 1) (s.signal d (s.sigBase f + i)) (BitVec.ofNat 32 (entF bs 8 4)) then
        s.advance f q 1
      else
        let w : SigWait :=
          { func := f, queue := q, die := d, idx := s.sigBase f + i, cc := entF bs 4 1, value := BitVec.ofNat 32 (entF bs 8 4) }
        let s := s.setWaiting f q true
        if s.sigWaits.contains w then s else { s with sigWaits := (s.endWait f q).sigWaits ++ [w] })

/-- Every earlier launch of the queue has completed. -/
def State.queueDrained (s : State) (f q : Nat) : Bool := s.baskets.all fun e => !(e.2.func == f && e.2.queue == q)
def execSignalWrite (f : Fin 129) (q : Fin 64) (s : State) : Out :=
  .next (s.serve f q (fun t => t == 3) fun s bs =>
    match s.sigEntry f bs 2 2 with
    | none => s.qStop f q 3
    | some (d, i) =>
      if s.dieWaits 0 d || (entF bs 1 1 == 1 && !s.queueDrained f q) then s
      else (s.sigOp d (s.sigBase f + i) (entF bs 4 1 == 1) (BitVec.ofNat 32 (entF bs 8 4))).advance f q 1)

/-! ### Graph nodes (R337, R338) -/

/-- A graph-node declaration (R337). Bits [7:1] of FLAGS that are not zero stop the queue with ERR 3 (log entry 106, DEDUCED). -/
def execGraphNodeDeclaration (f : Fin 129) (q : Fin 64) (s : State) : Out :=
  .next (s.serve f q (fun t => t == 4) fun s bs =>
    let n := entF bs 2 2
    let k := entF bs 6 1
    let key (m : Nat) : Nat := s.nodeBase f + m
    let succ := (List.range k).map fun i => entF bs (8 + 2 * i) 2
    if 2 ≤ entF bs 1 1 ∨ !zeroAt bs 7 8 ∨ !zeroAt bs 56 64 then s.qStop f q 3
    else if s.nodeCount f ≤ n ∨ (Sparse.find? s.nodes (key n)).isSome ∨ 24 < k
        ∨ succ.any (fun m => decide (s.nodeCount f ≤ m) || (Sparse.find? s.nodes (key m)).isNone) then s.qStop f q 5
    else
      let g : GNode := { preds := entF bs 4 2, succ := succ.map key, empty := entF bs 1 1 == 1, launch := none, running := false }
      let s := ({ s with nodes := Sparse.put s.nodes (key n) g }).advance f q 1
      if g.empty && g.preds == 0 then s.nodeComplete (key n) else s)

/-! ### Launches (R335, R339, R340) -/

/-- Reuse ranges overlap. -/
def rsOverlap (a b : BitVec 512) : Bool :=
  pkRsDie a == pkRsDie b && pkRsCount a != 0 && pkRsCount b != 0
  && decide (pkRsBase a < pkRsBase b + pkRsCount b) && decide (pkRsBase b < pkRsBase a + pkRsCount a)
/-- A grant of a reuse entry to a basket of another function clears it (10 R246). -/
def State.grantReuse (s : State) (f : Nat) (pkt : BitVec 512) : State :=
  (List.range (pkRsCount pkt)).foldl (fun s i =>
    let n := pkRsBase pkt + i
    let e := s.reuseEntry (pkRsDie pkt) n
    if e.vf = f then s else s.setReuse (pkRsDie pkt) n { e with valid := false, r := [], abar := [], vf := f }) s
/-- The lowest free basket entry. -/
def State.freeBasket (s : State) : Option Nat := (List.range 4096).find? fun b => (Sparse.find? s.baskets b).isNone

/-- The recovery extension of an entry; none when it is misaligned or its SHIFT is above 31. -/
def recovOf (bs : List Byte) : Option Recov :=
  let v : Recov :=
    { mul := entF bs 4 4, shift := entF bs 8 1, span := entF bs 10 2, phoops := entF bs 12 4,
      ownbm := entF bs 16 8, prodbm := entF bs 24 8, ready := [] }
  if 31 < v.shift ∨ v.ownbm % 8 ≠ 0 ∨ (v.span ≠ 0 ∧ v.prodbm % 8 ≠ 0) then none else some v

/-- What the entry behind a launch with RECOV = 1 is. -/
inductive RExt where
  | none | wait | missing | unread (e : XErr) | reserved | ext (v : Option Recov)
  deriving DecidableEq, Repr

/-- The extension of a launch (R340). -/
def State.extOf (s : State) (f q : Nat) (pkt : BitVec 512) : RExt :=
  if !pkRecov pkt then .none
  else
    let n := (s.qHead f q + 1) % 2 ^ s.qLog f q
    if n = s.qTail f q then .wait
    else match s.entryAt f q n with
      | .error e => if e.waits then .wait else .unread e
      | .ok (bs, _) =>
        if entF bs 0 1 ≠ 5 then .missing
        else if !zeroAt bs 1 4 || !zeroAt bs 9 10 || !zeroAt bs 32 64 then .reserved
        else .ext (recovOf bs)

/-- The launch cannot attach to its node (R338). -/
def State.nodeBad (s : State) (f : Nat) (pkt : BitVec 512) : Bool :=
  pkGnode pkt && (decide (s.nodeCount f ≤ pkNode pkt) || match Sparse.find? s.nodes (s.nodeBase f + pkNode pkt) with
    | some g => g.empty || g.launch.isSome || g.running
    | none => true)

/-- A basket entry is made for an accepted launch, and the launch is dispatched, or attached to its node. -/
def State.accept (s : State) (f q b : Nat) (pkt : BitVec 512) (v : Option Recov) : State :=
  let x : Basket :=
    { func := f, queue := q, pkt := pkt, ctr := 0, nextSkein := 0, recov := v, ran := false, moved := false }
  let s := { s with baskets := Sparse.put s.baskets b x }
  let s := (s.grantReuse f pkt).publishAll
  if pkGnode pkt then
    let n := s.nodeBase f + pkNode pkt
    match Sparse.find? s.nodes n with
    | some g =>
      let s := { s with nodes := Sparse.put s.nodes n { g with launch := some b, running := g.preds == 0 } }
      if g.preds = 0 then (s.startBasket b).pollBasket b else s
    | none => s
  else (s.startBasket b).pollBasket b

/-- A launch at HEAD, with its extension: its node, its shape and its reuse range are checked, and it is given a basket. A non-zero
reserved byte of the extension stops the queue; the launch, to which the extension belongs, is not taken and HEAD names the pair (R332, R340;
log entry 57). -/
def State.launchAt (s : State) (f q : Nat) (bs : List Byte) : State :=
  let pkt : BitVec 512 := BitVec.ofNat 512 (natLE bs)
  let go (n : Nat) (v : Option Recov) (bad : Bool) : State :=
    if s.nodeBad f pkt then s.qStop f q 5
    else if bad || s.launchBad f pkt then (s.advance f q n).complete f pkt 0x0D true
    else if s.baskets.any fun e => rsOverlap pkt e.2.pkt then (s.advance f q n).complete f pkt 0x0C true
    else match s.freeBasket with
      | some b =>
        if (s.baskets.filter fun e => e.2.func == f).length < s.regF (rFuncB f) 43 32 then
          (s.advance f q n).accept f q b pkt v
        else s.setWaiting f q true
      | none => s.setWaiting f q true
  match s.extOf f q pkt with
  | .none => go 1 none false
  | .wait => s.setWaiting f q true
  | .missing => go 1 none true
  | .unread e => (s.failed e).qStop f q 4
  | .reserved => if s.nodeBad f pkt then s.qStop f q 5 else s.qStop f q 3
  | .ext none => go 2 none true
  | .ext (some v) => go 2 (some v) false
def execLaunch (f : Fin 129) (q : Fin 64) (s : State) : Out :=
  .next (s.serve f q (fun t => t == 1) fun s bs => s.launchAt f q bs)

/-- RECOVERY_EXTENSION: with the launch before it at HEAD, both are taken; at HEAD itself it is out of place. -/
def execRecoveryExtension (f : Fin 129) (q : Fin 64) (s : State) : Out :=
  .next (s.serve f q (fun t => t == 1 || t == 5) fun s bs =>
    if entF bs 0 1 = 5 then s.qStop f q 6
    else match s.extOf f q (BitVec.ofNat 512 (natLE bs)) with
      | .ext _ => s.launchAt f q bs
      | _ => s)

/-! ### Event rings (R347) -/

/-- A write of VF_EVBASE: refused whole when LOG2N is out of range; else the ring is empty. -/
def execVfEvbaseWrite (f : Fin 129) (x : BitVec 64) (s : State) : Out :=
  .next (
    if s.mute f ∨ getFld x 63 59 < 4 ∨ 12 < getFld x 63 59 then s
    else
      let s := ((s.setRegF (rEvBase f) 63 59 (getFld x 63 59)).setRegF (rEvBase f) 52 5 (getFld x 52 5)).setReg (rEvPtr f) 0
      s.postRequests f s.pageReqs)
/-- A write of VF_EVPTR moves HEAD; requests that wait for room are posted. -/
def execVfEvptrWrite (f : Fin 129) (x : BitVec 64) (s : State) : Out :=
  .next (
    if s.mute f then s else
    let s := s.setRegF (rEvPtr f) 31 16 (getFld x 31 16 % 2 ^ s.regF (rEvBase f) 63 59)
    s.postRequests f s.pageReqs)

end Sys2Proof.Machine
end

