-- ==== Sys2Proof/Machine/Firmware.lean ====
section
/-! DEFINITION. The firmware complex: fatal device errors and the dump, package reset and boot, plug-ins, telemetry,
attestation (18 R393 to R402). -/

namespace Sys2Proof.Machine

/-! ### Restart of a wale (02 R55) -/

/-- The wale has unreleased results (02 R55). -/
def Wale.unreleased (w : Wale) : Bool :=
  w.st != .saved && (w.old.isSome || !w.cur.held.isEmpty || w.core.icount != 0
    || w.core.pend0.isSome || w.core.pend1.isSome || !w.core.shadows.all (fun x => x.landed) || w.core.hoff.isSome)
/-- The wale restarts at the head of its oldest unreleased region: the checkpoint is restored and its held effects from that
head on are dropped. It keeps its place among the wales that wait for issue (01 R38). -/
def Wale.restart (w : Wale) (turn cc : Nat) : Wale :=
  let r := match w.old with
    | some r => { r with refused := r.refused ++ w.cur.refused }
    | none => w.cur
  { w with
    core := r.ckpt.unstall, cur := { r with held := [], q := none }, old := none, st := .ready, collArg := none, ready1 := cc
    since := if w.st == .ready then w.since else turn }

/-! ### The dump (R401) -/

/-- A section: kind, die, content. -/
structure Section where
  kind : Nat
  die : Nat
  bytes : List Byte

/-- `n` registers of 8 bytes from a key on. -/
def State.regBytes (s : State) (key n : Nat) : List Byte := (List.range n).flatMap fun i => bytesLE 8 (s.reg (key + 8 * i)).toNat
/-- The MEM block of a die: VF_PTROOT is one register of the module, seen in every die's block (14 R322). -/
def State.memBytes (s : State) (d : Fin 4) : List Byte :=
  (List.range 385).flatMap fun i =>
    bytesLE 8 (s.reg (if 64 ≤ i ∧ i < 193 then rPtRoot (i - 64) else memb d (8 * i))).toNat
/-- The register blocks of a die, each up to its last listed register. -/
def State.dieSections (s : State) (d : Fin 4) : List Section :=
  [⟨2, d, s.regBytes (qsm d 0) 704⟩, ⟨3, d, s.regBytes (dsc d 0) 64⟩, ⟨4, d, s.regBytes (l2c d 0) 161⟩,
   ⟨5, d, s.memBytes d⟩, ⟨6, d, s.regBytes (pwr d 0) 256⟩, ⟨7, d, s.regBytes (thm d 0) 160⟩]
/-- QSM_LOG of a die. -/
def State.logBytes (s : State) (d : Fin 4) : List Byte :=
  (List.range 512).flatMap fun i => bytesLE 32 (Sparse.getD (s.die d).qlog 0 i).toNat
/-- VF_QBASE, VF_QCTL and VF_QSTAT of a function's queues. -/
def State.queueBytes (s : State) (f : Nat) : List Byte :=
  (List.range 64).flatMap fun q =>
    bytesLE 8 (s.reg (rQBase f q)).toNat ++ bytesLE 8 (s.reg (rQCtl f q)).toNat ++ bytesLE 8 (s.reg (rQStat f q)).toNat
/-- The function is granted to the dump. -/
def State.dumpGranted (s : State) (f : Nat) : Bool := (s.reg (rDumpFn (f / 64))).getLsbD (f % 64)
/-- The basket table: 64 bytes for each of its 4,096 entries (15 R339). -/
def State.basketBytes (s : State) : List Byte :=
  (List.range 4096).flatMap fun b =>
    let e := (s.basket? b).map fun x => (x.func, x.queue, x.pkt, x.ctr, x.nextSkein, x.recov.map fun v =>
      (#v[v.mul, v.shift, v.span, v.phoops, v.ownbm, v.prodbm] : Vector Nat 6))
    (List.range 64).map (Config.dumpBasket e)
/-- The section of a resident hoop: its image at its wales' oldest unreleased heads; of a function that is not granted, its tiles and its
scratchpad as zero. -/
def State.hoopSection (s : State) (h : Nat) (hp : Hoop) : Section :=
  let pkt := s.hoopPkt hp
  ⟨10, hp.die, if s.dumpGranted (s.skeinFunc hp.skein) then s.imageOf h hp fun w => w.core
    else zeros (1024 * pkTiles pkt + pkSp pkt)⟩
/-- All sections in their order; log entry 26 says what of their layout is the model's reading. -/
def State.dumpSections (s : State) : List Section :=
  let queues : List Byte := (List.range 129).flatMap s.queueBytes
  [⟨0, 0, s.regBytes (fw 0) 641⟩, ⟨1, 0, s.regBytes (cfe 0) 2816⟩]
  ++ (List.finRange 4).flatMap s.dieSections
  ++ (List.finRange 4).map (fun d => ⟨8, d, s.logBytes d⟩)
  ++ [⟨9, 0, s.basketBytes ++ queues⟩]
  ++ (if s.regF rDumpCtl 24 24 = 1 then
      (s.hoops.filter fun e => e.2.st == .resident).map fun e => s.hoopSection e.1 e.2
     else [])

/-- The whole sections that fit in `room` bytes behind the header, 16 bytes of directory each. -/
def fitSections : Nat → List Section → List Section
  | _, [] => []
  | room, x :: xs => if 16 + x.bytes.length ≤ room then x :: fitSections (room - (16 + x.bytes.length)) xs else []
/-- Directory entries from an offset on: type, die, offset, length. -/
def dirBytes : Nat → List Section → List Byte
  | _, [] => []
  | o, x :: xs =>
    bytesLE 4 (Config.dumpType x.kind).toNat ++ bytesLE 4 x.die ++ bytesLE 4 o ++ bytesLE 4 x.bytes.length
    ++ dirBytes (o + x.bytes.length) xs
/-- The dump without its check word: before it and behind it. -/
def dumpRest (fatal : BitVec 64) (xs : List Section) : List Byte :=
  padTo 4088 (bytesLE 8 fatal.toNat ++ bytesLE 4 xs.length) ++ dirBytes (4096 + 16 * xs.length) xs ++ xs.flatMap fun x => x.bytes
def dumpBytes (fatal : BitVec 64) (xs : List Section) : List Byte :=
  let r := dumpRest fatal xs
  bytesLE 4 0x4F514455 ++ bytesLE 4 (BitVec.ofNat 32 0x4F514455 ^^^ xorWords r).toNat ++ r

/-- The dump, and whether sections of it are left out because the area fills. -/
def State.dump (s : State) : List Byte × Bool :=
  let all := s.dumpSections
  let xs := fitSections (4096 * s.regF rDumpCtl 23 0 - 4096) all
  (dumpBytes (s.reg rFatal) xs, decide (xs.length < all.length))
/-- Bytes of the dump are written to its area. -/
def State.putDump (s : State) (bs : List Byte) : State :=
  State.physWriteRun (bs.length / 64 + 2) s (s.regF rDumpBase 59 48) (s.regF rDumpBase 45 12 * 4096) bs
/-- The dump is complete: DUMPED and TRUNC; under AUTORST the package reset follows (R399). -/
def State.writeDump (s : State) : State :=
  let (bs, cut) := s.dump
  let s := ((s.putDump bs).setRegF rFatal 7 7 1).setRegF rFatal 8 8 (if cut then 1 else 0)
  { s with dumping := false, rstGo := s.rstGo || s.regF rFatal 9 9 == 1 }
/-- A package reset stops the dump: what has been written of it stays, DUMPED is 0 and TRUNC is set (R402). -/
def State.cutDump (s : State) : State :=
  (({ s with free := s.free + 1 } : State).putDump (s.dump.1.take (Config.dumpCut s.free))).setRegF rFatal 8 7 2

/-! ### Boot (R396) and package reset (R400) -/

/-- Why an image is rejected: 0 it is accepted, 1 signature, 2 key digest, 3 rollback, 4 header. -/
def imageErr (bs : List Byte) (layer : Nat) (fused : BitVec 32) : Nat :=
  let body := bs.drop 3840
  let key := (bs.drop 64).take 1312
  if at_ bs 0 4 ≠ 0x4F514657 ∨ at_ bs 4 1 ≠ layer ∨ at_ bs 5 3 ≠ 0 ∨ at_ bs 12 4 ≠ body.length ∨ body.length % 64 ≠ 0
      ∨ at_ bs 24 32 ≠ (Config.sha3 body).toNat ∨ at_ bs 56 8 ≠ 0 ∨ at_ bs 3796 44 ≠ 0 ∨ bs.length < 3840 then 4
  else if Config.sha3 key ≠ Config.fusedKeyDigest then 2
  else if !Config.mldsaVerify key (bytesLE 32 (Config.sha3 (bs.take 64 ++ body)).toNat) ((bs.drop 1376).take 2420) then 1
  else if at_ bs 8 4 < fused.toNat then 3
  else 0
/-- The security version of a layer in the fuses. -/
def State.fusedVer (s : State) (layer : Nat) : BitVec 32 := Sparse.getD s.svn (Config.fusedSvn layer) layer
/-- Layer of image `n`. -/
def imageLayer (n : Nat) : Nat := min n 2
/-- Outcome of image `n` of the flash. -/
def State.imageState (s : State) (n : Nat) : Nat :=
  imageErr (Config.flashImage s.epoch n) (imageLayer n) (s.fusedVer (imageLayer n))
/-- An accepted image raises the fused version of its layer when COMMIT is 1. -/
def State.commitImage (s : State) (commit : Bool) (n : Nat) : State :=
  let v := BitVec.ofNat 32 (at_ (Config.flashImage s.epoch n) 8 4)
  if commit && decide ((s.fusedVer (imageLayer n)).toNat < v.toNat) then { s with svn := Sparse.put s.svn (imageLayer n) v } else s

/-- A plug-in image is verified: a rejected one leaves its function on default policy. -/
def State.bootPlugin (commit : Bool) (s : State) (f : Nat) : State :=
  let e := s.imageState (2 + f)
  if e = 0 then s.commitImage commit (2 + f)
  else { (s.setRegF rBootStat 7 4 e) with pluginStopped := s.pluginStopped ++ [f] }
/-- Recovery: no die is admitted. Without a monitor no protection region has been set. -/
def State.recovery (s : State) (e : Nat) (regions : Sparse ProtRegion) : State :=
  { ((s.setRegF rBootStat 3 0 0xF).setRegF rBootStat 7 4 e) with dieUp := 0, prot := regions }
/-- Boot: the monitor, the scheduler, then each plug-in. SVN shows the fused version until a monitor is in force. -/
def State.boot (s : State) (commit : Bool) : State :=
  let s := s.setRegF rBootStat 63 32 (s.fusedVer 0).toNat
  let e := s.imageState 0
  if e ≠ 0 then s.recovery e []
  else
    let s := (s.commitImage commit 0).setRegF rBootStat 63 32 (at_ (Config.flashImage s.epoch 0) 8 4)
    let e := s.imageState 1
    if e ≠ 0 then s.recovery e s.prot
    else
      let s := (s.commitImage commit 1).setRegF rBootStat 3 0 3
      { (List.range 129).foldl (State.bootPlugin commit) s with dieUp := 0xF }

/-- A package reset: keys are erased, every register takes its reset value but FW_FATAL, the dump area keeps its bytes, the
fuses keep their values, and the package boots. COMMIT counts as it stood before the reset (log entry 28). What AER has signalled stays
signalled. -/
def State.packageReset (s : State) : State :=
  let lo := s.regF rDumpBase 45 12 * 4096
  let hi := lo + 4096 * s.regF rDumpCtl 23 0
  let keep : Mem := s.mem.filter fun e => decide (lo ≤ e.1) && decide (e.1 < hi)
  let lines : Sparse LineInfo := s.lines.filter fun e => decide (lo ≤ 64 * e.1) && decide (64 * e.1 < hi)
  let r : State := { State.reset with
    epoch := s.epoch + 1, free := s.free, svn := s.svn, peerEpochs := s.peerEpochs, usTime := s.usTime, aer := s.aer
    mem := keep
    lines := lines }
  (r.setReg rFatal (s.reg rFatal)).boot (s.regF rBootStat 8 8 == 1)

/-- PACKAGE_RESET: a PCI Express fundamental reset; it stops a dump (R402). -/
def execPackageReset (s : State) : Out := .next (if s.dumping then s.cutDump.packageReset else s.packageReset)
/-- A write of FW_PKGRST; a GO while a dump is being written waits for it. -/
def execFwPkgrstGo (x : BitVec 64) (s : State) : Out :=
  .next (if getFld x 0 0 = 0 then s else if s.dumping then { s with rstGo := true } else s.packageReset)
/-- What the device does by itself after a fatal device error: it writes the dump, then the package is reset. -/
def State.fatalStep (s : State) : Option State :=
  if s.dumping then some s.writeDump else if s.rstGo then some s.packageReset else none

/-! ### Fatal device errors (R399) -/

/-- A fatal device error: issue stops, unreleased effects are discarded, the cause is recorded, AER is signalled, and the dump starts; with
PAGES 0 none is written. A second one changes nothing (R402). -/
def State.fatalError (s : State) (cause : Nat) (d : Nat) : State :=
  if s.fatal then s
  else
    let s : State := { s with
      fatal := true
      aer := s.aer + 1
      wales := s.wales.map fun (e : Nat × Wale) => if e.2.unreleased then (e.1, e.2.restart s.turn (s.ccOf e.2)) else e }
    let s := ((s.setRegF rFatal 3 0 cause).setRegF rFatal 5 4 d).setRegF rFatal 8 6 1
    let none_ := s.regF rDumpCtl 23 0 == 0
    { s with dumping := !none_, rstGo := none_ && s.regF rFatal 9 9 == 1 }

/-! ### Plug-ins (R394) -/

/-- The monitor stops a plug-in: its function runs on under default policy. -/
def State.stopPlugin (s : State) (f : Nat) : State :=
  if s.pluginStopped.contains f then s else { s with pluginStopped := s.pluginStopped ++ [f] }
def execPluginTimeout (f : Fin 129) (s : State) : Out := .next (s.stopPlugin f)
def execPluginViolation (f : Fin 129) (s : State) : Out := .next (s.stopPlugin f)
/-- A layer of the firmware runs: the monitor and the scheduler once they are verified, a plug-in unless it has been stopped (R396). -/
def State.layerRuns (s : State) : FwLayer → Bool
  | .monitor => !s.prot.isEmpty
  | .scheduler => !s.recovering
  | .plugin f => !s.recovering && !s.pluginStopped.contains f.val
/-- The regions of a core allow a write of a layer to an address. -/
def State.mayWrite (s : State) (core : Fin 4) (layer : FwLayer) (a : Nat) : Bool :=
  (List.range 16).any fun i => match Sparse.find? s.prot (16 * core.val + i) with
    | some r => decide (r.base ≤ a) && decide (a + 8 ≤ r.limit + 1)
        && (match layer with | .monitor => r.monitor | .scheduler => r.scheduler | .plugin _ => r.plugin).getLsbD 1
    | none => false
/-- An access outside a layer's regions: a plug-in is stopped; of the scheduler or the monitor it is a fault, a fatal device error of
cause 5 (R399). -/
def State.strayAccess (s : State) (core : Fin 4) (layer : FwLayer) : State :=
  match layer with
  | .plugin f => s.stopPlugin f
  | _ => s.fatalError 5 core
/-- The plug-in is reloaded from its verified image at a world switch. -/
def State.reloadPlugin (s : State) (f : Nat) : State :=
  if s.imageState (2 + f) = 0 then { s with pluginStopped := s.pluginStopped.filter fun g => g != f } else s

/-! ### Telemetry (R397) -/

/-- The record of a function. -/
def State.telemBytes (s : State) (f : Nat) (t : Nat × Nat × Nat × Nat × Word) : List Byte :=
  bytesLE 8 t.1 ++ bytesLE 8 s.usTime ++ bytesLE 8 (s.reg (rEj (s.partOf f))).toNat
  ++ (List.range 4).flatMap (fun d => bytesLE 2 (s.regF (rThmMax d) 15 0))
  ++ bytesLE 4 t.2.1 ++ bytesLE 4 t.2.2.1 ++ bytesLE 4 t.2.2.2.1 ++ bytesLE 4 t.2.2.2.2.toNat
  ++ bytesLE 4 (s.regF (rBwBreach 0) 31 0) ++ zeros 12
/-- One record in the ring of a function whose ring is enabled; an interval ends for every function. -/
def State.telemOne (s : State) (f : Nat) : State :=
  let t := Sparse.getD s.telem (0, 0, 0, 0, 0) f
  if s.regF (rTelem f) 0 0 = 0 then { s with telem := Sparse.setD s.telem (0, 0, 0, 0, 0) f (t.1, 0, 0, 0, t.2.2.2.2) }
  else
    let a := s.regF (rTelem f) 45 12 * 4096 + 64 * (t.1 % 1024)
    let s := s.physWriteRun 2 (s.regF (rTelem f) 59 48) a (s.telemBytes f t)
    { s with telem := Sparse.put s.telem f (t.1 + 1, 0, 0, 0, t.2.2.2.2) }
/-- TELEMETRY_RECORD: a millisecond of management time has passed; without a scheduler nothing is recorded. -/
def execTelemetryRecord (s : State) : Out :=
  .next (
    let s : State := { s with usTime := s.usTime + 1000 }
    if s.layerRuns .scheduler then (List.range 129).foldl State.telemOne s else s)

/-! ### Attestation (R398) -/

/-- The report without its signature: digests and versions of the images that run (log entry 27). -/
def State.reportBody (s : State) (f : Nat) (nonce : List Byte) : List Byte :=
  let img (n : Nat) : List Byte := Config.flashImage s.epoch n
  let dig (n : Nat) : List Byte := bytesLE 32 (Config.sha3 ((img n).drop 3840)).toNat
  let mon := Config.sha3 ((img 0).drop 3840)
  nonce ++ dig 0 ++ dig 1 ++ (if s.pluginStopped.contains f then zeros 32 else dig (2 + f))
  ++ (List.range 3).map (fun l => if l = 2 ∧ s.pluginStopped.contains f then 0 else
      BitVec.ofNat 8 (at_ (img (if l = 2 then 2 + f else l)) 8 4)) ++ [0]
  ++ [BitVec.ofNat 8 f, BitVec.ofNat 8 (s.partOf f)]
  ++ (List.finRange 4).flatMap (fun d => bytesLE 2 (s.window d)) ++ zeros 2
  ++ (List.range 1312).map fun i => Config.devicePublicKey mon i
/-- The signed report. -/
def State.report (s : State) (f : Nat) (nonce : List Byte) : List Byte :=
  let b := s.reportBody f nonce
  b ++ (List.range 2420).map fun i => Config.mldsaSign (Config.sha3 ((Config.flashImage s.epoch 0).drop 3840)) (Config.sha3 b) i

/-- The key under which a function can write a page: that of a leaf of its tables that maps it for writing. -/
def State.writeKey (s : State) (f pa : Nat) : Option Nat :=
  (s.leafFor f fun p size => leafMaps (pa / 8192) p size && leafPerm p .w && s.paOk pa (nfld p 59 48)
    && (match s.inPart (s.partOf f) { pa := pa, key := nfld p 59 48, mt := nfld p 6 5, ptes := [], size := size } with
      | .ok _ => true
      | .error _ => false)).map fun p => nfld p 59 48
/-- The monitor's answer to a request of a function for the buffer at `pa`: 0 success, 1 a buffer it cannot write, 2 busy. -/
def State.attest (s : State) (f pa : Nat) : Nat × State :=
  let (busy, s) := s.choose
  if busy then (2, s)
  else if pa % 4096 ≠ 0 ∨ 2 ^ 46 ≤ pa then (1, s)
  else match s.writeKey f pa with
    | none => (1, s)
    | some key => (0, s.physWriteRun 64 key pa (s.report f (s.physRead key pa 32)))

/-- ATTESTATION_REQUEST: the oldest message of a function in an attestation slot of die 0 is answered. -/
def execAttestationRequest (n : Fin 8) (s : State) : Out :=
  .next (
    let slot := 248 + n.val
    let box := Sparse.getD (s.die 0).mbox Mbox.empty slot
    match (if s.layerRuns .monitor then box.msgs.find? fun m => m.extractLsb' 96 8 != (0xFF : BitVec 8) else none) with
    | none => s
    | some m =>
      let (code, s) := s.attest (m.extractLsb' 96 8).toNat (m.extractLsb' 0 64).toNat
      let reply : BitVec 128 := (0x800000FF#32 : BitVec 32) ++ BitVec.ofNat 96 code
      let box' : Mbox := { box with msgs := box.msgs.erase m ++ [reply] }
      s.updDie 0 fun x => { x with mbox := Sparse.setD x.mbox Mbox.empty slot box' })

end Sys2Proof.Machine
end

