-- ==== Sys2Proof/Machine/Quarantine.lean ====
section
/-! DEFINITION. Sensors, guard events, tag windows and their messages, injection, storms and fences (02 R55 to R58, 13 R287
to R305, R417). -/

namespace Sys2Proof.Machine

/-! ### Reports (R287, R288) -/

/-- A cell reports one event in a cycle, of the lowest type that fired (R287): a report of the same cycle covers another of its
cell, with the blind flag when one of them has it. -/
def addReport (cc : Nat) : List CellReport → Fin 256 → Fin 3 → Bool → List CellReport
  | [], c, t, b => [{ cell := c, ty := t, blind := b, at_ := cc }]
  | r :: rs, c, t, b =>
    if r.cell = c ∧ r.at_ = cc then { r with ty := if t < r.ty then t else r.ty, blind := r.blind || b } :: rs
    else r :: addReport cc rs c t b

/-- SENSOR_REPORT: a cell reports an event, which will be applied at its apply cycle. A cell blind for the type reports
nothing (R305). -/
def execSensorReport (d : Fin 4) (cell : Fin 256) (ty : Fin 3) (s : State) : Out :=
  .next (if (s.die d).blind.contains (cell, ty) then s
    else s.updDie d fun x => { x with reports := addReport x.cc x.reports cell ty false })

/-! ### Tag windows (R295, R296) -/

/-- TAG_WINDOW_CLOSE: an open window closes when 32 cc have passed. -/
def execTagWindowClose (d : Fin 4) (g : Fin 63) (s : State) : Out :=
  .next (match (s.tagsOf d g).wins.find? fun w => w.opened with
    | some w =>
      if s.eventBy d (w.first + 31) then s else
      let s := s.waitPast d (w.first + 31)
      s.setTags d g ((s.tagsOf d g).close (s.window d))
    | none => s)

/-- CLEAR of a window is sent to every die it sent to; to a die in warm reset none is sent (16 R361). -/
def State.sendClear (s : State) (d : Fin 4) (g : Nat) (w : TagWin) : State :=
  { s with links := s.links ++ (w.counts.filter fun e => !s.homeOff e.1).map fun e => .clear e.1 d g w.ser e.2 }
/-- CLEAR_SEND: the oldest window of a region, closed, clears in the cycle after its deadline. -/
def execClearSend (d : Fin 4) (g : Fin 63) (s : State) : Out :=
  .next (
    let t := s.tagsOf d g
    match t.wins with
    | w :: ws =>
      if w.opened || s.eventBy d (w.last + w.q) then s
      else ((s.waitPast d (w.last + w.q)).setTags d g { t with wins := ws }).sendClear d g w
    | [] => s)
/-- The windows of a region whose deadline has passed at cycle `cc` are cleared, in serial order. -/
def State.sendDue (d : Fin 4) (g cc : Nat) : Nat → State → State
  | 0, s => s
  | n + 1, s =>
    let t := (s.tagsOf d g).closeOld cc (s.window d)
    match t.wins with
    | w :: ws =>
      if w.opened || decide (cc ≤ w.last + w.q) then s
      else State.sendDue d g cc n ((s.setTags d g { t with wins := ws }).sendClear d g w)
    | [] => s
/-- SQUASH of every uncleared window of a region; the number of windows, counted at each receiver. -/
def State.squashTags (s : State) (d : Fin 4) (g : Nat) : State × Nat :=
  let t := (s.tagsOf d g).close (s.window d)
  match t.wins with
  | [] => (s, 0)
  | w :: _ =>
    let dsts := (List.finRange 4).filter fun e => t.wins.any fun x => x.counts.any fun c => c.1 == e
    let n := t.wins.foldl (fun n x => n + x.counts.length) 0
    ({ (s.setTags d g { t with wins := [] }) with
        links := s.links ++ dsts.map fun e => .squash e d g w.ser t.serial }, n)

/-! ### Guard events (02 R55, R56) -/

/-- Regions of a mask. -/
def regionsOf (m : BitVec 64) : List Nat := (List.range 63).filter fun g => m.getLsbD g
/-- A region of the wale whose deadline has passed is released before the event acts (R289). -/
def State.releaseDue (w : Nat) (cc : Nat) : Nat → State → State
  | 0, s => s
  | n + 1, s =>
    match s.site? w with
    | none => s
    | some st =>
      let late (r : Region) : Bool := decide (s.deadline st.hoop.die r < cc)
      let due := match st.wl.old with | some r => late r | none => st.wl.curClosed && late st.wl.cur
      if st.wl.releasable && due then State.releaseDue w cc n (s.releaseRegion st) else s

/-- A wale on a mapped core: `sr.qev` rises; with unreleased results it restarts. -/
def Wale.struck (w : Wale) (turn cc : Nat) : Wale :=
  let w := if w.unreleased then w.restart turn cc else w
  { w with qev := w.qev + 1 }
/-- A log record (R300). -/
def qlogRecord (cc : Nat) (cell ty : Nat) (inj blind : Bool) (wales wins : Nat) (mask : BitVec 64) : BitVec 256 :=
  BitVec.ofNat 256 (natLE (bytesLE 8 cc ++ [BitVec.ofNat 8 cell, BitVec.ofNat 8 (ty + (if inj then 4 else 0) + if blind then 8 else 0)]
    ++ bytesLE 2 wales ++ bytesLE 4 wins ++ bytesLE 8 mask.toNat))
/-- A record is logged while LOGEN is 1, and counted as lost while it is 0. -/
def State.qlogPut (s : State) (d : Fin 4) (r : BitVec 256) : State :=
  if s.regF (rQsmCtl d) 1 1 = 0 then s.setRegF (rQsmLogPtr d) 63 32 (s.regF (rQsmLogPtr d) 63 32 + 1)
  else
    let h := s.regF (rQsmLogPtr d) 8 0
    let s := if (Sparse.find? (s.die d).qlog h).isSome then s.setRegF (rQsmStatus d) 1 1 1 else s
    (s.updDie d fun x => { x with qlog := Sparse.put x.qlog h r }).setRegF (rQsmLogPtr d) 8 0 ((h + 1) % 512)

/-- Votes of the clusters of a rail are formed again (17 R381); where the target falls by it, the rail holds. -/
def State.revote (s : State) (d : Fin 4) (k : Nat) : State :=
  let one (s : State) (c : Fin 8) : State :=
    if c.val / 2 = k ∧ s.regF (rClust d c) 15 8 ≠ 0 then s.setRegF (rClust d c) 15 8 (s.voteOf d c) else s
  let s := (List.finRange 8).foldl one s
  let t := s.railTarget d k
  let was := s.regF (rRail d k) 15 8
  let s := s.setRegF (rRail d k) 15 8 t
  if t < was then s.setRegF (rRail d k) 24 24 1
  else if s.regF (rRail d k) 7 0 ≤ t then s.setRegF (rRail d k) 24 24 0 else s
/-- The rail of a region's cluster pair. -/
def railOf (g : Nat) : Option Nat := if g < 48 then some (g / 12) else if g < 56 then some ((g - 48) / 2) else none

/-- A fence: pre-emption of the units it affects is requested, and the fit of held skeins is judged again; a fence of regions 56 to 62 is a fatal device error. -/
def State.fence (s : State) (d : Fin 4) (g : Nat) : State :=
  if s.fenced d g then s
  else
    let s := s.setRegF (rQsmRgn d g) 1 1 1
    if 56 ≤ g then s.fatalError 1 d
    else
      let here (h : Hoop) : Bool := h.die == d && (if g < 48 then h.region == g else h.cluster.val == g - 48)
      (s.requestAll (s.units.filter fun u => (s.unitHoops u.1 u.2).any fun e => here e.2)).refitAll
/-- REGION_UNFENCE. -/
def execRegionUnfence (d : Fin 4) (g : Fin 63) (s : State) : Out :=
  .next ((s.setRegF (rQsmRgn d g) 1 1 0).updDie d fun x => { x with degRun := Sparse.del x.degRun g })

/-- The end of an interval at one region. -/
def State.intervalRegion (s : State) (d : Fin 4) (g : Nat) : State :=
  let n := s.regF (rQsmRgn d g) 31 16
  let was := s.regF (rQsmRgn d g) 0 0
  let s := if n = 0 then s else s.setRegF (rQsmRgn d g) 31 16 0
  if was = 0 then s
  else if 2 * n < s.regF (rQsmCtl d) 9 2 then
    let s := (s.setRegF (rQsmRgn d g) 0 0 0).updDie d fun x => { x with degRun := Sparse.del x.degRun g }
    match railOf g with
    | some k => s.revote d k
    | none => s
  else
    let k := Sparse.getD (s.die d).degRun 0 g + 1
    let s := s.updDie d fun x => { x with degRun := Sparse.put x.degRun g k }
    if 16 ≤ k then s.fence d g else s
/-- The length of a storm interval in cc. -/
def State.stormLen (s : State) (d : Fin 4) : Nat := 1024 * s.regF (rQsmCtl d) 31 16
/-- A storm interval ends, and the next begins at cycle `next`. -/
def State.intervalEnd (s : State) (d : Fin 4) (next : Nat) : State :=
  let s := s.updDie d fun x => { x with stormStart := next }
  (List.range 63).foldl (fun s g => s.intervalRegion d g) s
/-- Intervals that are over end; after two without an event in between no further end changes a region. -/
def State.endIntervals (s : State) (d : Fin 4) : State :=
  let x := s.die d
  let n := (x.cc - x.stormStart) / max 1 (s.stormLen d)
  if n = 0 then s
  else
    let next := x.stormStart + n * s.stormLen d
    let s := s.intervalEnd d next
    if n = 1 then s else s.intervalEnd d next
/-- Counts of an event at a region; at STORMTH it is degraded, and its rail's vote rises (R303). -/
def State.countEvent (s : State) (d : Fin 4) (g : Nat) : State :=
  let n := min 0xFFFF (s.regF (rQsmRgn d g) 31 16 + 1)
  let s := (s.setRegF (rQsmRgn d g) 31 16 n).setRegF (rQsmRgn d g) 63 32 (s.regF (rQsmRgn d g) 63 32 + 1)
  if s.regF (rQsmCtl d) 9 2 ≤ n ∧ s.regF (rQsmRgn d g) 0 0 = 0 then
    let s := s.setRegF (rQsmRgn d g) 0 0 1
    match railOf g with
    | some k => s.revote d k
    | none => s
  else s

/-- Guard events and restarts of a function's telemetry interval (18 R397). -/
def State.telemEvent (s : State) (f n : Nat) : State :=
  let t := Sparse.getD s.telem (0, 0, 0, 0, 0) f
  { s with telem := Sparse.put s.telem f (t.1, t.2.1 + 1, t.2.2.1 + n, t.2.2.2.1, t.2.2.2.2) }

/-- An event is applied on a die to regions `gs` (R288, R289): results of the regions whose deadline has not passed are
discarded, wales restart, staged commands are performed again, tag windows are squashed; it is counted and logged. -/
def State.applyEvent (s : State) (d : Fin 4) (cell : Fin 256) (ty : Fin 3) (inj blind : Bool) (gs : List Nat) : State :=
  let mask := s.cellMask d cell
  let cc := (s.die d).cc
  let onMask (s : State) (w : Wale) : Bool := match s.hoop? w.hoop with
    | some h => h.die == d && h.st == .resident && gs.contains h.region
    | none => false
  let s := ((s.wales.filter fun e => onMask s e.2).map (·.1)).foldl (fun (s : State) w => State.releaseDue w cc 2 s) s
  let s := gs.foldl (fun s g => State.sendDue d g cc 40 s) (s.endIntervals d)
  let back := (s.wales.filter fun e => onMask s e.2 && e.2.unreleased)
  let funcs := (back.map fun e => match s.hoop? e.2.hoop with | some h => s.skeinFunc h.skein | none => 0)
  let s0 := s
  let s : State := { s with
    wales := s.wales.map fun (e : Nat × Wale) => if onMask s0 e.2 then (e.1, e.2.struck s0.turn (s0.ccOf e.2)) else e }
  let s := s.redoAll ((s.cmds.filter fun e => e.2.hit d gs cc (s.window d)).map (·.1))
  let (s, wins) := gs.foldl (fun (a : State × Nat) g =>
    let (s, n) := a.1.squashTags d g
    (s, a.2 + n)) (s, 0)
  let s := gs.foldl (fun s g => s.countEvent d g) s
  let s := s.setReg (rQsmEvCnt d ty) (s.reg (rQsmEvCnt d ty) + 1)
  let s := s.qlogPut d (qlogRecord cc cell ty inj blind back.length wins mask)
  funcs.eraseDups.foldl (fun s f => s.telemEvent f (funcs.filter fun g => g == f).length) s

/-- GUARD_EVENT: the reported event that is applied first on the die reaches its apply cycle. -/
def execGuardEvent (d : Fin 4) (cell : Fin 256) (ty : Fin 3) (s : State) : Out :=
  .next (match firstReport d (s.die d).reports with
    | none => s
    | some r =>
      if !(r.cell == cell && r.ty == ty) || s.injectFirst d r then s
      else ((s.waitPast d (r.due d - 1)).updDie d fun x => { x with reports := x.reports.erase r }).applyEvent d cell ty false r.blind (regionsOf (s.cellMask d cell)))

/-! ### Receiving (R297, R298) -/

/-- The lane of a message: receiver, sender, control. -/
def LinkMsg.lane : LinkMsg → Fin 4 × Fin 4 × Bool
  | .flit dst f => (dst, f.src, false)
  | .clear dst src _ _ _ => (dst, src, true)
  | .squash dst src _ _ _ => (dst, src, true)
/-- A message is the next of its lane. -/
def State.nextOn (s : State) (m : LinkMsg) : Bool := (s.links.find? fun x => x.lane == m.lane) == some m
def State.dropMsg (s : State) (m : LinkMsg) : State := { s with links := s.links.erase m }

/-- A serial lies in a squashed range, modulo 2^12. -/
def SquashMark.holds (q : SquashMark) (f : Flit) : Bool :=
  q.src == f.src && q.rgn == f.rgn && decide ((f.ser - q.first).toNat < (q.next - q.first).toNat)
/-- Flits of a window in staging. -/
def Die.count (x : Die) (f : Flit) : Nat := (x.flits.filter fun g => g.src == f.src && g.rgn == f.rgn && g.ser == f.ser).length
/-- Waiting CLEARs whose flits have all come. -/
def Die.metClears (x : Die) : List (Flit × Nat) := x.clears.filter fun e => decide (e.2 ≤ x.count e.1)
/-- A flit belongs to the window of another. -/
def Flit.sameWin (f g : Flit) : Bool := f.src == g.src && f.rgn == g.rgn && f.ser == g.ser
/-- Cleared data enters the consumer at the present cycle of die `d`: an engine's source as if it were read now; a reuse update as
staged by the unit of die `d` now (R298, 10 R245). -/
def Cmd.arrived (c : Cmd) (d : Fin 4) (cc : Nat) : Cmd :=
  if !c.stage.held then c
  else if c.cls ≠ 2 then c.guardAt c.die c.engineRegion cc
  else if d = c.die then c else c.guardAt d 60 cc
/-- Waiting CLEARs of die `d` whose flits have all come release them to their consumers. -/
def State.applyClears (s : State) (d : Fin 4) : State :=
  let x := s.die d
  let ok := x.metClears
  let out := x.flits.filter fun g => ok.any fun e => e.1.sameWin g
  let ids := out.map fun f => f.cmd
  let s := s.updDie d fun x => { x with
    clears := x.clears.filter fun e => !decide (e.2 ≤ x.count e.1)
    flits := x.flits.filter fun g => !ok.any fun e => e.1.sameWin g }
  { s with
    cmds := s.cmds.map fun (e : Nat × Cmd) => if ids.contains e.1 then (e.1, e.2.arrived d x.cc) else e }

/-- Of two serials of a region, the second is at or after the first, modulo 2^12. -/
def serLater (a b : BitVec 12) : Bool := decide ((b - a).toNat < 2048)
/-- A flit of serial `ser` has arrived: ranges that end at or before it are marked no longer (R297). -/
def Die.sawFlit (x : Die) (f : Flit) : Die :=
  { x with squashes := x.squashes.filter fun q => !(q.src == f.src && q.rgn == f.rgn && serLater q.next f.ser) }
/-- `n` later windows of a region have been seen; after 32 a range is marked no longer (R297). -/
def Die.sawWins (x : Die) (src : Fin 4) (g n : Nat) (ser : BitVec 12) : Die :=
  { x with squashes := (x.squashes.map fun q =>
      if q.src = src ∧ q.rgn = g ∧ serLater q.next ser then { q with seen := q.seen + n } else q).filter fun q => decide (q.seen < 32) }

/-- TAGGED_FLIT_RECEIVE: the next flit of a command on its data lane is held, or dropped when its range is squashed. A tag
with RGN 63 or a reserved bit is a link error (R294). -/
def execTaggedFlitReceive (d : Fin 4) (c : Nat) (tag : BitVec 24) (s : State) : Out :=
  .next (
    let f : Flit :=
      { src := (tag.extractLsb' 18 2).toFin, rgn := (tag.extractLsb' 12 6).toNat, ser := tag.extractLsb' 0 12, cmd := c }
    if tag.extractLsb' 20 4 ≠ 0 ∨ f.rgn = 63 then s.fatalError 2 d
    else
      let m : LinkMsg := .flit d f
      let x := s.die d
      if !s.nextOn m || !s.linkUp d f.src || decide (16384 ≤ (x.flits.filter fun g => g.src == f.src).length) then s
      else
        let s := s.dropMsg m
        if x.squashes.any fun q => q.holds f then s
        else
          let s := s.updDie d fun x =>
            let y : Die := { x with flits := x.flits ++ [f] }
            y.sawFlit f
          s.applyClears d)

/-- CLEAR_RECEIVE: the flits of the window are released once all have come. -/
def execClearReceive (d src : Fin 4) (g : Fin 63) (ser : BitVec 12) (count : Nat) (s : State) : Out :=
  .next (
    let m : LinkMsg := .clear d src g ser count
    if !s.nextOn m || !s.linkUp d src then s
    else
      let s := (s.dropMsg m).updDie d fun x =>
        let y : Die := { x with clears := x.clears ++ [({ src := src, rgn := g, ser := ser, cmd := 0 }, count)] }
        y.sawWins src g 1 ser
      s.applyClears d)

/-- Flits that a squashed range discards, and the commands that depended on them. -/
def State.squashAt (s : State) (d : Fin 4) (q : SquashMark) : State :=
  let x := s.die d
  let lost := (x.flits.filter fun f => q.holds f).map (fun f => f.cmd)
    ++ s.links.filterMap fun m => match m with
      | .flit dst f => if dst == d && q.holds f then some f.cmd else none
      | _ => none
  let s := s.updDie d fun x =>
    let y : Die := x.sawWins q.src q.rgn (q.next - q.first).toNat q.first
    { y with
      flits := y.flits.filter fun f => !q.holds f
      clears := y.clears.filter fun e => !q.holds e.1
      squashes := y.squashes ++ [q] }
  s.redoAll ((s.cmds.filter fun e => lost.contains e.1 && e.2.stage.held).map (·.1))
/-- SQUASH_RECEIVE. -/
def execSquashReceive (d src : Fin 4) (g : Fin 63) (first nxt : BitVec 12) (s : State) : Out :=
  .next (
    let m : LinkMsg := .squash d src g first nxt
    if !s.nextOn m || !s.linkUp d src then s
    else (s.dropMsg m).squashAt d { src := src, rgn := g, first := first, next := nxt })

/-! ### Storm intervals (R303) -/

/-- STORM_INTERVAL_END: the interval's cycles are over. -/
def execStormIntervalEnd (d : Fin 4) (s : State) : Out :=
  .next (
    let next := (s.die d).stormStart + s.stormLen d
    if (s.die d).cc < next then s else s.intervalEnd d next)

/-! ### Self test (R305) -/

/-- Regions in the mask of a blind cell are blind and fenced (R299, R304). -/
def State.blindRegions (s : State) (d : Fin 4) (gs : List Nat) : State :=
  gs.foldl (fun s g => (s.setRegF (rQsmRgn d g) 2 2 1).fence d g) s
/-- A cell becomes blind for a type: it reports one event with the blind flag, and the regions in its mask are fenced. -/
def State.goBlind (s : State) (d : Fin 4) (e : Fin 256 × Fin 3) : State :=
  if (s.die d).blind.contains e then s
  else
    let s := (s.updDie d fun x => { x with blind := x.blind ++ [e], reports := addReport x.cc x.reports e.1 e.2 true }).setRegF
      (rQsmStatus d) 2 2 1
    s.blindRegions d (regionsOf (s.cellMask d e.1))
/-- A failure that leaves the cell in service is logged; the record's form for it is the model's (log entry 29). -/
def State.logPartial (s : State) (d : Fin 4) (e : Fin 256 × Fin 3) : State :=
  s.qlogPut d (qlogRecord (s.die d).cc e.1 e.2 false false 0 0 0)
def execSensorSelfTest (d : Fin 4) (blind partial_ : List (Fin 256 × Fin 3)) (s : State) : Out :=
  .next (blind.foldl (fun s e => s.goBlind d e) (partial_.foldl (fun s e => s.logPartial d e) s))

/-! ### Registers (R299, R301, R303) -/

/-- A write of QSM_WINDOW: a region or tag window that has closed keeps the Q in force then (R292, R295). -/
def execQsmWindowWrite (d : Fin 4) (x : BitVec 64) (s : State) : Out :=
  .next (
    let q := getFld x 9 0
    if q < 80 ∨ 512 < q then s.setRegF (rQsmStatus d) 0 0 1
    else
      let was := s.window d
      let s := s.updDie d fun x => { x with tags := x.tags.map fun e => (e.1, e.2.closeOld x.cc was) }
      let here (w : Wale) : Bool := match s.hoop? w.hoop with | some h => h.die == d && w.curClosed | none => false
      let s : State := { s with
        wales := s.wales.map fun (e : Nat × Wale) => if here e.2 then (e.1, { e.2 with cur := e.2.cur.close was }) else e }
      s.setRegF (rQsmWindow d) 9 0 q)
/-- Regions that stand in the mask of no blind cell any more are blind no longer (R299). -/
def State.unblind (s : State) (d : Fin 4) : State :=
  (List.range 63).foldl (fun (s : State) g =>
    if s.regF (rQsmRgn d g) 2 2 = 1 ∧ ((s.die d).blind.any fun e => (s.cellMask d e.1).getLsbD g) = false then
      s.setRegF (rQsmRgn d g) 2 2 0 else s) s
/-- A write of a cell entry: no fused bit is cleared; a region put into the mask of a blind cell is blind and fenced. -/
def State.cellWrite (s : State) (d : Fin 4) (c : Fin 256) (x : BitVec 64) : State :=
  let s := s.setReg (rQsmCell d c) (x &&& BitVec.ofNat 64 (2 ^ 63 - 1))
  let s := s.unblind d
  if (s.die d).blind.any fun e => e.1 == c then
    s.blindRegions d ((regionsOf (s.cellMask d c)).filter fun g => s.regF (rQsmRgn d g) 2 2 == 0)
  else s
/-- A write of QSM_CTL; a change of STORMWIN ends the storm interval. -/
def execQsmCtlWrite (d : Fin 4) (x : BitVec 64) (s : State) : Out :=
  .next (
    let s := s.endIntervals d
    let was := s.regF (rQsmCtl d) 31 16
    let s := s.setRegF (rQsmCtl d) 1 0 (getFld x 1 0)
    let s := if getFld x 9 2 = 0 then s else s.setRegF (rQsmCtl d) 9 2 (getFld x 9 2)
    let s := if getFld x 31 16 = 0 then s else s.setRegF (rQsmCtl d) 31 16 (getFld x 31 16)
    if s.regF (rQsmCtl d) 31 16 = was then s else s.intervalEnd d ((s.die d).cc + 1))

/-- A write of QSM_INJECT: ignored whole while INJEN is 0 or with TYPE 3. -/
def State.injectWrite (s : State) (d : Fin 4) (x : BitVec 64) : State :=
  if s.regF (rQsmCtl d) 0 0 = 0 ∨ getFld x 1 0 = 3 then s
  else
    (s.setRegF (rQsmInject d) 31 0 (getFld x 31 0)).updDie d fun y =>
      { y with injArmed := getFld x 11 11 == 1, injStart := y.cc }
def execQsmInjectArm (d : Fin 4) (x : BitVec 64) (s : State) : Out :=
  .next (if getFld x 11 11 = 1 ∧ !s.recovering then s.injectWrite d x else s)
def execQsmInjectDisarm (d : Fin 4) (x : BitVec 64) (s : State) : Out :=
  .next (if getFld x 11 11 = 0 ∧ !s.recovering then s.injectWrite d x else s)

/-- INJECTION_FIRE: the event of the chosen cell is applied once, at its cycle; in RELEASE mode it affects no region when the cell's
mask does not have RGN. -/
def execInjectionFire (d : Fin 4) (s : State) : Out :=
  .next (match s.injectAt d with
    | none => s
    | some n =>
      let r := s.reg (rQsmInject d)
      let s := s.updDie d fun x => { x with injArmed := false, cc := max x.cc n }
      let s := (s.setRegF (rQsmInject d) 11 11 0).setRegF (rQsmStatus d) 3 3 1
      let cell := Fin.ofNat 256 (getFld r 9 2)
      let mask := s.cellMask d cell
      s.applyEvent d cell (Fin.ofNat 3 (getFld r 1 0)) true false
        (if getFld r 10 10 = 1 ∧ mask.getLsbD (getFld r 17 12) = false then [] else regionsOf mask))

end Sys2Proof.Machine
end

