-- ==== Sys2Proof/Machine/MemSystem.lean ====
section
/-! DEFINITION. The memory system's events: coherence within and across dies, peers, gated caches, keys, translation
invalidation, die-scratchpad windows, bandwidth and HBM modes (14 R309 to R328, 16 R362, R364). -/

namespace Sys2Proof.Machine

/-! ### Coherence (R311 to R314) -/

/-- The notifications of a die with every injection that has come; where none has been injected and some are asked for, the cycle
passes in which the next is. -/
def Die.injected (x : Die) : Die :=
  let y := x.grantAll
  if y.notes.isEmpty then
    match (List.range 8).filterMap y.nextGrant with
    | t :: ts => Die.grantAll { y with cc := max y.cc (ts.foldl min t + 1) }
    | [] => y
  else y
/-- NOTIFICATION_DELIVERY: the oldest notification of a die reaches every agent 20 cc after its injection, which acts on the snoop in
die order; the home counts a move of ownership. A write-back has done its work at its injection. What waited for it is tried again. -/
def execNotificationDelivery (d : Fin 4) (s : State) : Out :=
  .next (
    let x := (s.die d).injected
    match x.notes with
    | [] => s
    | n :: ns =>
      let s := s.setDie d { x with notes := ns, cc := max x.cc (n.at_ + 20) }
      match n.kind with
      | .read => s.takeRead d n
      | .own => ((s.takeOwn d n).countMove n.core n.line).retryAllDue
      | .back => s)
/-- The cycle in which a notification is due on a die has come. -/
def State.noteDue (s : State) (d : Fin 4) : Bool :=
  match (s.die d).grantAll.notes with
  | n :: _ => decide (n.at_ + 20 ≤ (s.die d).cc)
  | [] => false
/-- HOT_LINE_COOL: no atomic has gone to the line for the cooling time. -/
def execHotLineCool (d : Fin 4) (line : Nat) (s : State) : Out :=
  .next (s.updDie d fun x => { x with
    hot := x.hot.filter fun h => !(h.line == line && h.hot && decide (h.last + s.regF (rHotTh d) 31 16 * 1024 ≤ x.cc)) })

/-! ### Gated caches (R316) -/

/-- L1_GATE: a core that has had no resident wale for 65,536 cc writes back its dirty lines and gates its L1. -/
def execL1Gate (d : Fin 4) (a : Fin 96) (s : State) : Out :=
  .next (
    let core := 96 * d.val + a.val
    let busy := s.hoops.any fun e => e.2.die == d && e.2.st == .resident && 12 * e.2.cluster.val + e.2.coreNo.val == a.val
    let x := s.die d
    if busy || x.l1gated.contains a || decide (x.cc < Sparse.getD x.coreIdle 0 a.val + 65536) then s
    else
      let mine (e : Nat × L1St) : Bool := l1At (fun c _ => c == core) e
      let s := (x.l1.filter fun e => mine e && e.2 == .m).foldl
        (fun (s : State) e => s.clean d core (e.1 % 2 ^ 52) ((s.recorded (e.1 % 2 ^ 52)).getD 0) 0) s
      s.updDie d fun x => { x with l1gated := x.l1gated ++ [a], l1 := x.l1.filter fun e => !mine e })
/-- WAYGATE_WRITE: bit 0 is never set; groups newly gated are written back while BUSY. -/
def execWaygateWrite (d : Fin 4) (x : BitVec 64) (s : State) : Out :=
  .next (
    let was := s.regF (rWayGate d) 5 0
    let g := getFld x 5 1 * 2
    let s := s.setRegF (rWayGate d) 5 0 g
    if g &&& was = g then s else s.setRegF (rWayGate d) 6 6 1)
/-- WAY_GATING_DONE: every line in a gated way has been written back and invalidated. -/
def execWayGatingDone (d : Fin 4) (s : State) : Out :=
  .next (
    if s.regF (rWayGate d) 6 6 = 0 then s
    else
      let g := s.reg (rWayGate d)
      (s.updDie d fun x => { x with l2 := x.l2.filter fun e => !g.getLsbD (e.2.way / 4) }).setRegF (rWayGate d) 6 6 0)

/-! ### Peers (R315, 16 R362, R364) -/

/-- The line lies in the page. -/
def inPage (page line : Nat) : Bool := linePa line / 8192 == page
/-- Copies of a page's lines leave every cache of the device. -/
def State.dropPage (s : State) (page : Nat) : State :=
  { s with
    icache := s.icache.filter fun e => e.1 % 2 ^ 46 / 8192 != page
    dies := vmap (fun (x : Die) => { x with
      l1 := x.l1.filter fun e => !l1At (fun _ k => inPage page k) e
      l2 := x.l2.filter fun e => !inPage page e.1
      dir := x.dir.filter fun e => !inPage page e.1 }) s.dies }
/-- Copies of a page's lines become shared, dirty data written back. -/
def State.sharePage (s : State) (page : Nat) : State :=
  { s with dies := vmap (fun (x : Die) => { x with
      l1 := x.l1.map fun e => if l1At (fun _ k => inPage page k) e then (e.1, .s) else e
      dir := x.dir.map fun e => if inPage page e.1 then (e.1, { e.2 with owner := none }) else e }) s.dies }
/-- A page that is no longer granted: what waited for it goes on. -/
def State.ungrant (s : State) (page : Nat) : State :=
  ({ s with grants := Sparse.del s.grants page }).retryAllDue.wakeAll
/-- The dirty lines of a page, each under the key of its last write. -/
def State.dirtyLines (s : State) (page : Nat) : List (Nat × BitVec 512) :=
  (s.lines.filter fun e => e.1 / 128 == page).map fun e =>
    (e.1, BitVec.ofNat 512 (natLE (s.physRead e.2.key (64 * e.1) 64)))

/-- REVOKE: as home, the page's grants are called back; as grantee of a peer's page, every line is recalled and the dirty ones
are returned, so that what the page holds next is the peer's to say. -/
def execRevoke (page : Nat) (s : State) : Out :=
  .next (
    if isPeer (8192 * page) then
      { (s.dropPage page) with
        mem := s.mem.filter fun e => e.1 / 8192 != page
        lines := s.lines.filter fun e => e.1 / 128 != page
        peerGrants := Sparse.del s.peerGrants page
        peerOut := s.peerOut ++ [.release (8192 * page / 2 ^ 40 % 16) page (s.dirtyLines page)]
        peerEpochs := Sparse.put s.peerEpochs page (Sparse.getD s.peerEpochs 0 page + 1) }
    else s.callBack page)
/-- GRANT_RELEASE: the home applies the returned lines, then the station holds the page no longer. -/
def execGrantRelease (page : Nat) (station : BitVec 10) (lines : List (Nat × BitVec 512)) (s : State) : Out :=
  .next (match Sparse.find? s.grants page with
    | none => s
    | some g =>
      if !g.stations.contains station then s
      else
        let s := (lines.filter fun l => decide (l.1 / 128 = page)).foldl (fun s l =>
          (s.physWrite (Config.peerKey page).toNat (64 * l.1) (bytesLE 64 l.2.toNat)).unpublish .other (64 * l.1)) s
        let left := g.stations.filter fun t => t != station
        if left.isEmpty then s.ungrant page
        else { s with grants := Sparse.put s.grants page { g with stations := left } })
/-- GRANT_TIMEOUT: a grantee that does not answer leaves the page poisoned; the hypervisor is told. -/
def execGrantTimeout (page : Nat) (s : State) : Out :=
  .next (match Sparse.find? s.grants page with
    | none => s
    | some g =>
      if !g.revoking then s
      else (({ s with poisoned := s.poisoned ++ [page] }).ungrant page).hvEvent (8192 * page) 0x14 0 0 0)

/-- The request may be served under the page's grants, which are made on demand: shared for a read, exclusive for a write. -/
def grantFor (g : Option Grant) (station : BitVec 10) (wr : Bool) : Option Grant :=
  match g with
  | none => some { stations := [station], excl := wr, revoking := false }
  | some g =>
    if g.revoking then none
    else if g.stations == [station] then some { g with excl := g.excl || wr }
    else if wr || g.excl then none
    else if g.stations.contains station then some g
    else some { g with stations := g.stations ++ [station] }
/-- The home's own copies of a page that it grants: none is left under an exclusive grant, none is dirty under a shared one. -/
def State.yieldPage (s : State) (page : Nat) (excl : Bool) : State := if excl then s.dropPage page else s.sharePage page

/-- PEER_REQUEST: performed at its home under a grant of the page; where other devices hold it, the home first revokes. -/
def execPeerRequest (station : BitVec 10) (pa : Nat) (req : PeerReq) (s : State) : Out :=
  .next (
    let page := pa / 8192
    let line := pa / 64 * 64
    let key := (Config.peerKey page).toNat
    let wr : Bool := match req with | .read => false | _ => true
    if !(isNear pa || isFar pa) || s.poisoned.contains page || s.homeOff (s.homeDie pa) then s
    else match grantFor (Sparse.find? s.grants page) station wr with
      | none => s.callBack page
      | some g =>
        let s := { s.yieldPage page g.excl with grants := Sparse.put s.grants page g }
        match req with
        | .read => { s with peerReply := s.physRead key line 64 }
        | .write d => (s.physWrite key line (bytesLE 64 d.toNat)).unpublish .other line
        | .atomic aop u wide x y =>
          let n := if wide then 8 else 4
          let a := pa / n * n
          let old := s.physRead key a n
          let new := aopStep aop.val u n (natLE old) (x, y)
          { (s.physWrite key a (bytesLE n new)).unpublish .other a with peerReply := old })

/-- SIGADD: added to the signal that the entry names, when the entry is valid and names the sender; else dropped. -/
def execSigadd (station : BitVec 10) (n : Fin 256) (x : BitVec 32) (s : State) : Out :=
  .next (
    let r := s.reg (rPeerSig n)
    let f := getFld r 23 16
    if getFld r 63 63 = 0 ∨ getFld r 9 0 ≠ station.toNat ∨ s.sigCount f ≤ getFld r 35 24 then s
    else s.sigOp (Fin.ofNat 4 (getFld r 37 36)) (s.sigBase f + getFld r 35 24) true x)

/-! ### Keys (R320) -/

/-- A write of MEM_KEYRET: GO starts the retirement, from when every new request under the key raises PERM; it is ignored for key 0 and
while BUSY. -/
def execKeyRetire (d : Fin 4) (x : BitVec 64) (s : State) : Out :=
  .next (
    let k := getFld x 11 0
    let s := if getFld x 14 14 = 1 then s.setRegF (rKeyRet d) 14 14 0 else s
    let s := s.setRegF (rKeyRet d) 11 0 k
    if getFld x 12 12 = 0 ∨ k = 0 ∨ (s.die d).keyRet.isSome then s
    else
      let s := (s.setRegF (rKeyRet d) 13 13 1).updDie d fun y => { y with keyRet := some k }
      { s with retired := if s.retired.contains k then s.retired else s.retired ++ [k] })
/-- A staged write under a key. -/
def Acc.underKey (k : Nat) (a : Acc) : Bool := match a.loc with | .glob _ _ key _ _ _ => key == k | _ => false
/-- A line bears a key. -/
def hasKey (k l : Nat) : Bool := l / 2 ^ 40 == k
/-- KEY_RETIRE_DONE: writes under the key that have cleared are performed, those that have not are discarded and their commands start
again; every line of the key leaves every cache, its directory entries are dropped, and requests for it that are under way lapse; the key is
erased, so that its lines read as unrelated data. A store that a wale issued before GO is performed when it is released (log entry 104). -/
def execKeyRetireDone (d : Fin 4) (s : State) : Out :=
  .next (match (s.die d).keyRet with
    | none => s
    | some k =>
      let mine (e : Nat × Cmd) : Bool := e.2.staged.writes.any (Acc.underKey k)
      let s := (s.cmds.filter fun e => e.2.stage == .sourced && mine e).foldl (fun (s : State) e => s.landWrites e.1 e.2) s
      let s := s.redoAll ((s.cmds.filter fun e => e.2.stage.held && mine e).map (·.1))
      let s := ((s.setRegF (rKeyRet d) 13 13 0).setRegF (rKeyRet d) 14 14 1).updDie d fun y => { y with keyRet := none }
      { s with
        icache := s.icache.filter fun e => e.2.key != k
        lines := s.lines.map fun e => if e.2.key = k then (e.1, { e.2 with key := 4096 + k }) else e
        dies := vmap (fun (x : Die) => { x with
          l1 := x.l1.filter fun e => !l1At (fun _ l => hasKey k l) e
          l2 := x.l2.filter fun e => !hasKey k e.1
          dir := x.dir.filter fun e => !hasKey k e.1
          notes := x.notes.filter fun n => !hasKey k n.line
          asks := x.asks.filter fun n => !hasKey k n.line
          hot := x.hot.filter fun h => !hasKey k h.line }) s.dies })

/-! ### Translation invalidation (R325) -/

/-- A write of MEM_TLBINV_CTL: GO is ignored while BUSY and for a FUNC above 128; the invalidation is of the VA that stands then. -/
def execTlbInvalidate (d : Fin 4) (x : BitVec 64) (s : State) : Out :=
  .next (
    if s.recovering then s else
    let s := if getFld x 12 12 = 1 then s.setRegF (rTlbCtl d) 12 12 0 else s
    let s := s.setRegF (rTlbCtl d) 9 0 (getFld x 9 0)
    if getFld x 10 10 = 0 ∨ 128 < getFld x 7 0 ∨ (s.die d).tlbInv.isSome then s
    else (s.setRegF (rTlbCtl d) 11 11 1).updDie d fun y => { y with
      tlbInv := some (getFld x 7 0, getFld x 9 8, s.regF (rTlbVa d) 52 0) })
/-- An address of the function lies in the range of an invalidation. -/
def inInv (size va a : Nat) : Bool := size == 3 || a / 2 ^ (13 + 10 * size) == va / 2 ^ (13 + 10 * size)
/-- An effect translated under a dropped entry. -/
def inRange (f size va : Nat) (l : Loc) : Bool :=
  match l with
  | .glob _ a _ g _ _ => g == f && inInv size va a
  | _ => false
/-- An effect was translated under the entry's page. -/
def TlbE.holds (e : TlbE) (l : Loc) : Bool := match l with
  | .glob _ a _ g _ _ => e.func == g && e.page == a / 2 ^ e.size
  | _ => false
/-- A TLB entry that an invalidation drops: its page and the range share an address. -/
def TlbE.dropped (e : TlbE) (f size va : Nat) : Bool :=
  e.func == f && (inInv size va (e.page * 2 ^ e.size) || e.page == va / 2 ^ e.size)
/-- A poisoned page is unmapped when the tables of no function map it and no TLB holds an entry that does (R315; log entry 97). -/
def State.unmapped (s : State) (left : List TlbE) (page : Nat) : Bool :=
  !(List.range 129).any (fun f => (s.leafFor f (leafMaps page)).isSome) && !left.any fun e => leafMaps page e.pte e.size
/-- TLB_INVALIDATE_DONE: when every effect translated under a dropped entry, whatever its page's size, has been performed or
discarded. -/
def execTlbInvalidateDone (d : Fin 4) (s : State) : Out :=
  .next (match (s.die d).tlbInv with
    | none => s
    | some (f, size, va) =>
      let all := (List.finRange 4).flatMap fun e => (s.die e).tlb
      let gone := all.filter fun e => e.dropped f size va
      let left := all.filter fun e => !e.dropped f size va
      let hit (l : Loc) : Bool := inRange f size va l || gone.any fun e => e.holds l
      let held := s.wales.any (fun e => e.2.heldAll.any fun h => h.locs.any hit)
        || s.owed.any fun o => match o with | .held _ _ _ _ _ _ h => h.locs.any hit | .fe _ _ => false
      let staged := s.cmds.any fun e => e.2.staged.writes.any fun a => hit a.loc
      if held ∨ staged then s
      else
        let s : State := { s with
          dies := vmap (fun (x : Die) => { x with tlb := x.tlb.filter fun e => !e.dropped f size va }) s.dies
          poisoned := s.poisoned.filter fun p => !s.unmapped left p }
        ((s.setRegF (rTlbCtl d) 11 11 0).setRegF (rTlbCtl d) 12 12 1).updDie d fun y => { y with tlbInv := none })

/-! ### Die-scratchpad windows (R310) -/

/-- The write of a window would be refused. -/
def State.dscRefused (s : State) (d : Fin 4) (p : Fin 32) (x : BitVec 64) : Bool :=
  let b := getFld x 7 0
  let n := getFld x 15 8
  let resident := s.hoops.any fun e =>
    e.2.die == d && e.2.st == .resident && s.partOf (s.skeinFunc e.2.skein) == p.val
  let clash (q : Nat) : Bool :=
    let r := s.reg (rDscWin d q)
    q != p.val && getFld r 16 16 == 1 && getFld r 15 8 != 0
    && decide (b < getFld r 7 0 + getFld r 15 8) && decide (getFld r 7 0 < b + n)
  resident || (getFld x 16 16 == 1 && (
    (n != 0 && decide (b < 0x40) && decide (0x36 < b + n))
    || decide ((if Config.stacked d then 128 else 64) < b + n)
    || (n != 0 && (List.range 32).any clash)))
def execDscWinWrite (d : Fin 4) (p : Fin 32) (x : BitVec 64) (s : State) : Out :=
  .next (
    if s.recovering then s
    else if s.dscRefused d p x then s.setRegF (rDscWin d p) 31 31 1
    else
      let was := s.regF (rDscWin d p) 16 16
      let s := (s.setRegF (rDscWin d p) 16 0 (getFld x 16 0)).setRegF (rDscWin d p) 31 31 0
      if was = 0 ∧ getFld x 16 16 = 1 then s.setRegF (rDscWin d p) 17 17 1 else s)
/-- WINDOW_ZEROING_DONE (R310): the range that BASE and SIZE name at its end reads as zero (log entry 105, DESIGN CHOICE). -/
def execWindowZeroingDone (d : Fin 4) (p : Fin 32) (s : State) : Out :=
  .next (
    let r := s.reg (rDscWin d p)
    if getFld r 17 17 = 0 then s
    else
      let lo := getFld r 7 0 * 2 ^ 20
      let hi := lo + getFld r 15 8 * 2 ^ 20
      (s.updDie d fun x => { x with dsc := x.dsc.filter fun e => decide (e.1 < lo) || decide (hi ≤ e.1) }).setRegF
        (rDscWin d p) 17 17 0)

/-! ### Bandwidth and HBM modes (R327, R328) -/

def execBwshareWrite (d : Fin 4) (f : Fin 129) (x : BitVec 64) (s : State) : Out :=
  .next (
    let sum := (List.range 129).foldl (fun n g => n + if g = f.val then getFld x 7 0 else s.regF (rBwShare d g) 7 0) 0
    if s.recovering ∨ 256 < sum then s else s.setRegF (rBwShare d f) 7 0 (getFld x 7 0))

/-- Entry threshold of a mode in units of 0.0625 C. -/
def hbmEntry (m : Nat) : Int := match m with | 1 => 1360 | 2 => 1520 | _ => 1680
def hbmCapf (m : Nat) : Nat := match m with | 0 => 256 | 1 => 240 | 2 => 176 | _ => 96
/-- The mode after a temperature: up as soon as a threshold is passed, down 3 C below the mode's own. -/
def hbmMode (m : Nat) (t : Int) : Nat :=
  let up := if hbmEntry 3 < t then 3 else if hbmEntry 2 < t then 2 else if hbmEntry 1 < t then 1 else 0
  let down (m : Nat) : Nat := if m ≠ 0 ∧ t < hbmEntry m - 48 then m - 1 else m
  if m ≤ up then up else max up (down (down (down m)))
/-- HBM_MODE_CHANGE: a rise counts a breach, which is reported to the hypervisor (log entry 30). -/
def execHbmModeChange (d : Fin 4) (k : Fin 2) (temp : BitVec 16) (s : State) : Out :=
  .next (
    let m := s.regF (rHbmStat d k) 17 16
    let m' := hbmMode m temp.toInt
    let s := ((s.setRegF (rHbmStat d k) 15 0 temp.toNat).setRegF (rHbmStat d k) 17 16 m').setRegF (rHbmStat d k) 26 18 (hbmCapf m')
    if m' ≤ m then s
    else
      let n := s.regF (rBwBreach 0) 31 0 + 1
      let s := (((s.setRegF (rBwBreach 0) 31 0 n).setRegF (rBwBreach 0) 33 32 d).setRegF (rBwBreach 0) 34 34 k).setRegF
        (rBwBreach 0) 35 35 1
      s.hvEvent 0 0x13 0 0 0)

end Sys2Proof.Machine
end

