-- ==== Sys2Proof/Machine/Fabric.lean ====
section
/-! DEFINITION. Die links and the warm reset of one die (16 R354 to R361). -/

namespace Sys2Proof.Machine

/-! ### Links (R356) -/

def State.linkState (s : State) (k : Nat) : Nat := s.regF (rDlStat k) 2 0
def State.setLink (s : State) (k st : Nat) : State := s.setRegF (rDlStat k) 2 0 st
/-- FLIT_CRC_RETRY: the adapter retries the flit; RETRIES counts it and wraps. -/
def execFlitCrcRetry (k : Fin 6) (s : State) : Out :=
  .next (s.setRegF (rDlStat k) 63 32 (s.regF (rDlStat k) 63 32 + 1))
/-- PROTOCOL_ERROR: a fatal device error of cause 2. -/
def execProtocolError (_ : Fin 6) (d : Fin 4) (s : State) : Out := .next (s.fatalError 2 d)
/-- An ACTIVE link retrains; its lanes are held meanwhile. -/
def State.retrainLink (s : State) (k : Nat) : State := if s.linkState k = 2 then s.setLink k 3 else s
def execLinkRetrain (k : Fin 6) (s : State) : Out := .next (s.retrainLink k)
def execRetryThreshold (k : Fin 6) (s : State) : Out := .next (s.retrainLink k)
/-- LANE_FAILURE: a redundant lane replaces the failed one, which REPAIRS counts, or the link retrains; which of them is the
implementation's to say (log entry 31). -/
def execLaneFailure (k : Fin 6) (s : State) : Out :=
  .next (
    let (repaired, s) := s.choose
    if repaired then s.setRegF (rDlStat k) 23 16 (s.regF (rDlStat k) 23 16 + 1) else s.retrainLink k)
/-- TRAINING_TIMEOUT: the link goes DOWN, a fatal device error of cause 3; DIE is the lower die of the link (log entry 31). -/
def execTrainingTimeout (k : Fin 6) (s : State) : Out :=
  .next (if s.linkState k = 1 ∨ s.linkState k = 3 then (s.setLink k 0).fatalError 3 (linkDies k).1 else s)
/-- TRAINING_COMPLETE: a link that trains at a rate no lower than MINRATE, on at least one module, is ACTIVE. A link that is
DOWN since reset trains too (log entry 31). -/
def execTrainingComplete (k : Fin 6) (rate : Fin 3) (mods : Fin 5) (s : State) : Out :=
  .next (
    let st := s.linkState k
    if (st ≠ 0 ∧ st ≠ 1 ∧ st ≠ 3) ∨ s.regF (rDlCtl k) 25 24 < rate.val ∨ mods = 0 ∨ s.fatal then s
    else (((s.setLink k 2).setRegF (rDlStat k) 4 3 rate).setRegF (rDlStat k) 10 8 mods).retryAllDue.wakeAll)

/-! ### RW fields of the blocks of a die (13 R299, 14 R310 to R328, 17 R391, R392) -/

/-- Bits `[hi:lo]`. -/
def bitsOf (hi lo : Nat) : Nat := 2 ^ (hi + 1) - 2 ^ lo
/-- The RW bits of the register at offset `o` of the register space of die `d`. -/
def dieRw (d o : Nat) : BitVec 64 :=
  BitVec.ofNat 64 (
    if o % 8 ≠ 0 then 0
    else if o = 0x8 then bitsOf 9 0
    else if o = 0x10 then bitsOf 9 0 + bitsOf 31 16
    else if o = 0x20 then bitsOf 31 0
    else if 0x800 ≤ o ∧ o < 0x1000 then bitsOf 62 0
    else if 0x10100 ≤ o ∧ o < 0x10200 then bitsOf 16 0
    else if o = 0x20000 then bitsOf 31 0
    else if o = 0x20008 then bitsOf 5 0
    else if 0x20100 ≤ o ∧ o < 0x20100 + 8 * 129 then bitsOf 23 0
    else if o = 0x30040 then bitsOf 11 0
    else if o = 0x30048 then bitsOf 52 0
    else if o = 0x30050 then bitsOf 9 0
    else if 0x30200 ≤ o ∧ o < 0x30200 + 8 * 129 then bitsOf 0 0 + bitsOf 45 13
    else if 0x30800 ≤ o ∧ o < 0x30800 + 8 * 129 then bitsOf 7 0
    else if o = 0x40000 then bitsOf 3 0 + bitsOf 15 8
    else if o = 0x40008 then bitsOf 4 0 + bitsOf 15 8
    else if 0x40040 ≤ o ∧ o < 0x40080 then bitsOf 8 0 + bitsOf 23 16
    else if 0x40080 ≤ o ∧ o < 0x400C0 then bitsOf 1 0
    else if 0x40100 ≤ o ∧ o < 0x40120 then bitsOf 23 16
    else if 0x40200 ≤ o ∧ o < 0x40230 then bitsOf 63 0
    else if d = 0 ∧ (0x40400 ≤ o ∧ o < 0x40500 ∨ o = 0x40600) then bitsOf 11 0
    else if o = 0x50008 then bitsOf 31 0
    else if 0x50300 ≤ o ∧ o < 0x50500 then bitsOf 15 0
    else 0)

/-! ### Warm reset (R360, R361) -/

/-- A field of FW_DIERST is set. -/
def State.rstF (s : State) (hi lo x : Nat) : State := s.setRegF rDieRst hi lo x
/-- A register of the blocks of die `d`. -/
def inDie (d : Fin 4) (key : Nat) : Bool := decide (dieBase d ≤ key) && decide (key < dieBase d + 0x400000)
/-- Units with a resident member on a die. -/
def State.unitsOn (s : State) (d : Fin 4) : List (Nat × Nat) :=
  s.units.filter fun u => (s.unitHoops u.1 u.2).any fun e => e.2.die == d && e.2.st == .resident
def State.setPhase (s : State) (p : Nat) : State :=
  { (s.rstF 10 8 p) with warm := s.warm.map fun r => { r with phase := p } }

/-- The units with a resident member on a die are ended with their baskets, STATUS 0x22, no fault report; ENDED counts the
baskets. -/
def State.endUnits (s : State) (d : Fin 4) : State :=
  let bs := ((s.unitsOn d).filterMap fun u => (s.skein? u.1).map fun k => k.basket).eraseDups
  bs.foldl (fun s b => s.endBasket b 0x22 false none) (s.rstF 47 32 (s.regF rDieRst 47 32 + bs.length))
/-- DIE_RESET_GO: a write of FW_DIERST. GO starts QUIESCE: DIEUP bit d is cleared (21 R409), admission to d closes, and
every unit with a member on d is to be pre-empted; QTIME 0 ends them all at once (R361). -/
def State.dieRstWrite (s : State) (x : BitVec 64) : State :=
  let s := (s.rstF 1 0 (getFld x 1 0)).rstF 31 16 (getFld x 31 16)
  let s := if getFld x 12 12 = 1 then s.rstF 12 12 0 else s
  let d : Fin 4 := Fin.ofNat 4 (getFld x 1 0)
  if getFld x 2 2 = 0 ∨ s.warm.isSome ∨ s.fatal then s
  else if d = 0 then s.rstF 13 13 1
  else
    let s := (((s.rstF 13 13 0).rstF 11 11 1).rstF 47 32 0).rstF 10 8 1
    let s : State := { s with
      warm := some { die := d, phase := 1, saved := s.regs.filter fun e => inDie d e.1 }
      dieUp := s.dieUp &&& ~~~(BitVec.twoPow 4 d.val) }
    if getFld x 31 16 = 0 then s.endUnits d else s.requestAll (s.unitsOn d)
def execDieResetGo (x : BitVec 64) (s : State) : Out := .next (if s.recovering then s else s.dieRstWrite x)

/-- QUIESCE_TIMEOUT: a unit that has not been saved is ended. -/
def execQuiesceTimeout (s : State) : Out :=
  .next (match s.warm with
    | none => s
    | some r =>
      if r.phase ≠ 1 ∨ s.fatal then s else s.endUnits r.die)

/-- What die `e` does when die `d` goes past its home-off point: it drops every copy of lines homed on `d`, the flits and
messages that `d` sent, and the records of the windows that it sent to `d`; `d` itself is left no copy of lines homed elsewhere. -/
def Die.without (home : Nat → Fin 4) (d : Fin 4) (x : Die) : Die :=
  { x with
    l1 := x.l1.filter fun e => home (linePa (e.1 % 2 ^ 52)) != d
    notes := x.notes.filter fun n => home (linePa n.line) != d
    asks := x.asks.filter fun n => home (linePa n.line) != d
    l2 := x.l2.filter fun e => home (linePa e.1) != d
    dir := x.dir.map fun e =>
      (e.1, { e.2 with owner := if e.2.owner == some d then none else e.2.owner,
                       sharers := e.2.sharers &&& ~~~(BitVec.twoPow 4 d.val) })
    flits := x.flits.filter fun f => f.src != d
    clears := x.clears.filter fun e => e.1.src != d
    squashes := x.squashes.filter fun q => q.src != d
    tags := x.tags.map fun e =>
      (e.1, { e.2 with wins := e.2.wins.map fun w => { w with counts := w.counts.filter fun c => c.1 != d } }) }

/-- FLUSH: the home-off point, once no member of a unit is left on the die. Commands whose operands have crossed from it and not
cleared, and those that have staged an update of a reuse entry there, are performed again (13 R298, 10 R254). -/
def execFlush (s : State) : Out :=
  .next (match s.warm with
    | none => s
    | some r =>
      let d := r.die
      if r.phase ≠ 1 ∨ s.fatal ∨ !(s.unitsOn d).isEmpty then s
      else
        let lost := ((List.finRange 4).flatMap fun e => ((s.die e).flits.filter fun f => f.src == d).map fun f => f.cmd)
          ++ s.links.filterMap fun m => match m with
            | .flit _ f => if f.src == d then some f.cmd else none
            | _ => none
        let home := s.homeDie
        let s := s.setPhase 2
        let s : State := { s with
          dies := vmap (Die.without home d) s.dies
          links := s.links.filter fun m => m.lane.1 != d && m.lane.2.1 != d
          icache := s.icache.filter fun e => home (e.1 % 2 ^ 46) != d }
        let gone (e : Nat × Cmd) : Bool :=
          e.2.stage.held && (lost.contains e.1 || ((cmdReuse e.2.ops).isSome && (s.entryOf e.2).2 == d))
        let s := s.redoAll ((s.cmds.filter gone).map (·.1))
        s.updDie d fun x => { x with l1 := [], l2 := [], dir := [], notes := [], asks := [], tags := x.tags.map fun e => (e.1, { e.2 with wins := [] }) })

/-- A reuse entry after a warm reset of its die (02 R48). -/
def ReuseEntry.warm (e : ReuseEntry) : ReuseEntry :=
  { e with valid := false, count := 0, sver := e.sver + 1, r := [], abar := [] }
/-- A die after a warm reset: its cycle count, signals and mailbox messages are kept (R361; log entry 32). -/
def Die.warm (x : Die) (armed : Bool) : Die :=
  { Die.reset with
    cc := x.cc, signals := x.signals, mbox := x.mbox, coreIdle := x.coreIdle
    reuse := (List.range 256).map fun n => (n, (Sparse.getD x.reuse ReuseEntry.reset n).warm)
    stormStart := x.cc, injArmed := armed, injStart := x.injStart }
/-- The value of a register after the warm reset of its die: RW fields as at GO, the rest at reset. -/
def warmReg (d : Fin 4) (saved : Sparse (BitVec 64)) (key : Nat) : BitVec 64 :=
  let m := dieRw d (key - dieBase d)
  (Sparse.getD saved (regReset key) key &&& m) ||| (regReset key &&& ~~~m)
/-- A rail stands at VIDLE after a reset. -/
def State.idleRail (s : State) (d : Fin 4) (k : Nat) : State :=
  let v := s.regF (rRail d k) 23 16
  (s.setRegF (rRail d k) 7 0 v).setRegF (rRail d k) 15 8 v

/-- RESET: the die is reset; its memory is kept. -/
def execDieReset (s : State) : Out :=
  .next (match s.warm with
    | none => s
    | some r =>
      let d := r.die
      if r.phase ≠ 2 ∨ s.fatal then s
      else
        let s := s.setPhase 3
        let s := (List.finRange 6).foldl (fun (s : State) (k : Fin 6) =>
          if (linkDies k).1 = d ∨ (linkDies k).2 = d then s.setLink k 4 else s) s
        let kept := s.regs.map fun e => if inDie d e.1 then (e.1, warmReg d r.saved e.1) else e
        let s : State := { s with regs := kept, icache := s.icache.filter fun e => e.1 / 2 ^ 46 / 96 != d.val }
        let s := (List.range 4).foldl (fun s k => s.idleRail d k) s
        s.updDie d fun x =>
          let y := x.warm (getFld (s.reg (rQsmInject d)) 11 11 == 1)
          { y with tokens := List.replicate (s.regF (rTokens d) 3 0) ⟨0, false, x.cc⟩ })

/-- RETRAIN: the die's three links train. -/
def execRetrain (s : State) : Out :=
  .next (match s.warm with
    | none => s
    | some r =>
      if r.phase ≠ 3 ∨ s.fatal then s
      else (List.finRange 6).foldl (fun (s : State) (k : Fin 6) =>
        if ((linkDies k).1 = r.die ∨ (linkDies k).2 = r.die) ∧ s.linkState k = 4 then s.setLink k 1 else s) (s.setPhase 4))

/-- READMIT, once the die's links are ACTIVE (21 R409): DIEUP and EPOCH, then the effects held for the die, then DONE and
the record of kind 0x12. -/
def execReadmit (s : State) : Out :=
  .next (match s.warm with
    | none => s
    | some r =>
      let d := r.die
      let up := (List.finRange 6).all fun (k : Fin 6) =>
        ((linkDies k).1 != d && (linkDies k).2 != d) || s.linkState k == 2
      if r.phase ≠ 4 ∨ s.fatal ∨ !up then s
      else
        let s : State := { s with
          warm := none
          dieUp := s.dieUp ||| BitVec.twoPow 4 d.val
          dieEpoch := vset s.dieEpoch d (vget s.dieEpoch d + 1) }
        let s := s.retryAllDue.wakeAll
        (((s.rstF 10 8 0).rstF 11 11 0).rstF 12 12 1).hvEvent 0 0x12 d.val 0 0)

end Sys2Proof.Machine
end

