-- ==== Sys2Proof/Machine/Float.lean ====
section
/-! DEFINITION. Floating-point and conversion instructions (06 R137 to R154). -/

namespace Sys2Proof.Machine

/-- The rounding mode of MOD (03 R64). -/
def rmOf {n : Nat} (m : BitVec n) : RM := RM.ofCode (fld m 1 0)
/-- A numeric result as a register value. -/
def fw32 (r : FRes Nat) : FRes Word := r.map (BitVec.ofNat 32)

/-- One and two operand FP32 functions on register values. -/
def fp1 (f : Fmt → RM → Nat → FRes Nat) (rm : RM) (a : Word) : FRes Word := fw32 (f fp32 rm a.toNat)
def fp2 (f : Fmt → RM → Nat → Nat → FRes Nat) (rm : RM) (a b : Word) : FRes Word := fw32 (f fp32 rm a.toNat b.toNat)

/-! ### Arithmetic (R141 to R145) -/

def execFadd (o : ROps) (s : State) : Out := issueReg (.fadd o) s fun x => x.r2 o (fp2 fAdd (rmOf o.mod))
def execFaddI (o : IOps) (s : State) : Out := issueReg (.faddI o) s fun x => x.i2 o (fp2 fAdd (rmOf o.mod))
def execFsub (o : ROps) (s : State) : Out := issueReg (.fsub o) s fun x => x.r2 o (fp2 fSub (rmOf o.mod))
def execFsubI (o : IOps) (s : State) : Out := issueReg (.fsubI o) s fun x => x.i2 o (fp2 fSub (rmOf o.mod))
def execFmul (o : ROps) (s : State) : Out := issueReg (.fmul o) s fun x => x.r2 o (fp2 fMul (rmOf o.mod))
def execFmulI (o : IOps) (s : State) : Out := issueReg (.fmulI o) s fun x => x.i2 o (fp2 fMul (rmOf o.mod))
def execFdiv (o : ROps) (s : State) : Out := issueReg (.fdiv o) s fun x => x.r2 o (fp2 fDiv (rmOf o.mod))
def execFdivI (o : IOps) (s : State) : Out := issueReg (.fdivI o) s fun x => x.i2 o (fp2 fDiv (rmOf o.mod))
/-- One rounding of a x b + c (R142). -/
def fmaWord (rm : RM) (np nc : Bool) (a b c : Word) : FRes Word := fw32 (fFma fp32 rm np nc a.toNat b.toNat c.toNat)
def execFma (o : ROps) (s : State) : Out :=
  issueReg (.fma o) s fun x => x.r3 o (fmaWord (rmOf o.mod) (mbit o.mod 2) (mbit o.mod 3))
/-- minimumNumber and maximumNumber (R143). -/
def fminWord (a b : Word) : FRes Word := fw32 (fMinMax fp32 false a.toNat b.toNat)
def fmaxWord (a b : Word) : FRes Word := fw32 (fMinMax fp32 true a.toNat b.toNat)
def execFmin (o : ROps) (s : State) : Out := issueReg (.fmin o) s fun x => x.r2 o fminWord
def execFminI (o : IOps) (s : State) : Out := issueReg (.fminI o) s fun x => x.i2 o fminWord
def execFmax (o : ROps) (s : State) : Out := issueReg (.fmax o) s fun x => x.r2 o fmaxWord
def execFmaxI (o : IOps) (s : State) : Out := issueReg (.fmaxI o) s fun x => x.i2 o fmaxWord
def execFcmp (o : ROps) (s : State) : Out :=
  issueReg (.fcmp o) s fun x =>
    x.outP o.d fun i => fCmp fp32 (fld o.mod 2 0) (x.src o.a i).toNat (x.src o.b i).toNat
def execFcmpI (o : IOps) (s : State) : Out :=
  issueReg (.fcmpI o) s fun x => x.outP o.d fun i => fCmp fp32 (fld o.mod 2 0) (x.src o.a i).toNat o.imm.toNat
def execFclass (o : ROps) (s : State) : Out :=
  issueReg (.fclass o) s fun x => x.r1 o fun a => .pure (BitVec.ofNat 32 (fClass a.toNat))

/-! ### Correctly rounded functions (R146, R147) -/

def execFrcp (o : ROps) (s : State) : Out := issueReg (.frcp o) s fun x => x.r1 o (fp1 fRcp (rmOf o.mod))
def execFsqrt (o : ROps) (s : State) : Out := issueReg (.fsqrt o) s fun x => x.r1 o (fp1 fSqrt (rmOf o.mod))
def execFrsq (o : ROps) (s : State) : Out := issueReg (.frsq o) s fun x => x.r1 o (fp1 fRsq (rmOf o.mod))
def execFpow2 (o : ROps) (s : State) : Out := issueReg (.fpow2 o) s fun x => x.r1 o (fp1 fPow2 (rmOf o.mod))
def execFlog2 (o : ROps) (s : State) : Out := issueReg (.flog2 o) s fun x => x.r1 o (fp1 fLog2 (rmOf o.mod))
def execFrnd (o : ROps) (s : State) : Out := issueReg (.frnd o) s fun x => x.r1 o (fp1 fRnd (rmOf o.mod))

/-! ### Packed half-width arithmetic (R148, R149) -/

/-- The 16-bit format that BF selects. -/
def halfFmt {n : Nat} (m : BitVec n) : Fmt := if mbit m 2 then bf16 else fp16
/-- Element `e` of a packed register. -/
def half (x : Word) (e : Nat) : Nat := fld x (16 * e + 15) (16 * e)
/-- Both elements, each rounded once; their flags are ORed. -/
def packed (f : Nat → FRes Nat) : FRes Word :=
  ⟨BitVec.ofNat 32 ((f 0).val + (f 1).val * 2 ^ 16), (f 0).fl ||| (f 1).fl⟩
def hadd2Word (g : Fmt) (rm : RM) (a b : Word) : FRes Word := packed fun e => fAdd g rm (half a e) (half b e)
def hmul2Word (g : Fmt) (rm : RM) (a b : Word) : FRes Word := packed fun e => fMul g rm (half a e) (half b e)
def hfma2Word (g : Fmt) (rm : RM) (a b c : Word) : FRes Word :=
  packed fun e => fFma g rm false false (half a e) (half b e) (half c e)
/-- The two-term dot product with an FP32 accumulator (R149). -/
def fdp2Word (g : Fmt) (rm : RM) (a b c : Word) : FRes Word :=
  let p (e : Nat) : FV := (unpack g (half a e)).mul (unpack g (half b e))
  fw32 (addTerms fp32 rm [p 0, p 1, unpack fp32 c.toNat])
def execHadd2 (o : ROps) (s : State) : Out :=
  issueReg (.hadd2 o) s fun x => x.r2 o (hadd2Word (halfFmt o.mod) (rmOf o.mod))
def execHmul2 (o : ROps) (s : State) : Out :=
  issueReg (.hmul2 o) s fun x => x.r2 o (hmul2Word (halfFmt o.mod) (rmOf o.mod))
def execHfma2 (o : ROps) (s : State) : Out :=
  issueReg (.hfma2 o) s fun x => x.r3 o (hfma2Word (halfFmt o.mod) (rmOf o.mod))
def execFdp2 (o : ROps) (s : State) : Out :=
  issueReg (.fdp2 o) s fun x => x.r3 o (fdp2Word (halfFmt o.mod) (rmOf o.mod))

/-! ### Scalar conversion (R150) -/

/-- Convert the selected element of `a` and place it in `d`. -/
def cvtWord (m : BitVec 16) (a d : Word) : FRes Word :=
  let sf := fld m 5 2
  let df := fld m 9 6
  let w := fmtWidth sf
  let v := fmtWidth df
  let y := convert (a.toNat / 2 ^ (w * fld m 11 10) % 2 ^ w) sf df (rmOf m)
  let k := v * fld m 13 12
  let msk : Word := BitVec.ofNat 32 ((2 ^ v - 1) * 2 ^ k)
  ⟨(d &&& ~~~msk) ||| BitVec.ofNat 32 (y.val * 2 ^ k), y.fl⟩
def execCvt (o : ROps) (s : State) : Out :=
  issueReg (.cvt o) s fun x => x.out o.d fun i => cvtWord o.mod (x.src o.a i) (x.src o.d i)

/-! ### Block conversion (R152, R153) -/

/-- The block that `cvtb` forms: strands that are not visited contribute +0.0. -/
def cvtbBlock (x : Ctx) (o : ROps) : Block :=
  let b := bfpBits (fld o.mod 3 0)
  let sh := if fld o.mod 7 4 = 0 then b else fld o.mod 7 4
  formBlock ((List.finRange 32).map fun i =>
    if x.vis.getLsbD i.val then unpack fp32 (x.src o.a i).toNat else .fin false 0 0) b sh
def execCvtb (o : ROps) (s : State) : Out :=
  issueReg (.cvtb o) s fun x =>
    let k := cvtbBlock x o
    match o.d with
    | .v n =>
      .ok { writes := [.v n x.vis (Vector.ofFn fun i =>
              BitVec.ofNat 32 (k.elems.getD i.val 0 + k.e0 * 2 ^ 16 + k.e1 * 2 ^ 24))],
            flags := if x.vis = 0 then 0 else k.fl }
    | _ => .ok {}
/-- One element expanded exactly to FP32 (R153). -/
def cvtbxWord (b : Nat) (a e : Word) : Word :=
  BitVec.ofNat 32 (roundFV fp32 .rne (bfpValue b (a.toNat % 2 ^ (b + 2)) (fld e 7 0) (fld e 15 8))).val
def execCvtbx (o : ROps) (s : State) : Out :=
  issueReg (.cvtbx o) s fun x =>
    x.out o.d fun i =>
      let a := x.src o.a i
      .pure (cvtbxWord (bfpBits (fld o.mod 3 0)) a (if o.b = .none then a >>> 16 else x.src o.b i))

end Sys2Proof.Machine
end

