-- ==== Sys2Proof/Machine/Power.lean ====
section
/-! DEFINITION. Operating classes, rails, power tokens, allotments and thermal protection (17 R377 to R392). -/

namespace Sys2Proof.Machine

/-! ### RATIO (R378, R380, R386, R388, R389) -/

/-- Target RATIO of a cluster's class. -/
def State.targetRatio (s : State) (d : Fin 4) (c : Fin 8) : Nat :=
  match s.regF (rClust d c) 1 0 with
  | 0 => 12
  | 3 => s.regF (rHoldPt d) 4 0
  | _ => 16
/-- Partition of a cluster. -/
def State.clusterPart (s : State) (d : Fin 4) (c : Fin 8) : Nat := vget s.partMap (Fin.ofNat 32 (8 * d.val + c.val))
/-- RATIO under the throttles in force: 4 with no valid sensor on the die. -/
def State.ratioOf (s : State) (d : Fin 4) (c : Fin 8) : Nat :=
  let p := s.clusterPart d c
  if (s.die d).noSensor then 4
  else max 4 (s.targetRatio d c - (if p < 32 then s.regF (rMeter p) 19 16 else 0) - vget (s.die d).thmSteps c)
/-- RATIO of a cluster is set: it rises only when the rail has reached the cluster's vote (R380). -/
def State.setRatio (s : State) (d : Fin 4) (c : Fin 8) : State :=
  let r := s.ratioOf d c
  if s.regF (rClust d c) 7 3 < r ∧ s.regF (rRail d (c.val / 2)) 7 0 < s.regF (rClust d c) 15 8 then s
  else s.setRegF (rClust d c) 7 3 r
/-- A RATIO that falls is set before any voltage step (R380). -/
def State.lowerRatio (s : State) (d : Fin 4) (c : Fin 8) : State :=
  if s.ratioOf d c < s.regF (rClust d c) 7 3 then s.setRegF (rClust d c) 7 3 (s.ratioOf d c) else s
def State.lowerRatios (s : State) (d : Fin 4) : State := (List.finRange 8).foldl (fun s c => State.lowerRatio s d c) s
def State.setRatios (s : State) (d : Fin 4) : State := (List.finRange 8).foldl (fun s c => State.setRatio s d c) s

/-! ### Classes (R379) -/

/-- Votes of a rail formed again at a change that is no withdrawal: no hold starts. -/
def State.revoteFree (s : State) (d : Fin 4) (k : Nat) : State :=
  let held := s.regF (rRail d k) 24 24
  let s := s.revote d k
  if held = 0 then s.setRegF (rRail d k) 24 24 0 else s
/-- A class takes effect in a cluster; a vote for an admission that waits is formed again. -/
def State.applyClass (s : State) (d : Fin 4) (c : Fin 8) (cls : Nat) : State :=
  let s := (s.setRegF (rClust d c) 1 0 cls).setRegF (rClust d c) 2 2 0
  ((s.updDie d fun x => { x with classPend := Sparse.del x.classPend c.val }).revoteFree d (c.val / 2)).setRatio d c
/-- CLASS_WRITE: pending while the cluster holds resident wales. -/
def execClassWrite (d : Fin 4) (c : Fin 8) (x : BitVec 64) (s : State) : Out :=
  .next (
    let cls := getFld x 1 0
    if s.recovering then s
    else if s.clusterWales d c = 0 then s.applyClass d c cls
    else (s.setRegF (rClust d c) 2 2 1).updDie d fun y => { y with classPend := Sparse.put y.classPend c.val (Fin.ofNat 4 cls) })
/-- CLASS_CHANGE_APPLY: the last resident wale has left. -/
def execClassChangeApply (d : Fin 4) (c : Fin 8) (s : State) : Out :=
  .next (match Sparse.find? (s.die d).classPend c.val with
    | some cls => if s.clusterWales d c = 0 then s.applyClass d c cls.val else s
    | none => s)

/-! ### Rails (R381, R382) -/

/-- RAIL_STEP: one code toward the target; none down while the hold runs. -/
def execRailStep (d k : Fin 4) (s : State) : Out :=
  .next (
    let v := s.regF (rRail d k) 7 0
    let t := s.regF (rRail d k) 15 8
    let v' := if v < t then v + 1 else if t < v ∧ s.regF (rRail d k) 24 24 = 0 then v - 1 else v
    ((s.setRegF (rRail d k) 7 0 v').setRatio d (Fin.ofNat 8 (2 * k.val))).setRatio d (Fin.ofNat 8 (2 * k.val + 1)))
/-- RAIL_HOLD_EXPIRY: the 10 µs are over. -/
def execRailHoldExpiry (d k : Fin 4) (s : State) : Out := .next (s.setRegF (rRail d k) 24 24 0)
def State.revoteDie (s : State) (d : Fin 4) : State := (List.range 4).foldl (fun s k => s.revoteFree d k) s

/-! ### Tokens (R383) -/

/-- Unheld tokens at cluster 0 are retired while there are more than COUNT. -/
def retireTokens (count : Nat) : Nat → List PTok → List PTok
  | _, [] => []
  | n, t :: ts => if count < n ∧ t.at_ = 0 ∧ !t.held then retireTokens count (n - 1) ts else t :: retireTokens count n ts
/-- Tokens that have moved to the next cluster are taken where a burst is queued and none is held. -/
def takeTokens (want : Fin 8 → Bool) (cc : Nat) (moved : List (PTok × Bool)) : List PTok :=
  (moved.foldl (fun (a : List PTok × List PTok) m =>
    let t := m.1
    let has := (moved.any fun q => !q.2 && q.1.at_ == t.at_) || a.2.any fun q => q.at_ == t.at_
    if m.2 && want t.at_ && !has then
      let u : PTok := { t with held := true, since := cc }
      (a.1 ++ [u], a.2 ++ [u])
    else (a.1 ++ [t], a.2)) ([], [])).1
/-- TOKEN_HOP: tokens that no cluster keeps go on to the next cluster, in 4 cc. -/
def execTokenHop (d : Fin 4) (s : State) : Out :=
  .next (
    let x := s.die d
    let keeps (t : PTok) : Bool := t.held && (s.burstsOf d t.at_ true
      || (s.burstsOf d t.at_ false && decide (x.cc < t.since + s.holdLimit d t.at_)))
    let ts := retireTokens (s.regF (rTokens d) 3 0) x.tokens.length (x.tokens.map fun t => { t with held := keeps t })
    let moved := ts.map fun t => if t.held then (t, false) else ({ t with at_ := t.at_ + 1 }, true)
    let want (c : Fin 8) : Bool := s.cmds.any fun e => e.2.die == d && e.2.cluster == c && e.2.cls == 2 && e.2.isBurst && e.2.stage == .queued
    s.setDie d { x with cc := x.cc + 4, tokens := takeTokens want (x.cc + 4) moved })
/-- TOKEN_HOLD_LIMIT: the cluster starts no new burst, and passes its token when no burst runs. -/
def execTokenHoldLimit (d : Fin 4) (c : Fin 8) (s : State) : Out :=
  .next (match (s.die d).tokens.find? fun t => t.at_ == c && t.held with
    | none => s
    | some t =>
      let s := s.updDie d fun x => { x with cc := max x.cc (t.since + s.holdLimit d c) }
      if s.burstsOf d c true then s else s.updDie d fun x => x.passToken c)
/-- PWR_TOKENS_WRITE (R391): new tokens enter at cluster 0. -/
def execPwrTokensWrite (d : Fin 4) (x : BitVec 64) (s : State) : Out :=
  .next (
    if s.recovering then s else
    let n := getFld x 3 0
    let h := getFld x 15 8
    let s := if n = 0 ∨ 8 < n then s else s.setRegF (rTokens d) 3 0 n
    let s := if h = 0 then s else s.setRegF (rTokens d) 15 8 h
    s.updDie d fun y => { y with
      tokens := y.tokens ++ List.replicate (s.regF (rTokens d) 3 0 - y.tokens.length) ⟨0, false, y.cc⟩ })

/-! ### Allotments (R385, R386) -/

/-- Clusters of a partition. -/
def State.clustersOf (s : State) (p : Nat) : List (Fin 4 × Fin 8) :=
  (List.finRange 4).flatMap fun d => ((List.finRange 8).filter fun c => s.clusterPart d c == p).map fun c => (d, c)
/-- ALLOTMENT_THROTTLE: the throttle of `p` after a millisecond at `avg` watts in which `mj` mJ were used. The bound of THR is
that of the partition's fastest cluster (log entry 33). -/
def execAllotmentThrottle (p : Fin 32) (avg : BitVec 16) (mj : BitVec 64) (s : State) : Out :=
  .next (
    let w := s.regF (rAllot p) 11 0
    let thr := s.regF (rMeter p) 19 16
    let top := (s.clustersOf p).foldl (fun n e => max n (s.targetRatio e.1 e.2 - 4)) 0
    let thr' := if w < avg.toNat then min (thr + 1) top else if 100 * avg.toNat < 95 * w then thr - 1 else thr
    let s := ((s.setRegF (rMeter p) 15 0 avg.toNat).setRegF (rMeter p) 19 16 thr').setReg (rEj p) (s.reg (rEj p) + mj)
    let s := (s.clustersOf p).foldl (fun (s : State) e => s.setRatio e.1 e.2) s
    let above := decide (w < avg.toNat) && (s.clustersOf p).all fun e => s.regF (rClust e.1 e.2) 7 3 == 4
    let s := s.setRegF (rMeter p) 20 20 (if above then 1 else 0)
    if above then s.setRegF (rMeter p) 63 32 (s.regF (rMeter p) 63 32 + 1) else s)
/-- PWR_ALLOT_WRITE: refused when the sum would exceed PWR_BUDGET. -/
def execPwrAllotWrite (p : Fin 32) (x : BitVec 64) (s : State) : Out :=
  .next (
    let sum := (List.range 32).foldl (fun n q => n + if q = p.val then getFld x 11 0 else s.regF (rAllot q) 11 0) 0
    if s.recovering ∨ s.regF rBudget 11 0 < sum then s else s.setRegF (rAllot p) 11 0 (getFld x 11 0))

/-! ### Temperature (R388, R389) -/

/-- A signed temperature in units of 0.0625 C. -/
def State.tempAt (s : State) (key : Nat) : Int := ((s.reg key).setWidth 16).toInt
/-- The hottest valid sensor among `ns`; the lowest on a tie. -/
def State.hottest (s : State) (d : Fin 4) (ns : List Nat) : Option Nat :=
  match ns.filter fun n => s.regF (rThmSens d n) 16 16 == 1 with
  | [] => none
  | x :: xs => some (xs.foldl (fun m n => if s.tempAt (rThmSens d m) < s.tempAt (rThmSens d n) then n else m) x)
def sensorsOf (c : Nat) : List Nat := (List.range 8).map fun i => 8 * c + i
/-- Temperature of a cluster. -/
def State.clusterTemp (s : State) (d : Fin 4) (c : Fin 8) : Int :=
  match s.hottest d (sensorsOf c) with
  | some n => s.tempAt (rThmSens d n)
  | none =>
    match s.hottest d (sensorsOf (4 * (c.val / 2) + 1 - c.val)) with
    | some n => s.tempAt (rThmSens d n)
    | none => s.tempAt (rThmMax d)
/-- Bin of a temperature. -/
def binOf (t : Int) : Nat := min 15 ((t - 640) / 80).toNat
/-- The bin after a temperature: up at once, down only 1 C below the bin's lower bound. -/
def binAfter (b : Nat) (t : Int) : Nat :=
  if b ≤ binOf t then binOf t else if t ≤ 640 + 80 * (b : Int) - 16 then binOf t else b
/-- One sensor's reading, with its correction. -/
def State.sense (s : State) (d : Fin 4) (n : Nat) (raw : BitVec 16) (ok : Bool) : State :=
  let s := s.setRegF (rThmSens d n) 15 0 (raw + (s.reg (rThmCal d n)).setWidth 16).toNat
  s.setRegF (rThmSens d n) 16 16 (if ok then 1 else 0)
/-- THERMAL_SENSOR_UPDATE: readings in the order of the sensors; THM_MAX keeps its value when none is valid (log entry 34). -/
def execThermalSensorUpdate (d : Fin 4) (raw : List (BitVec 16 × Bool)) (s : State) : Out :=
  .next (
    let s := ((raw.take 64).zipIdx).foldl (fun (s : State) e => s.sense d e.2 e.1.1 e.1.2) s
    let s := match s.hottest d (List.range 64) with
      | some n =>
        let s := (s.setRegF (rThmMax d) 15 0 (s.regF (rThmSens d n) 15 0)).setRegF (rThmMax d) 21 16 n
        s.updDie d fun x => { x with noSensor := false, bins := Vector.ofFn fun c => binAfter (vget x.bins c) (s.clusterTemp d c) }
      | none => s.updDie d fun x => { x with noSensor := true, bins := Vector.ofFn fun _ => 15 }
    ((s.lowerRatios d).revoteDie d).setRatios d)
/-- THERMAL_THROTTLE_STEP: RATIO of every cluster down by one above THROT, up by one from 2 C below it. -/
def execThermalThrottleStep (d : Fin 4) (s : State) : Out :=
  .next (
    let t := s.tempAt (rThmMax d)
    let throt := s.tempAt (rThmTrip d)
    if (s.die d).noSensor then s
    else if throt < t then
      let up : Vector Nat 8 := Vector.ofFn fun c => vget (s.die d).thmSteps c + (if 4 < s.ratioOf d c then 1 else 0)
      (s.updDie d fun x => { x with thmSteps := up }).setRatios d
    else if t ≤ throt - 32 then
      (s.updDie d fun x => { x with thmSteps := vmap (fun n => n - 1) x.thmSteps }).setRatios d
    else s)
/-- THERMAL_TRIP: THM_MAX has been above CRIT for 10 µs. -/
def execThermalTrip (d : Fin 4) (s : State) : Out :=
  .next (
    let crit := ((s.reg (rThmTrip d) >>> 16).setWidth 16).toInt
    if (s.die d).noSensor ∨ s.tempAt (rThmMax d) ≤ crit then s else s.fatalError 4 d)
/-- NO_VALID_SENSOR_TIMEOUT: no sensor of the die has been valid for 10 ms. -/
def execNoValidSensorTimeout (d : Fin 4) (s : State) : Out :=
  .next (if (s.die d).noSensor then s.fatalError 4 d else s)

end Sys2Proof.Machine
end

