-- ==== Sys2Proof/Machine/Virtual.lean ====
section
/-! DEFINITION. Function-level reset, world switch, partition change (16 R369 to R376). -/

namespace Sys2Proof.Machine

/-! ### Function-level reset (R369, R370, 15 R331) -/

/-- Ring positions from HEAD up to TAIL. -/
def ringSpan (n head tail : Nat) : List Nat := (List.range ((tail + n - head) % n)).map fun i => (head + i) % n
/-- Queue `q` is disabled; each launch that it exposed and that has not been taken is cancelled: completion word with STATUS
0x21. An entry that cannot be read yet is cancelled when it can. -/
def State.cancelQueue (f : Nat) (s : State) (q : Nat) : State :=
  let n := 2 ^ s.qLog f q
  let base := s.regF (rQBase f q) 52 6 * 64
  let one (s : State) (i : Nat) : State :=
    if s.feBusy f then s.owe f (.cancel (base + 64 * i))
    else match s.entryAt f q i with
    | .ok (bs, s) => (match cancelWord bs with
      | some cd => s.feTry f cd (completionWord 0x21 false)
      | none => s)
    | .error e => if e.waits then (s.failed e).owe f (.cancel (base + 64 * i)) else s.failed e
  let s := s.setRegF (rQCtl f q) 0 0 0
  if s.qHead f q = s.qTail f q then s else (ringSpan n (s.qHead f q) (s.qTail f q)).foldl one s
/-- The function's graph nodes are freed. -/
def State.freeNodes (s : State) (f : Nat) : State :=
  let lo := s.nodeBase f
  { s with nodes := s.nodes.filter fun e => decide (e.1 < lo) || decide (lo + s.nodeCount f ≤ e.1) }

/-- A flit that a purge removes counts no more, neither at its sender nor in a CLEAR (log entry 35). -/
def State.uncount (s : State) (e : Fin 4 × Flit) : State :=
  let (dst, f) := e
  let same (d : Fin 4) (g : Nat) (ser : BitVec 12) : Bool := d == f.src && g == f.rgn && ser == f.ser
  let win (w : TagWin) : TagWin :=
    if w.ser = f.ser then { w with counts := w.counts.map fun c => (c.1, if c.1 = dst then c.2 - 1 else c.2) } else w
  let rgn (t : Nat × TagRgn) : Nat × TagRgn := if t.1 = f.rgn then (t.1, { t.2 with wins := t.2.wins.map win }) else t
  let clr (c : Flit × Nat) : Flit × Nat := (c.1, if same c.1.src c.1.rgn c.1.ser then c.2 - 1 else c.2)
  let msg (m : LinkMsg) : LinkMsg := match m with
    | .clear d src g ser n => .clear d src g ser (if d = dst ∧ same src g ser then n - 1 else n)
    | _ => m
  let s := s.updDie f.src fun x => { x with tags := x.tags.map rgn }
  let s := s.updDie dst fun x => { x with clears := x.clears.map clr }
  { s.applyClears dst with links := s.links.map msg }
/-- The purge of the flits of commands `ids` from every link and from receive staging. -/
def State.purgeFlits (s : State) (ids : List Nat) : State :=
  let onLinks := s.links.filterMap fun m => match m with
    | .flit d f => if ids.contains f.cmd then some (d, f) else none
    | _ => none
  let held := (List.finRange 4).flatMap fun d => ((s.die d).flits.filter fun f => ids.contains f.cmd).map fun f => (d, f)
  let s : State := { s with
    links := s.links.filter fun m => match m with | .flit _ f => !ids.contains f.cmd | _ => true
    dies := vmap (fun (x : Die) => { x with flits := x.flits.filter fun f => !ids.contains f.cmd }) s.dies }
  (onLinks ++ held).foldl State.uncount s
/-- VALID cleared and the image zeroed in the entries of a function. -/
def State.clearReuse (s : State) (f : Nat) : State :=
  { s with dies := vmap (fun (x : Die) => { x with reuse := x.reuse.map fun e =>
      if e.2.vf = f then (e.1, { e.2 with valid := false, r := [], abar := [] }) else e }) s.dies }
/-- The function's signals are zeroed on every die. -/
def State.zeroSignals (s : State) (f : Nat) : State :=
  let lo := s.sigBase f
  { s with dies := vmap (fun (x : Die) => { x with
      signals := x.signals.filter fun e => decide (e.1 < lo) || decide (lo + s.sigCount f ≤ e.1) }) s.dies }
/-- The registers of a function's own BAR at reset, but VF_DROPCNT. -/
def State.resetBar (s : State) (f : Nat) : State :=
  { s with regs := s.regs.filter fun e =>
      !(e.1 / 2 ^ 26 == f && decide (e.1 % 2 ^ 26 < 0x10000)) || e.1 == rDropCnt f }

/-- CFE_WSCTL after a world switch has ended with a status. -/
def State.wsEnd (s : State) (status : Nat) : State :=
  { (s.setRegF rWsCtl 17 17 0).setRegF rWsCtl 31 24 status with wsOp := none }
def State.wsBusy (s : State) : Bool := s.wsOp.isSome
def State.wsAddr (s : State) : Nat := s.regF rWsImg 45 12 * 4096
def State.wsKey (s : State) : Nat := s.regF rWsImg 59 48
def State.reopen (s : State) (f : Nat) : State := { s with closed := s.closed.filter fun g => g != f }
/-- A world switch meets a function-level reset of its function that is in progress: STATUS 2, the check word zero (R376; log entry 110). -/
def State.wsAbort (s : State) (f : Nat) : State :=
  ((s.wsEnd 2).physWrite s.wsKey s.wsAddr (zeros 4)).reopen f

/-- The serialisation point of a function-level reset of `f`, with what follows at the front end: a world switch of `f` stops (R376; after a
fatal device error it reads BUSY on, 18 R402); the peers are told to purge their ends (R370). -/
def State.flrOne (s : State) (f : Nat) : State :=
  let s := if (s.wsOp.any fun o => o.1 == f) && !s.fatal then (s.wsEnd 2).reopen f else s
  let s := (List.range 64).foldl (State.cancelQueue f) s
  let s := s.freeNodes f
  let mine := s.baskets.filter fun e => e.2.func == f
  let ids := (s.cmds.filter fun e => mine.any fun b => b.1 == e.2.basket).map (·.1)
  let s := mine.foldl (fun s e => s.endBasket e.1 (if e.2.ctr = 0 then 0x21 else 0x22) false none) s
  let s := ((s.purgeFlits ids).clearReuse f).zeroSignals f
  let s : State := { s with
    ctxRuns := s.ctxRuns.filter fun r => r.1 != f
    pageReqs := s.pageReqs.filter fun r => r.func != f
    sigWaits := s.sigWaits.filter fun w => w.func != f
    peerOut := s.peerOut ++ [.purge Config.ownStation (s.partOf f)]
    dies := vmap (fun (x : Die) => { x with tlb := x.tlb.filter fun e => e.func != f }) s.dies }
  let s := (s.reopen f).resetBar f
  if s.flr.contains f then s else { s with flr := s.flr ++ [f] }

/-- FUNCTION_LEVEL_RESET: the reset takes effect; a second firing completes it, once every completion word is written, and notify writes
are accepted again (log entry 36). The PF's resets every VF, then the PF. -/
def execFunctionLevelReset (f : Fin 129) (s : State) : Out :=
  .next (
    if s.flr.contains f.val then
      if s.fatal ∨ s.feBusy f ∨ (f = 0 ∧ (List.range 129).any s.feBusy) then s else
      { s with flr := if f = 0 then [] else s.flr.filter fun g => g != f.val }
    else if f = 0 then
      ((List.range 128).foldl (fun s v => State.flrOne s (v + 1)) s).flrOne 0
    else s.flrOne f)
/-- PURGE: the peer device's requests of the named partition that this device has not accepted are removed. A request is
performed in the step in which it arrives, so none is left to remove (log entry 37). -/
def execPurge (_ : BitVec 10) (_ : BitVec 5) (s : State) : Out := .next s

/-! ### World image (R372) -/

/-- Registers of the image after the queues. -/
def worldRegs (f : Nat) : List Nat :=
  [rEvBase f, rEvPtr f, rCtxBase f, rCtxSize f, rHwin f, rFuncA f, rFuncB f, rFuncPart f]
/-- Queue registers of the image. -/
def worldQueues (f : Nat) : List Nat := (List.range 64).flatMap fun q => [rQBase f q, rQCtl f q, rQStat f q]
/-- Signal `i` of the image: die and entry. -/
def worldSignals (sb sc : Nat) : List (Fin 4 × Nat) := (List.finRange 4).flatMap fun d => (List.range sc).map fun i => (d, sb + i)
/-- Die and number of the reuse entries of a function. -/
def State.reuseOf (s : State) (f : Nat) : List (Fin 4 × Nat × Word) :=
  (List.finRange 4).flatMap fun d => ((s.die d).reuse.filter fun e => e.2.vf == f).map fun e => (d, e.1, e.2.version)
/-- The node and basket entries of world `name`: `n` of 64 bytes, from entry `k` on. -/
def worldEntries (name k n : Nat) : List Byte := (List.range (64 * n)).map fun i => Config.worldByte name (64 * k + i)
/-- The image behind the check word. -/
def State.worldBody (s : State) (f name : Nat) (msave : Bool) : List Byte :=
  let nb := (s.baskets.filter fun e => e.2.func == f).length
  let es := s.reuseOf f
  let rest :=
    (worldQueues f ++ worldRegs f).flatMap (fun r => bytesLE 8 (s.reg r).toNat)
    ++ (worldSignals (s.sigBase f) (s.sigCount f)).flatMap (fun e => bytesLE 4 (s.signal e.1 e.2).toNat)
    ++ worldEntries name 0 (s.nodeCount f) ++ worldEntries name (s.nodeCount f) nb
    ++ es.flatMap fun e => padTo 33856 (reuseImage (s.reuseEntry e.1 e.2.1))
  bytesLE 4 (256 + rest.length) ++ bytesLE 1 f ++ bytesLE 1 (if msave then 1 else 0) ++ bytesLE 2 nb ++ bytesLE 2 es.length
  ++ zeros 242 ++ rest
def State.worldImage (s : State) (f name : Nat) (msave : Bool) : List Byte :=
  let b := s.worldBody f name msave
  bytesLE 4 (xorWords b).toNat ++ b

/-- What leaves the machine with a saved world. -/
def State.takeWorld (s : State) (f name : Nat) : World :=
  let bs := s.baskets.filter fun e => e.2.func == f
  let ks := s.skeins.filter fun e => bs.any fun b => b.1 == e.2.basket
  let hs := s.hoops.filter fun e => ks.any fun k => k.1 == e.2.skein
  let lo := s.nodeBase f
  { name := name, func := f, baskets := bs, skeins := ks, hoops := hs
    wales := s.wales.filter fun e => hs.any fun h => h.1 == e.2.hoop
    nodes := s.nodes.filter fun e => decide (lo ≤ e.1) && decide (e.1 < lo + s.nodeCount f)
    entries := s.reuseOf f
    waits := s.sigWaits.filter fun v => v.func == f }
/-- The state without a saved world. -/
def State.dropWorld (s : State) (w : World) : State :=
  { s with
    baskets := s.baskets.filter fun e => !w.baskets.any fun b => b.1 == e.1
    skeins := s.skeins.filter fun e => !w.skeins.any fun b => b.1 == e.1
    hoops := s.hoops.filter fun e => !w.hoops.any fun b => b.1 == e.1
    wales := s.wales.filter fun e => !w.wales.any fun b => b.1 == e.1
    nodes := s.nodes.filter fun e => !w.nodes.any fun b => b.1 == e.1
    sigWaits := s.sigWaits.filter fun v => !w.waits.contains v
    worlds := s.worlds ++ [w] }

/-! ### SAVE and MSAVE (R372, R376) -/

/-- A valid CFE_PEERSIG entry names the signal (R364). -/
def State.isPeerSignal (s : State) (f : Nat) (d : Fin 4) (i : Nat) : Bool :=
  (List.range 256).any fun n =>
    let r := s.reg (rPeerSig n)
    getFld r 63 63 == 1 && getFld r 23 16 == f && getFld r 35 24 == i && getFld r 37 36 == d.val
/-- The head entry of queue `q` is a waiting signal wait, on a signal with the property: one that the front end has looked at, or one of a
restored world that it has not yet (R371, R372). -/
def State.headWaits (s : State) (f q : Nat) (on : Fin 4 → Nat → Bool) : Bool :=
  s.qWaiting f q && match s.sigWaits.find? fun w => w.func == f && w.queue == q with
    | some w => on w.die (w.idx - s.sigBase f)
    | none => (match s.entryAt f q (s.qHead f q) with
      | .ok (bs, _) => entF bs 0 1 == 2 && (match s.sigEntry f bs 1 3 with | some (d, i) => on d i | none => false)
      | .error _ => false)
/-- The resident units of a function. -/
def State.unitsOf (s : State) (f : Nat) : List (Nat × Nat) := s.units.filter fun u => s.skeinFunc u.1 == f

/-- A save in progress goes on: admission closes and pre-emption is requested; when nothing of `f` is resident the image is
written, and its entries are released. -/
def State.saveOn (s : State) (f op : Nat) : State :=
  if s.warm.isSome || s.fatal then s
  else if !s.closed.contains f then
    let s : State := { s with closed := s.closed ++ [f] }
    if op = 2 ∧ s.regF rWsCtl 10 10 = 0 ∧ (List.range 64).any fun q => s.headWaits f q (s.isPeerSignal f) then (s.wsEnd 1).reopen f
    else s.requestAll (s.unitsOf f)
  else if !(s.unitsOf f).isEmpty then s
  else
    let name := s.free
    let img := s.worldImage f name (op == 2)
    let w := s.takeWorld f name
    let s := State.physWriteRun (img.length / 64 + 2) { s with free := s.free + 1 } s.wsKey s.wsAddr img
    (((s.dropWorld w).wsEnd 0).hvEvent 0 0x11 0 0 0).reloadPlugin f
/-- A GO of CFE_WSCTL: FUNC and OP are recorded; a function that is not a VF gives STATUS 5; a function-level reset of it stops
the switch (R371, R376). -/
def State.wsStart (s : State) (f op : Nat) : State :=
  if s.fatal ∨ s.recovering then s
  else
    let s := (s.setRegF rWsCtl 7 0 f).setRegF rWsCtl 9 8 op
    if f = 0 ∨ 128 < f ∨ 2 < op then s.setRegF rWsCtl 31 24 5
    else if s.flr.contains f then s.wsAbort f
    else { s.setRegF rWsCtl 17 17 1 with wsOp := some (f, op) }
/-- The switch of `f` with this operation is in progress. -/
def State.wsIs (s : State) (f op : Nat) : Bool := s.wsOp == some (f, op)
def State.wsSaveStep (s : State) (f op : Nat) : State :=
  if s.wsIs f op then s.saveOn f op else if s.wsBusy then s else s.wsStart f op
/-- WS_SAVE: the GO, and then each further step of the save. -/
def execWsSave (f : Fin 129) (s : State) : Out := .next (s.wsSaveStep f 0)
/-- WS_MSAVE: likewise, for migration. -/
def execWsMsave (f : Fin 129) (s : State) : Out := .next (s.wsSaveStep f 2)

/-! ### RESTORE (R373) -/

/-- Two ranges, both non-empty, overlap. -/
def overlap (a m b n : Nat) : Bool := m != 0 && n != 0 && decide (a < b + n) && decide (b < a + m)
/-- A register value of the image. -/
def imgReg (img : List Byte) (o : Nat) : BitVec 64 := BitVec.ofNat 64 (at_ img o 8)
/-- Length of an image by its own counts. -/
def worldLen (sigs nodes nb ne : Nat) : Nat := 1856 + 16 * sigs + 64 * nodes + 64 * nb + 33856 * ne

/-- The ranges that a restore needs are not free. -/
def State.rangeBusy (s : State) (f : Nat) (a b : BitVec 64) (w : World) : Bool :=
  (List.range 129).any (fun g => g != f
    && (overlap (getFld a 47 32) (getFld a 16 0) (s.nodeBase g) (s.nodeCount g)
      || overlap (getFld b 14 0) (getFld b 28 16) (s.sigBase g) (s.sigCount g)))
  || s.nodes.any (fun e => decide (getFld a 47 32 ≤ e.1) && decide (e.1 < getFld a 47 32 + getFld a 16 0))
  || w.baskets.any (fun e => (Sparse.find? s.baskets e.1).isSome)
  || w.entries.any (fun e => s.baskets.any fun b => pkRsDie b.2.pkt == e.1
      && decide (pkRsBase b.2.pkt ≤ e.2.1) && decide (e.2.1 < pkRsBase b.2.pkt + pkRsCount b.2.pkt))

/-- Every item of the image is put back; a peer signal of a SAVE image keeps its live value. The context units of its hoop images, which
stay in the context area, are in use again. -/
def State.putWorld (s : State) (f : Nat) (img : List Byte) (w : World) : State :=
  let s := ((worldQueues f ++ worldRegs f).zipIdx).foldl (fun (s : State) e => s.setReg e.1 (imgReg img (256 + 8 * e.2))) s
  let sb := s.sigBase f
  let s := ((worldSignals sb (s.sigCount f)).zipIdx).foldl (fun (s : State) e =>
    if at_ img 9 1 = 0 ∧ s.isPeerSignal f e.1.1 (e.1.2 - sb) then s
    else s.setSignal e.1.1 e.1.2 (BitVec.ofNat 32 (at_ img (1856 + 4 * e.2) 4))) s
  let o := worldLen (s.sigCount f) (s.nodeCount f) (at_ img 10 2) 0
  let s := (w.entries.zipIdx).foldl (fun (s : State) e =>
    let bs := (img.drop (o + 33856 * e.2)).take (1088 + 32 * at_ img (o + 33856 * e.2 + 22) 2)
    match readImage f bs with
    | some x => s.setReuse e.1.1 e.1.2.1 { x with version := e.1.2.2 }
    | none => s) s
  let ins {β : Type} (m x : Sparse β) : Sparse β := x.foldl (fun m e => Sparse.put m e.1 e.2) m
  let runs := w.hoops.filterMap fun e => match e.2.st, Sparse.find? w.skeins e.2.skein with
    | .saved va, some k => some (f, va / 65536, ctxUnits (imageLen k.pkt))
    | _, _ => none
  { s with sigWaits := s.sigWaits.filter (fun v => v.func != f) ++ w.waits
           ctxRuns := s.ctxRuns ++ runs.filter fun r => !s.ctxRuns.contains r
           baskets := ins s.baskets w.baskets, skeins := ins s.skeins w.skeins, hoops := ins s.hoops w.hoops,
           wales := ins s.wales w.wales, nodes := ins s.nodes w.nodes }

/-- A saved skein of an image made elsewhere, with its saved hoops. -/
def State.importSkein (b : Nat) (s : State) (x : BitVec 512 × Nat × List Nat × List (Nat × Nat)) : State :=
  let (pkt, num, waiting, hs) := x
  let k := s.nextId
  let rim (i : Nat) : Nat := if pkHeld pkt then 0 else rimOf pkt i
  let here (i : Nat) : Bool := (hs.any fun h => h.1 == i) || waiting.contains (rimOf pkt i)
  let skein : Skein :=
    { basket := b, num := num, pkt := pkt, place := s.nextPlace, waiting := waiting
      saved := (hs.map fun h => rim h.1).eraseDups, preempt := []
      doneHoops := (List.range (pkHoops pkt)).filter fun i => !here i
      done := false, params := none }
  hs.foldl (fun (s : State) h =>
    let n := s.nextId
    let hoop : Hoop :=
      { skein := k, idx := h.1, die := 0, cluster := 0, coreNo := 0, st := .saved h.2, slots := [], tiles := [] }
    (List.range (pkWales pkt)).foldl (fun (s : State) i => { s with
        wales := Sparse.put s.wales s.nextId { Wale.start pkt n i 0 [] 0 0 with st := .saved }
        nextId := s.nextId + 1 })
      { s with hoops := Sparse.put s.hoops n hoop, nextId := n + 1 })
    { s with skeins := Sparse.put s.skeins k skein, nextId := k + 1, nextPlace := s.nextPlace + 1 }
/-- A basket of an image made elsewhere. -/
def State.importBasket (f : Nat) (ents : List Byte) (s : State) (j : Nat) : State :=
  let (n, q, pkt, ctr, next, ext) := Config.worldBasket ents j
  let recov : Option Recov := ext.map fun v =>
    { mul := vget v 0, shift := vget v 1, span := vget v 2, phoops := vget v 3, ownbm := vget v 4, prodbm := vget v 5, ready := [] }
  let x : Basket :=
    { func := f, queue := q, pkt := pkt, ctr := ctr, nextSkein := next, recov := recov, ran := true, moved := false }
  (Config.worldSkeins ents j).foldl (State.importSkein n) { s with baskets := Sparse.put s.baskets n x }
/-- The world that an image made elsewhere stands for: the layout of its entries is not given, and their content is free (log entry
22). With it, a state in which no number given to its units is used again. -/
def State.elsewhere (s : State) (f : Nat) (ents : List Byte) (base nodes nb ne : Nat) : World × State :=
  let t := (List.range nb).foldl (State.importBasket f ents)
    { s with baskets := [], skeins := [], hoops := [], wales := [], nodes := [] }
  let node (j : Nat) : Option (Nat × GNode) := (Config.worldNode ents j).map fun g =>
    (base + j, { preds := g.1, succ := g.2.1, empty := g.2.2.1, launch := g.2.2.2.1, running := g.2.2.2.2 })
  ({ name := s.free, func := f, baskets := t.baskets, skeins := t.skeins, hoops := t.hoops, wales := t.wales
     nodes := (List.range nodes).filterMap node
     entries := (List.range ne).map fun j =>
      let e := Config.worldReuse ents j
      (e.1.toFin, e.2.1.toNat, e.2.2) },
   { s with nextId := t.nextId, nextPlace := t.nextPlace })

/-- A restore in progress: of a world saved here, or of an image made elsewhere (log entry 22). -/
def State.restoreOn (s : State) (f : Nat) : State :=
  if s.warm.isSome || s.fatal then s
  else
    let rd (o n : Nat) : List Byte := s.physRead s.wsKey (s.wsAddr + o) n
    let head := rd 0 1856
    let a := imgReg head (1792 + 40)
    let b := imgReg head (1792 + 48)
    let nodes := getFld a 16 0
    let nb := at_ head 10 2
    let len := worldLen (getFld b 28 16) nodes nb (at_ head 12 2)
    let img := rd 0 len
    if at_ head 4 4 ≠ len ∨ at_ head 8 1 ≠ f ∨ xorWords (img.drop 4) ≠ BitVec.ofNat 32 (at_ img 0 4) then s.wsEnd 3
    else
      let ents := (img.drop (1856 + 16 * getFld b 28 16)).take (64 * (nodes + nb))
      let ne := at_ head 12 2
      let (w, t) := match s.worlds.find? fun w => w.func == f && w.baskets.length == nb && w.entries.length == ne
          && ents == worldEntries w.name 0 (nodes + nb) with
        | some w => (w, s)
        | none => s.elsewhere f ents (getFld a 47 32) nodes nb ne
      if s.rangeBusy f a b w then s.wsEnd 6
      else (((t.putWorld f img w).reopen f).wsEnd 0).reloadPlugin f
/-- WS_RESTORE: the GO, and the restore itself. -/
def execWsRestore (f : Fin 129) (s : State) : Out :=
  .next (if s.wsIs f 1 then s.restoreOn f else if s.wsBusy then s else s.wsStart f 1)

/-- QCANCEL (R371): a waiting signal wait at the head of the queue is skipped. -/
def execQcancel (f : Fin 129) (q : Fin 64) (s : State) : Out :=
  .next (
    if s.recovering then s else
    let s := (s.setRegF rQCancel 5 0 q).setRegF rQCancel 15 8 f
    if s.headWaits f q fun _ _ => true then s.pass f q 1 else s)

/-! ### Partition change (R374 to R376) -/

/-- The staged map. -/
def State.stagedMap (s : State) : List Nat := (List.range 32).map fun c => s.regF (rPartNew c) 5 0
/-- The partition holds a cluster. -/
def State.holdsCluster (s : State) (p : Nat) : Bool := (List.finRange 32).any fun c => vget s.partMap c == p
/-- Context-area address of the first saved hoop of a basket. -/
def State.firstImage (s : State) (b : Nat) : Nat :=
  (((s.skeinsOf b).flatMap fun k => s.hoopsOf k.1).findSome? fun e => match e.2.st with
    | .saved va => some va
    | _ => none).getD 0
/-- A basket is returned to the hypervisor. -/
def State.moveBasket (s : State) (b : Nat) : State :=
  let f := match s.basket? b with | some x => x.func | none => 0
  let s := (s.updBasket b fun x => { x with moved := true }).setRegF rPartCtl 15 8 (s.regF rPartCtl 15 8 + 1)
  s.hvEvent (s.firstImage b) 0x10 0 b f
/-- Resident units of the partitions that a pending change affects. -/
def State.affectedUnits (s : State) : List (Nat × Nat) := s.units.filter fun u => s.affected (s.partOf (s.skeinFunc u.1))
/-- The pending map applies. -/
def State.applyMap (s : State) (m : List Nat) : State :=
  let lost := s.baskets.filter fun e => s.affected (s.partOf e.2.func) && !m.contains (s.partOf e.2.func) && !e.2.moved
  let s : State := { s with partMap := Vector.ofFn fun c : Fin 32 => m.getD c.val 0x3F, partPending := none }
  let s := lost.foldl (fun s e => s.moveBasket e.1) s
  let s := (List.finRange 4).foldl (fun s d => State.setRatios s d) s
  ((s.setRegF rPartCtl 1 1 0).setRegF rPartCtl 2 2 0).setRegF rPartCtl 3 3 1
/-- PARTITION_CHANGE: the GO of CFE_PARTCTL, and then each further step of the change. -/
def execPartitionChange (s : State) : Out :=
  .next (
    if s.fatal ∨ s.recovering then s
    else match s.partPending with
      | none =>
        let s : State := { s with partPending := some s.stagedMap }
        let s := (s.setRegF rPartCtl 1 1 1).setRegF rPartCtl 15 8 0
        if s.warm.isSome then s else s.requestAll s.affectedUnits
      | some m =>
        if s.warm.isSome ∨ s.flr ≠ [] then s
        else if s.affectedUnits.isEmpty then s.applyMap m
        else s.requestAll s.affectedUnits)

/-- FUNCPART_WRITE: ignored while the function has a live basket that is not MOVED; a partition that holds clusters takes the
MOVED baskets back at their former place. -/
def execFuncpartWrite (f : Fin 129) (x : BitVec 64) (s : State) : Out :=
  .next (
    if s.recovering ∨ s.baskets.any fun e => e.2.func == f.val && !e.2.moved then s
    else
      let s := s.setRegF (rFuncPart f) 4 0 (getFld x 4 0)
      if !s.holdsCluster (getFld x 4 0) then s
      else { s with baskets := s.baskets.map fun (e : Nat × Basket) =>
        if e.2.func = f.val then (e.1, { e.2 with moved := false }) else e })

end Sys2Proof.Machine
end

