-- ==== Sys2Proof/Machine/Host.lean ====
section
/-! DEFINITION. The host window and writes of registers (00 R8, 16 R365 to R367, 18 R395). -/

namespace Sys2Proof.Machine

/-! ### The host window (R367) -/

/-- Virtual address of an offset of BAR 2; none while EN is 0. -/
def State.windowVa (s : State) (f o : Nat) : Option Nat :=
  if s.regF (rHwin f) 0 0 = 0 then none else some (s.regF (rHwin f) 52 30 * 2 ^ 30 + o)
/-- Bytes of a read, page by page. -/
def State.hostGet (f : Nat) : Nat → State → Nat → Nat → Except XErr (List Byte × State)
  | 0, s, _, _ => .ok ([], s)
  | fuel + 1, s, va, n =>
    let k := min n (8192 - va % 8192)
    if n = 0 then .ok ([], s)
    else match s.feRead f va k with
      | .error e => .error e
      | .ok (a, s) =>
        match State.hostGet f fuel s (va + k) (n - k) with
        | .error e => .error e
        | .ok (b, s) => .ok (a ++ b, s)
/-- HOST_WINDOW_READ: data, or Unsupported Request. -/
def execHostWindowRead (f : Fin 129) (o : BitVec 30) (n : Fin 65) (s : State) : Out :=
  .next (match s.windowVa f o.toNat with
    | none => { s with hostRead := .unsupported }
    | some va => match State.hostGet f 3 s va n with
      | .ok (bs, s) => { s with hostRead := .data bs }
      | .error e => if e.waits then s.failed e else { (s.failed e) with hostRead := .unsupported })
/-- The pieces of a write, line by line; a piece that translation or permission refuses is dropped. -/
def State.hostPut (f : Nat) : Nat → State → Nat → List Byte → State
  | 0, s, _, _ => s
  | fuel + 1, s, va, bs =>
    match bs with
    | [] => s
    | _ =>
      let n := 64 - va % 64
      State.hostPut f fuel (s.feTry f va (bs.take n)) (va + n) (bs.drop n)
/-- HOST_WINDOW_WRITE. -/
def execHostWindowWrite (f : Fin 129) (o : BitVec 30) (bs : List (BitVec 8)) (s : State) : Out :=
  .next (match s.windowVa f o.toNat with
    | none => s
    | some va => State.hostPut f (bs.length + 1) s va bs)

/-! ### Writes of registers (R8) -/

/-- The bits of `m` of a register are written. -/
def State.rw (s : State) (key m : Nat) (x : BitVec 64) : State :=
  let m : BitVec 64 := BitVec.ofNat 64 m
  s.setReg key ((s.reg key &&& ~~~m) ||| (x &&& m))
/-- The bits of `m` that are written as 1 are cleared. -/
def State.w1c (s : State) (key m : Nat) (x : BitVec 64) : State :=
  s.setReg key (s.reg key &&& ~~~(x &&& BitVec.ofNat 64 m))
/-- Field `[hi:lo]` is written when `ok` accepts its value. -/
def State.rwIf (s : State) (key hi lo : Nat) (x : BitVec 64) (ok : Nat → Bool) : State :=
  if ok (getFld x hi lo) then s.setRegF key hi lo (getFld x hi lo) else s
/-- The state of a next state. -/
def outState (o : Out) (s : State) : State := match o with | .next t => t | _ => s

/-- A word of the MSI-X table: an unmasked vector that is pending is sent (R368). -/
def State.msixWrite (s : State) (f o : Nat) (x : BitVec 64) : State :=
  let v := (o - 0x3000) / 16
  let s := s.rw (vfKey f o) (if o % 16 = 0 then bitsOf 63 0 else bitsOf 32 0) x
  if o % 16 = 8 ∧ getFld x 32 32 = 0 ∧ (s.reg (vfKey f 0x3800)).getLsbD v then
    { (s.setRegF (vfKey f 0x3800) v v 0) with msix := s.msix ++ [(f, v)] }
  else s

/-- A function's own registers (15 R329, R347, R348, 16 R366, R367). -/
def State.ownWrite (s : State) (f : Fin 129) (o : Nat) (x : BitVec 64) : State :=
  if o < 0x200 then outState (execVfQnotify f (Fin.ofNat 64 (o / 8)) x s) s
  else if 0x400 ≤ o ∧ o < 0xC00 then
    let q := (o - 0x400) / 32
    if o % 32 = 0 then (if s.qEn f q then s else s.rw (rQBase f q) (bitsOf 52 6) x)
    else if o % 32 = 8 then s.qctlWrite f q x
    else s
  else if o = 0x1008 then outState (execVfEvbaseWrite f x s) s
  else if o = 0x1010 then outState (execVfEvptrWrite f x s) s
  else if o = 0x1018 then s.pageReply f (x.setWidth 16) (x.getLsbD 16)
  else if o = 0x1020 then s.rw (rCtxBase f) (bitsOf 52 16) x
  else if o = 0x1028 then s.rw (rCtxSize f) (bitsOf 31 0) x
  else if o = 0x2000 then s.rw (rHwin f) (bitsOf 0 0 + bitsOf 52 30) x
  else if 0x3000 ≤ o ∧ o < 0x3100 then s.msixWrite f o x
  else s

/-- A write of CFE_FUNCA or CFE_FUNCB, ignored where 15 R345 says so. -/
def State.funcWrite (s : State) (f : Nat) (b : Bool) (x : BitVec 64) : State :=
  let s' := if b then s.rw (rFuncB f) (bitsOf 14 0 + bitsOf 28 16 + bitsOf 43 32) x
    else s.rw (rFuncA f) (bitsOf 16 0 + bitsOf 47 32) x
  let clash (g : Nat) : Bool := g != f
    && (overlap (s'.nodeBase f) (s'.nodeCount f) (s.nodeBase g) (s.nodeCount g)
      || overlap (s'.sigBase f) (s'.sigCount f) (s.sigBase g) (s.sigCount g))
  if s.baskets.any (fun e => e.2.func == f) || (List.range 129).any clash
    || decide (65536 < s'.nodeBase f + s'.nodeCount f) || decide (4096 < s'.sigCount f)
    || decide (32768 < s'.sigBase f + s'.sigCount f) then s
  else s'
/-- A write of CFE_WSCTL: GO is ignored while BUSY; the other fields can be written at any time (log entry 39). -/
def State.wsCtlWrite (s : State) (x : BitVec 64) : State :=
  let s := s.rw rWsCtl (bitsOf 10 0) x
  if getFld x 16 16 = 1 ∧ !s.wsBusy then s.wsStart (getFld x 7 0) (getFld x 9 8) else s
/-- A write of CFE_PARTCTL. -/
def State.partCtlWrite (s : State) (x : BitVec 64) : State :=
  let s := s.w1c rPartCtl (bitsOf 3 3) x
  if getFld x 0 0 = 1 ∧ s.partPending.isNone then outState (execPartitionChange s) s else s
/-- A write of CFE_QCANCEL. -/
def State.qcancelWrite (s : State) (x : BitVec 64) : State :=
  let s := s.rw rQCancel (bitsOf 5 0 + bitsOf 15 8) x
  if getFld x 16 16 = 1 ∧ getFld x 15 8 < 129 then
    outState (execQcancel (Fin.ofNat 129 (getFld x 15 8)) (Fin.ofNat 64 (getFld x 5 0)) s) s
  else s
/-- The CFE block; `fw`: the write is the firmware's. -/
def State.cfeWrite (s : State) (o : Nat) (x : BitVec 64) (fw : Bool) : State :=
  if o = 0x10 then (if fw then s else s.rw rPreempt (bitsOf 15 0) x)
  else if o = 0x20 then s.wsCtlWrite x
  else if o = 0x28 then s.rw rWsImg (bitsOf 45 12 + bitsOf 59 48) x
  else if o = 0x30 then s.partCtlWrite x
  else if o = 0x38 then s.qcancelWrite x
  else if 0x1000 ≤ o ∧ o < 0x1000 + 16 * 129 then (if fw then s else s.funcWrite ((o - 0x1000) / 16) (o % 16 == 8) x)
  else if 0x2000 ≤ o ∧ o < 0x2000 + 8 * 129 then
    outState (execFuncpartWrite (Fin.ofNat 129 ((o - 0x2000) / 8)) x s) s
  else if 0x2800 ≤ o ∧ o < 0x2900 then
    s.rwIf (rPartNew ((o - 0x2800) / 8)) 5 0 x fun p => decide (p < 32) || decide (p = 63)
  else if 0x3000 ≤ o ∧ o < 0x4000 then
    if fw then s
    else s.rw (cfe o) (if o % 16 = 0 then bitsOf 10 0 + bitsOf 26 16 + bitsOf 39 32 + bitsOf 63 63 else bitsOf 45 6) x
  else if 0x5000 ≤ o ∧ o < 0x5800 then s.rw (cfe o) (bitsOf 9 0 + bitsOf 23 16 + bitsOf 37 24 + bitsOf 63 63) x
  else s

/-- The FW block. -/
def State.fwWrite (s : State) (o : Nat) (x : BitVec 64) (byFw : Bool) : State :=
  if o = 0 then s.dieRstWrite x
  else if 0x100 ≤ o ∧ o < 0x160 ∧ o % 16 = 8 then
    let k := (o - 0x100) / 16
    let s := s.rwIf (rDlCtl k) 23 8 x fun n => n != 0
    let s := s.rwIf (rDlCtl k) 25 24 x fun n => n != 3
    if getFld x 0 0 = 1 then s.retrainLink k else s
  else if 0x200 ≤ o ∧ o < 0x280 then s.rw (fw o) (bitsOf 9 0 + bitsOf 17 16 + bitsOf 22 20 + bitsOf 31 31) x
  else if o = 0x400 then s.rw rBootStat (bitsOf 8 8) x
  else if o = 0x408 then outState (execFwPkgrstGo x s) s
  else if o = 0x410 then (s.w1c rFatal (bitsOf 6 6) x).rw rFatal (bitsOf 9 9) x
  else if o = 0x418 then s.rw rDumpBase (bitsOf 45 12 + bitsOf 59 48) x
  else if o = 0x420 then s.rw rDumpCtl (bitsOf 24 0) x
  else if o = 0x430 ∨ o = 0x438 then s.rw (fw o) (bitsOf 63 0) x
  else if o = 0x440 then s.rw (fw o) (bitsOf 0 0) x
  else if 0x1000 ≤ o ∧ o < 0x1000 + 8 * 129 then
    (if byFw then s else s.rw (fw o) (bitsOf 0 0 + bitsOf 45 12 + bitsOf 59 48) x)
  else s

/-- The QSM block: the host writes only QSM_INJECT (13 R299). -/
def State.qsmWrite (s : State) (d : Fin 4) (o : Nat) (x : BitVec 64) (fw : Bool) : State :=
  if o = 0x20 then s.injectWrite d x
  else if !fw then s
  else if o = 0x8 then outState (execQsmWindowWrite d x s) s
  else if o = 0x10 then outState (execQsmCtlWrite d x s) s
  else if o = 0x18 then s.w1c (rQsmStatus d) (bitsOf 3 0) x
  else if 0x800 ≤ o ∧ o < 0x1000 then
    s.cellWrite d (Fin.ofNat 256 ((o - 0x800) / 8)) (x ||| (Config.fusedMask d ((o - 0x800) / 8)).setWidth 64)
  else s
/-- The L2C and MEM blocks, by offset from the die's base (14 R313 to R328). -/
def State.memWrite (s : State) (d : Fin 4) (o : Nat) (x : BitVec 64) (fw : Bool) : State :=
  if o = 0x20000 then
    ((s.rwIf (rHotTh d) 7 0 x fun n => n != 0).rwIf (rHotTh d) 15 8 x fun n => n != 0).rwIf (rHotTh d) 31 16 x fun n => n != 0
  else if o = 0x20008 then (if fw then outState (execWaygateWrite d x s) s else s)
  else if 0x20100 ≤ o ∧ o < 0x20100 + 8 * 129 then (if fw then s else s.rw (dieBase d + o) (bitsOf 23 0) x)
  else if o = 0x30040 then outState (execKeyRetire d x s) s
  else if o = 0x30048 then s.rw (rTlbVa d) (bitsOf 52 0) x
  else if o = 0x30050 then outState (execTlbInvalidate d x s) s
  else if o = 0x300A0 then s.w1c (rBwBreach 0) (bitsOf 35 35) x
  else if 0x30200 ≤ o ∧ o < 0x30200 + 8 * 129 then
    (if fw then s else s.rw (rPtRoot ((o - 0x30200) / 8)) (bitsOf 0 0 + bitsOf 45 13) x)
  else if 0x30800 ≤ o ∧ o < 0x30800 + 8 * 129 then
    outState (execBwshareWrite d (Fin.ofNat 129 ((o - 0x30800) / 8)) x s) s
  else s
def vcodeOk (v : Nat) : Bool := decide (0x20 ≤ v) && decide (v ≤ 0x60)
/-- The PWR block, by offset from the die's base (17 R391). -/
def State.pwrWrite (s : State) (d : Fin 4) (o : Nat) (x : BitVec 64) (fw : Bool) : State :=
  if o = 0x40000 then outState (execPwrTokensWrite d x s) s
  else if o = 0x40008 then
    let s := s.rwIf (rHoldPt d) 4 0 x fun r => decide (4 ≤ r) && decide (r ≤ 16)
    (((s.rwIf (rHoldPt d) 15 8 x vcodeOk).lowerRatios d).revoteDie d).setRatios d
  else if 0x40040 ≤ o ∧ o < 0x40080 then
    (s.rwIf (dieBase d + o) 8 0 x fun n => n != 0 && decide (n ≤ 384)).rw (dieBase d + o) (bitsOf 23 16) x
  else if 0x40080 ≤ o ∧ o < 0x400C0 then outState (execClassWrite d (Fin.ofNat 8 ((o - 0x40080) / 8)) x s) s
  else if 0x40100 ≤ o ∧ o < 0x40120 then
    (if fw then (s.rwIf (dieBase d + o) 23 16 x fun v => decide (0x20 ≤ v)).revoteFree d ((o - 0x40100) / 8) else s)
  else if 0x40200 ≤ o ∧ o < 0x40230 then
    if fw && (List.range 8).all fun i => vcodeOk (getFld x (8 * i + 7) (8 * i)) then
      (s.setReg (dieBase d + o) x).revoteDie d
    else s
  else if d ≠ 0 then s
  else if 0x40400 ≤ o ∧ o < 0x40500 then outState (execPwrAllotWrite (Fin.ofNat 32 ((o - 0x40400) / 8)) x s) s
  else if o = 0x40600 then (if fw then s.rw rBudget (bitsOf 11 0) x else s)
  else s
/-- The THM block, by offset from the die's base (17 R392). -/
def State.thmWrite (s : State) (d : Fin 4) (o : Nat) (x : BitVec 64) (fw : Bool) : State :=
  if !fw then s
  else if o = 0x50008 then
    let throt := (x.setWidth 16).toInt
    if ((x >>> 16).setWidth 16).toInt ≤ throt ∨ throt ≤ 0x6E0 then s else s.rw (rThmTrip d) (bitsOf 31 0) x
  else if 0x50300 ≤ o ∧ o < 0x50500 then s.rw (dieBase d + o) (bitsOf 15 0) x
  else s
/-- The blocks of a die. -/
def State.dieWrite (s : State) (d : Fin 4) (o : Nat) (x : BitVec 64) (fw : Bool) : State :=
  if o < 0x10000 then s.qsmWrite d o x fw
  else if o < 0x20000 then
    if 0x10100 ≤ o ∧ o < 0x10200 then outState (execDscWinWrite d (Fin.ofNat 32 ((o - 0x10100) / 8)) x s) s else s
  else if o < 0x40000 then s.memWrite d o x fw
  else if o < 0x50000 then s.pwrWrite d o x fw
  else s.thmWrite d o x fw

/-- A write at offset `o` of the register blocks of PF BAR 0 (16 R366); `fw`: it is the firmware's. -/
def State.blockWrite (s : State) (o : Nat) (x : BitVec 64) (fw : Bool) : State :=
  if 0x100000 ≤ o ∧ o < 0x200000 then s.cfeWrite (o - 0x100000) x fw
  else if 0x200000 ≤ o ∧ o < 0x300000 then s.fwWrite (o - 0x200000) x fw
  else if 0x1000000 ≤ o ∧ o < 0x2000000 then
    s.dieWrite (Fin.ofNat 4 ((o - 0x1000000) / 0x400000)) ((o - 0x1000000) % 0x400000) x fw
  else s
/-- The offset in PF BAR 0 of the register at a management address (18 R395). -/
def mgmtOffset (a : Nat) : Option Nat :=
  if 0x80000000 ≤ a ∧ a < 0x81000000 then some (a - 0x80000000 + 0x1000000)
  else if 0x81000000 ≤ a ∧ a < 0x81100000 then some (a - 0x81000000 + 0x200000)
  else if 0x81100000 ≤ a ∧ a < 0x81200000 then some (a - 0x81100000 + 0x100000)
  else none
/-- What the PF cannot write in recovery: every register but FW_PKGRST and those through which it uses its host window (18 R396; log
entry 100). -/
def State.shutOut (s : State) (f : Fin 129) (a : Nat) : Bool :=
  s.recovering && f == 0 && a != rPkgRst && a != rHwin 0 && a != rPtRoot 0
/-- REGISTER_WRITE: a write by the host at an offset of BAR 0, or by a layer of the firmware at a management address, which the
protection regions of its core must allow (18 R394); a layer that does not run writes nothing (R396). Reserved and read-only bits keep their value; an address that names no register
ignores it. -/
def execRegisterWrite (f : Fin 129) (a : Nat) (x : BitVec 64) (w : RegWriter) (s : State) : Out :=
  .next (match w with
    | none =>
      if a % 8 ≠ 0 ∨ s.shutOut f a then s
      else if a < 0x10000 then s.ownWrite f a x
      else if f ≠ 0 then s
      else s.blockWrite a x false
    | some (core, layer) =>
      if !s.layerRuns layer then s
      else if !s.mayWrite core layer a then s.strayAccess core layer
      else if a % 8 ≠ 0 then s
      else match mgmtOffset a with
        | some o => s.blockWrite o x true
        | none => s)

end Sys2Proof.Machine
end

