-- ==== Sys2Proof/Machine/Integer.lean ====
section
/-! DEFINITION. Integer, logic, predicate and lane instructions (05 R112 to R136), and `nop`. -/

namespace Sys2Proof.Machine

/-- `nop` (04 R99). -/
def execNop (s : State) : Out := issueReg .nop s fun _ => .ok {}

/-! ### Arithmetic (05 R114 to R118) -/

def execIadd (o : ROps) (s : State) : Out := issueReg (.iadd o) s fun x => x.r2 o fun a b => .pure (a + b)
def execIaddI (o : IOps) (s : State) : Out := issueReg (.iaddI o) s fun x => x.i2 o fun a b => .pure (a + b)
def execIsub (o : ROps) (s : State) : Out := issueReg (.isub o) s fun x => x.r2 o fun a b => .pure (a - b)
def execIsubI (o : IOps) (s : State) : Out := issueReg (.isubI o) s fun x => x.i2 o fun a b => .pure (a - b)

/-- Saturating sum and difference (R114). -/
def satAdd (u : Bool) (a b : Word) : FRes Word := satWord u (extInt u a + extInt u b)
def satSub (u : Bool) (a b : Word) : FRes Word := satWord u (extInt u a - extInt u b)
def execIadds (o : ROps) (s : State) : Out := issueReg (.iadds o) s fun x => x.r2 o (satAdd (mbit o.mod 0))
def execIaddsI (o : IOps) (s : State) : Out := issueReg (.iaddsI o) s fun x => x.i2 o (satAdd (mbit o.mod 0))
def execIsubs (o : ROps) (s : State) : Out := issueReg (.isubs o) s fun x => x.r2 o (satSub (mbit o.mod 0))
def execIsubsI (o : IOps) (s : State) : Out := issueReg (.isubsI o) s fun x => x.i2 o (satSub (mbit o.mod 0))

/-- The high half of the exact product (R115). -/
def mulHigh (u : Bool) (a b : Word) : Word := BitVec.ofInt 32 (extInt u a * extInt u b / 2 ^ 32)
def execImul (o : ROps) (s : State) : Out := issueReg (.imul o) s fun x => x.r2 o fun a b => .pure (a * b)
def execImulI (o : IOps) (s : State) : Out := issueReg (.imulI o) s fun x => x.i2 o fun a b => .pure (a * b)
def execImulh (o : ROps) (s : State) : Out :=
  issueReg (.imulh o) s fun x => x.r2 o fun a b => .pure (mulHigh (mbit o.mod 0) a b)
def execImulhI (o : IOps) (s : State) : Out :=
  issueReg (.imulhI o) s fun x => x.i2 o fun a b => .pure (mulHigh (mbit o.mod 0) a b)
def execImad (o : ROps) (s : State) : Out := issueReg (.imad o) s fun x => x.r3 o fun a b c => .pure (a * b + c)
/-- The 64-bit product plus C.d (R115). -/
def mulWide (u : Bool) (a b : Word) (c : Dword) : Dword := BitVec.ofInt 64 (extInt u a * extInt u b) + c
def execImadw (o : ROps) (s : State) : Out :=
  issueReg (.imadw o) s fun x =>
    x.out64 o.d fun i => mulWide (mbit o.mod 0) (x.src o.a i) (x.src o.b i) (x.src64 o.c i)

/-- The quotient, truncated toward zero, and the remainder (R116). -/
def divWord (u : Bool) (a b : Word) : Word :=
  if b = 0 then 0xFFFFFFFF
  else if !u && a == 0x80000000 && b == 0xFFFFFFFF then 0x80000000
  else BitVec.ofInt 32 ((extInt u a).tdiv (extInt u b))
def remWord (u : Bool) (a b : Word) : Word :=
  if b = 0 then a
  else if !u && a == 0x80000000 && b == 0xFFFFFFFF then 0
  else BitVec.ofInt 32 ((extInt u a).tmod (extInt u b))
def execIdiv (o : ROps) (s : State) : Out :=
  issueReg (.idiv o) s fun x => x.r2 o fun a b => .pure (divWord (mbit o.mod 0) a b)
def execIdivI (o : IOps) (s : State) : Out :=
  issueReg (.idivI o) s fun x => x.i2 o fun a b => .pure (divWord (mbit o.mod 0) a b)
def execIrem (o : ROps) (s : State) : Out :=
  issueReg (.irem o) s fun x => x.r2 o fun a b => .pure (remWord (mbit o.mod 0) a b)
def execIremI (o : IOps) (s : State) : Out :=
  issueReg (.iremI o) s fun x => x.i2 o fun a b => .pure (remWord (mbit o.mod 0) a b)

/-- Less than, unsigned or signed. -/
def ltWord (u : Bool) (a b : Word) : Bool := decide (extInt u a < extInt u b)
def minWord (u : Bool) (a b : Word) : Word := if ltWord u b a then b else a
def maxWord (u : Bool) (a b : Word) : Word := if ltWord u a b then b else a
def execImin (o : ROps) (s : State) : Out :=
  issueReg (.imin o) s fun x => x.r2 o fun a b => .pure (minWord (mbit o.mod 0) a b)
def execIminI (o : IOps) (s : State) : Out :=
  issueReg (.iminI o) s fun x => x.i2 o fun a b => .pure (minWord (mbit o.mod 0) a b)
def execImax (o : ROps) (s : State) : Out :=
  issueReg (.imax o) s fun x => x.r2 o fun a b => .pure (maxWord (mbit o.mod 0) a b)
def execImaxI (o : IOps) (s : State) : Out :=
  issueReg (.imaxI o) s fun x => x.i2 o fun a b => .pure (maxWord (mbit o.mod 0) a b)
/-- |a| (R117). -/
def absWord (sat : Bool) (a : Word) : FRes Word :=
  if a = 0x80000000 then (if sat then ⟨0x7FFFFFFF, fSAT⟩ else .pure a)
  else .pure (if a.toInt < 0 then -a else a)
def execIabs (o : ROps) (s : State) : Out := issueReg (.iabs o) s fun x => x.r1 o (absWord (mbit o.mod 0))

def execIadd64 (o : ROps) (s : State) : Out :=
  issueReg (.iadd64 o) s fun x => x.out64 o.d fun i => x.src64 o.a i + x.src64 o.b i
def execIadd64I (o : IOps) (s : State) : Out :=
  issueReg (.iadd64I o) s fun x => x.out64 o.d fun i => x.src64 o.a i + sx64 o.imm
def execIsub64 (o : ROps) (s : State) : Out :=
  issueReg (.isub64 o) s fun x => x.out64 o.d fun i => x.src64 o.a i - x.src64 o.b i
def execIsub64I (o : IOps) (s : State) : Out :=
  issueReg (.isub64I o) s fun x => x.out64 o.d fun i => x.src64 o.a i - sx64 o.imm
/-- The address sum of `lea` (R118). -/
def leaSum (sx : Bool) (sh : Nat) (a : Dword) (b : Word) : Dword :=
  a + (if sx then sx64 b else b.setWidth 64) <<< sh
def execLea (o : ROps) (s : State) : Out :=
  issueReg (.lea o) s fun x =>
    x.out64 o.d fun i => leaSum (mbit o.mod 3) (fld o.mod 2 0) (x.src64 o.a i) (x.src o.b i)
def execLeaI (o : IOps) (s : State) : Out :=
  issueReg (.leaI o) s fun x => x.out64 o.d fun i => leaSum (mbit o.mod 3) (fld o.mod 2 0) (x.src64 o.a i) o.imm

/-! ### Logic, shifts, bit fields (05 R119 to R121) -/

def execIand (o : ROps) (s : State) : Out := issueReg (.iand o) s fun x => x.r2 o fun a b => .pure (a &&& b)
def execIandI (o : IOps) (s : State) : Out := issueReg (.iandI o) s fun x => x.i2 o fun a b => .pure (a &&& b)
def execIor (o : ROps) (s : State) : Out := issueReg (.ior o) s fun x => x.r2 o fun a b => .pure (a ||| b)
def execIorI (o : IOps) (s : State) : Out := issueReg (.iorI o) s fun x => x.i2 o fun a b => .pure (a ||| b)
def execIxor (o : ROps) (s : State) : Out := issueReg (.ixor o) s fun x => x.r2 o fun a b => .pure (a ^^^ b)
def execIxorI (o : IOps) (s : State) : Out := issueReg (.ixorI o) s fun x => x.i2 o fun a b => .pure (a ^^^ b)
def execIandn (o : ROps) (s : State) : Out := issueReg (.iandn o) s fun x => x.r2 o fun a b => .pure (a &&& ~~~b)
def execIandnI (o : IOps) (s : State) : Out := issueReg (.iandnI o) s fun x => x.i2 o fun a b => .pure (a &&& ~~~b)
def execInot (o : ROps) (s : State) : Out := issueReg (.inot o) s fun x => x.r1 o fun a => .pure (~~~a)

/-- The shifts (R119); an amount of 32 or more shifts everything out. -/
def shlWord (a b : Word) : Word := if b.toNat < 32 then a <<< b.toNat else 0
def shrWord (a b : Word) : Word := if b.toNat < 32 then a >>> b.toNat else 0
def sarWord (a b : Word) : Word := a.sshiftRight (min b.toNat 31)
def rotlWord (a b : Word) : Word := a.rotateLeft (b.toNat % 32)
def execShl (o : ROps) (s : State) : Out := issueReg (.shl o) s fun x => x.r2 o fun a b => .pure (shlWord a b)
def execShlI (o : IOps) (s : State) : Out := issueReg (.shlI o) s fun x => x.i2 o fun a b => .pure (shlWord a b)
def execShr (o : ROps) (s : State) : Out := issueReg (.shr o) s fun x => x.r2 o fun a b => .pure (shrWord a b)
def execShrI (o : IOps) (s : State) : Out := issueReg (.shrI o) s fun x => x.i2 o fun a b => .pure (shrWord a b)
def execSar (o : ROps) (s : State) : Out := issueReg (.sar o) s fun x => x.r2 o fun a b => .pure (sarWord a b)
def execSarI (o : IOps) (s : State) : Out := issueReg (.sarI o) s fun x => x.i2 o fun a b => .pure (sarWord a b)
def execRotl (o : ROps) (s : State) : Out := issueReg (.rotl o) s fun x => x.r2 o fun a b => .pure (rotlWord a b)
def execRotlI (o : IOps) (s : State) : Out := issueReg (.rotlI o) s fun x => x.i2 o fun a b => .pure (rotlWord a b)

/-- Extract the field that descriptor `f` names (R120). -/
def bfeWord (sg : Bool) (a f : Word) : Word :=
  let pos := fld f 7 0
  let len := fld f 15 8
  if 32 ≤ pos ∨ len = 0 then 0
  else
    let l := min len (32 - pos)
    let v := a.toNat / 2 ^ pos % 2 ^ l
    if sg && decide (2 ^ (l - 1) ≤ v) then BitVec.ofInt 32 ((v : Int) - 2 ^ l) else BitVec.ofNat 32 v
/-- Insert `b` into `a` at the field that `f` names (R120). -/
def bfiWord (a b f : Word) : Word :=
  let pos := fld f 7 0
  let len := fld f 15 8
  if 32 ≤ pos ∨ len = 0 then a
  else
    let m : Word := BitVec.ofNat 32 ((2 ^ min len (32 - pos) - 1) * 2 ^ pos)
    (a &&& ~~~m) ||| ((b <<< pos) &&& m)
def execBfe (o : ROps) (s : State) : Out :=
  issueReg (.bfe o) s fun x => x.r2 o fun a b => .pure (bfeWord (mbit o.mod 0) a b)
def execBfeI (o : IOps) (s : State) : Out :=
  issueReg (.bfeI o) s fun x => x.i2 o fun a b => .pure (bfeWord (mbit o.mod 0) a b)
def execBfi (o : ROps) (s : State) : Out := issueReg (.bfi o) s fun x => x.r3 o fun a b c => .pure (bfiWord a b c)

/-- Leading zeros and reversed bits (R121). -/
def clzWord (a : Word) : Word := BitVec.ofNat 32 (32 - bitLen a.toNat)
def brevWord (a : Word) : Word := maskOf fun i => a.getLsbD (31 - i.val)
def execPopc (o : ROps) (s : State) : Out :=
  issueReg (.popc o) s fun x => x.r1 o fun a => .pure (BitVec.ofNat 32 (Mask.count a))
def execClz (o : ROps) (s : State) : Out := issueReg (.clz o) s fun x => x.r1 o fun a => .pure (clzWord a)
def execBrev (o : ROps) (s : State) : Out := issueReg (.brev o) s fun x => x.r1 o fun a => .pure (brevWord a)

/-! ### Compare, select, move (05 R122 to R125) -/

/-- The condition CC (R122). -/
def cmpWord (cc : Nat) (u : Bool) (a b : Word) : Bool :=
  match cc with
  | 0 => a == b
  | 1 => a != b
  | 2 => ltWord u a b
  | 3 => !ltWord u b a
  | 4 => ltWord u b a
  | _ => !ltWord u a b
def execIcmp (o : ROps) (s : State) : Out :=
  issueReg (.icmp o) s fun x =>
    x.outP o.d fun i => .pure (cmpWord (fld o.mod 2 0) (mbit o.mod 3) (x.src o.a i) (x.src o.b i))
def execIcmpI (o : IOps) (s : State) : Out :=
  issueReg (.icmpI o) s fun x =>
    x.outP o.d fun i => .pure (cmpWord (fld o.mod 2 0) (mbit o.mod 3) (x.src o.a i) o.imm)
/-- `sel` (R123): by the strand's bit, or by any bit under `em` in the scalar form. -/
def execSel (o : ROps) (s : State) : Out :=
  issueReg (.sel o) s fun x =>
    let p := x.pred o.c
    x.out o.d fun i =>
      .pure (if (if o.d.isS then p &&& x.fr.em != 0 else p.getLsbD i.val) then x.src o.a i else x.src o.b i)
def execMov (o : ROps) (s : State) : Out :=
  issueReg (.mov o) s fun x =>
    if mbit o.mod 0 then x.out64 o.d fun i => x.src64 o.a i else x.r1 o .pure
def execMovi (o : IOps) (s : State) : Out :=
  issueReg (.movi o) s fun x =>
    if mbit o.mod 0 then x.out64 o.d fun _ => sx64 o.imm else x.out o.d fun _ => .pure o.imm

/-- Byte `j` as a number, signed or unsigned. -/
def byteInt (u : Bool) (a : Word) (j : Nat) : Int :=
  let b : Byte := a.extractLsb' (8 * j) 8
  if u then b.toNat else b.toInt
/-- Four byte products and c (R125). -/
def dotBytes (au bu sat : Bool) (a b c : Word) : FRes Word :=
  let t : Int := c.toInt + byteInt au a 0 * byteInt bu b 0 + byteInt au a 1 * byteInt bu b 1
    + byteInt au a 2 * byteInt bu b 2 + byteInt au a 3 * byteInt bu b 3
  if sat then satWord false t else .pure (BitVec.ofInt 32 t)
def execIdp4 (o : ROps) (s : State) : Out :=
  issueReg (.idp4 o) s fun x => x.r3 o (dotBytes (mbit o.mod 0) (mbit o.mod 1) (mbit o.mod 2))

/-! ### Lane instructions (05 R126 to R132) -/

/-- The strand that `shfl` reads (R127). -/
def shflFrom (mode seg : Nat) (i k : Nat) : Option Nat :=
  let base := i - i % seg
  let j := i - base
  match mode with
  | 0 => some (base + k % seg)
  | 1 => if k > j then none else some (i - k)
  | 2 => if seg ≤ j + k then none else some (i + k)
  | _ => some (base + (j ^^^ (k % seg)))
/-- The value of strand `i` under `shfl`. -/
def shflVal (vis : Mask) (mode w : Nat) (a : Fin 32 → Word) (i : Fin 32) (k : Word) : Word :=
  match shflFrom mode (32 / 2 ^ w) i.val k.toNat with
  | some t => if vis.getLsbD t then a (Fin.ofNat 32 t) else a i
  | none => a i
def execShfl (o : ROps) (s : State) : Out :=
  issueReg (.shfl o) s fun x =>
    x.out o.d fun i => .pure (shflVal x.vis (fld o.mod 1 0) (fld o.mod 4 2) (x.src o.a) i (x.src o.b i))
def execShflI (o : IOps) (s : State) : Out :=
  issueReg (.shflI o) s fun x =>
    x.out o.d fun i => .pure (shflVal x.vis (fld o.mod 1 0) (fld o.mod 4 2) (x.src o.a) i o.imm)

/-- The value of `vote` (R130): the mask, or one truth value. -/
def voteVal (mode : Nat) (vis : Mask) (a : Fin 32 → Word) : Mask ⊕ Bool :=
  let hits := vis &&& maskOf fun i => a i != 0
  match mode with
  | 0 => .inl hits
  | 1 => .inr (hits != 0)
  | 2 => .inr (hits == vis)
  | _ => .inr (match vis.lowest with | some j => vis.strands.all fun i => a i == a j | none => true)
/-- A guard that holds for no strand leaves the destination as it is (04 R92). With no guard and `em` zero an `s` register takes the
value that R130 gives for no visited strand (DEDUCED, log entry 80). -/
def execVote (o : ROps) (s : State) : Out :=
  issueReg (.vote o) s fun x =>
    if x.vis = 0 ∧ (o.h.gp ≠ 0 ∨ o.h.gn) then .ok {}
    else match voteVal (fld o.mod 1 0) x.vis (x.src o.a) with
    | .inl m => if o.d.isS then x.out o.d fun _ => .pure m else x.outP o.d fun i => .pure (m.getLsbD i.val)
    | .inr b => if o.d.isS then x.out o.d fun _ => .pure (if b then 1 else 0) else x.outP o.d fun _ => .pure b
def execRdfl (o : ROps) (s : State) : Out :=
  issueReg (.rdfl o) s fun x =>
    match x.vis.lowest with
    | some j => x.out o.d fun _ => .pure (x.src o.a j)
    | none => .ok {}

/-- How a named lane stands to the issuing fragment (R126). -/
inductive LaneSt where
  | here | other | suspended
  deriving DecidableEq, Repr
/-- A suspended arm of some token holds the lane. -/
def suspendedIn (n : Nat) (ts : List Token) : Bool :=
  ts.any fun t => (t.a0.st == .suspended && t.a0.mem.getLsbD n) || (t.a1.st == .suspended && t.a1.mem.getLsbD n)
/-- A named lane as the issuing fragment meets it: of its own, of its sibling, which may issue, of a suspended arm, else nowhere. A lane of
the fragment that a trap handler has suspended is none of these: it raises SYNC (log entry 102, DEDUCED). -/
def laneStatus (c : WaleCore) (a : ArmId) (n : Nat) : LaneSt :=
  if (c.frag a).mem.getLsbD n then .here
  else if a != .sole && (c.frag a.sib).live && (c.frag a.sib).mem.getLsbD n then .other
  else if suspendedIn n c.stack then .suspended
  else .here
/-- Read lane `n` of A into the result `out`: wait for the other fragment as a single-fragment point, or SYNC. -/
def laneRead (i : Instr) (s : State) (lane : Ctx → Fin 32) (a : Opnd) (out : Ctx → Word → Except Flt Res) : Out :=
  issueWith i s fun x =>
    let n := lane x
    let j : Sfp := if laneStatus x.core x.arm n.val == .other then judge x.core x.arm false else .go
    let x := x.withCore (applyJudge x.core x.arm false j)
    if !j.proceeds x.arm then x.s
    else if laneStatus x.core x.arm n.val == .suspended then x.raiseEm cSYNC
    else match out x (x.src a n) with
      | .ok r => x.finish false r
      | .error e => x.raise e
def execRdln (o : ROps) (s : State) : Out :=
  laneRead (.rdln o) s (fun x => (x.uni o.b).extractLsb' 0 5 |>.toFin) o.a fun x v => x.out o.d fun _ => .pure v
def execRdlnI (o : IOps) (s : State) : Out :=
  laneRead (.rdlnI o) s (fun _ => (o.imm.extractLsb' 0 5).toFin) o.a fun x v => x.out o.d fun _ => .pure v
def execBcast (o : ROps) (s : State) : Out :=
  laneRead (.bcast o) s (fun x => (x.uni o.b).extractLsb' 0 5 |>.toFin) o.a fun x v => x.out o.d fun _ => .pure v
def execBcastI (o : IOps) (s : State) : Out :=
  laneRead (.bcastI o) s (fun _ => (o.imm.extractLsb' 0 5).toFin) o.a fun x v => x.out o.d fun _ => .pure v

/-- One step of a reduction or scan (R132): operation OPN on type TY. -/
def redStep (opn ty : Nat) (a b : Word) : FRes Word :=
  let f32 (r : FRes Nat) : FRes Word := r.map (BitVec.ofNat 32)
  match opn with
  | 0 => if ty = 2 then f32 (fAdd fp32 .rne a.toNat b.toNat) else .pure (a + b)
  | 1 => if ty = 2 then f32 (fMinMax fp32 false a.toNat b.toNat) else .pure (minWord (ty == 1) a b)
  | 2 => if ty = 2 then f32 (fMinMax fp32 true a.toNat b.toNat) else .pure (maxWord (ty == 1) a b)
  | 3 => .pure (a &&& b)
  | 4 => .pure (a ||| b)
  | _ => .pure (a ^^^ b)
/-- The value an exclusive scan gives the first visited strand (R132). -/
def redIdent (opn ty : Nat) : Word :=
  match opn, ty with
  | 0, 2 => 0x80000000
  | 1, 0 => 0x7FFFFFFF
  | 1, 1 => 0xFFFFFFFF
  | 1, _ => 0x7F800000
  | 2, 0 => 0x80000000
  | 2, 1 => 0
  | 2, _ => 0xFF800000
  | 3, _ => 0xFFFFFFFF
  | _, _ => 0
/-- The scan over the strands: the accumulator before and after each, and the flags so far. -/
def scanSteps (opn ty : Nat) (a : Fin 32 → Word) :
    List (Fin 32) → Option Word → Word → List (Fin 32 × Option Word × Word) × Word
  | [], _, fl => ([], fl)
  | i :: r, acc, fl =>
    let y : FRes Word := match acc with | some v => redStep opn ty v (a i) | none => .pure (a i)
    let (rest, fl') := scanSteps opn ty a r (some y.val) (fl ||| y.fl)
    ((i, acc, y.val) :: rest, fl')
def execLred (o : ROps) (s : State) : Out :=
  issueReg (.lred o) s fun x =>
    let (steps, fl) := scanSteps (fld o.mod 2 0) (fld o.mod 4 3) (x.src o.a) x.vis.strands none 0
    match steps.getLast? with
    | some e =>
      match o.d with
      | .v n => .ok { writes := [.v n x.vis (Lanes.all e.2.2)], flags := fl }
      | .s n => .ok { writes := [.s n e.2.2], flags := fl }
      | _ => .ok {}
    | none => .ok {}
def execLscan (o : ROps) (s : State) : Out :=
  issueReg (.lscan o) s fun x =>
    let (steps, fl) := scanSteps (fld o.mod 2 0) (fld o.mod 4 3) (x.src o.a) x.vis.strands none 0
    let val (i : Fin 32) : Word :=
      match steps.find? fun e => e.1 == i with
      | some e => if mbit o.mod 5 then e.2.1.getD (redIdent (fld o.mod 2 0) (fld o.mod 4 3)) else e.2.2
      | none => 0
    match o.d with
    | .v n => .ok { writes := [.v n x.vis (Vector.ofFn val)], flags := fl }
    | _ => .ok {}

/-- The visited strands whose value equals strand `i`'s (R131). -/
def matchMask {α : Type} [DecidableEq α] (vis : Mask) (a : Fin 32 → α) (i : Fin 32) : Mask :=
  vis &&& maskOf fun t => decide (a t = a i)
def execLmatch (o : ROps) (s : State) : Out :=
  issueReg (.lmatch o) s fun x =>
    x.out o.d fun i => .pure (if mbit o.mod 0 then matchMask x.vis (x.src64 o.a) i else matchMask x.vis (x.src o.a) i)
def execElect (o : ROps) (s : State) : Out :=
  issueReg (.elect o) s fun x => x.outP o.d fun i => .pure (x.vis.lowest == some i)

/-! ### Predicates and the execution mask (05 R133 to R135) -/

def execPand (o : ROps) (s : State) : Out :=
  issueReg (.pand o) s fun x => x.outP o.d fun i => .pure ((x.pred o.a &&& x.pred o.b).getLsbD i.val)
def execPor (o : ROps) (s : State) : Out :=
  issueReg (.por o) s fun x => x.outP o.d fun i => .pure ((x.pred o.a ||| x.pred o.b).getLsbD i.val)
def execPxor (o : ROps) (s : State) : Out :=
  issueReg (.pxor o) s fun x => x.outP o.d fun i => .pure ((x.pred o.a ^^^ x.pred o.b).getLsbD i.val)
def execPnot (o : ROps) (s : State) : Out :=
  issueReg (.pnot o) s fun x => x.outP o.d fun i => .pure (!(x.pred o.a).getLsbD i.val)
def execPmov (o : ROps) (s : State) : Out :=
  issueReg (.pmov o) s fun x =>
    if o.d.isS then x.out o.d fun _ => .pure (x.pred o.a)
    else x.outP o.d fun i => .pure ((x.maskSrc o.a).getLsbD i.val)
/-- `emget` (R134): a p destination takes all 32 bits. -/
def execEmget (o : ROps) (s : State) : Out :=
  issueReg (.emget o) s fun x =>
    match o.d with
    | .p n => .ok { writes := [.p n 0xFFFFFFFF x.fr.em] }
    | d => x.out d fun _ => .pure x.fr.em
/-- `emset` (R135): with no strand left the fragment parks at the top token's `join`, or SYNC with an empty stack. -/
def execEmset (o : ROps) (s : State) : Out :=
  issueWith (.emset o) s fun x =>
    let em := x.maskSrc o.a &&& x.fr.mem
    if em ≠ 0 then (x.withCore (x.core.setFrag x.arm { x.fr with em := em })).finish false {}
    else if x.core.stack.isEmpty then x.raiseEm cSYNC
    else x.commit (((x.core.effect x.arm x.la x.lld {}).counted false).park x.arm) []

end Sys2Proof.Machine
end

