-- ==== Sys2Proof/Machine/System.lean ====
section
/-! DEFINITION. System instructions: `trap`, `brkpt`, `srd`, `swr`, `tret`, `fwcall` (11 R256 to R260, R265, R269). -/

namespace Sys2Proof.Machine

/-! ### trap, brkpt (R259) -/

def execTrap (o : IOps) (s : State) : Out :=
  issueWith (.trap o) s fun x => x.raise { code := cTRAP, addr := BitVec.ofNat 64 (fld o.imm 15 0), mask := x.fr.em }
def execBrkpt (o : IOps) (s : State) : Out :=
  issueWith (.brkpt o) s fun x =>
    if pkHandler x.st.basket.pkt == 0 then x.finish false {}
    else x.raise { code := cBRKP, addr := BitVec.ofNat 64 (fld o.imm 15 0), mask := x.fr.em }

/-! ### srd, swr (R257, R258, 02 R45, R46) -/

/-- `sr.occ`: the counters of the four classes. -/
def Wale.occ (w : Wale) : Word :=
  BitVec.ofNat 32 (vget w.cnt 0 + vget w.cnt 1 * 2 ^ 8 + vget w.cnt 2 * 2 ^ 16 + vget w.cnt 3 * 2 ^ 24)
/-- `sr.rgn`: ICOUNT, WCOUNT, PREV. -/
def Wale.rgn (w : Wale) : Word :=
  BitVec.ofNat 32 (w.core.icount + w.core.wcount * 2 ^ 10) ||| flagIf w.old.isSome 0x20000

/-- The value at a special-register index; the upper index of a 64-bit register gives its upper half. -/
def Ctx.srVal (x : Ctx) (i : Nat) : Word :=
  let c := x.core
  let cyc := Config.cycleCount x.st.hoop.core x.cc
  let cb := pkCbase x.st.skein.pkt
  match i with
  | 0x01 => BitVec.ofNat 32 x.st.wl.idx
  | 0x02 => BitVec.ofNat 32 x.st.hoop.idx
  | 0x03 => BitVec.ofNat 32 (rimOf x.st.skein.pkt x.st.hoop.idx)
  | 0x04 => BitVec.ofNat 32 x.st.skein.num
  | 0x05 => BitVec.ofNat 32 x.st.hoop.coreNo
  | 0x06 => BitVec.ofNat 32 x.st.hoop.cluster
  | 0x07 => BitVec.ofNat 32 x.st.hoop.die
  | 0x08 => lo32 cyc
  | 0x09 => hi32 cyc
  | 0x0A => x.st.wl.qev
  | 0x0B => c.yleft
  | 0x0C => lo32 cb
  | 0x0D => hi32 cb
  | 0x0E => c.fflags
  | 0x0F => c.fcause
  | 0x10 => lo32 c.fpc
  | 0x11 => hi32 c.fpc
  | 0x12 => lo32 c.faddr
  | 0x13 => hi32 c.faddr
  | 0x14 => c.fmask
  | 0x15 => c.batch.setWidth 32
  | 0x16 => x.st.wl.occ
  | 0x17 => BitVec.ofNat 32 c.stack.length
  | 0x18 => vget c.lc 0
  | 0x19 => vget c.lc 1
  | 0x1A => vget c.lc 2
  | 0x1B => x.st.wl.rgn
  | _ => 0

def execSrd (o : IOps) (s : State) : Out :=
  issueReg (.srd o) s fun x =>
    let i := fld o.imm 5 0
    if i = 0 then x.out o.d fun j => ⟨BitVec.ofNat 32 j.val, 0⟩
    else if fld o.imm 6 6 = 1 then x.out64 o.d fun _ => pair (x.srVal i) (x.srVal (i + 1))
    else x.out o.d fun _ => ⟨x.srVal i, 0⟩

/-- Loop counter `n` written by `swr`: zero ends an active loop (07 R172). -/
def WaleCore.setLc (c : WaleCore) (n : Fin 3) (v : Word) : WaleCore :=
  let c := { c with lc := vset c.lc n v }
  if v = 0 then
    { c with lstack := c.lstack.filter fun m => m != n, loops := vset c.loops n { vget c.loops n with lact := false } }
  else c
/-- A 32-bit value written at a special-register index (R258). -/
def WaleCore.setSr (c : WaleCore) (i : Nat) (v : Word) : WaleCore :=
  match i with
  | 0x0E => { c with fflags := v &&& 0x3F }
  | 0x0F => { c with fcause := v &&& 0x7FF }
  | 0x10 => { c with fpc := pair v (hi32 c.fpc) }
  | 0x11 => { c with fpc := pair (lo32 c.fpc) v }
  | 0x12 => { c with faddr := pair v (hi32 c.faddr) }
  | 0x13 => { c with faddr := pair (lo32 c.faddr) v }
  | 0x14 => { c with fmask := v }
  | 0x18 => c.setLc 0 v
  | 0x19 => c.setLc 1 v
  | 0x1A => c.setLc 2 v
  | _ => c
def execSwr (o : IOps) (s : State) : Out :=
  issueWith (.swr o) s fun x =>
    let i := fld o.imm 5 0
    x.commit (((((if fld o.imm 6 6 = 1 then
        (x.core.setSr i (lo32 (x.uni64 o.a))).setSr (i + 1) (hi32 (x.uni64 o.a))
      else x.core.setSr i (x.uni o.a))).effect x.arm x.la x.lld {}).counted false).advance x.arm) []

/-! ### tret (R265, R269) -/

/-- The handler's frame, when `tret` may close it. -/
def Ctx.openFrame (x : Ctx) : Option TrapFrame :=
  match x.core.frame with
  | some f => if f.depth = x.core.stack.length then some f else none
  | none => none
/-- `tret` completes: the frame closes, the fragment continues at `pc`, a region head is made. `held`: the retained
command released again. -/
def Ctx.tret (x : Ctx) (f : TrapFrame) (pc : Dword) (arr : Bool) (retry : Option Dword) (held : List Held) : State :=
  (x.commit (((x.core.effect x.arm x.la x.lld {}).counted false).closeFrame x.arm f pc arr retry) held).headAfter x

def execTretTo (o : ROps) (s : State) : Out :=
  issueWith (.tretTo o) s fun x =>
    match x.openFrame with
    | none => x.raiseEm cSYNC
    | some f =>
      let t := x.uni64 o.a
      if x.targetRejected t then
        x.s.raiseRec x.st x.arm
          { code := cBTGT, shd := x.core.inShadow x.arm, eng := false, fetch := true, pc := t, addr := t, mask := x.fr.em, resume := t,
            cmd := none }
      else if x.st.wl.old.isSome then x.drainWait
      else x.tret f t true none []
/-- `tret.retry`: a retained engine command is released again, or the faulting instruction issues again, and the fragment
continues at the resume PC. The engine fault of a `hwaitd` retains none: its delivery instruction is executed again (R269). -/
def execTretRetry (o : ROps) (s : State) : Out :=
  issueWith (.tretRetry o) s fun x =>
    match x.openFrame with
    | none => x.raiseEm cSYNC
    | some f =>
      if x.st.wl.old.isSome then x.drainWait
      else match f.cmd with
        | some k =>
          let h : Held := .cmd { k with again := true }
          if x.counterFull k.classes || ((match k.ins with | .spawn _ => true | _ => false) && x.spawnFull) then
            x.hold (.wait false)
          else if !x.room h then x.drainWait
          else x.tret f f.resume false none [h]
        | none =>
          if f.eng then x.tret f f.resume false none []
          else if f.fetch then x.tret f f.resume true none [] else x.tret f f.pc false (some f.resume) []
def execTretSkip (o : ROps) (s : State) : Out :=
  issueWith (.tretSkip o) s fun x =>
    match x.openFrame with
    | none => x.raiseEm cSYNC
    | some f => if x.st.wl.old.isSome then x.drainWait else x.tret f f.resume f.fetch none []

/-! ### fwcall (R260) -/

/-- `fwcall`: the request goes to the firmware in a region that opens here, so that no restart repeats it; the other fragment keeps
issuing (01 R25). A is read when it is given, whatever the service (log entry 101). -/
def execFwcall (o : IOps) (s : State) : Out :=
  issueWith (.fwcall o) s fun x =>
    let a := if o.a = .none then 0 else x.uni o.a
    let c := { x.core with call := some { arm := x.arm, n := fld o.imm 11 0, x := a, d := o.d } }
    x.s.setWale x.st.w (Wale.reopen { x.st.wl with core := c } x.cc)

end Sys2Proof.Machine
end

