-- ==== Sys2Proof/Machine/Dispatch.lean ====
section
/-! DEFINITION. The meaning of every instruction, event and control operation: one arm per constructor. -/

namespace Sys2Proof.Machine

def exec (i : Instr) (s : State) : Host.Outcome State Fault Refusal :=
  match i with
  | .nop => Sys2Proof.Machine.execNop s
  | .iadd x1 => Sys2Proof.Machine.execIadd x1 s
  | .iaddI x1 => Sys2Proof.Machine.execIaddI x1 s
  | .isub x1 => Sys2Proof.Machine.execIsub x1 s
  | .isubI x1 => Sys2Proof.Machine.execIsubI x1 s
  | .iadds x1 => Sys2Proof.Machine.execIadds x1 s
  | .iaddsI x1 => Sys2Proof.Machine.execIaddsI x1 s
  | .isubs x1 => Sys2Proof.Machine.execIsubs x1 s
  | .isubsI x1 => Sys2Proof.Machine.execIsubsI x1 s
  | .imul x1 => Sys2Proof.Machine.execImul x1 s
  | .imulI x1 => Sys2Proof.Machine.execImulI x1 s
  | .imulh x1 => Sys2Proof.Machine.execImulh x1 s
  | .imulhI x1 => Sys2Proof.Machine.execImulhI x1 s
  | .imad x1 => Sys2Proof.Machine.execImad x1 s
  | .imadw x1 => Sys2Proof.Machine.execImadw x1 s
  | .idiv x1 => Sys2Proof.Machine.execIdiv x1 s
  | .idivI x1 => Sys2Proof.Machine.execIdivI x1 s
  | .irem x1 => Sys2Proof.Machine.execIrem x1 s
  | .iremI x1 => Sys2Proof.Machine.execIremI x1 s
  | .imin x1 => Sys2Proof.Machine.execImin x1 s
  | .iminI x1 => Sys2Proof.Machine.execIminI x1 s
  | .imax x1 => Sys2Proof.Machine.execImax x1 s
  | .imaxI x1 => Sys2Proof.Machine.execImaxI x1 s
  | .iabs x1 => Sys2Proof.Machine.execIabs x1 s
  | .iadd64 x1 => Sys2Proof.Machine.execIadd64 x1 s
  | .iadd64I x1 => Sys2Proof.Machine.execIadd64I x1 s
  | .isub64 x1 => Sys2Proof.Machine.execIsub64 x1 s
  | .isub64I x1 => Sys2Proof.Machine.execIsub64I x1 s
  | .lea x1 => Sys2Proof.Machine.execLea x1 s
  | .leaI x1 => Sys2Proof.Machine.execLeaI x1 s
  | .iand x1 => Sys2Proof.Machine.execIand x1 s
  | .iandI x1 => Sys2Proof.Machine.execIandI x1 s
  | .ior x1 => Sys2Proof.Machine.execIor x1 s
  | .iorI x1 => Sys2Proof.Machine.execIorI x1 s
  | .ixor x1 => Sys2Proof.Machine.execIxor x1 s
  | .ixorI x1 => Sys2Proof.Machine.execIxorI x1 s
  | .iandn x1 => Sys2Proof.Machine.execIandn x1 s
  | .iandnI x1 => Sys2Proof.Machine.execIandnI x1 s
  | .inot x1 => Sys2Proof.Machine.execInot x1 s
  | .shl x1 => Sys2Proof.Machine.execShl x1 s
  | .shlI x1 => Sys2Proof.Machine.execShlI x1 s
  | .shr x1 => Sys2Proof.Machine.execShr x1 s
  | .shrI x1 => Sys2Proof.Machine.execShrI x1 s
  | .sar x1 => Sys2Proof.Machine.execSar x1 s
  | .sarI x1 => Sys2Proof.Machine.execSarI x1 s
  | .rotl x1 => Sys2Proof.Machine.execRotl x1 s
  | .rotlI x1 => Sys2Proof.Machine.execRotlI x1 s
  | .bfe x1 => Sys2Proof.Machine.execBfe x1 s
  | .bfeI x1 => Sys2Proof.Machine.execBfeI x1 s
  | .bfi x1 => Sys2Proof.Machine.execBfi x1 s
  | .popc x1 => Sys2Proof.Machine.execPopc x1 s
  | .clz x1 => Sys2Proof.Machine.execClz x1 s
  | .brev x1 => Sys2Proof.Machine.execBrev x1 s
  | .icmp x1 => Sys2Proof.Machine.execIcmp x1 s
  | .icmpI x1 => Sys2Proof.Machine.execIcmpI x1 s
  | .sel x1 => Sys2Proof.Machine.execSel x1 s
  | .mov x1 => Sys2Proof.Machine.execMov x1 s
  | .movi x1 => Sys2Proof.Machine.execMovi x1 s
  | .idp4 x1 => Sys2Proof.Machine.execIdp4 x1 s
  | .shfl x1 => Sys2Proof.Machine.execShfl x1 s
  | .shflI x1 => Sys2Proof.Machine.execShflI x1 s
  | .vote x1 => Sys2Proof.Machine.execVote x1 s
  | .rdfl x1 => Sys2Proof.Machine.execRdfl x1 s
  | .rdln x1 => Sys2Proof.Machine.execRdln x1 s
  | .rdlnI x1 => Sys2Proof.Machine.execRdlnI x1 s
  | .bcast x1 => Sys2Proof.Machine.execBcast x1 s
  | .bcastI x1 => Sys2Proof.Machine.execBcastI x1 s
  | .lred x1 => Sys2Proof.Machine.execLred x1 s
  | .lscan x1 => Sys2Proof.Machine.execLscan x1 s
  | .lmatch x1 => Sys2Proof.Machine.execLmatch x1 s
  | .elect x1 => Sys2Proof.Machine.execElect x1 s
  | .pand x1 => Sys2Proof.Machine.execPand x1 s
  | .por x1 => Sys2Proof.Machine.execPor x1 s
  | .pxor x1 => Sys2Proof.Machine.execPxor x1 s
  | .pnot x1 => Sys2Proof.Machine.execPnot x1 s
  | .pmov x1 => Sys2Proof.Machine.execPmov x1 s
  | .emget x1 => Sys2Proof.Machine.execEmget x1 s
  | .emset x1 => Sys2Proof.Machine.execEmset x1 s
  | .fadd x1 => Sys2Proof.Machine.execFadd x1 s
  | .faddI x1 => Sys2Proof.Machine.execFaddI x1 s
  | .fsub x1 => Sys2Proof.Machine.execFsub x1 s
  | .fsubI x1 => Sys2Proof.Machine.execFsubI x1 s
  | .fmul x1 => Sys2Proof.Machine.execFmul x1 s
  | .fmulI x1 => Sys2Proof.Machine.execFmulI x1 s
  | .fma x1 => Sys2Proof.Machine.execFma x1 s
  | .fmin x1 => Sys2Proof.Machine.execFmin x1 s
  | .fminI x1 => Sys2Proof.Machine.execFminI x1 s
  | .fmax x1 => Sys2Proof.Machine.execFmax x1 s
  | .fmaxI x1 => Sys2Proof.Machine.execFmaxI x1 s
  | .fcmp x1 => Sys2Proof.Machine.execFcmp x1 s
  | .fcmpI x1 => Sys2Proof.Machine.execFcmpI x1 s
  | .fclass x1 => Sys2Proof.Machine.execFclass x1 s
  | .fdiv x1 => Sys2Proof.Machine.execFdiv x1 s
  | .fdivI x1 => Sys2Proof.Machine.execFdivI x1 s
  | .frcp x1 => Sys2Proof.Machine.execFrcp x1 s
  | .fsqrt x1 => Sys2Proof.Machine.execFsqrt x1 s
  | .frsq x1 => Sys2Proof.Machine.execFrsq x1 s
  | .fpow2 x1 => Sys2Proof.Machine.execFpow2 x1 s
  | .flog2 x1 => Sys2Proof.Machine.execFlog2 x1 s
  | .frnd x1 => Sys2Proof.Machine.execFrnd x1 s
  | .hadd2 x1 => Sys2Proof.Machine.execHadd2 x1 s
  | .hmul2 x1 => Sys2Proof.Machine.execHmul2 x1 s
  | .hfma2 x1 => Sys2Proof.Machine.execHfma2 x1 s
  | .fdp2 x1 => Sys2Proof.Machine.execFdp2 x1 s
  | .cvt x1 => Sys2Proof.Machine.execCvt x1 s
  | .cvtb x1 => Sys2Proof.Machine.execCvtb x1 s
  | .cvtbx x1 => Sys2Proof.Machine.execCvtbx x1 s
  | .bra x1 => Sys2Proof.Machine.execBra x1 s
  | .brcNz x1 => Sys2Proof.Machine.execBrcNz x1 s
  | .brcZ x1 => Sys2Proof.Machine.execBrcZ x1 s
  | .brd x1 => Sys2Proof.Machine.execBrd x1 s
  | .tok x1 => Sys2Proof.Machine.execTok x1 s
  | .join x1 => Sys2Proof.Machine.execJoin x1 s
  | .brk x1 => Sys2Proof.Machine.execBrk x1 s
  | .jmp x1 => Sys2Proof.Machine.execJmp x1 s
  | .call x1 => Sys2Proof.Machine.execCall x1 s
  | .callr x1 => Sys2Proof.Machine.execCallr x1 s
  | .ret x1 => Sys2Proof.Machine.execRet x1 s
  | .loop x1 => Sys2Proof.Machine.execLoop x1 s
  | .exit x1 => Sys2Proof.Machine.execExit x1 s
  | .yield x1 => Sys2Proof.Machine.execYield x1 s
  | .rhead x1 => Sys2Proof.Machine.execRhead x1 s
  | .ld x1 => Sys2Proof.Machine.execLd x1 s
  | .st x1 => Sys2Proof.Machine.execSt x1 s
  | .ldsp x1 => Sys2Proof.Machine.execLdsp x1 s
  | .stsp x1 => Sys2Proof.Machine.execStsp x1 s
  | .ldcl x1 => Sys2Proof.Machine.execLdcl x1 s
  | .stcl x1 => Sys2Proof.Machine.execStcl x1 s
  | .lddie x1 => Sys2Proof.Machine.execLddie x1 s
  | .stdie x1 => Sys2Proof.Machine.execStdie x1 s
  | .ldpv x1 => Sys2Proof.Machine.execLdpv x1 s
  | .stpv x1 => Sys2Proof.Machine.execStpv x1 s
  | .pref x1 => Sys2Proof.Machine.execPref x1 s
  | .fence x1 => Sys2Proof.Machine.execFence x1 s
  | .cpub x1 => Sys2Proof.Machine.execCpub x1 s
  | .atom x1 => Sys2Proof.Machine.execAtom x1 s
  | .atomsp x1 => Sys2Proof.Machine.execAtomsp x1 s
  | .red x1 => Sys2Proof.Machine.execRed x1 s
  | .xadd x1 => Sys2Proof.Machine.execXadd x1 s
  | .xrd x1 => Sys2Proof.Machine.execXrd x1 s
  | .xclr x1 => Sys2Proof.Machine.execXclr x1 s
  | .swinit x1 => Sys2Proof.Machine.execSwinit x1 s
  | .swexp x1 => Sys2Proof.Machine.execSwexp x1 s
  | .arv x1 => Sys2Proof.Machine.execArv x1 s
  | .wtg x1 => Sys2Proof.Machine.execWtg x1 s
  | .bar x1 => Sys2Proof.Machine.execBar x1 s
  | .rbar x1 => Sys2Proof.Machine.execRbar x1 s
  | .sbar x1 => Sys2Proof.Machine.execSbar x1 s
  | .cpy x1 => Sys2Proof.Machine.execCpy x1 s
  | .cpyst x1 => Sys2Proof.Machine.execCpyst x1 s
  | .seal x1 => Sys2Proof.Machine.execSeal x1 s
  | .wtbSrc x1 => Sys2Proof.Machine.execWtbSrc x1 s
  | .wtbVis x1 => Sys2Proof.Machine.execWtbVis x1 s
  | .wtc x1 => Sys2Proof.Machine.execWtc x1 s
  | .cpyt x1 => Sys2Proof.Machine.execCpyt x1 s
  | .cpymm x1 => Sys2Proof.Machine.execCpymm x1 s
  | .gthr x1 => Sys2Proof.Machine.execGthr x1 s
  | .scat x1 => Sys2Proof.Machine.execScat x1 s
  | .coll x1 => Sys2Proof.Machine.execColl x1 s
  | .spawn x1 => Sys2Proof.Machine.execSpawn x1 s
  | .sig x1 => Sys2Proof.Machine.execSig x1 s
  | .hwaitd x1 => Sys2Proof.Machine.execHwaitd x1 s
  | .tsdef x1 => Sys2Proof.Machine.execTsdef x1 s
  | .tsset x1 => Sys2Proof.Machine.execTsset x1 s
  | .tsinv x1 => Sys2Proof.Machine.execTsinv x1 s
  | .mma x1 => Sys2Proof.Machine.execMma x1 s
  | .mmad x1 => Sys2Proof.Machine.execMmad x1 s
  | .mconv x1 => Sys2Proof.Machine.execMconv x1 s
  | .mzero x1 => Sys2Proof.Machine.execMzero x1 s
  | .mld x1 => Sys2Proof.Machine.execMld x1 s
  | .mst x1 => Sys2Proof.Machine.execMst x1 s
  | .rsdef x1 => Sys2Proof.Machine.execRsdef x1 s
  | .rsinv x1 => Sys2Proof.Machine.execRsinv x1 s
  | .rssave x1 => Sys2Proof.Machine.execRssave x1 s
  | .rsload x1 => Sys2Proof.Machine.execRsload x1 s
  | .rsstat x1 => Sys2Proof.Machine.execRsstat x1 s
  | .mfence x1 => Sys2Proof.Machine.execMfence x1 s
  | .trap x1 => Sys2Proof.Machine.execTrap x1 s
  | .srd x1 => Sys2Proof.Machine.execSrd x1 s
  | .swr x1 => Sys2Proof.Machine.execSwr x1 s
  | .tretTo x1 => Sys2Proof.Machine.execTretTo x1 s
  | .tretRetry x1 => Sys2Proof.Machine.execTretRetry x1 s
  | .tretSkip x1 => Sys2Proof.Machine.execTretSkip x1 s
  | .brkpt x1 => Sys2Proof.Machine.execBrkpt x1 s
  | .fwcall x1 => Sys2Proof.Machine.execFwcall x1 s
  | .fwcallReply x1 => Sys2Proof.Machine.execFwcallReply x1 s
  | .resultLand x1 => Sys2Proof.Machine.execResultLand x1 s
  | .regionRelease x1 => Sys2Proof.Machine.execRegionRelease x1 s
  | .wakeWave x1 x2 => Sys2Proof.Machine.execWakeWave x1 x2 s
  | .hwaitdWake x1 => Sys2Proof.Machine.execHwaitdWake x1 s
  | .wdog x1 => Sys2Proof.Machine.execWdog x1 s
  | .homeoffReply x1 => Sys2Proof.Machine.execHomeoffReply x1 s
  | .pageReplyMapped x1 x2 => Sys2Proof.Machine.execPageReplyMapped x1 x2 s
  | .pageReplyRefused x1 x2 => Sys2Proof.Machine.execPageReplyRefused x1 x2 s
  | .waleRetire x1 => Sys2Proof.Machine.execWaleRetire x1 s
  | .engineCommandComplete x1 => Sys2Proof.Machine.execEngineCommandComplete x1 s
  | .sourcePoint x1 => Sys2Proof.Machine.execSourcePoint x1 s
  | .engineFault x1 => Sys2Proof.Machine.execEngineFault x1 s
  | .stagingClear x1 => Sys2Proof.Machine.execStagingClear x1 s
  | .cpymmFollowOn x1 => Sys2Proof.Machine.execCpymmFollowOn x1 s
  | .matrixBurstStart x1 => Sys2Proof.Machine.execMatrixBurstStart x1 s
  | .matrixResultClear x1 => Sys2Proof.Machine.execMatrixResultClear x1 s
  | .unitPreempt x1 x2 => Sys2Proof.Machine.execUnitPreempt x1 x2 s
  | .unitResume x1 x2 => Sys2Proof.Machine.execUnitResume x1 x2 s
  | .lineFill x1 x2 => Sys2Proof.Machine.execLineFill x1 x2 s
  | .sensorReport x1 x2 x3 => Sys2Proof.Machine.execSensorReport x1 x2 x3 s
  | .guardEvent x1 x2 x3 => Sys2Proof.Machine.execGuardEvent x1 x2 x3 s
  | .tagWindowClose x1 x2 => Sys2Proof.Machine.execTagWindowClose x1 x2 s
  | .clearSend x1 x2 => Sys2Proof.Machine.execClearSend x1 x2 s
  | .taggedFlitReceive x1 x2 x3 => Sys2Proof.Machine.execTaggedFlitReceive x1 x2 x3 s
  | .clearReceive x1 x2 x3 x4 x5 => Sys2Proof.Machine.execClearReceive x1 x2 x3 x4 x5 s
  | .squashReceive x1 x2 x3 x4 x5 => Sys2Proof.Machine.execSquashReceive x1 x2 x3 x4 x5 s
  | .vfQnotify x1 x2 x3 => Sys2Proof.Machine.execVfQnotify x1 x2 x3 s
  | .queueEnable x1 x2 x3 => Sys2Proof.Machine.execQueueEnable x1 x2 x3 s
  | .queueDisable x1 x2 x3 => Sys2Proof.Machine.execQueueDisable x1 x2 x3 s
  | .queueResume x1 x2 x3 => Sys2Proof.Machine.execQueueResume x1 x2 x3 s
  | .nopEntry x1 x2 => Sys2Proof.Machine.execNopEntry x1 x2 s
  | .launch x1 x2 => Sys2Proof.Machine.execLaunch x1 x2 s
  | .signalWait x1 x2 => Sys2Proof.Machine.execSignalWait x1 x2 s
  | .signalWrite x1 x2 => Sys2Proof.Machine.execSignalWrite x1 x2 s
  | .graphNodeDeclaration x1 x2 => Sys2Proof.Machine.execGraphNodeDeclaration x1 x2 s
  | .recoveryExtension x1 x2 => Sys2Proof.Machine.execRecoveryExtension x1 x2 s
  | .unknownEntry x1 x2 => Sys2Proof.Machine.execUnknownEntry x1 x2 s
  | .rimAdmit x1 => Sys2Proof.Machine.execRimAdmit x1 s
  | .heldSkeinAdmit x1 => Sys2Proof.Machine.execHeldSkeinAdmit x1 s
  | .prodbmPoll => Sys2Proof.Machine.execProdbmPoll s
  | .priorityPreempt x1 => Sys2Proof.Machine.execPriorityPreempt x1 s
  | .vfEvbaseWrite x1 x2 => Sys2Proof.Machine.execVfEvbaseWrite x1 x2 s
  | .vfEvptrWrite x1 x2 => Sys2Proof.Machine.execVfEvptrWrite x1 x2 s
  | .functionLevelReset x1 => Sys2Proof.Machine.execFunctionLevelReset x1 s
  | .purge x1 x2 => Sys2Proof.Machine.execPurge x1 x2 s
  | .wsSave x1 => Sys2Proof.Machine.execWsSave x1 s
  | .wsMsave x1 => Sys2Proof.Machine.execWsMsave x1 s
  | .wsRestore x1 => Sys2Proof.Machine.execWsRestore x1 s
  | .qcancel x1 x2 => Sys2Proof.Machine.execQcancel x1 x2 s
  | .partitionChange => Sys2Proof.Machine.execPartitionChange s
  | .funcpartWrite x1 x2 => Sys2Proof.Machine.execFuncpartWrite x1 x2 s
  | .dieResetGo x1 => Sys2Proof.Machine.execDieResetGo x1 s
  | .quiesceTimeout => Sys2Proof.Machine.execQuiesceTimeout s
  | .flush => Sys2Proof.Machine.execFlush s
  | .dieReset => Sys2Proof.Machine.execDieReset s
  | .retrain => Sys2Proof.Machine.execRetrain s
  | .readmit => Sys2Proof.Machine.execReadmit s
  | .attestationRequest x1 => Sys2Proof.Machine.execAttestationRequest x1 s
  | .flitCrcRetry x1 => Sys2Proof.Machine.execFlitCrcRetry x1 s
  | .protocolError x1 x2 => Sys2Proof.Machine.execProtocolError x1 x2 s
  | .linkRetrain x1 => Sys2Proof.Machine.execLinkRetrain x1 s
  | .retryThreshold x1 => Sys2Proof.Machine.execRetryThreshold x1 s
  | .laneFailure x1 => Sys2Proof.Machine.execLaneFailure x1 s
  | .trainingTimeout x1 => Sys2Proof.Machine.execTrainingTimeout x1 s
  | .sigadd x1 x2 x3 => Sys2Proof.Machine.execSigadd x1 x2 x3 s
  | .revoke x1 => Sys2Proof.Machine.execRevoke x1 s
  | .grantRelease x1 x2 x3 => Sys2Proof.Machine.execGrantRelease x1 x2 x3 s
  | .grantTimeout x1 => Sys2Proof.Machine.execGrantTimeout x1 s
  | .notificationDelivery x1 => Sys2Proof.Machine.execNotificationDelivery x1 s
  | .hotLineCool x1 x2 => Sys2Proof.Machine.execHotLineCool x1 x2 s
  | .l1Gate x1 x2 => Sys2Proof.Machine.execL1Gate x1 x2 s
  | .waygateWrite x1 x2 => Sys2Proof.Machine.execWaygateWrite x1 x2 s
  | .keyRetire x1 x2 => Sys2Proof.Machine.execKeyRetire x1 x2 s
  | .keyRetireDone x1 => Sys2Proof.Machine.execKeyRetireDone x1 s
  | .tlbInvalidate x1 x2 => Sys2Proof.Machine.execTlbInvalidate x1 x2 s
  | .tlbInvalidateDone x1 => Sys2Proof.Machine.execTlbInvalidateDone x1 s
  | .dscWinWrite x1 x2 x3 => Sys2Proof.Machine.execDscWinWrite x1 x2 x3 s
  | .windowZeroingDone x1 x2 => Sys2Proof.Machine.execWindowZeroingDone x1 x2 s
  | .bwshareWrite x1 x2 x3 => Sys2Proof.Machine.execBwshareWrite x1 x2 x3 s
  | .hbmModeChange x1 x2 x3 => Sys2Proof.Machine.execHbmModeChange x1 x2 x3 s
  | .qsmWindowWrite x1 x2 => Sys2Proof.Machine.execQsmWindowWrite x1 x2 s
  | .qsmCtlWrite x1 x2 => Sys2Proof.Machine.execQsmCtlWrite x1 x2 s
  | .qsmInjectArm x1 x2 => Sys2Proof.Machine.execQsmInjectArm x1 x2 s
  | .qsmInjectDisarm x1 x2 => Sys2Proof.Machine.execQsmInjectDisarm x1 x2 s
  | .injectionFire x1 => Sys2Proof.Machine.execInjectionFire x1 s
  | .stormIntervalEnd x1 => Sys2Proof.Machine.execStormIntervalEnd x1 s
  | .sensorSelfTest x1 x2 x3 => Sys2Proof.Machine.execSensorSelfTest x1 x2 x3 s
  | .tokenHop x1 => Sys2Proof.Machine.execTokenHop x1 s
  | .tokenHoldLimit x1 x2 => Sys2Proof.Machine.execTokenHoldLimit x1 x2 s
  | .pwrTokensWrite x1 x2 => Sys2Proof.Machine.execPwrTokensWrite x1 x2 s
  | .classWrite x1 x2 x3 => Sys2Proof.Machine.execClassWrite x1 x2 x3 s
  | .classChangeApply x1 x2 => Sys2Proof.Machine.execClassChangeApply x1 x2 s
  | .railStep x1 x2 => Sys2Proof.Machine.execRailStep x1 x2 s
  | .railHoldExpiry x1 x2 => Sys2Proof.Machine.execRailHoldExpiry x1 x2 s
  | .allotmentThrottle x1 x2 x3 => Sys2Proof.Machine.execAllotmentThrottle x1 x2 x3 s
  | .pwrAllotWrite x1 x2 => Sys2Proof.Machine.execPwrAllotWrite x1 x2 s
  | .thermalSensorUpdate x1 x2 => Sys2Proof.Machine.execThermalSensorUpdate x1 x2 s
  | .thermalThrottleStep x1 => Sys2Proof.Machine.execThermalThrottleStep x1 s
  | .thermalTrip x1 => Sys2Proof.Machine.execThermalTrip x1 s
  | .noValidSensorTimeout x1 => Sys2Proof.Machine.execNoValidSensorTimeout x1 s
  | .packageReset => Sys2Proof.Machine.execPackageReset s
  | .fwPkgrstGo x1 => Sys2Proof.Machine.execFwPkgrstGo x1 s
  | .pluginTimeout x1 => Sys2Proof.Machine.execPluginTimeout x1 s
  | .pluginViolation x1 => Sys2Proof.Machine.execPluginViolation x1 s
  | .telemetryRecord => Sys2Proof.Machine.execTelemetryRecord s
  | .hostWindowRead x1 x2 x3 => Sys2Proof.Machine.execHostWindowRead x1 x2 x3 s
  | .hostWindowWrite x1 x2 x3 => Sys2Proof.Machine.execHostWindowWrite x1 x2 x3 s
  | .registerWrite x1 x2 x3 x4 => Sys2Proof.Machine.execRegisterWrite x1 x2 x3 x4 s
  | .trainingComplete x1 x2 x3 => Sys2Proof.Machine.execTrainingComplete x1 x2 x3 s
  | .burstEnd x1 => Sys2Proof.Machine.execBurstEnd x1 s
  | .wayGatingDone x1 => Sys2Proof.Machine.execWayGatingDone x1 s
  | .regionUnfence x1 x2 => Sys2Proof.Machine.execRegionUnfence x1 x2 s
  | .peerRequest x1 x2 x3 => Sys2Proof.Machine.execPeerRequest x1 x2 x3 s

end Sys2Proof.Machine
end

