-- ==== Sys2Proof/Machine/Next.lean ====
section
/-! DEFINITION. What happens next (01 R38, 15 R346; log entry 1): the agenda, an issue, or an operation that the device
performs by itself; and how a program is placed. -/

namespace Sys2Proof.Machine

/-! ### Operations that the device performs by itself -/

/-- An operation: the meaning of one of the events. -/
abbrev Op := State → Out
/-- The operation's next state, when it changes the state. -/
def State.moved (s : State) (o : Op) : Option State :=
  match o s with
  | .next t => if t = s then none else some t
  | _ => none

/-- Operations that wales stand before (04 R94, 01 R31, R51, 11 R260, R263). -/
def waleOps (e : Nat × Wale) : List Op :=
  let w := e.2
  (if w.core.shadows.all fun x => x.landed then [] else [execResultLand e.1])
  ++ (if w.core.hoff.isSome then [execHomeoffReply e.1] else [])
  ++ (if w.core.call.isSome then [execFwcallReply e.1] else [])
  ++ (if w.releasable || !w.due.isEmpty then [execRegionRelease e.1] else [])
  ++ (if w.st == .exited then [execWaleRetire e.1] else [])
/-- Operations that a released command stands before (09 R210 to R229, 10 R238, 17 R383). -/
def cmdSteps (e : Nat × Cmd) : List Op :=
  let c := e.2
  (if c.burst then [execBurstEnd e.1] else [])
  ++ (match c.stage with | .faulted _ _ => [execEngineFault e.1] | .done => [execEngineCommandComplete e.1] | _ => [])
  ++ (if c.cls == 2 then [execMatrixBurstStart e.1, execMatrixResultClear e.1] else [execSourcePoint e.1, execStagingClear e.1])
  ++ (if c.followOn then [execCpymmFollowOn e.1] else [])
/-- The next message of each lane of the links (13 R296, R297). -/
def State.linkOps (s : State) : List Op :=
  (s.links.filter fun m => s.nextOn m).map fun m => match m with
    | .flit d f => execTaggedFlitReceive d f.cmd (0#4 ++ BitVec.ofNat 2 f.src ++ BitVec.ofNat 6 f.rgn ++ f.ser)
    | .clear d src g ser n => execClearReceive d src (Fin.ofNat 63 g) ser n
    | .squash d src g a b => execSquashReceive d src (Fin.ofNat 63 g) a b
/-- The queues that may have an entry taken, in the order of the front end's round (15 R330). -/
def State.roundQueues (s : State) : List (Nat × Nat) :=
  let qs := s.regs.filterMap fun e =>
    let o := e.1 % 2 ^ 26
    if 0x400 ≤ o ∧ o < 0xC00 ∧ o % 32 = 8 ∧ e.2.getLsbD 0 then some (e.1 / 2 ^ 26, (o - 0x400) / 32) else none
  (qs.filter fun p => decide (s.rr ≤ 64 * p.1 + p.2)) ++ qs.filter fun p => decide (64 * p.1 + p.2 < s.rr)
/-- The entries that the front end may take. -/
def queueOps (p : Nat × Nat) : List Op :=
  let f := Fin.ofNat 129 p.1
  let q := Fin.ofNat 64 p.2
  [execNopEntry f q, execLaunch f q, execSignalWait f q, execSignalWrite f q, execGraphNodeDeclaration f q,
   execRecoveryExtension f q, execUnknownEntry f q]
/-- The front end's turn: of the queues in its round, the first whose entry can be taken or looked at. -/
def execFrontEnd (s : State) : Out := .next (((s.roundQueues.flatMap queueOps).findSome? s.moved).getD s)
/-- Steps of a unit (01 R33, R35, 15 R343, R351). -/
def unitOps (e : Nat × Skein) : List Op :=
  e.2.preempt.map (execUnitPreempt e.1) ++ e.2.saved.map (execUnitResume e.1)
  ++ (if pkHeld e.2.pkt && !e.2.waiting.isEmpty then [execHeldSkeinAdmit e.1] else [])
/-- An operation when a condition holds. -/
def opIf (b : Bool) (o : Op) : List Op := if b then [o] else []
/-- Steps of the blocks of a die (13 R295, R296, R303, 14 R310, R311, R316, R320, R325, 17 R379, R382, R383). -/
def State.dieOps (s : State) (d : Fin 4) : List Op :=
  let x := s.die d
  opIf (!x.pending.isEmpty) (execNotificationDelivery d)
  ++ x.tags.flatMap (fun t =>
      opIf (t.2.wins.any fun w => w.opened) (execTagWindowClose d (Fin.ofNat 63 t.1))
      ++ opIf (!t.2.wins.isEmpty) (execClearSend d (Fin.ofNat 63 t.1)))
  ++ opIf (decide (x.stormStart + 1024 * s.regF (rQsmCtl d) 31 16 ≤ x.cc)) (execStormIntervalEnd d)
  ++ (List.finRange 8).flatMap (fun (c : Fin 8) =>
      opIf (Sparse.find? x.classPend c.val).isSome (execClassChangeApply d c))
  ++ (List.finRange 4).flatMap (fun (k : Fin 4) =>
      opIf (s.regF (rRail d k) 7 0 != s.regF (rRail d k) 15 8) (execRailStep d k))
  ++ (List.finRange 32).flatMap (fun (p : Fin 32) => opIf (s.regF (rDscWin d p) 17 17 == 1) (execWindowZeroingDone d p))
  ++ opIf (s.regF (rWayGate d) 6 6 == 1) (execWayGatingDone d)
  ++ opIf (s.regF (rKeyRet d) 13 13 == 1) (execKeyRetireDone d)
  ++ opIf (s.regF (rTlbCtl d) 11 11 == 1) (execTlbInvalidateDone d)
  ++ opIf (s.cmds.any fun e => e.2.die == d && e.2.isBurst && e.2.stage == .queued) (execTokenHop d)
  ++ opIf (!s.skeins.isEmpty) (execRimAdmit d)
/-- Links that train (16 R356), also one that is DOWN since reset (log entry 31): at the highest rate, on four modules. -/
def State.trainOps (s : State) : List Op :=
  (List.finRange 6).flatMap fun (k : Fin 6) =>
    opIf (s.linkState k == 1 || s.linkState k == 3 || (s.linkState k == 0 && !s.fatal)) (execTrainingComplete k 0 4)
/-- Steps of control operations in progress (16 R360, R369 to R375). -/
def State.controlOps (s : State) : List Op :=
  s.flr.map (fun g => execFunctionLevelReset (Fin.ofNat 129 g))
  ++ (match s.wsOp with
      | some (g, op) =>
        let f := Fin.ofNat 129 g
        (match op with | 0 => [execWsSave f] | 1 => [execWsRestore f] | _ => [execWsMsave f])
      | none => [])
  ++ opIf s.partPending.isSome execPartitionChange
  ++ (match s.warm with
      | some r => (match r.phase with | 1 => [execFlush] | 2 => [execDieReset] | 3 => [execRetrain] | _ => [execReadmit])
      | none => [])
/-- Everything that may happen now. -/
def State.ops (s : State) : List Op :=
  s.wales.flatMap waleOps ++ s.cmds.flatMap cmdSteps ++ s.linkOps
  ++ (if s.wales.isEmpty then [] else (List.finRange 4).flatMap fun d => (List.finRange 8).map fun c => execWakeWave d c)
  ++ (s.hoops.filter fun e => s.wales.any fun w => w.2.hoop == e.1 && w.2.st == .coll).map (fun e => execHwaitdWake e.1)
  ++ s.skeins.flatMap unitOps ++ (List.finRange 4).flatMap s.dieOps ++ [execFrontEnd] ++ s.trainOps
  ++ s.controlOps ++ opIf (s.baskets.any fun e => e.2.recov.isSome) execProdbmPoll
  ++ (List.finRange 8).flatMap (fun (n : Fin 8) =>
      opIf (Sparse.find? (s.die 0).mbox (248 + n.val)).isSome (execAttestationRequest n))
/-- What happens only when a time has passed in which nothing else happened: an injection, the QUIESCE limit, a rail's hold, the wait of R344. -/
def State.timers (s : State) : List Op :=
  (List.finRange 4).map (fun (d : Fin 4) => execInjectionFire d)
  ++ opIf s.warm.isSome execQuiesceTimeout
  ++ (List.finRange 4).flatMap (fun (d : Fin 4) => (List.finRange 4).flatMap fun (k : Fin 4) =>
      opIf (s.regF (rRail d k) 24 24 == 1) (execRailHoldExpiry d k))
  ++ (if s.skeins.isEmpty then [] else (List.finRange 4).map fun d => execPriorityPreempt d)
/-- The guard event of each die that is applied next, an injection before those that it precedes (13 R288, R301). -/
def State.guards (s : State) : List Op :=
  (List.finRange 4).flatMap fun d => match firstReport d (s.die d).reports with
    | some r => [if s.injectFirst d r then execInjectionFire d else execGuardEvent d r.cell r.ty]
    | none => []
/-- A reported event whose apply cycle has come. -/
def State.guardNow (s : State) : Option State :=
  (List.finRange 4).findSome? fun d => match firstReport d (s.die d).reports with
    | some r => if r.due d ≤ (s.die d).cc then s.moved (execGuardEvent d r.cell r.ty) else none
    | none => none

/-- The first operation of a list that changes the state, with the state it leaves. -/
def State.firstOf (s : State) (l : List Op) : Option State := l.findSome? s.moved
/-- The next operation of the device: reported guard events first; where several others may come, the choice goes round; timers
when nothing else comes. A fatal device error leaves the dump and the package reset (18 R399). -/
def State.internal (s : State) : Option State :=
  if s.fatal then s.fatalStep
  else match s.firstOf s.guards with
    | some t => some t
    | none =>
      let l := s.ops
      let k := s.free % max 1 l.length
      match s.firstOf (l.drop k ++ l.take k) with
      | some t => some t
      | none => s.firstOf s.timers

/-! ### The next step -/

/-- What a step does: it is done, or it runs an operation. -/
inductive Due where
  | done (s : State)
  | run (i : Instr) (s : State)

/-- The issue of a fragment: its instruction is fetched and decoded (04 R90); a word that is no instruction raises ILL (11
R262). -/
def State.issue (s : State) (c : Cur) : Due :=
  let s := { s with cur := some c }
  match s.ctx? with
  | none => .done s
  | some x =>
    if x.core.yleft = 0 then .run (.wdog c.wale) s
    else match State.fetch x with
      | .stop t => .done t
      | .fill va => .run (.lineFill c.wale va) s
      | .word t w =>
        match decode w with
        | some i => .run i t
        | none => .done (match t.ctx? with | some y => y.raiseEm cILL | none => t)

/-- An injection whose cycle has come (13 R301). -/
def State.injectNow (s : State) : Option (Fin 4) :=
  (List.finRange 4).find? fun d => match s.injectAt d with
    | some n => decide (n ≤ (s.die d).cc)
    | none => false

/-- A notification whose cycle of delivery has come is delivered (14 R311). -/
def State.noteNow (s : State) : Option State :=
  ((List.finRange 4).find? s.noteDue).bind fun d => s.moved (execNotificationDelivery d)

/-- What happens next: the head of the agenda; else a notification that is due; else an injection that is due; else a reported event that is
due; else, after an issue, an operation of the device; else an issue; else an operation of the device. -/
def State.due (s : State) : Due :=
  match s.agenda with
  | i :: is => .run i { s with agenda := is }
  | [] =>
    match s.noteNow with
    | some t => .done t
    | none => match s.injectNow with
    | some d => (match execInjectionFire d s with | .next t => .done t | _ => .done s)
    | none => match s.guardNow with
    | some t => .done t
    | none =>
      let t := { s with cur := none }
      match s.cur, s.select with
      | none, some c => s.issue c
      | _, o =>
        match t.internal with
        | some u => .done { u with free := u.free + 1 }
        | none => (match o with | some c => t.issue c | none => .done t)

/-! ### Placing a program -/

/-- A launch packet with one hoop of one wale and the largest grants (15 R335). -/
def placePkt : BitVec 512 :=
  BitVec.ofNat 512 (1 + 2 ^ 16 + 7 * 2 ^ 41 + 2 ^ 44 + 4095 * 2 ^ 48 + 384 * 2 ^ 64 + 256 * 2 ^ 73 + 256 * 2 ^ 87 + 256 * 2 ^ 106)
/-- A page-table entry: valid, accessed; for a leaf also R and X. -/
def placePte (a : Nat) (leaf : Bool) : List Byte := bytesLE 8 (a + 0x101 + if leaf then 0x16 else 0)

/-- Page tables of function 0 that map page 0 to 0xA000, with code line 0 holding `w` in slot 0, published and in the
instruction cache of core 0. -/
def State.placeCode (s : State) (w : BitVec 96) : State :=
  let line := lineOfWord w
  let s := { s with retired := s.retired.filter fun k => k != 0, poisoned := s.poisoned.filter fun p => decide (6 ≤ p)
                    grants := s.grants.filter fun e => decide (6 ≤ e.1) }
  let s := s.setReg (rPtRoot 0) 0x2001
  let s := s.physWrite 0 0x2000 (placePte 0x4000 false)
  let s := s.physWrite 0 0x4000 (placePte 0x6000 false)
  let s := s.physWrite 0 0x6000 (placePte 0x8000 false)
  let s := s.physWrite 0 0x8000 (placePte 0xA000 true)
  let s := s.physWrite 0 0xA000 (bytesLE 64 line.toNat)
  { s with
    dies := vmap (fun (x : Die) => { x with
      tlb := x.tlb.filter fun e => e.func != 0
      l2 := Sparse.del x.l2 (0xA000 / 64)
      dir := Sparse.del x.dir (0xA000 / 64) }) s.dies
    unpub := Sparse.del s.unpub (0xA000 / 64)
    icache := Sparse.put s.icache (icacheKey 0 0xA000) { data := line, key := 0, ok := true } }
/-- A basket, a skein, a hoop on die 0 and a wale of function 0 that has waited for issue longer than any other, at the entry PC
0. -/
def State.placeWale (s : State) : State :=
  let n := s.nextId
  let b : Basket :=
    { func := 0, queue := 0, pkt := placePkt, ctr := 1, nextSkein := 1, recov := none, ran := true, moved := false }
  let k : Skein :=
    { basket := n, num := 0, pkt := placePkt, place := s.nextPlace, waiting := [], saved := [], preempt := [], doneHoops := [],
      done := false, params := some [] }
  let h : Hoop := { skein := n, idx := 0, die := 0, cluster := 0, coreNo := 0, st := .resident, slots := [], tiles := [] }
  { s with
    agenda := []
    cur := none
    fatal := false
    dumping := false
    rstGo := false
    warm := none
    baskets := Sparse.put s.baskets n b
    skeins := Sparse.put s.skeins n k
    hoops := Sparse.put s.hoops n h
    wales := Sparse.put (s.wales.map fun e => (e.1, { e.2 with since := e.2.since + 1 })) n
      (Wale.start placePkt n 0 0 [] (s.die 0).cc 0)
    order := n :: s.order
    turn := s.turn + 1
    nextId := n + 1
    nextPlace := s.nextPlace + 1
    dies := vmap (fun (x : Die) => { x with injArmed := false, reports := [], notes := [], asks := [] }) s.dies }
/-- The state in which the very next step fetches and runs the word (log entry 40). -/
def State.placeWord (s : State) (w : BitVec 96) : State := (s.placeCode w).placeWale

end Sys2Proof.Machine
end

