-- ==== Sys2Proof/Machine/Step.lean ====
section
/-! DEFINITION. One step of the machine, and the state in which a given word runs next. -/

namespace Sys2Proof.Machine

/-- One step: what is due is done or run (`State.due`). -/
def step (s : State) : Host.Outcome State Fault Refusal :=
  match s.due with
  | .done t => .next t
  | .run i t => exec i t

/-- The state with the instruction of bits `w` stored where the next step fetches it: a launch of function 0 with one wale is
resident on die 0, its entry PC holding the instruction (log entry 40). -/
def State.withFetchWord (s : State) (_nbits w : Nat) : State := s.placeWord (BitVec.ofNat 96 w)

end Sys2Proof.Machine
end

