-- ==== Sys2Proof/Safety.lean ====
section
/-! DEFINITION. The terms in which claims about the machine are stated: when an instruction issues, what an issue that
completes, faults or waits leaves, and results written from the rules in exact arithmetic. -/

namespace Sys2Proof.Machine

/-! ### Outcomes -/

/-- A run has not stopped: its last step answered a next state. -/
def Safe (o : Out) : Prop := ∃ t, o = .next t

/-! ### When an instruction issues -/

/-- The instruction stands at a single-fragment point (07 R166): by its kind, by an s destination, at a loop end, or as a
`brd` that would split. -/
def atPoint (i : Instr) (f : Info) (x : Ctx) : Bool :=
  splits i x.core x.fr || f.sfp || f.dst.isS || atLoopEnd x.core x.fr.pc

/-- The issuing fragment may issue the instruction as far as the yield deadline (07 R175) and the encoding (00 R9, 02 R42, 04
R95) go; its context with the guard, lookahead count and long-latency destinations of the instruction. -/
def legal (i : Instr) (s : State) : Option Ctx :=
  match infoOf i, s.ctx? with
  | some f, some y =>
    if y.core.yleft != 0 && i.wf && vregsOk y.st.wl.vregs f.regs && !shadowIll y.core y.arm f then some (y.header f)
    else none
  | _, _ => none

/-- A trap handler has suspended the fragment (11 R264). -/
def Arm.heldByTrap (f : Arm) : Bool := f.st == .suspended && f.why == .trap

/-- Besides, a single-fragment point lets the fragment go on (07 R166). -/
def checked (i : Instr) (s : State) : Option Ctx :=
  match infoOf i, legal i s with
  | some f, some x =>
    if !atPoint i f x || judge x.core x.arm (splits i x.core x.fr) == .go then some x else none
  | _, _ => none

/-- A single region is drained (02 R53); otherwise no implicit head is due (02 R52). -/
def regionOk (f : Info) (x : Ctx) : Bool := if f.single then x.st.wl.drained else !x.headDue

/-- The issuing fragment's instruction issues in the state as it is; its context. -/
def ready (i : Instr) (s : State) : Option Ctx :=
  match infoOf i, checked i s with
  | some f, some x => if regionOk f x then some x else none
  | _, _ => none

/-! ### What an issue leaves -/

/-- Strand `i` of v register `n` after register writes: the last write that names it holds. -/
def vAfter (ws : List RegWrite) (n : Fin 256) (i : Fin 32) (old : Word) : Word :=
  ws.foldl (fun a w => match w with
    | .v k m y => if k = n ∧ m.getLsbD i.val then vget y i else a
    | _ => a) old
/-- s register `n` after register writes. -/
def sAfter (ws : List RegWrite) (n : Fin 64) (old : Word) : Word :=
  ws.foldl (fun a w => match w with | .s k y => if k = n then y else a | _ => a) old
/-- Bit `i` of p register `n` after register writes. -/
def pAfter (ws : List RegWrite) (n : Fin 8) (i : Fin 32) (old : Bool) : Bool :=
  ws.foldl (fun a w => match w with
    | .p k m y => if k = n ∧ m.getLsbD i.val then y.getLsbD i.val else a
    | _ => a) old

/-- A shadow belongs to the issuing fragment at its join-stack depth (04 R94). -/
def Ctx.ownShadow (x : Ctx) (h : Shadow) : Bool := h.arm == x.arm && h.depth == x.core.stack.length
/-- A shadow after one more instruction of the fragment. -/
def Ctx.countDown (x : Ctx) (h : Shadow) : Shadow := if x.ownShadow h then { h with left := h.left - 1 } else h
/-- Shadows that end with this instruction, and those that stay. -/
def Ctx.ending (x : Ctx) : List Shadow := (x.core.shadows.map x.countDown).filter fun h => h.left == 0
def Ctx.staying (x : Ctx) : List Shadow := (x.core.shadows.map x.countDown).filter fun h => h.left != 0
/-- Register writes that take place with this instruction: its own unless it carries a lookahead count, then those of the
shadows that end (04 R94). -/
def Ctx.landing (x : Ctx) (r : Res) : List RegWrite :=
  (if x.la = 0 then r.writes else []) ++ x.ending.flatMap fun h => h.writes
/-- Flags that are raised with this instruction. -/
def Ctx.landingFlags (x : Ctx) (r : Res) : Word :=
  (x.ending.map fun h => h.flags).foldl (fun a b => a ||| b) (if x.la = 0 then r.flags else 0)

/-- `g` with the registers, flags, shadows and counts of `d`: what an issue changes beside the flow of control. -/
def WaleCore.withData (g d : WaleCore) : WaleCore :=
  { g with v := d.v, s := d.s, p := d.p, fflags := d.fflags, shadows := d.shadows, icount := d.icount,
           wcount := d.wcount, yleft := d.yleft, hoff := d.hoff }

/-- The core `c` after an instruction with result `r` has issued. Registers, flags, shadows and counts are as said here;
everything else is as in `g`, the core with the new flow of control. -/
structure RanCore (x : Ctx) (r : Res) (held : Bool) (g c : WaleCore) : Prop where
  vreg : ∀ (n : Fin 256) (i : Fin 32), vget (c.getV n) i = vAfter (x.landing r) n i (vget (x.core.getV n) i)
  sreg : ∀ n : Fin 64, c.getS n = sAfter (x.landing r) n (x.core.getS n)
  preg : ∀ (n : Fin 8) (i : Fin 32), (c.getP n).getLsbD i.val =
    if n = 0 then true else pAfter (x.landing r) n i ((x.core.getP n).getLsbD i.val)
  flags : c.fflags = x.core.fflags ||| x.landingFlags r
  shadows : c.shadows = x.staying ++ (if x.la = 0 then [] else
    [{ left := x.la, landed := false, arm := x.arm, depth := x.core.stack.length, writes := r.writes, flags := r.flags,
       dst := x.lld, old := false }])
  icount : c.icount = x.core.icount + 1
  wcount : c.wcount = x.core.wcount + (if held then 1 else 0)
  yleft : c.yleft = x.core.yleft - 1
  hoff : c.hoff = x.core.hoff.map fun h => { h with left := h.left - 1 }
  rest : c = g.withData c

/-- The wale has no strand left (01 R31). -/
def WaleCore.ended (c : WaleCore) : Bool := c.stack.isEmpty && c.base.st == .free

/-- The wale `w` after its instruction: its core, its region with the held effects `held` added, which closes when the last
strand has gone; it waits for issue from now on, and ARM1 is ready anew after it has issued, after it was not ready, and in a new token (15
R346); its counters, batches and everything else as before. -/
def RanWale (x : Ctx) (held : List Held) (c : WaleCore) (w : Wale) : Prop :=
  let cur : Region := { x.st.wl.cur with held := x.st.wl.cur.held ++ held, last := x.cc + 1 }
  w = { x.st.wl with
    core := c
    st := if c.ended then .exited else .ready
    cur := if c.ended then cur.close (x.s.window x.die) else cur
    ready1 := if x.arm == .a1 || !(x.core.issuable .a1) || c.stack.length != x.core.stack.length then x.cc + 1 else x.st.wl.ready1
    since := x.s.turn + 1 }

/-- What lies outside the issuing wale is as before: other wales, hoops, skeins, baskets, commands, device registers, every
byte of memory; one cycle of the wale's die passes, and the waits for issue are counted on (15 R346). -/
structure Outside (x : Ctx) (t : State) : Prop where
  wales : ∀ k, k ≠ x.st.w → Sparse.find? t.wales k = Sparse.find? x.s.wales k
  turn : t.turn = x.s.turn + 1
  dies : ∀ d, t.die d = if d = x.die then { x.s.die d with cc := (x.s.die d).cc + 1 } else x.s.die d
  rest : t = { x.s with wales := t.wales, dies := t.dies, turn := t.turn }
  bytes : ∀ (l : Loc) (i : Nat), t.locByte l i = x.s.locByte l i

/-- `t` follows from the context's state by an instruction with result `r` and new flow `g`, with this frame. -/
structure Ran (x : Ctx) (r : Res) (held : Bool) (g : WaleCore) (t : State) : Prop where
  wale : ∃ w, t.wale? x.st.w = some w ∧ RanCore x r held g w.core ∧ RanWale x r.held w.core w
  outside : Outside x t

/-- The instruction completes and its fragment continues in sequence. -/
def RanOn (x : Ctx) (held : Bool) (r : Res) (t : State) : Prop := Ran x r held (x.core.advance x.arm) t
/-- The instruction completes and its fragment is transferred to `pc`. -/
def RanTo (x : Ctx) (pc : Dword) (r : Res) (t : State) : Prop := Ran x r false (x.core.transfer x.arm pc) t
/-- A single region completes: after `RanOn` a new region opens whose checkpoint holds the result (02 R53). -/
def RanAlone (x : Ctx) (r : Res) (t : State) : Prop :=
  ∃ u w, RanOn x false r u ∧ u.wale? x.st.w = some w ∧ t.wale? x.st.w = some (w.reopen ((u.die x.die).cc))
    ∧ (∀ k, k ≠ x.st.w → Sparse.find? t.wales k = Sparse.find? u.wales k) ∧ t = { u with wales := t.wales }

/-! ### What a fault or a wait leaves -/

/-- The record that a fault raised at issue leaves pending (11 R263, 04 R96). -/
def Ctx.record (x : Ctx) (f : Flt) : FaultRec :=
  { code := f.code, shd := x.core.inShadow x.arm, eng := false, fetch := false, pc := x.fr.pc, addr := f.addr,
    mask := f.mask, resume := (match x.fr.retry with | some r => r | none => nextSlot x.fr.pc), cmd := none }

/-- The context over another state. -/
def Ctx.over (x : Ctx) (s : State) : Ctx := { x with s := s }
/-- Only wale `x.st.w` changes, and becomes `w`; every byte of memory is as before. -/
structure OnlyWale (x : Ctx) (w : Wale) (t : State) : Prop where
  wale : t.wale? x.st.w = some w
  others : ∀ k, k ≠ x.st.w → Sparse.find? t.wales k = Sparse.find? x.s.wales k
  rest : t = { x.s with wales := t.wales }
  bytes : ∀ (l : Loc) (i : Nat), t.locByte l i = x.s.locByte l i

/-- The fault `f` is pending for the fragment; its instruction has had no effect; with no fragment left to issue the region
closes and the wale waits for its release (11 R263). -/
def Raised (x : Ctx) (f : FaultRec) (t : State) : Prop :=
  let c := x.core.setPend x.arm (some f)
  OnlyWale x
    (if c.live.any c.issuable || c.call.isSome then { x.st.wl with core := c }
     else { x.st.wl with core := c, cur := x.st.wl.cur.close (x.s.window x.die), st := .drain false }) t
/-- The core with the issuing fragment waiting at its instruction (01 R25). -/
def Ctx.stalled (x : Ctx) : WaleCore := x.core.setFrag x.arm { x.core.frag x.arm with stall := true }
/-- The wale after its fragment has to wait at its instruction, which has not issued: the fragment waits while the other can issue;
else the whole wale becomes `w` (01 R25). -/
def WaitsElse (x : Ctx) (w : Wale) (t : State) : Prop :=
  OnlyWale x (if x.stalled.live.any x.stalled.issuable then { x.st.wl with core := x.stalled } else w) t
/-- The fragment waits at its instruction; where no other can issue, the wale's state becomes `w`. -/
def Waits (x : Ctx) (w : WSt) (t : State) : Prop := WaitsElse x { x.st.wl with st := w } t
/-- The wale whose current region has closed, and which waits for a release. -/
def Ctx.draining (x : Ctx) : Wale := { x.st.wl with cur := x.st.wl.cur.close (x.s.window x.die), st := .drain x.pre }
/-- The wale's current region closes and the wale waits for a release, its instruction not issued. -/
def DrainsAll (x : Ctx) (t : State) : Prop := OnlyWale x x.draining t
/-- The fragment waits for a release; where no other can issue, the current region closes (02 R54). -/
def Drains (x : Ctx) (t : State) : Prop := WaitsElse x x.draining t

/-! ### What an event leaves -/

/-- Only the register at `key` changes, and becomes `v`. -/
structure OnlyReg (s : State) (key : Nat) (v : BitVec 64) (t : State) : Prop where
  reg : t.reg key = v
  others : ∀ k, k ≠ key → t.reg k = s.reg k
  rest : t = { s with regs := t.regs }
/-- Only field `[hi:lo]` of the register at `key` changes, and becomes `v`. -/
def OnlyFld (s : State) (key hi lo v : Nat) (t : State) : Prop := OnlyReg s key (setFld (s.reg key) hi lo v) t
/-- Only die `d` changes, and becomes `x`. -/
structure OnlyDie (s : State) (d : Fin 4) (x : Die) (t : State) : Prop where
  die : t.die d = x
  others : ∀ e, e ≠ d → t.die e = s.die e
  rest : t = { s with dies := t.dies }
/-- Only command `id` changes, and becomes `c`. -/
structure OnlyCmd (s : State) (id : Nat) (c : Cmd) (t : State) : Prop where
  cmd : Sparse.find? t.cmds id = some c
  others : ∀ k, k ≠ id → Sparse.find? t.cmds k = Sparse.find? s.cmds k
  rest : t = { s with cmds := t.cmds }
/-- Only wale `w` changes, by `f`, and die `d`, which becomes `x`. -/
structure OnlyWaleDie (s : State) (w : Nat) (f : Wale → Wale) (d : Fin 4) (x : Die) (t : State) : Prop where
  wale : t.wale? w = (s.wale? w).map f
  others : ∀ k, k ≠ w → t.wale? k = s.wale? k
  die : t.die d = x
  dies : ∀ e, e ≠ d → t.die e = s.die e
  rest : t = { s with wales := t.wales, dies := t.dies }
/-- The queue has an entry to be taken, and its 64 bytes can be read: the bytes, and the state in which the walker has set its A
bits (15 R330). -/
def State.entryDue (s : State) (f q : Nat) : Option (List Byte × State) :=
  if s.takeable f q then (match s.entryAt f q (s.qHead f q) with | .ok e => some e | .error _ => none) else none
/-- The front end goes on behind `n` entries: HEAD moves, WAITING is cleared (15 R330). -/
def Took (s : State) (f q n : Nat) (t : State) : Prop :=
  t.qHead f q = (s.qHead f q + n) % 2 ^ s.qLog f q ∧ t.qWaiting f q = false ∧ t.rr = 64 * f + q + 1
/-- The queue stops with ERR `code`; HEAD and TAIL stay (15 R330, R332). -/
def Stopped (s : State) (f q code : Nat) (t : State) : Prop :=
  t.qStopped f q = true ∧ t.regF (rQStat f q) 39 32 = code ∧ t.qWaiting f q = false
  ∧ t.qHead f q = s.qHead f q ∧ t.qTail f q = s.qTail f q

/-! ### Results, written from the rules in exact arithmetic -/

namespace Rule

/-- A word from an exact integer: bits [31:0]. -/
def word (z : Int) : Word := BitVec.ofInt 32 z
/-- The integer a word stands for, unsigned or signed (R114, R115). -/
def num (u : Bool) (a : Word) : Int := if u then a.toNat else a.toInt
/-- A value that raises no flag. -/
def val {α : Type} (a : α) : FRes α := ⟨a, 0⟩
/-- An exact integer clamped to 32 bits; SAT when it lies outside (R114, R125). -/
def clamp (u : Bool) (z : Int) : FRes Word :=
  let lo : Int := if u then 0 else -2147483648
  let hi : Int := if u then 4294967295 else 2147483647
  ⟨word (max lo (min hi z)), if z < lo ∨ hi < z then fSAT else 0⟩

/-- `idiv` and `irem` (R116). -/
def quot (u : Bool) (a b : Word) : Word :=
  if b = 0 then 0xFFFFFFFF
  else if u = false ∧ a = 0x80000000 ∧ b = 0xFFFFFFFF then 0x80000000
  else word (Int.tdiv (num u a) (num u b))
def rest (u : Bool) (a b : Word) : Word :=
  if b = 0 then a
  else if u = false ∧ a = 0x80000000 ∧ b = 0xFFFFFFFF then 0
  else word (num u a - Int.tdiv (num u a) (num u b) * num u b)

/-- The field of `bfe` (R120). -/
def extract (sg : Bool) (a f : Word) : Word :=
  let pos := f.toNat % 256
  let len := f.toNat / 256 % 256
  if 32 ≤ pos ∨ len = 0 then 0
  else
    let l := min len (32 - pos)
    let g : BitVec l := a.extractLsb' pos l
    if sg then g.signExtend 32 else g.setWidth 32
/-- `bfi`, bit by bit (R120). -/
def insert (a b f : Word) : Word :=
  let pos := f.toNat % 256
  let len := f.toNat / 256 % 256
  if 32 ≤ pos ∨ len = 0 then a
  else maskOf fun i => if pos ≤ i.val ∧ i.val < pos + len then b.getLsbD (i.val - pos) else a.getLsbD i.val

/-- Byte `j` of a word as a number (R125). -/
def byte (u : Bool) (a : Word) (j : Nat) : Int := if u then (a >>> (8 * j)).toNat % 256 else ((a >>> (8 * j)).setWidth 8).toInt
def dot (au bu : Bool) (a b c : Word) : Int :=
  c.toInt + ((List.range 4).map fun j => byte au a j * byte bu b j).sum

/-- Operands A and B, A and IMM, A alone, A to C of a 32-bit result. -/
abbrev Lane := Opnd × (Ctx → Fin 32 → FRes Word)
def r1 (o : ROps) (f : Word → FRes Word) : Option Lane := some (o.d, fun x i => f (x.src o.a i))
def r2 (o : ROps) (f : Word → Word → FRes Word) : Option Lane := some (o.d, fun x i => f (x.src o.a i) (x.src o.b i))
def i2 (o : IOps) (f : Word → Word → FRes Word) : Option Lane := some (o.d, fun x i => f (x.src o.a i) o.imm)
def r3 (o : ROps) (f : Word → Word → Word → FRes Word) : Option Lane :=
  some (o.d, fun x i => f (x.src o.a i) (x.src o.b i) (x.src o.c i))

def add (a b : Word) : FRes Word := val (word (a.toNat + b.toNat))
def sub (a b : Word) : FRes Word := val (word (a.toNat - b.toNat))
def mul (a b : Word) : FRes Word := val (word (a.toNat * b.toNat))
def mulHi (u : Bool) (a b : Word) : FRes Word := val (word (Int.fdiv (num u a * num u b) 4294967296))
def shiftL (a b : Word) : FRes Word := val (if b.toNat < 32 then word (a.toNat * 2 ^ b.toNat) else 0)
def shiftR (a b : Word) : FRes Word := val (if b.toNat < 32 then word (a.toNat / 2 ^ b.toNat : Nat) else 0)
def shiftA (a b : Word) : FRes Word :=
  val (if b.toNat < 32 then word (Int.fdiv a.toInt (2 ^ b.toNat)) else if a.getLsbD 31 then 0xFFFFFFFF else 0)
def rotate (a b : Word) : FRes Word :=
  let n := b.toNat % 32
  val (word (a.toNat * 2 ^ n + a.toNat / 2 ^ (32 - n) : Nat))

/-- The 32-bit results of the integer group without lane instructions (R114 to R121, R123 to R125): destination, and the
value with its flags for each strand. -/
def int : Instr → Option Lane
  | .iadd o => r2 o add | .iaddI o => i2 o add
  | .isub o => r2 o sub | .isubI o => i2 o sub
  | .iadds o => r2 o fun a b => clamp (o.mod.getLsbD 0) (num (o.mod.getLsbD 0) a + num (o.mod.getLsbD 0) b)
  | .iaddsI o => i2 o fun a b => clamp (o.mod.getLsbD 0) (num (o.mod.getLsbD 0) a + num (o.mod.getLsbD 0) b)
  | .isubs o => r2 o fun a b => clamp (o.mod.getLsbD 0) (num (o.mod.getLsbD 0) a - num (o.mod.getLsbD 0) b)
  | .isubsI o => i2 o fun a b => clamp (o.mod.getLsbD 0) (num (o.mod.getLsbD 0) a - num (o.mod.getLsbD 0) b)
  | .imul o => r2 o mul | .imulI o => i2 o mul
  | .imulh o => r2 o (mulHi (o.mod.getLsbD 0)) | .imulhI o => i2 o (mulHi (o.mod.getLsbD 0))
  | .imad o => r3 o fun a b c => val (word (a.toNat * b.toNat + c.toNat))
  | .idiv o => r2 o fun a b => val (quot (o.mod.getLsbD 0) a b)
  | .idivI o => i2 o fun a b => val (quot (o.mod.getLsbD 0) a b)
  | .irem o => r2 o fun a b => val (rest (o.mod.getLsbD 0) a b)
  | .iremI o => i2 o fun a b => val (rest (o.mod.getLsbD 0) a b)
  | .imin o => r2 o fun a b => val (word (min (num (o.mod.getLsbD 0) a) (num (o.mod.getLsbD 0) b)))
  | .iminI o => i2 o fun a b => val (word (min (num (o.mod.getLsbD 0) a) (num (o.mod.getLsbD 0) b)))
  | .imax o => r2 o fun a b => val (word (max (num (o.mod.getLsbD 0) a) (num (o.mod.getLsbD 0) b)))
  | .imaxI o => i2 o fun a b => val (word (max (num (o.mod.getLsbD 0) a) (num (o.mod.getLsbD 0) b)))
  | .iabs o => r1 o fun a =>
      if o.mod.getLsbD 0 ∧ a = 0x80000000 then ⟨0x7FFFFFFF, fSAT⟩ else val (word a.toInt.natAbs)
  | .iand o => r2 o fun a b => val (maskOf fun i => a.getLsbD i.val && b.getLsbD i.val)
  | .iandI o => i2 o fun a b => val (maskOf fun i => a.getLsbD i.val && b.getLsbD i.val)
  | .ior o => r2 o fun a b => val (maskOf fun i => a.getLsbD i.val || b.getLsbD i.val)
  | .iorI o => i2 o fun a b => val (maskOf fun i => a.getLsbD i.val || b.getLsbD i.val)
  | .ixor o => r2 o fun a b => val (maskOf fun i => a.getLsbD i.val != b.getLsbD i.val)
  | .ixorI o => i2 o fun a b => val (maskOf fun i => a.getLsbD i.val != b.getLsbD i.val)
  | .iandn o => r2 o fun a b => val (maskOf fun i => a.getLsbD i.val && !b.getLsbD i.val)
  | .iandnI o => i2 o fun a b => val (maskOf fun i => a.getLsbD i.val && !b.getLsbD i.val)
  | .inot o => r1 o fun a => val (maskOf fun i => !a.getLsbD i.val)
  | .shl o => r2 o shiftL | .shlI o => i2 o shiftL
  | .shr o => r2 o shiftR | .shrI o => i2 o shiftR
  | .sar o => r2 o shiftA | .sarI o => i2 o shiftA
  | .rotl o => r2 o rotate | .rotlI o => i2 o rotate
  | .bfe o => r2 o fun a b => val (extract (o.mod.getLsbD 0) a b)
  | .bfeI o => i2 o fun a b => val (extract (o.mod.getLsbD 0) a b)
  | .bfi o => r3 o fun a b c => val (insert a b c)
  | .popc o => r1 o fun a => val (word (List.countP (fun i : Fin 32 => a.getLsbD i.val) (List.finRange 32)))
  | .clz o => r1 o fun a => val (word (((List.range 32).takeWhile fun k => !a.getLsbD (31 - k)).length))
  | .brev o => r1 o fun a => val (maskOf fun i => a.getLsbD (31 - i.val))
  | .sel o => some (o.d, fun x i =>
      val (if (if o.d.isS then x.pred o.c &&& x.fr.em ≠ 0 else (x.pred o.c).getLsbD i.val) then x.src o.a i else x.src o.b i))
  | .mov o => if o.mod.getLsbD 0 then none else r1 o val
  | .movi o => if o.mod.getLsbD 0 then none else some (o.d, fun _ _ => val o.imm)
  | .idp4 o => r3 o fun a b c =>
      let t := dot (o.mod.getLsbD 0) (o.mod.getLsbD 1) a b c
      if o.mod.getLsbD 2 then clamp false t else val (word t)
  | _ => none

/-- The pair results (R115, R118, R124): destination and value. -/
def pairs : Instr → Option (Opnd × (Ctx → Fin 32 → Dword))
  | .iadd64 o => some (o.d, fun x i => BitVec.ofNat 64 ((x.src64 o.a i).toNat + (x.src64 o.b i).toNat))
  | .iadd64I o => some (o.d, fun x i => BitVec.ofInt 64 ((x.src64 o.a i).toNat + o.imm.toInt))
  | .isub64 o => some (o.d, fun x i => BitVec.ofInt 64 ((x.src64 o.a i).toNat - (x.src64 o.b i).toNat))
  | .isub64I o => some (o.d, fun x i => BitVec.ofInt 64 ((x.src64 o.a i).toNat - o.imm.toInt))
  | .lea o => some (o.d, fun x i =>
      BitVec.ofInt 64 ((x.src64 o.a i).toNat + num (!o.mod.getLsbD 3) (x.src o.b i) * 2 ^ (o.mod.toNat % 8)))
  | .leaI o => some (o.d, fun x i =>
      BitVec.ofInt 64 ((x.src64 o.a i).toNat + num (!o.mod.getLsbD 3) o.imm * 2 ^ (o.mod.toNat % 8)))
  | .imadw o => some (o.d, fun x i => BitVec.ofInt 64
      (num (o.mod.getLsbD 0) (x.src o.a i) * num (o.mod.getLsbD 0) (x.src o.b i) + (x.src64 o.c i).toNat))
  | .mov o => if o.mod.getLsbD 0 then some (o.d, fun x i => x.src64 o.a i) else none
  | .movi o => if o.mod.getLsbD 0 then some (o.d, fun _ _ => BitVec.ofInt 64 o.imm.toInt) else none
  | _ => none

/-- The condition CC (R122). -/
def cond (cc : Nat) (p q : Int) : Bool :=
  match cc with
  | 0 => decide (p = q) | 1 => decide (p ≠ q) | 2 => decide (p < q) | 3 => decide (p ≤ q) | 4 => decide (p > q)
  | _ => decide (p ≥ q)

/-- The bits of a p destination (R122, R130, R131, R133, 06 R144): destination, and the bit of each visited strand. -/
def preds : Instr → Option (Opnd × (Ctx → Fin 32 → FRes Bool))
  | .icmp o => some (o.d, fun x i =>
      val (cond (o.mod.toNat % 8) (num (o.mod.getLsbD 3) (x.src o.a i)) (num (o.mod.getLsbD 3) (x.src o.b i))))
  | .icmpI o => some (o.d, fun x i =>
      val (cond (o.mod.toNat % 8) (num (o.mod.getLsbD 3) (x.src o.a i)) (num (o.mod.getLsbD 3) o.imm)))
  | .fcmp o => some (o.d, fun x i => fCmp fp32 (o.mod.toNat % 8) (x.src o.a i).toNat (x.src o.b i).toNat)
  | .fcmpI o => some (o.d, fun x i => fCmp fp32 (o.mod.toNat % 8) (x.src o.a i).toNat o.imm.toNat)
  | .vote o =>
      if o.d.isS then none
      else some (o.d, fun x i => val (match o.mod.toNat % 4 with
        | 0 => decide (x.src o.a i ≠ 0)
        | 1 => decide (∃ j : Fin 32, x.vis.getLsbD j.val = true ∧ x.src o.a j ≠ 0)
        | 2 => decide (∀ j : Fin 32, x.vis.getLsbD j.val = true → x.src o.a j ≠ 0)
        | _ => decide (∀ j k : Fin 32, x.vis.getLsbD j.val = true → x.vis.getLsbD k.val = true → x.src o.a j = x.src o.a k)))
  | .elect o => some (o.d, fun x i => val (decide (∀ j : Fin 32, x.vis.getLsbD j.val = true → i ≤ j)))
  | .pand o => some (o.d, fun x i => val ((x.pred o.a).getLsbD i.val && (x.pred o.b).getLsbD i.val))
  | .por o => some (o.d, fun x i => val ((x.pred o.a).getLsbD i.val || (x.pred o.b).getLsbD i.val))
  | .pxor o => some (o.d, fun x i => val ((x.pred o.a).getLsbD i.val != (x.pred o.b).getLsbD i.val))
  | .pnot o => some (o.d, fun x i => val (!(x.pred o.a).getLsbD i.val))
  | .pmov o => if o.d.isS then none else some (o.d, fun x i => val ((x.maskSrc o.a).getLsbD i.val))
  | _ => none

/-- A `vote` whose guard holds for no strand writes nothing (04 R92). -/
def idle (x : Ctx) : Instr → Bool
  | .vote o => x.vis == 0 && (o.h.gp != 0 || o.h.gn)
  | _ => false

/-- The strand that `shfl` reads for strand `s`, if any (R127). -/
def from_ (mode w s k : Nat) : Option Nat :=
  let seg := 32 / 2 ^ w
  let base := s / seg * seg
  let i := s % seg
  match mode with
  | 0 => some (base + k % seg)
  | 1 => if i < k then none else some (s - k)
  | 2 => if seg ≤ i + k then none else some (s + k)
  | _ => some (base + Nat.xor i (k % seg))
def shuffle (x : Ctx) (m w : Nat) (a : Opnd) (i : Fin 32) (k : Word) : Word :=
  match from_ m w i.val k.toNat with
  | some t => if h : t < 32 then (if x.vis.getLsbD t then x.src a ⟨t, h⟩ else x.src a i) else x.src a i
  | none => x.src a i

/-- Fold the operation over strands in order, with the flags of every rounding step (R132). -/
def folded (opn ty : Nat) (a : Fin 32 → Word) (l : List (Fin 32)) : Option (FRes Word) :=
  l.foldl (fun acc i => match acc with
    | none => some ⟨a i, 0⟩
    | some y => let z := redStep opn ty y.val (a i); some ⟨z.val, y.fl ||| z.fl⟩) none
def foldVal (opn ty : Nat) (a : Fin 32 → Word) (l : List (Fin 32)) (d : Word) : Word :=
  match folded opn ty a l with | some y => y.val | none => d
def foldFl (opn ty : Nat) (a : Fin 32 → Word) (l : List (Fin 32)) : Word :=
  match folded opn ty a l with | some y => y.fl | none => 0

/-- The 32-bit results of `shfl`, `vote` to an s register and `match` (R127, R130, R131). -/
def lane : Instr → Option Lane
  | .shfl o => some (o.d, fun x i => val (shuffle x (o.mod.toNat % 4) (o.mod.toNat / 4 % 8) o.a i (x.src o.b i)))
  | .shflI o => some (o.d, fun x i => val (shuffle x (o.mod.toNat % 4) (o.mod.toNat / 4 % 8) o.a i o.imm))
  | .vote o =>
      if o.d.isS then some (o.d, fun x _ => val (match o.mod.toNat % 4 with
        | 0 => maskOf fun i => x.vis.getLsbD i.val && decide (x.src o.a i ≠ 0)
        | 1 => if ∃ j : Fin 32, x.vis.getLsbD j.val = true ∧ x.src o.a j ≠ 0 then 1 else 0
        | 2 => if ∀ j : Fin 32, x.vis.getLsbD j.val = true → x.src o.a j ≠ 0 then 1 else 0
        | _ => if ∀ j k : Fin 32, x.vis.getLsbD j.val = true → x.vis.getLsbD k.val = true → x.src o.a j = x.src o.a k
            then 1 else 0))
      else none
  | .lmatch o => some (o.d, fun x i => val (maskOf fun j => x.vis.getLsbD j.val &&
      (if o.mod.getLsbD 0 then decide (x.src64 o.a j = x.src64 o.a i) else decide (x.src o.a j = x.src o.a i))))
  | _ => none

/-- The FP32 and packed results of chapter 6 in the exact functions of 03 R60 to R69 (06 R141 to R150, R153). -/
def float : Instr → Option Lane
  | .fadd o => r2 o fun a b => fw32 (addTerms fp32 (RM.ofCode (o.mod.toNat % 4)) [unpack fp32 a.toNat, unpack fp32 b.toNat])
  | .faddI o => i2 o fun a b => fw32 (addTerms fp32 (RM.ofCode (o.mod.toNat % 4)) [unpack fp32 a.toNat, unpack fp32 b.toNat])
  | .fsub o => r2 o fun a b =>
      fw32 (addTerms fp32 (RM.ofCode (o.mod.toNat % 4)) [unpack fp32 a.toNat, (unpack fp32 b.toNat).neg])
  | .fsubI o => i2 o fun a b =>
      fw32 (addTerms fp32 (RM.ofCode (o.mod.toNat % 4)) [unpack fp32 a.toNat, (unpack fp32 b.toNat).neg])
  | .fmul o => r2 o fun a b => fw32 (fMul fp32 (RM.ofCode (o.mod.toNat % 4)) a.toNat b.toNat)
  | .fmulI o => i2 o fun a b => fw32 (fMul fp32 (RM.ofCode (o.mod.toNat % 4)) a.toNat b.toNat)
  | .fdiv o => r2 o fun a b => fw32 (fDiv fp32 (RM.ofCode (o.mod.toNat % 4)) a.toNat b.toNat)
  | .fdivI o => i2 o fun a b => fw32 (fDiv fp32 (RM.ofCode (o.mod.toNat % 4)) a.toNat b.toNat)
  | .fma o => r3 o fun a b c =>
      let p := (unpack fp32 a.toNat).mul (unpack fp32 b.toNat)
      let t := unpack fp32 c.toNat
      fw32 (addTerms fp32 (RM.ofCode (o.mod.toNat % 4))
        [if o.mod.getLsbD 2 then p.neg else p, if o.mod.getLsbD 3 then t.neg else t])
  | .fmin o => r2 o fun a b => fw32 (fMinMax fp32 false a.toNat b.toNat)
  | .fminI o => i2 o fun a b => fw32 (fMinMax fp32 false a.toNat b.toNat)
  | .fmax o => r2 o fun a b => fw32 (fMinMax fp32 true a.toNat b.toNat)
  | .fmaxI o => i2 o fun a b => fw32 (fMinMax fp32 true a.toNat b.toNat)
  | .fclass o => r1 o fun a => val (BitVec.ofNat 32 (fClass a.toNat))
  | .frcp o => r1 o fun a => fw32 (fRcp fp32 (RM.ofCode (o.mod.toNat % 4)) a.toNat)
  | .fsqrt o => r1 o fun a => fw32 (fSqrt fp32 (RM.ofCode (o.mod.toNat % 4)) a.toNat)
  | .frsq o => r1 o fun a => fw32 (fRsq fp32 (RM.ofCode (o.mod.toNat % 4)) a.toNat)
  | .fpow2 o => r1 o fun a => fw32 (fPow2 fp32 (RM.ofCode (o.mod.toNat % 4)) a.toNat)
  | .flog2 o => r1 o fun a => fw32 (fLog2 fp32 (RM.ofCode (o.mod.toNat % 4)) a.toNat)
  | .frnd o => r1 o fun a => fw32 (fRnd fp32 (RM.ofCode (o.mod.toNat % 4)) a.toNat)
  | .hadd2 o => r2 o (hadd2Word (if o.mod.getLsbD 2 then bf16 else fp16) (RM.ofCode (o.mod.toNat % 4)))
  | .hmul2 o => r2 o (hmul2Word (if o.mod.getLsbD 2 then bf16 else fp16) (RM.ofCode (o.mod.toNat % 4)))
  | .hfma2 o => r3 o (hfma2Word (if o.mod.getLsbD 2 then bf16 else fp16) (RM.ofCode (o.mod.toNat % 4)))
  | .fdp2 o => r3 o (fdp2Word (if o.mod.getLsbD 2 then bf16 else fp16) (RM.ofCode (o.mod.toNat % 4)))
  | .cvt o => some (o.d, fun x i => cvtWord o.mod (x.src o.a i) (x.src o.d i))
  | .cvtbx o => some (o.d, fun x i =>
      let a := x.src o.a i
      val (cvtbxWord (bfpBits (o.mod.toNat % 16)) a (if o.b = .none then a >>> 16 else x.src o.b i)))
  | _ => none

/-! Tensors, sums and collectives, from 03 R77, 09 R220 to R224, 10 R233, R242 to R244. -/

/-- Byte address of element `i` of a slot of a scalar format (10 R233). -/
def elemAt (d : Desc) (i : List Nat) : Nat :=
  d.base + i.getD 0 0 * (fmtWidth d.fmt / 8) + i.getD 1 0 * d.str 1 + i.getD 2 0 * d.str 2 + i.getD 3 0 * d.str 3 + i.getD 4 0 * d.str 4
/-- The index lies within the dims. -/
abbrev within (d : Desc) (i : List Nat) : Prop := ∀ k, k < 5 → i.getD k 0 < d.dim k
/-- Element `i` of a slot in the core scratchpad of a hoop, and PAD at and beyond the dims (10 R233): of a block format the element's
bits in its block with the block's scale pair (03 R71, R73; block numbers as log entry 53 has them). -/
def number (s : State) (h : Nat) (d : Desc) (i : List Nat) : FV :=
  if isBfp d.fmt then
    if within d i then
      let w := bfpBits d.fmt + 2
      let b := natLE (s.locRead (.sp h (elemAt d (0 :: i.drop 1) + i.getD 0 0 / 32 * (4 * w))) (4 * w))
      let n := d.sbase + 2 * d.blockNo i
      bfpValue (bfpBits d.fmt) (b / 2 ^ (w * (i.getD 0 0 % 32)) % 2 ^ w) (natLE (s.locRead (.sp h n) 1)) (natLE (s.locRead (.sp h (n + 1)) 1))
    else .fin false 0 0
  else
    let n := fmtWidth d.fmt / 8
    unpack ((fmtOf d.fmt).getD fp32) (if within d i then natLE (s.locRead (.sp h (elemAt d i)) n) else d.pad % 2 ^ (8 * n))
/-- Every element of a slot in the core scratchpad lies in a grant of `n` bytes. -/
def fits (d : Desc) (n : Nat) : Prop :=
  ∀ i, within d i → if isBfp d.fmt then
      let w := bfpBits d.fmt + 2
      elemAt d (0 :: i.drop 1) + i.getD 0 0 / 32 * (4 * w) + 4 * w ≤ n ∧ d.sbase + 2 * d.blockNo i + 2 ≤ n
    else elemAt d i + fmtWidth d.fmt / 8 ≤ n
/-- Products in groups of `g`, the first group first: each group is added to the accumulator with one rounding (03 R77). -/
def groups (g acc : Nat) (ps : List (FV × FV)) : Nat :=
  (List.range ((ps.length + g - 1) / g)).foldl (fun a i => groupAdd a ((ps.drop (g * i)).take g)) acc
/-- The element of a tile after a product of `k` terms: from +0.0, or from what the tile holds (10 R242). -/
def product (g k acc : Nat) (x y : Nat → FV) : Word :=
  BitVec.ofNat 32 (groups g acc ((List.range k).map fun q => (x q, y q)))
/-- The tree of 09 R224 over the ranks from `r` to `r + 2 ^ l - 1` that there are: the lower half, combined with the upper half. -/
def tree (f : Nat → Nat → Nat) (x : List Nat) : Nat → Nat → Nat
  | 0, r => x.getD r 0
  | l + 1, r => if r + 2 ^ l < x.length then f (tree f x l r) (tree f x l (r + 2 ^ l)) else tree f x l r

end Rule

/-- What an engine's work meets on its way: the scratchpads, tiles and registers of `s`; pages may have been walked (14 R323). -/
structure EngSt.sees (e : EngSt) (s : State) (front : List Acc) : Prop where
  regs : e.s.regs = s.regs
  hoops : e.s.hoops = s.hoops
  skeins : e.s.skeins = s.skeins
  spad : e.s.spad = s.spad
  dsc : ∀ d, (e.s.die d).dsc = (s.die d).dsc
  front : e.front = front
/-- A part of an engine's work answers `x` where it is done. -/
def State.answers {α : Type} (s : State) (front : List Acc) (m : EM α) (x : α) : Prop :=
  ∃ e e' : EngSt, e.sees s front ∧ m.run e = .ok (x, e')

/-- The result of a 32-bit value for each strand: the visited strands of a v destination, an s destination once (04 R98); the
flags of the strands that compute. -/
def Ctx.wordRes (x : Ctx) (d : Opnd) (f : Fin 32 → FRes Word) : Res :=
  match d with
  | .v n => { writes := [.v n x.vis (Vector.ofFn fun i => (f i).val)], flags := x.flagsOf fun i => (f i).fl }
  | .s n => { writes := [.s n (f 0).val], flags := (f 0).fl }
  | _ => {}
/-- The result of a 64-bit value: the even register takes bits [31:0] (02 R41). -/
def Ctx.pairRes (x : Ctx) (d : Opnd) (f : Fin 32 → Dword) : Res :=
  match d with
  | .v n => { writes := [.v n x.vis (Vector.ofFn fun i => BitVec.ofNat 32 (f i).toNat),
      .v (n + 1) x.vis (Vector.ofFn fun i => BitVec.ofNat 32 ((f i).toNat / 2 ^ 32))] }
  | .s n => { writes := [.s n (BitVec.ofNat 32 (f 0).toNat), .s (n + 1) (BitVec.ofNat 32 ((f 0).toNat / 2 ^ 32))] }
  | _ => {}
/-- The result of a bit for each visited strand of a p destination. -/
def Ctx.bitRes (x : Ctx) (d : Opnd) (f : Fin 32 → FRes Bool) : Res :=
  match d with
  | .p n => { writes := [.p n x.vis (maskOf fun i => (f i).val)], flags := x.flagsOf fun i => (f i).fl }
  | _ => {}

/-! ### Fetch (04 R90) -/

/-- The bytes at the fragment's PC are the word `w`: its line is mapped by `t`, published, found by the core as `l`
under the same key, its check is good, and a transfer is permitted at the slot. -/
structure Fetches (x : Ctx) (t : Xl) (l : ILine) (w : BitVec 96) : Prop where
  low : x.fr.pc >>> 53 = 0
  mapped : x.xlat x.fr.pc.toNat .x = .ok t
  home : x.s.homeOff (x.s.homeDie t.pa) = false
  published : x.s.unpublished x.st.hoop.core t.pa = false
  cached : x.s.codeAt x.st.hoop.core t = some l
  key : l.key = t.key
  good : l.ok = true
  slot : slotPc x.fr.pc = true
  target : x.fr.arr = true → lineBtm l.data (slotOf x.fr.pc) = true
  word : lineSlot l.data (slotOf x.fr.pc) = w

/-- The state in which the fetched instruction issues: the walker has set A in the entries it walked, the TLBs keep the leaf, and
the arrival at the PC has been checked, also for a restart there (04 R88). -/
def Ctx.fetched (x : Ctx) (t : Xl) : State :=
  (x.s.noteXl x.die (some x.st.hoop.core) x.func x.fr.pc.toNat t false).setWale x.st.w (x.st.wl.arrived x.arm x.fr)

/-- The record of a fault at fetch: the PC is its own resume PC (11 R263). -/
def Ctx.fetchRecord (x : Ctx) (code : BitVec 8) (addr : Dword) : FaultRec :=
  { code := code, shd := x.core.inShadow x.arm, eng := false, fetch := true, pc := x.fr.pc, addr := addr,
    mask := x.fr.em, resume := x.fr.pc, cmd := none }

/-- Nothing comes before an issue, and the fragment `c` is next: no operation is on the agenda, no notification, no injection and no
reported event is due, the step before was no issue. -/
def State.issues (s : State) (c : Cur) : Prop :=
  s.agenda = [] ∧ s.noteNow = none ∧ s.injectNow = none ∧ s.guardNow = none ∧ s.cur = none ∧ s.select = some c

/-- The wale after a load or atomic of a die in warm reset has completed without a value: its reply is to come, and the shadow of its
result, which has no write, is marked (11 R263). -/
def Ctx.awaiting (x : Ctx) (h : HomeOff) (w : Wale) : Wale :=
  { w with core := { w.core with
      hoff := some h
      shadows := if x.la = 0 then w.core.shadows else x.staying ++
        [{ left := x.la, landed := false, arm := x.arm, depth := x.core.stack.length, writes := [], flags := 0, dst := x.lld,
           old := false, off := true }] } }
/-- The reply that strands `ps` of an access will have. -/
def Ctx.replyOf (x : Ctx) (ps : List SAcc) (scalar : Bool) (a : Dword) : HomeOff :=
  { pc := x.fr.pc, addr := a, arm := x.arm, left := x.la, shd := x.core.inShadow x.arm, old := false
    mask := if scalar then x.fr.em else maskOf fun j => ps.any fun q => q.i == j }

/-! ### Changes of one wale -/

/-- `t` is `u` with wale `k` changed by `f`, and nothing else. -/
def Changed (u : State) (k : Nat) (f : Wale → Wale) (t : State) : Prop :=
  ∃ w, u.wale? k = some w ∧ t.wale? k = some (f w) ∧ (∀ j, j ≠ k → Sparse.find? t.wales j = Sparse.find? u.wales j)
    ∧ t = { u with wales := t.wales }
/-- The context with another core of its wale. -/
def Ctx.under (x : Ctx) (c : WaleCore) : Ctx := { x with st := { x.st with wl := { x.st.wl with core := c } } }

/-! ### Accesses (08 R180 to R196, R201) -/

/-- An access as its instruction makes it: the space, the strands with their addresses, the bytes of each, the alignment, the
direction, whether it is atomic, and whether one strand stands for `em`. `kind` is the kind of a demand for a page. -/
structure Access where
  spc : Sp
  strands : List (Fin 32 × Dword)
  n : Nat
  al : Nat
  need : Need
  atomic : Bool
  scalar : Bool
  kind : Nat

/-- Where each strand's access lies, or the fault that the access takes. -/
def Access.placed (a : Access) (x : Ctx) : Placed := x.placeAll a.spc a.strands a.n a.al a.need a.atomic a.scalar

/-- Visited strands, or the one of a scalar form. -/
def Ctx.sites (x : Ctx) (scalar : Bool) (f : Fin 32 → Dword) : List (Fin 32 × Dword) :=
  if scalar then [(0, f 0)] else (Mask.strands x.vis).map fun i => (i, f i)
def Ctx.loadAcc (x : Ctx) (spc : Sp) (o : MOps) : Access :=
  ⟨spc, x.sites (!o.d.isV) (x.mAddr spc o), 2 ^ o.w.toNat, 2 ^ o.w.toNat, .r, false, !o.d.isV, 0⟩
def Ctx.storeAcc (x : Ctx) (spc : Sp) (o : MOps) : Access :=
  ⟨spc, x.sites (!o.d.isV && o.idx == .none) (x.mAddr spc o), 2 ^ o.w.toNat, 2 ^ o.w.toNat, .w, false,
    !o.d.isV && o.idx == .none, 1⟩
def Ctx.atomAcc (x : Ctx) (spc : Sp) (o : AOps) : Access :=
  ⟨spc, x.sites o.scalar (x.aAddr spc o), 2 ^ o.w.toNat, 2 ^ o.w.toNat, if o.d = .none then .w else .rw, true, o.scalar, 2⟩
/-- The sync word that an instruction names: 16 bytes in scratchpad or cluster space (08 R200, R201). -/
def Ctx.syncAcc (x : Ctx) (o : AOps) (kind : Nat) : Access :=
  ⟨syncSpace o, [(0, x.aAddr (syncSpace o) o 0)], 16, 16, .rw, false, true, kind⟩

/-- The access of an instruction. -/
def accessOf (x : Ctx) : Instr → Option Access
  | .ld o => some (x.loadAcc .glob o)
  | .ldsp o => some (x.loadAcc .sp o)
  | .ldcl o => some (x.loadAcc .cl o)
  | .lddie o => some (x.loadAcc .dsc o)
  | .ldpv o => some (x.loadAcc .pv o)
  | .st o => some (x.storeAcc .glob o)
  | .stsp o => some (x.storeAcc .sp o)
  | .stcl o => some (x.storeAcc .cl o)
  | .stdie o => some (x.storeAcc .dsc o)
  | .stpv o => some (x.storeAcc .pv o)
  | .xadd o => some ⟨.glob, x.sites (!o.x.isV && o.idx == .none) (x.aAddr .glob o), 64, 64, .w, true, !o.x.isV && o.idx == .none, 2⟩
  | .xrd o => some ⟨.glob, x.sites (!o.d.isV) (x.mAddr .glob o), 64, 64, .r, true, !o.d.isV, 0⟩
  | .xclr o => some ⟨.glob, x.sites false (x.mAddr .glob o), 64, 64, .w, true, false, 2⟩
  | .atom o | .red o => some (x.atomAcc .glob o)
  | .atomsp o => some (x.atomAcc (match fld o.var 2 1 with | 0 => .sp | 1 => .cl | _ => .dsc) o)
  | .swinit o | .swexp o | .arv o => some (x.syncAcc o 1)
  | .wtg o => some (x.syncAcc o 0)
  | _ => none

/-- A load into registers: its operands. -/
def loadOf : Instr → Option MOps
  | .ld o | .ldsp o | .ldcl o | .lddie o | .ldpv o => some o
  | _ => none
/-- An atomic with a destination: its operands. -/
def atomOf : Instr → Option AOps
  | .atom o | .atomsp o => if o.d = .none then none else some o
  | _ => none
/-- The value of a strand among the values read. -/
def valueAt (ps : List SAcc) (vs : List Nat) (i : Fin 32) : Nat := strandVal ((ps.map fun e => e.i).zip vs) i

/-- The bytes of each strand that writes as one list in ascending strand order (08 R187), with the performing level; of strands at one
address the highest alone writes (12 R273). -/
def storeHeld (ps : List SAcc) (lv : Level) (bytes : Fin 32 → List Byte) : Held :=
  .store ((storing ps).flatMap fun e => placeAccs e.p.pcs (bytes e.i)) lv
/-- The places of an access with the operand of each strand. -/
def withOperands {α : Type} (ps : List SAcc) (f : Fin 32 → α) : List (Loc × α) :=
  ps.flatMap fun e => e.p.pcs.map fun p => (p.1, f e.i)

/-- The effect that a storing access holds until release (08 R187, R193, R196, R201): `ps` are its places. -/
def heldOf (x : Ctx) (ps : List SAcc) : Instr → Option Held
  | .st o | .stsp o | .stcl o | .stdie o | .stpv o => some (storeHeld ps (mLevel o) fun i => x.dataBytes o.d o.w.toNat i)
  | .xclr o => some (storeHeld ps (mLevel o) fun _ => bytesLE 64 0)
  | .xadd o => some (.xadd (o.var.getLsbD 0) (withOperands ps fun i => x.src o.x i) (aLevel o))
  | .red o =>
    if o.d = .none then
      some (.rmw o.aop (o.var.getLsbD 0) (2 ^ o.w.toNat) (x.atomOps o ps) { aLevel o with at_ := max 2 (aLevel o).at_ })
    else none
  | .atom o | .atomsp o =>
    if o.d = .none then some (.rmw o.aop (o.var.getLsbD 0) (2 ^ o.w.toNat) (x.atomOps o ps) (aLevel o)) else none
  | .swinit o => (ps.flatMap fun e => e.p.pcs).head?.map fun p => .sync .init p.1 (x.uni o.x) (if o.y = .none then 0 else x.uni o.y)
  | .swexp o => (ps.flatMap fun e => e.p.pcs).head?.map fun p => .sync .exp p.1 (x.uni o.x) 0
  | .arv o => (ps.flatMap fun e => e.p.pcs).head?.map fun p => .sync .arv p.1 (if o.x = .none then 1 else x.uni o.x) 0
  | _ => none

/-! ### Engine commands at issue (09 R206 to R226, 10 R234 to R252) -/

namespace Rule

/-- The address is a multiple of `n`; it names at most 53 bits. -/
def onto (a : Dword) (n : Nat) : Bool := decide (a.toNat % n = 0)
def reach (a : Dword) : Bool := decide (a.toNat < 2 ^ 53)
/-- The operand is none, or a sync word in place: aligned and within its space. -/
def syncOk (x : Ctx) (o : Opnd) (cl : Bool) : Bool :=
  o == .none || (onto (x.opt o) 16 && x.localRange (if cl then 2 else 1) (x.opt o).toNat 16)
/-- `cpy` and `cpyst` raise no fault (R212, R213). -/
def copyOk (x : Ctx) (o : ROps) : Bool :=
  let d := x.uni64 o.d
  let a := x.uni64 o.a
  let n := (x.uni o.b).toNat
  let dsp := o.mod.toNat % 4
  let ssp := o.mod.toNat / 4 % 4
  onto d 16 && onto a 16 && decide (n % 16 = 0) && decide (n ≤ 2 ^ 24) && syncOk x o.c (o.mod.getLsbD 4)
  && (if dsp = 0 then reach d else x.localRange dsp d.toNat n)
  && (if ssp = 0 then reach a else x.localRange ssp a.toNat n)
/-- `cpyt` and `cpymm` raise no fault (R219, R220). -/
def streamOk (x : Ctx) (o : XOps) : Bool :=
  decide (x.st.wl.idx = pkProducer x.st.skein.pkt) && syncOk x o.d (o.flags.getLsbD 0) && decide ((x.opt o.b).toNat < 2 ^ 30)
/-- `gthr` and `scat` raise no fault (R222): rows of 2^k bytes. -/
def rowOk (x : Ctx) (o : XOps) : Bool :=
  let k := o.flags.toNat % 16
  onto (x.opt o.d) (2 ^ k) && onto (x.uni64 o.b) (2 ^ k) && syncOk x o.c (o.flags.getLsbD 4)
  && x.localRange 1 (x.opt o.d).toNat (32 * 2 ^ k)
  && (Mask.strands x.fr.em).all fun i => reach (rowAddr (x.uni64 o.b) (x.src o.a i) k)
/-- `coll` raises no fault (R223): the source rank of a broadcast lies within the group. -/
def collOk (x : Ctx) (o : XOps) : Bool :=
  let n := (x.uni o.b).toNat
  let g := (x.uni o.c).toNat
  onto (x.uni64 o.d) 16 && onto (x.uni64 o.a) 16 && decide (n ≠ 0) && decide (n ≤ 2 ^ 24)
  && (decide (o.flags.toNat % 8 ≠ 3) || decide (256 ≤ g) || decide (o.ts.toNat < x.s.regF (rCollGrp g) 10 0))
  && reach (x.uni64 o.d) && reach (x.uni64 o.a)
/-- The tile is granted; the reuse entry is granted. -/
def tileOk (x : Ctx) (o : XOps) : Bool := decide ((x.opt o.d).toNat % 256 < pkTiles x.st.skein.pkt)
def entryOk (x : Ctx) (o : XOps) : Bool := decide (o.rs.toNat < pkRsCount x.st.basket.pkt)
/-- A count K of a scalar or a block format. -/
def kOk (sub : BitVec 8) (k lim : Nat) : Bool :=
  decide (1 ≤ k) && decide (k ≤ lim) && (decide (sub.toNat < 7) || decide (9 < sub.toNat) || decide (k % 32 = 0))
/-- NLIM, SATTH and K of `rsdef` (10 R249). -/
def defOk (b : Word) : Bool :=
  let n := b.toNat
  decide (n % 128 ≤ 64) && decide (n / 2 ^ 7 % 512 ≤ 256) && decide (n / 2 ^ 16 % 2048 % 32 = 0) && decide (32 ≤ n / 2 ^ 16 % 2048)
  && decide (n / 2 ^ 16 % 2048 ≤ 1024) && decide (n / 2 ^ 27 = 0)

/-- The command that an instruction issues, with its operands, and whether it raises no fault. -/
def command (x : Ctx) : Instr → Option (Bool × CmdOps)
  | .cpy o => some (copyOk x o, x.cmdOps (.cpy o) (x.uni64 o.d) (x.uni64 o.a) ((x.uni o.b).setWidth 64) (x.opt o.c) [])
  | .cpyst o => some (copyOk x o, x.cmdOps (.cpyst o) (x.uni64 o.d) (x.uni64 o.a) ((x.uni o.b).setWidth 64) (x.opt o.c) [])
  | .cpyt o => some (streamOk x o, x.cmdOps (.cpyt o) (x.opt o.d) (x.opt o.a) (x.opt o.b) 0 [])
  | .cpymm o => some (streamOk x o, x.cmdOps (.cpymm o) (x.opt o.d) (x.opt o.a) (x.opt o.b) (x.opt o.c) [])
  | .gthr o => some (rowOk x o, x.cmdOps (.gthr o) (x.opt o.d) 0 (x.uni64 o.b) (x.opt o.c)
      ((Mask.strands x.fr.em).map fun i => (i.val, x.src o.a i)))
  | .scat o => some (rowOk x o, x.cmdOps (.scat o) (x.opt o.d) 0 (x.uni64 o.b) (x.opt o.c)
      ((Mask.strands x.fr.em).map fun i => (i.val, x.src o.a i)))
  | .coll o => some (collOk x o, x.cmdOps (.coll o) (x.uni64 o.d) (x.uni64 o.a) ((x.uni o.b).setWidth 64) ((x.uni o.c).setWidth 64) [])
  | .sig o => some (decide ((x.uni o.a).toNat < 2 ^ 14),
      x.cmdOps (.sig o) 0 ((x.uni o.a).setWidth 64) ((x.uni o.b).setWidth 64) 0 [])
  | .mma o => some (tileOk x o && kOk o.sub (x.uni o.b).toNat 4096, x.xOps (.mma o) o)
  | .mmad o => some (tileOk x o && entryOk x o, x.xOps (.mmad o) o)
  | .mconv o => some (tileOk x o && kOk o.sub ((x.uni o.b).toNat / 2 ^ 16) 65535, x.xOps (.mconv o) o)
  | .mzero o => some (decide (o.ts.toNat + o.ts2.toNat < pkTiles x.st.skein.pkt), x.xOps (.mzero o) o)
  | .mld o => some (tileOk x o, x.xOps (.mld o) o)
  | .mst o => some (tileOk x o, x.xOps (.mst o) o)
  | .rsdef o => some (entryOk x o && defOk (x.uni o.b), x.xOps (.rsdef o) o)
  | .rsinv o => some (entryOk x o, x.xOps (.rsinv o) o)
  | .rssave o => some (entryOk x o && onto (x.uni64 o.a) 64, x.cmdOps (.rssave o) 0 (x.uni64 o.a) 0 0 [])
  | .rsload o => some (entryOk x o && onto (x.uni64 o.a) 64, x.cmdOps (.rsload o) 0 (x.uni64 o.a) 0 0 [])
  | _ => none
/-- Matrix and reuse commands, which share a core's queue of 16 (10 R241). -/
def isMatrix (i : Instr) : Bool := (cmdClasses i).contains 2 && !(cmdClasses i).contains 0

/-- The special registers by index (02 R45); a 64-bit register lies at two indices, its upper half at the upper one. -/
def special (x : Ctx) : Nat → Nat
  | 0x01 => x.st.wl.idx
  | 0x02 => x.st.hoop.idx
  | 0x03 => x.st.hoop.idx / pkRim x.st.skein.pkt
  | 0x04 => x.st.skein.num
  | 0x05 => x.st.hoop.coreNo
  | 0x06 => x.st.hoop.cluster
  | 0x07 => x.st.hoop.die
  | 0x08 => (Config.cycleCount x.st.hoop.core x.cc).toNat
  | 0x09 => (Config.cycleCount x.st.hoop.core x.cc).toNat / 2 ^ 32
  | 0x0A => x.st.wl.qev.toNat
  | 0x0B => x.core.yleft.toNat
  | 0x0C => (pkCbase x.st.skein.pkt).toNat
  | 0x0D => (pkCbase x.st.skein.pkt).toNat / 2 ^ 32
  | 0x0E => x.core.fflags.toNat
  | 0x0F => x.core.fcause.toNat
  | 0x10 => x.core.fpc.toNat
  | 0x11 => x.core.fpc.toNat / 2 ^ 32
  | 0x12 => x.core.faddr.toNat
  | 0x13 => x.core.faddr.toNat / 2 ^ 32
  | 0x14 => x.core.fmask.toNat
  | 0x15 => x.core.batch.toNat
  | 0x16 => vget x.st.wl.cnt 0 + vget x.st.wl.cnt 1 * 2 ^ 8 + vget x.st.wl.cnt 2 * 2 ^ 16 + vget x.st.wl.cnt 3 * 2 ^ 24
  | 0x17 => x.core.stack.length
  | 0x18 => (vget x.core.lc 0).toNat
  | 0x19 => (vget x.core.lc 1).toNat
  | 0x1A => (vget x.core.lc 2).toNat
  | 0x1B => (x.core.icount + x.core.wcount * 2 ^ 10) % 2 ^ 32 ||| (if x.st.wl.old.isSome then 2 ^ 17 else 0)
  | _ => 0

end Rule

end Sys2Proof.Machine
end

