-- ==== Sys2Proof/Certificates/Slice0/Obligations.lean ====
section
/-! DEFINITION. Statements for the provers. Each is a proposition about `exec`, `step`, `decode` or the operations they share,
and cites the rules of spec/ it formalises. `ready i s = some x` says, of the state and the operands alone, that the issuing
fragment's instruction issues (see `Sys2Proof.Safety`); `RanOn` and its kin say what it leaves and what it leaves unchanged. -/

open Sys2Proof Sys2Proof.Machine

/-! ### Encoding -/

/-- An instruction a wale can issue: a row of the opcode map 04 R108. -/
def Sys2Proof.Machine.issued (i : Instr) : Prop := (infoOf i).isSome = true

/-- Decoding the encoding of a well-formed instruction gives it back, every operand at every value that the encoding admits
(04 R91, R97 to R108). -/
def Obligations.DecodeOfEncode : Prop := ∀ i : Instr, issued i → i.wf = true → ∃ w, encode i = some w ∧ decode w = some i

/-- What decodes is an instruction of the opcode map and well formed: nothing that 00 R9 calls illegal decodes. -/
def Obligations.DecodedIsWellFormed : Prop :=
  ∀ (w : BitVec 96) (i : Instr), decode w = some i → issued i ∧ i.wf = true

/-! ### Issue -/

/-- 04 R90, R85, 15 R346: when the bytes at the PC of the fragment that is next are the word of instruction `i`, the step is
`exec i`, in the state in which the walker has set its A bits and the arrival at the PC has been checked. -/
def Obligations.StepRunsDecoded : Prop :=
  ∀ (s : State) (c : Cur) (x : Ctx) (t : Xl) (l : ILine) (w : BitVec 96) (i : Instr),
    s.issues c → ({ s with cur := some c } : State).ctx? = some x → x.core.yleft ≠ 0 → Fetches x t l w →
    decode w = some i → step s = exec i (x.fetched t)

/-- 04 R90: a fetch meets its faults in the order IXLATE or IPERM, UNPUB, LINE, BTGT, ILL; each is raised with the PC as its
resume PC (11 R263), but for ILL, which names the next slot. Before them stands a PC beyond 53 bits (log entry 21). A partition check
that rejects the fetch is counted on its die (14 R317); a fetch waits for a die or link that holds it, and for a page granted to a
peer, which it calls back (14 R315, 16 R356, R361). -/
def Obligations.FetchFaultsInOrder : Prop :=
  ∀ (s : State) (c : Cur) (x : Ctx),
    s.issues c → ({ s with cur := some c } : State).ctx? = some x → x.core.yleft ≠ 0 →
    (x.fr.pc >>> 53 ≠ 0 → ∃ u, step s = .next u ∧ Raised x (x.fetchRecord cBTGT x.fr.pc) u) ∧
    (x.fr.pc >>> 53 = 0 → ∀ e, x.xlat x.fr.pc.toNat .x = .error e →
      (e = .xlate ∨ e = .demand → ∃ u, step s = .next u ∧ Raised x (x.fetchRecord cIXLATE x.fr.pc) u) ∧
      (e = .perm → ∃ u, step s = .next u ∧ Raised x (x.fetchRecord cIPERM x.fr.pc) u) ∧
      (∀ d, e = .part d → ∃ u, step s = .next u ∧ Raised (x.over (x.s.countRej d)) (x.fetchRecord cIPERM x.fr.pc) u) ∧
      (e = .wait → ∃ u, step s = .next u ∧ Waits x (.wait false) u) ∧
      (∀ p, e = .away p → ∃ u, step s = .next u ∧ Waits (x.over (x.s.callBack p)) (.wait false) u)) ∧
    (x.fr.pc >>> 53 = 0 → ∀ t, x.xlat x.fr.pc.toNat .x = .ok t → x.s.homeOff (x.s.homeDie t.pa) = true →
      ∃ u, step s = .next u ∧ Waits x (.wait false) u) ∧
    (x.fr.pc >>> 53 = 0 → ∀ t, x.xlat x.fr.pc.toNat .x = .ok t → x.s.homeOff (x.s.homeDie t.pa) = false →
      (x.s.unpublished x.st.hoop.core t.pa = true →
        ∃ u, step s = .next u ∧ Raised x (x.fetchRecord cUNPUB (lineVa x.fr.pc)) u) ∧
      (x.s.unpublished x.st.hoop.core t.pa = false → ∀ l,
        x.s.codeAt x.st.hoop.core t = some l → l.key = t.key →
        (l.ok = false → ∃ u, step s = .next u ∧ Raised x (x.fetchRecord cLINE (lineVa x.fr.pc)) u) ∧
        (l.ok = true → (slotPc x.fr.pc = false ∨ (x.fr.arr = true ∧ lineBtm l.data (slotOf x.fr.pc) = false)) →
          ∃ u, step s = .next u ∧ Raised x (x.fetchRecord cBTGT x.fr.pc) u))) ∧
    (∀ t l w, Fetches x t l w → decode w = none →
      ∃ y u, (x.fetched t).ctx? = some y ∧ step s = .next u ∧ Raised y (y.record ⟨cILL, 0, y.fr.em⟩) u)

/-- 00 R9, 02 R42, 04 R95, R109: an instruction whose encoding is illegal, that names a v register at or above VREGS, or that
may not stand in its shadow raises ILL for the fragment's `em` and has no other effect. 01 R34, 07 R175: an instruction that
issues with no instruction left before the yield deadline ends the basket. -/
def Obligations.IllegalAndOverdueInstructions : Prop :=
  ∀ (i : Instr) (f : Info) (s : State) (y : Ctx), infoOf i = some f → s.ctx? = some y →
    (y.core.yleft ≠ 0 →
      (i.wf = false ∨ vregsOk y.st.wl.vregs f.regs = false ∨ shadowIll y.core y.arm f = true) →
      ∃ t, exec i s = .next t ∧ Raised y (y.record ⟨cILL, 0, y.fr.em⟩) t) ∧
    (y.core.yleft = 0 → Sparse.wf s.baskets = true →
      ∃ t, exec i s = .next t ∧ t.basket? y.st.skein.basket = none ∧
        ∀ e ∈ t.wales, e ∈ s.wales ∧ ∀ h k, s.hoop? e.2.hoop = some h → s.skein? h.skein = some k →
          k.basket ≠ y.st.skein.basket)

/-- 02 R52, R53, 01 R30: where ICOUNT has reached 512 or WCOUNT 64, a plain head is made before the instruction, which then
issues as in the state after the head, unless an older region is unreleased: then the wale waits. A single region waits until
the window is drained. A fragment that waits so stays alone at its instruction while the other can issue (01 R25). -/
def Obligations.HeadsBeforeInstructions : Prop :=
  ∀ (i : Instr) (f : Info) (s : State) (x : Ctx), infoOf i = some f → checked i s = some x →
    (f.single = false → (512 ≤ x.core.icount ∨ 64 ≤ x.core.wcount) →
      (x.st.wl.old = none →
        exec i s = exec i (s.setWale x.st.w (x.st.wl.head (s.window x.die) x.cc))) ∧
      (x.st.wl.old ≠ none → ∃ t, exec i s = .next t ∧ Drains x t)) ∧
    (f.single = true → x.st.wl.drained = false → ∃ t, exec i s = .next t ∧ Drains x t)

/-- 07 R166: at a single-fragment point with the other fragment of the token. While the other runs, this one waits. When both
wait (a suspended one counts as waiting), ARM1 is suspended and ARM0 proceeds, but where ARM0 stands at a `brd` that would
split, ARM0 is suspended and ARM1 proceeds; where both stand at such a `brd`, ARM0 raises SYNC. The fragment that proceeds
issues as with the other suspended. With no other it issues. Beside a fragment that a trap handler has suspended (11 R264) it issues,
but for a `brd` that would split, which waits: that is log entry 17's reading (DEDUCED), no rule of the spec. -/
def Obligations.SingleFragmentPoints : Prop :=
  ∀ (i : Instr) (f : Info) (s : State) (x : Ctx), infoOf i = some f → legal i s = some x → atPoint i f x = true →
    x.arm ≠ .sole →
    let o := x.core.frag x.arm.sib
    let mine := splits i x.core x.fr
    let at0 := if x.arm = .a0 then mine else o.split
    (o.heldByTrap = true → mine = true → ∃ t, exec i s = .next t ∧
      OnlyWale x { x.st.wl with core := x.core.setFrag x.arm { x.fr with st := .waiting, split := mine } } t) ∧
    (o.heldByTrap = true → mine = false → checked i s = some x) ∧
    (o.st = .free ∨ o.st = .opened → checked i s = some x) ∧
    (o.heldByTrap = false → (o.st = .running → ∃ t, exec i s = .next t ∧
      OnlyWale x { x.st.wl with core := x.core.setFrag x.arm { x.fr with st := .waiting, split := mine } } t) ∧
    (o.st = .waiting ∨ o.st = .suspended → mine = true → o.split = true →
      ∃ (t : State) (w : Wale) (r : FaultRec), exec i s = .next t ∧ t.wale? x.st.w = some w ∧
        w.core.pend0 = some r ∧ r.code = cSYNC ∧ r.mask = (x.core.frag .a0).em) ∧
    (o.st = .waiting ∨ o.st = .suspended → ¬(mine = true ∧ o.split = true) → (x.arm = .a1 ↔ at0 = true) →
      exec i s = exec i (s.setWale x.st.w { x.st.wl with
        core := (x.core.setFrag x.arm.sib { o with st := .suspended, why := .point }).setFrag x.arm
          { x.fr with st := .running, split := mine } })) ∧
    (o.st = .waiting ∨ o.st = .suspended → ¬(mine = true ∧ o.split = true) → ¬(x.arm = .a1 ↔ at0 = true) →
      ∃ t, exec i s = .next t ∧ OnlyWale x { x.st.wl with
        core := (x.core.setFrag x.arm { x.fr with st := .suspended, split := mine, why := .point }).setFrag x.arm.sib
          { o with st := .running } } t))

/-- 07 R171, 04 R85: in sequence a fragment goes on to the next slot, or, where the innermost loop ends there, to the
loop's start with the counter one less; a loop whose counter is used up is no longer active and the next one out is judged,
and loops that ended inside it start again. The last two clauses say so of any loops that end at the slot, innermost first. -/
def Obligations.SequenceAndLoopEnds : Prop :=
  (∀ (c : WaleCore) (a : ArmId), (c.frag a).retry = none → (a = .sole ∨ c.stack ≠ []) → c.lstack = [] →
    (c.advance a).frag a = { c.frag a with pc := nextSlot (c.frag a).pc, st := .running, split := false, arr := false }) ∧
  (∀ (c : WaleCore) (a : ArmId) (n : Fin 3) (rest : List (Fin 3)), (c.frag a).retry = none →
    (a = .sole ∨ c.stack ≠ []) → c.lstack = n :: rest →
    ((vget c.loops n).lend ≠ (c.frag a).pc →
      (c.advance a).frag a = { c.frag a with pc := nextSlot (c.frag a).pc, st := .running, split := false, arr := false } ∧
      (c.advance a).lc = c.lc ∧ (c.advance a).lstack = c.lstack) ∧
    ((vget c.loops n).lend = (c.frag a).pc → vget c.lc n ≠ 1 →
      (c.advance a).frag a =
        { c.frag a with pc := (vget c.loops n).lstart, st := .running, split := false, arr := true } ∧
      (∀ m, vget (c.advance a).lc m = if m = n then vget c.lc n - 1 else vget c.lc m) ∧
      (c.advance a).lstack = c.lstack) ∧
    ((vget c.loops n).lend = (c.frag a).pc → vget c.lc n = 1 → rest = [] →
      (c.advance a).frag a = { c.frag a with pc := nextSlot (c.frag a).pc, st := .running, split := false, arr := false } ∧
      vget (c.advance a).lc n = 0 ∧ (c.advance a).lstack = [] ∧ (vget (c.advance a).loops n).lact = false) ∧
    (∀ m more, rest = m :: more → m ≠ n → (vget c.loops n).lend = (c.frag a).pc → vget c.lc n = 1 →
      (vget c.loops m).lend = (c.frag a).pc → vget c.lc m ≠ 1 →
      (c.advance a).frag a =
        { c.frag a with pc := (vget c.loops m).lstart, st := .running, split := false, arr := true } ∧
      vget (c.advance a).lc m = vget c.lc m - 1 ∧ vget (c.advance a).lc n = (vget c.loops n).lreload ∧
      (vget (c.advance a).loops n).lact = true ∧ (c.advance a).lstack = c.lstack)) ∧
  (∀ (c : WaleCore) (a : ArmId) (us rest : List (Fin 3)), (c.frag a).retry = none → (a = .sole ∨ c.stack ≠ []) →
    c.lstack = us ++ rest → c.lstack.Nodup →
    (∀ u ∈ us, (vget c.loops u).lend = (c.frag a).pc ∧ vget c.lc u = 1) →
    ((∀ n, rest.head? = some n → (vget c.loops n).lend ≠ (c.frag a).pc) →
      (c.advance a).frag a = { c.frag a with pc := nextSlot (c.frag a).pc, st := .running, split := false, arr := false } ∧
      (c.advance a).lstack = rest ∧
      (∀ m, vget (c.advance a).lc m = if m ∈ us then 0 else vget c.lc m) ∧
      ∀ m, vget (c.advance a).loops m = if m ∈ us then { vget c.loops m with lact := false } else vget c.loops m) ∧
    (∀ n, rest.head? = some n → (vget c.loops n).lend = (c.frag a).pc → vget c.lc n ≠ 1 →
      (c.advance a).frag a =
        { c.frag a with pc := (vget c.loops n).lstart, st := .running, split := false, arr := true } ∧
      (c.advance a).lstack = c.lstack ∧
      (∀ m, vget (c.advance a).lc m =
        if m = n then vget c.lc n - 1 else if m ∈ us then (vget c.loops m).lreload else vget c.lc m) ∧
      ∀ m, vget (c.advance a).loops m = if m ∈ us then { vget c.loops m with lact := true } else vget c.loops m))

/-! ### Integer, logic, predicate and lane instructions -/

/-- 05 R114 to R117, R119 to R121, R123 to R125: `iadd`, `isub`, `iadds`, `isubs`, `imul`, `imulh`, `imad`, `idiv`, `irem`, `imin`,
`imax`, `iabs`, `and`, `or`, `xor`, `andn`, `not`, `shl`, `shr`, `sar`, `rotl`, `bfe`, `bfi`, `popc`, `clz`, `brev`, `sel`, `mov`,
`movi`, `idp4` and their I forms complete; the destination holds the value of `Rule.int` in every visited strand, SAT is set
where it says so, and nothing else changes but the PC and the counts. -/
def Obligations.IntegerResults : Prop :=
  ∀ (i : Instr) (s : State) (x : Ctx) (d : Opnd) (f : Ctx → Fin 32 → FRes Word),
    Rule.int i = some (d, f) → ready i s = some x → ∃ t, exec i s = .next t ∧ RanOn x false (x.wordRes d (f x)) t

/-- 05 R115, R118, R124: `iadd64`, `isub64`, `lea`, `imadw`, `mov.d`, `movi.d` and their I forms: a pair modulo 2^64, low half in
the even register. -/
def Obligations.PairResults : Prop :=
  ∀ (i : Instr) (s : State) (x : Ctx) (d : Opnd) (f : Ctx → Fin 32 → Dword),
    Rule.pairs i = some (d, f) → ready i s = some x → ∃ t, exec i s = .next t ∧ RanOn x false (x.pairRes d (f x)) t

/-- 05 R122, R130, R131, R133, 06 R144: `icmp`, `fcmp`, `vote`, `elect`, `pand`, `por`, `pxor`, `pnot`, `pmov` with a p destination
write the bits of the visited strands; other bits keep their value and a write to p0 is discarded (02 R42). A `vote` whose guard holds
for no strand writes nothing (04 R92). -/
def Obligations.PredicateResults : Prop :=
  ∀ (i : Instr) (s : State) (x : Ctx) (d : Opnd) (f : Ctx → Fin 32 → FRes Bool),
    Rule.preds i = some (d, f) → ready i s = some x → ∃ t, exec i s = .next t ∧ RanOn x false (if Rule.idle x i then {} else x.bitRes d (f x)) t

/-- 05 R127, R130, R131: `shfl`, `vote` to an s register, `match`; 05 R129: `rdfl`; 05 R132: `lred` and `lscan`, which combine the
visited strands in ascending order, one step each, the first value unchanged. A `vote` whose guard holds for no strand writes nothing
(04 R92); without a guard and with `em` zero its s register takes R130's value for no strand (log entry 80, DEDUCED). -/
def Obligations.LaneResults : Prop :=
  (∀ (i : Instr) (s : State) (x : Ctx) (d : Opnd) (f : Ctx → Fin 32 → FRes Word),
    Rule.lane i = some (d, f) → ready i s = some x → ∃ t, exec i s = .next t ∧
      RanOn x false (if Rule.idle x i then {} else x.wordRes d (f x)) t) ∧
  (∀ (o : ROps) (s : State) (x : Ctx), ready (.rdfl o) s = some x → ∃ t, exec (.rdfl o) s = .next t ∧
    RanOn x false (match Mask.strands x.vis with | [] => {} | j :: _ => x.wordRes o.d fun _ => Rule.val (x.src o.a j)) t) ∧
  (∀ (o : ROps) (s : State) (x : Ctx), ready (.lred o) s = some x → ∃ t, exec (.lred o) s = .next t ∧
    RanOn x false
      (match Rule.folded (o.mod.toNat % 8) (o.mod.toNat / 8 % 4) (x.src o.a) (Mask.strands x.vis), o.d with
        | some y, .v n => { writes := [.v n x.vis (Lanes.all y.val)], flags := y.fl }
        | some y, .s n => { writes := [.s n y.val], flags := y.fl }
        | _, _ => {}) t) ∧
  (∀ (o : ROps) (s : State) (x : Ctx) (n : Fin 256), o.d = .v n → ready (.lscan o) s = some x →
    ∃ (t : State) (y : Lanes), exec (.lscan o) s = .next t ∧
      RanOn x false ⟨[.v n x.vis y], Rule.foldFl (o.mod.toNat % 8) (o.mod.toNat / 8 % 4) (x.src o.a) (Mask.strands x.vis), []⟩ t ∧
      ∀ i : Fin 32, x.vis.getLsbD i.val = true → vget y i =
        if o.mod.getLsbD 5 then
          Rule.foldVal (o.mod.toNat % 8) (o.mod.toNat / 8 % 4) (x.src o.a) ((Mask.strands x.vis).filter fun j => decide (j < i))
            (redIdent (o.mod.toNat % 8) (o.mod.toNat / 8 % 4))
        else
          Rule.foldVal (o.mod.toNat % 8) (o.mod.toNat / 8 % 4) (x.src o.a) ((Mask.strands x.vis).filter fun j => decide (j ≤ i)) 0)

/-- The lane that `rdln` and `bcast` name: B or IMM modulo 32 (05 R128). -/
def Sys2Proof.Machine.namedLane (x : Ctx) : Instr → Option (Nat × Opnd × Opnd)
  | .rdln o | .bcast o => some ((x.uni o.b).toNat % 32, o.a, o.d)
  | .rdlnI o | .bcastI o => some (o.imm.toNat % 32, o.a, o.d)
  | _ => none

/-- 05 R126, R128: `rdln` and `bcast` read the named lane of A whatever its bit of `em`: a member of the issuing fragment, a
strand that has exited or one that is parked at once; of a suspended arm they raise SYNC, also of one that a trap handler has suspended
(log entry 102, DEDUCED); while the lane is a member of the other live fragment and that one runs, they wait as at a single-fragment
point. -/
def Obligations.NamedLaneReads : Prop :=
  ∀ (i : Instr) (s : State) (x : Ctx) (n : Nat) (a d : Opnd), ready i s = some x → namedLane x i = some (n, a, d) →
    (laneStatus x.core x.arm n = .here →
      ∃ t, exec i s = .next t ∧ RanOn x false (x.wordRes d fun _ => Rule.val (x.src a (Fin.ofNat 32 n))) t) ∧
    (laneStatus x.core x.arm n = .suspended →
      ∃ t, exec i s = .next t ∧ Raised x (x.record ⟨cSYNC, 0, x.fr.em⟩) t) ∧
    (laneStatus x.core x.arm n = .other → (x.core.frag x.arm.sib).st = .running →
      ∃ t, exec i s = .next t ∧
        OnlyWale x { x.st.wl with core := x.core.setFrag x.arm { x.fr with st := .waiting, split := false } } t) ∧
    (laneStatus x.core x.arm n = .suspended ↔ ¬(x.fr.mem.getLsbD n = true) ∧
      ¬(x.arm ≠ .sole ∧ (x.core.frag x.arm.sib).live = true ∧ (x.core.frag x.arm.sib).mem.getLsbD n = true) ∧
      ∃ k ∈ x.core.stack, (k.a0.st = .suspended ∧ k.a0.mem.getLsbD n = true)
        ∨ (k.a1.st = .suspended ∧ k.a1.mem.getLsbD n = true))

/-- 05 R133 to R135, 04 R99: `pmov` to an s register copies all 32 bits; `emget` copies `em`, to a p register all bits; `emset` sets
`em` to A AND the members; with no strand left the fragment parks at the top token's `join`, or SYNC is raised with an empty
stack and `em` unchanged; `nop` changes nothing. -/
def Obligations.MaskMoves : Prop :=
  (∀ (s : State) (x : Ctx), ready .nop s = some x → ∃ t, exec .nop s = .next t ∧ RanOn x false {} t) ∧
  (∀ (o : ROps) (s : State) (x : Ctx) (n : Fin 64), o.d = .s n → ready (.pmov o) s = some x →
    ∃ t, exec (.pmov o) s = .next t ∧ RanOn x false { writes := [.s n (x.pred o.a)] } t) ∧
  (∀ (o : ROps) (s : State) (x : Ctx), ready (.emget o) s = some x → ∃ t, exec (.emget o) s = .next t ∧
    RanOn x false (match o.d with
      | .s n => { writes := [.s n x.fr.em] }
      | .p n => { writes := [.p n 0xFFFFFFFF x.fr.em] }
      | _ => {}) t) ∧
  (∀ (o : ROps) (s : State) (x : Ctx), ready (.emset o) s = some x →
    let em := x.maskSrc o.a &&& x.fr.mem
    (em ≠ 0 → ∃ t, exec (.emset o) s = .next t ∧
      Ran x {} false ((x.core.setFrag x.arm { x.fr with em := em }).advance x.arm) t) ∧
    (em = 0 → x.core.stack = [] → ∃ t, exec (.emset o) s = .next t ∧ Raised x (x.record ⟨cSYNC, 0, x.fr.em⟩) t) ∧
    (em = 0 → x.core.stack ≠ [] → ∃ t, exec (.emset o) s = .next t ∧ Ran x {} false (x.core.park x.arm) t))

/-! ### Floating point -/

/-- 06 R141 to R143, R145 to R150, R153: `fadd`, `fsub`, `fmul`, `fdiv`, `fma`, `fmin`, `fmax`, `fclass`, `frcp`, `fsqrt`, `frsq`,
`fpow2`, `flog2`, `frnd`, `hadd2`, `hmul2`, `hfma2`, `fdp2`, `cvt`, `cvtbx` and their I forms complete with the value and the flags
of `Rule.float` in every visited strand. -/
def Obligations.FloatResults : Prop :=
  ∀ (i : Instr) (s : State) (x : Ctx) (d : Opnd) (f : Ctx → Fin 32 → FRes Word),
    Rule.float i = some (d, f) → ready i s = some x → ∃ t, exec i s = .next t ∧ RanOn x false (x.wordRes d (f x)) t

/-- The exact value of a number, and of a bit pattern. -/
noncomputable def Sys2Proof.Machine.FV.toRat : FV → ℚ
  | .fin s m e => (if s then -1 else 1) * (m : ℚ) * (2 : ℚ) ^ e
  | _ => 0
/-- A bit pattern of the format that stands for a finite number. -/
def Sys2Proof.Machine.Fmt.finite (f : Fmt) (b : Nat) : Prop :=
  b < 2 ^ f.width ∧ b / 2 ^ f.fb % 2 ^ f.eb ≠ f.emax

/-- 06 R152: `cvtb` forms one block of the 32 strands, +0.0 standing for a strand that is not visited; each visited strand takes its
element in the low bits, E0 in [23:16] and E1 in [31:24]; with no strand visited nothing is set. 03 R74: E0 is the exponent of the
largest finite magnitude, one more where it rounds beyond the mantissa, E1 is below it by the shift; each element is its magnitude rounded
to nearest even at E1 where that fits, else at E0, at most the largest mantissa; a NaN makes E0 255. -/
def Obligations.BlockFormed : Prop :=
  (∀ (o : ROps) (s : State) (x : Ctx) (n : Fin 256), o.d = .v n → ready (.cvtb o) s = some x →
    let b := bfpBits (o.mod.toNat % 16)
    let sh := if o.mod.toNat / 16 % 16 = 0 then b else o.mod.toNat / 16 % 16
    let k := formBlock ((List.finRange 32).map fun i =>
      if x.vis.getLsbD i.val then unpack fp32 (x.src o.a i).toNat else .fin false 0 0) b sh
    ∃ (t : State) (y : Lanes), exec (.cvtb o) s = .next t ∧
      RanOn x false { writes := [.v n x.vis y], flags := if x.vis = 0 then 0 else k.fl } t ∧
      ∀ i : Fin 32, vget y i = BitVec.ofNat 32 (k.elems.getD i.val 0 + k.e0 * 2 ^ 16 + k.e1 * 2 ^ 24)) ∧
  (∀ (xs : List FV) (b sh : Nat), b = 2 ∨ b = 4 ∨ b = 6 →
    let k := formBlock xs b sh
    let top := 2 ^ b - 1
    let nearest (q : ℚ) (n : Nat) : Prop := |(n : ℚ) - q| ≤ 1 / 2 ∧ (|(n : ℚ) - q| = 1 / 2 → n % 2 = 0)
    let at_ (x : FV) (e : Nat) : ℚ := |x.toRat| / (2 : ℚ) ^ ((e : Int) - 127 - (b - 1))
    let inf : Prop := ∃ s, FV.inf s ∈ xs
    let nan : Prop := ∃ g, FV.nan g ∈ xs
    ∃ e0 : Nat, (nan → k.e0 = 0xFF) ∧ (¬nan → k.e0 = e0) ∧ k.e1 = max (e0 - sh) 1 ∧ k.elems.length = xs.length ∧
      ((∀ x ∈ xs, x.toRat = 0) → (inf → e0 = 0xFE) ∧ (¬inf → e0 = 1)) ∧
      (∀ x ∈ xs, (∀ y ∈ xs, |y.toRat| ≤ |x.toRat|) → ∀ g : Int, (2 : ℚ) ^ g ≤ |x.toRat| → |x.toRat| < (2 : ℚ) ^ (g + 1) →
        let e := (min (max (g + 127) 1) 0xFE).toNat
        ∃ n, nearest (at_ x e) n ∧ e0 = if top < n ∧ e < 0xFE then e + 1 else e) ∧
      ∀ (i : Nat) (x : FV) (w : Nat), xs[i]? = some x → k.elems[i]? = some w →
        (∀ g, x = .nan g → w = 0) ∧ (∀ s, x = .inf s → w = (if s then 2 ^ b else 0) + top) ∧
        (∀ s m e, x = .fin s m e → ∃ q n, nearest (at_ x k.e1) q ∧ nearest (at_ x e0) n ∧
          w = (if s then 2 ^ b else 0) + if q ≤ top then 2 ^ (b + 1) + q else min n top))

/-- The finite pattern `r` is the value `v` rounded to nearest, of two as near the even one; NX is set exactly when they differ. -/
def Sys2Proof.Machine.Fmt.nearest (f : Fmt) (r : FRes Nat) (v : ℚ) : Prop :=
  f.finite r.val ∧ (r.fl &&& fNX = 0 ↔ (unpack f r.val).toRat = v) ∧
  ∀ b, f.finite b → |(unpack f r.val).toRat - v| ≤ |(unpack f b).toRat - v| ∧
    (|(unpack f r.val).toRat - v| = |(unpack f b).toRat - v| → (unpack f b).toRat = (unpack f r.val).toRat ∨ r.val % 2 = 0)

/-- 03 R61, R64, R67: under RNE a number that does not overflow rounds to a pattern than which no finite pattern of the format is
nearer, of two as near the even one; NX is set exactly when the result differs from it; under RTZ the result's magnitude does not exceed
it. The quotient of two finite FP32 numbers rounds so, and the square root of one; 0 / 0 and the root of a negative number are NaN with
NV, another x / 0 is infinity with DZ. 03 R77, R78: a group of products is added to the accumulator of a matrix sum with one rounding;
a NaN among them gives the canonical NaN. -/
def Obligations.RoundingIsNearest : Prop :=
  (∀ (f : Fmt), f = fp32 ∨ f = fp16 ∨ f = bf16 → ∀ (s : Bool) (m : Nat) (e : Int), m ≠ 0 →
    let r := roundFin f .rne s m e false
    let z := roundFin f .rtz s m e false
    let v := (FV.fin s m e).toRat
    (r.fl &&& fOF = 0 → f.nearest r v) ∧ (f.finite z.val ∧ |(unpack f z.val).toRat| ≤ |v|)) ∧
  (∀ a b : Nat, fp32.finite a → fp32.finite b →
    let p := (unpack fp32 a).toRat
    let q := (unpack fp32 b).toRat
    let r := fDiv fp32 .rne a b
    let z := fDiv fp32 .rtz a b
    (q ≠ 0 → (r.fl &&& fOF = 0 → fp32.nearest r (p / q)) ∧ fp32.finite z.val ∧ |(unpack fp32 z.val).toRat| ≤ |p / q|) ∧
    (q = 0 → p = 0 → r = ⟨0x7FC00000, fNV⟩) ∧
    (q = 0 → p ≠ 0 → r = ⟨if (unpack fp32 a).sign = (unpack fp32 b).sign then 0x7F800000 else 0xFF800000, fDZ⟩)) ∧
  (∀ a : Nat, fp32.finite a →
    let v := (unpack fp32 a).toRat
    let r := fSqrt fp32 .rne a
    let root (c : Nat) : ℝ := |(((unpack fp32 c).toRat : ℚ) : ℝ) - Real.sqrt (v : ℝ)|
    (v < 0 → r = ⟨0x7FC00000, fNV⟩) ∧
    (0 ≤ v → fp32.finite r.val ∧ (r.fl &&& fNX = 0 ↔ root r.val = 0) ∧ ∀ c, fp32.finite c → root r.val ≤ root c)) ∧
  (∀ (a : Nat) (ps : List (FV × FV)), a < 2 ^ 32 →
    let r := groupAdd a ps
    let z : ℚ := (unpack fp32 a).toRat + (ps.map fun p => p.1.toRat * p.2.toRat).sum
    ((unpack fp32 a).isNaN = true ∨ (∃ p ∈ ps, p.1.isNaN = true ∨ p.2.isNaN = true) → r = 0x7FC00000) ∧
    (fp32.finite a → (∀ p ∈ ps, ∃ s m e t n k, p = (.fin s m e, .fin t n k)) →
      (z ≠ 0 → |z| < 2 ^ 128 - 2 ^ 103 → ∃ fl, fp32.nearest ⟨r, fl⟩ z) ∧
      (2 ^ 128 - 2 ^ 103 ≤ |z| → r = if z < 0 then 0xFF800000 else 0x7F800000)))

/-! ### Control flow -/

/-- 07 R157, R158, 04 R85: `bra`, `brc.nz`, `brc.z`, `jmp`, `call`, `callr`, `ret` transfer the fragment, by a slot distance or
to the PC of an s pair; a link pair takes the PC of the slot behind the instruction; a branch not taken goes on in sequence. -/
def Obligations.Branches : Prop :=
  (∀ (s : State) (x : Ctx),
    (∀ o, ready (.bra o) s = some x → ∃ t, exec (.bra o) s = .next t ∧ RanTo x (target x.fr.pc o.dist) {} t) ∧
    (∀ o, ready (.brcNz o) s = some x →
      (x.uni o.a ≠ 0 → ∃ t, exec (.brcNz o) s = .next t ∧ RanTo x (target x.fr.pc o.dist) {} t) ∧
      (x.uni o.a = 0 → ∃ t, exec (.brcNz o) s = .next t ∧ RanOn x false {} t)) ∧
    (∀ o, ready (.brcZ o) s = some x →
      (x.uni o.a = 0 → ∃ t, exec (.brcZ o) s = .next t ∧ RanTo x (target x.fr.pc o.dist) {} t) ∧
      (x.uni o.a ≠ 0 → ∃ t, exec (.brcZ o) s = .next t ∧ RanOn x false {} t)) ∧
    (∀ o, ready (.jmp o) s = some x → ∃ t, exec (.jmp o) s = .next t ∧ RanTo x (x.uni64 o.a) {} t) ∧
    (∀ o, ready (.ret o) s = some x → ∃ t, exec (.ret o) s = .next t ∧ RanTo x (x.uni64 o.a) {} t) ∧
    (∀ (o : BOps) (n : Fin 64), o.a = .s n → ready (.call o) s = some x → ∃ t, exec (.call o) s = .next t ∧
      RanTo x (target x.fr.pc o.dist) { writes := [.s n (lo32 (nextSlot x.fr.pc)), .s (n + 1) (hi32 (nextSlot x.fr.pc))] } t) ∧
    (∀ (o : ROps) (n : Fin 64), o.d = .s n → ready (.callr o) s = some x → ∃ t, exec (.callr o) s = .next t ∧
      RanTo x (x.uni64 o.a) { writes := [.s n (lo32 (nextSlot x.fr.pc)), .s (n + 1) (hi32 (nextSlot x.fr.pc))] } t)) ∧
  (∀ pc : Dword, slotPc pc = true → target pc 0 = pc ∧ target pc 1 = nextSlot pc ∧ pc.toNat + 12 ≤ (nextSlot pc).toNat)

/-- 07 R160 to R165, R166: `tok`, `brd`, `join`, `brk` and `exit`. JOVF at 64 entries; SYNC on an empty stack, or on one not
deeper than DEPTH; a `brd` that all strands take, or none, does not split; a token waits while the sibling has a fault pending or waits
for the firmware (log entry 17). An engine fault that has been reported is taken at an `exit` of the last strands (09 R211). -/
def Obligations.TokenInstructions : Prop :=
  ∀ (s : State) (x : Ctx),
    (∀ o, ready (.tok o) s = some x →
      (64 ≤ x.core.stack.length → ∃ t, exec (.tok o) s = .next t ∧ Raised x (x.record ⟨cJOVF, 0, x.fr.em⟩) t) ∧
      (x.core.stack.length < 64 →
        let waits := x.arm ≠ .sole ∧ (x.core.frag x.arm.sib).live = true ∧
          (x.core.pend x.arm.sib ≠ none ∨ x.core.hoff ≠ none ∨ x.core.call ≠ none)
        (waits → ∃ t, exec (.tok o) s = .next t ∧ Drains x t) ∧
        (¬waits → ∃ t, exec (.tok o) s = .next t ∧
          Ran x {} false ((x.core.pushToken x.arm (target x.fr.pc o.dist)).advance .a0) t))) ∧
    (∀ o, ready (.brd o) s = some x →
      let t' := x.fr.em &&& x.pred o.a
      let f := x.fr.em &&& ~~~(x.pred o.a)
      let l := target x.fr.pc o.dist
      (x.core.stack = [] → ∃ t, exec (.brd o) s = .next t ∧ Raised x (x.record ⟨cSYNC, 0, x.fr.em⟩) t) ∧
      (x.core.stack ≠ [] → t' = 0 → ∃ t, exec (.brd o) s = .next t ∧ RanOn x false {} t) ∧
      (x.core.stack ≠ [] → t' ≠ 0 → f = 0 → ∃ t, exec (.brd o) s = .next t ∧ RanTo x l {} t) ∧
      (x.core.stack ≠ [] → t' ≠ 0 → f ≠ 0 → ∃ t, exec (.brd o) s = .next t ∧
        Ran x {} false ((x.core.splitArms x.arm t' l).advance .a1) t)) ∧
    (∀ o, ready (.join o) s = some x →
      (x.core.stack = [] → ∃ t, exec (.join o) s = .next t ∧ Raised x (x.record ⟨cSYNC, 0, x.fr.em⟩) t) ∧
      (x.core.stack ≠ [] → ∃ t, exec (.join o) s = .next t ∧ Ran x {} false (x.core.park x.arm) t)) ∧
    (∀ o, ready (.brk o) s = some x →
      let m := x.fr.em &&& x.pred o.a
      let c : WaleCore := { x.core with stack := brkStack m o.sub.toNat x.core.stack }
      (x.core.stack.length ≤ o.sub.toNat →
        ∃ t, exec (.brk o) s = .next t ∧ Raised x (x.record ⟨cSYNC, 0, x.fr.em⟩) t) ∧
      (o.sub.toNat < x.core.stack.length → m = 0 → ∃ t, exec (.brk o) s = .next t ∧ RanOn x false {} t) ∧
      (o.sub.toNat < x.core.stack.length → m ≠ 0 → ∃ t, exec (.brk o) s = .next t ∧
        Ran x {} false ((c.setFrag x.arm ((c.frag x.arm).without m)).endOrGo x.arm) t)) ∧
    (∀ o, ready (.exit o) s = some x →
      (x.st.wl.engFaults = [] ∨ x.core.exited ||| x.vis ≠ 0xFFFFFFFF →
        ∃ t, exec (.exit o) s = .next t ∧ Ran x {} false (x.core.exitStrands x.arm x.vis) t) ∧
      (∀ e r, x.st.wl.engFaults = e :: r → x.core.exited ||| x.vis = 0xFFFFFFFF →
        ∃ t, exec (.exit o) s = .next t ∧ Raised x { e.f with mask := x.fr.em, resume := x.fr.pc } t))

/-- 07 R160 to R165: what the token operations do. A token holds the members and the PC L; its ARM0 goes on. A split makes two
arms. A fragment that parks leaves its strands in the top token and its sibling goes on; with no arm left but one that a trap handler
suspends (log entry 16, DEDUCED), the token is popped, and the strands that have not exited continue at L in the arm, or as the sole fragment, that had pushed
it, and the arm beside it goes on that the push had suspended. `brk` takes strands
out of the tokens above and parks them in the one it names. Strands that exit leave the wale. -/
def Obligations.TokenRules : Prop :=
  (∀ (c : WaleCore) (a : ArmId) (l : Dword),
    let d := c.pushToken a l
    (∃ k ks, d.stack = k :: ks ∧ k.l = l ∧ k.mem = (c.frag a).mem ∧ k.pk = 0 ∧ k.ser = c.serial ∧
      k.a0 = { c.frag a with st := .running } ∧ k.a1 = Arm.none ∧ ks.length = c.stack.length) ∧
    d.serial = c.serial + 1 ∧
    (a = .sole → d.base = { c.base with st := .opened } ∧ d.stack.tail = c.stack) ∧
    (∀ k ks, c.stack = k :: ks → a = .a0 → d.base = c.base ∧
      d.stack.tail = { k with a0 := { k.a0 with st := .opened },
                              a1 := if k.a1.live then { k.a1 with st := .suspended, stall := false, why := .tok } else k.a1 } :: ks) ∧
    (∀ k ks, c.stack = k :: ks → a = .a1 → d.base = c.base ∧
      d.stack.tail = { k with a1 := { k.a1 with st := .opened },
                              a0 := if k.a0.live then { k.a0 with st := .suspended, stall := false, why := .tok } else k.a0 } :: ks)) ∧
  (∀ (c : WaleCore) (a : ArmId) (t : Mask) (l : Dword) (k : Token) (ks : List Token), c.stack = k :: ks →
    (c.splitArms a t l).stack =
      { k with a0 := { st := .running, pc := l, em := t, mem := t, split := false, arr := true, retry := none },
               a1 := { c.frag a with em := (c.frag a).em &&& ~~~t, mem := (c.frag a).mem &&& ~~~t } } :: ks) ∧
  (∀ (c : WaleCore) (a : ArmId) (k : Token) (ks : List Token), c.stack = k :: ks → a ≠ .sole →
    let o := c.frag a.sib
    let m := k.mem &&& ~~~c.exited
    (o.st = .running ∨ o.st = .waiting ∨ (o.st = .suspended ∧ o.why ≠ .trap) →
      (c.park a).frag a = Arm.none ∧
      (c.park a).frag a.sib = (if o.st = .running then o else { o with st := .running, split := false, stall := false }) ∧
      (∃ k', (c.park a).stack = k' :: ks ∧ k'.pk = k.pk ||| (c.frag a).mem ∧ k'.mem = k.mem ∧ k'.l = k.l)) ∧
    (o.st = .free ∨ o.heldByTrap = true → ks = [] → (c.park a).stack = [] ∧ (c.park a).base = if m = 0 then Arm.none else Arm.start k.l m) ∧
    (∀ k2 ks2 b, o.st = .free ∨ o.heldByTrap = true → m ≠ 0 → ks = k2 :: ks2 → k2.openedArm = some b → (c.park a).base = c.base ∧
      (c.park a).frag b = Arm.start k.l m ∧ (c.park a).stack.tail = ks2 ∧
      let u := ({ c with stack := ks } : WaleCore).frag b.sib
      (c.park a).frag b.sib =
        if u.st = .suspended ∧ u.why = .tok then { u with st := .running, split := false, stall := false } else u)) ∧
  (∀ (m : Mask) (n i : Nat) (ts : List Token),
    (brkStack m n ts)[i]? = ts[i]?.map fun t =>
      if i < n then
        { t with mem := t.mem &&& ~~~m, pk := t.pk &&& ~~~m,
                 a0 := { t.a0 with em := t.a0.em &&& ~~~m, mem := t.a0.mem &&& ~~~m },
                 a1 := { t.a1 with em := t.a1.em &&& ~~~m, mem := t.a1.mem &&& ~~~m } }
      else if i = n then { t with pk := t.pk ||| m } else t) ∧
  (∀ (c : WaleCore) (a : ArmId) (m : Mask), (c.exitStrands a m).exited = c.exited ||| m) ∧
  (∀ (c : WaleCore) (m : Mask), c.stack = [] →
    (c.base.mem &&& ~~~m = 0 → (c.exitStrands .sole m).ended = true) ∧
    (c.base.mem &&& ~~~m ≠ 0 → c.base.em &&& ~~~m ≠ 0 →
      (c.exitStrands .sole m).base.mem = c.base.mem &&& ~~~m ∧ (c.exitStrands .sole m).base.em = c.base.em &&& ~~~m))

/-- 07 R169, R170: `loop` with a count other than zero sets the counter and its descriptor and puts the loop innermost; with zero
the fragment continues behind the loop end and the loop is not active. -/
def Obligations.LoopStarts : Prop :=
  (∀ (o : BOps) (s : State) (x : Ctx), ready (.loop o) s = some x →
    let n : Fin 3 := Fin.ofNat 3 o.sub.toNat
    let e := target x.fr.pc o.dist
    (x.uni o.a = 0 → ∃ t, exec (.loop o) s = .next t ∧
      Ran x {} false ((x.core.dropLoop n).transfer x.arm (nextSlot e)) t) ∧
    (x.uni o.a ≠ 0 → ∃ t, exec (.loop o) s = .next t ∧
      Ran x {} false (((x.core.dropLoop n).startLoop n (x.uni o.a) (nextSlot x.fr.pc) e).advance x.arm) t)) ∧
  (∀ (c : WaleCore) (n : Fin 3) (k : Word) (st en : Dword),
    (c.dropLoop n).lstack = c.lstack.filter (fun m => decide (m ≠ n)) ∧ (vget (c.dropLoop n).loops n).lact = false ∧
    (c.dropLoop n).lc = c.lc ∧ (∀ m, m ≠ n → vget (c.dropLoop n).loops m = vget c.loops m) ∧
    (c.startLoop n k st en).lstack = n :: c.lstack ∧
    vget (c.startLoop n k st en).loops n = { lact := true, lstart := st, lend := en, lreload := k } ∧
    vget (c.startLoop n k st en).lc n = k ∧
    (∀ m, m ≠ n → vget (c.startLoop n k st en).loops m = vget c.loops m ∧ vget (c.startLoop n k st en).lc m = vget c.lc m))

/-- 07 R173 to R176, 02 R51, R52, 01 R33: `yield` zeroes the v registers from N on, sets the deadline to 64 D and makes a region
head; with pre-emption pending the wale stops there. N above VREGS raises ILL; a reported engine fault is taken (09 R211);
with an older region unreleased the wale waits. `rhead` makes a head and counts in the region that it opens. A head's checkpoint
is the state at it, and the region before it closes, with the results in flight. -/
def Obligations.YieldAndHeads : Prop :=
  (∀ (o : IOps) (s : State) (x : Ctx), ready (.yield o) s = some x →
    let n := o.imm.toNat / 2 ^ 12 % 2 ^ 9
    let d := o.imm.toNat % 2 ^ 12
    (x.st.wl.vregs < n → ∃ t, exec (.yield o) s = .next t ∧ Raised x (x.record ⟨cILL, 0, x.fr.em⟩) t) ∧
    (∀ e r, n ≤ x.st.wl.vregs → x.st.wl.engFaults = e :: r →
      ∃ t, exec (.yield o) s = .next t ∧ Raised x { e.f with mask := x.fr.em, resume := x.fr.pc } t) ∧
    (n ≤ x.st.wl.vregs → x.st.wl.engFaults = [] → x.st.wl.old ≠ none → ∃ t, exec (.yield o) s = .next t ∧ Drains x t) ∧
    (n ≤ x.st.wl.vregs → x.st.wl.engFaults = [] → x.st.wl.old = none → ∃ u t, exec (.yield o) s = .next t ∧
      Ran x {} false (x.core.advance x.arm) u ∧
      Changed u x.st.w (fun w =>
        let v := ({ w with core := w.core.yieldState d n } : Wale).head (x.s.window x.die) (x.cc + 1)
        { v with st := if x.preemptPending then .yielded else w.st }) t)) ∧
  (∀ (o : ROps) (s : State) (x : Ctx), ready (.rhead o) s = some x →
    (x.st.wl.old ≠ none → ∃ t, exec (.rhead o) s = .next t ∧ Drains x t) ∧
    (x.st.wl.old = none → ∃ t, exec (.rhead o) s = .next t ∧ RanOn x.withHead false {} t)) ∧
  (∀ (c : WaleCore) (d n : Nat), Sparse.wf c.v = true → d < 2 ^ 12 →
    (∀ (k : Fin 256) (i : Fin 32), vget ((c.yieldState d n).getV k) i = if k.val < n then vget (c.getV k) i else 0) ∧
    (c.yieldState d n).yleft.toNat = 64 * d ∧
    c.yieldState d n = { c with v := (c.yieldState d n).v, yleft := (c.yieldState d n).yleft }) ∧
  (∀ (w : Wale) (q cc : Nat),
    (w.head q cc).core = { w.core with
      icount := 0, wcount := 0, shadows := w.core.shadows.map fun h => { h with old := true }
      hoff := w.core.hoff.map fun h => { h with old := true } } ∧
    (w.head q cc).cur = { ckpt := (w.head q cc).core, held := [], last := cc, q := none } ∧
    (w.head q cc).old = some { w.cur with q := some (w.cur.q.getD q) } ∧
    w.head q cc = { w with core := (w.head q cc).core, cur := (w.head q cc).cur, old := (w.head q cc).old })

/-! ### Memory accesses -/

/-- 04 R103, 08 R180, R181: the effective address modulo 2^64, and where an access of `n` bytes lies in each space. An access
that is not aligned raises ALIGN first; scratchpad and cluster space reach as far as SP_BYTES, a die-scratchpad window as far as
its size, the private slice as far as PV_BYTES, where word w of strand s lies at 128 w + 4 s; a global access lies at its
translation, and an atomic or exact-cell access to a page of type I/O or mailbox raises PERM. That a place in the I/O range counts as
one of such a page whatever its memory type, and that atomics are refused by the memory type alone, is log entry 96 (DESIGN CHOICE). -/
def Obligations.AddressesAndPlaces : Prop :=
  (∀ (x : Ctx) (glob : Bool) (base idx : Opnd) (xs w : Nat) (off : Dword) (i : Fin 32), xs < 4 →
    let b : Int := if base = .none then 0 else (x.uni64 base).toNat
    let v : Int :=
      if idx = .none then 0
      else if glob = true ∧ base = .none then (x.src64 idx i).toNat
      else (if 2 ≤ xs then (x.src idx i).toInt else (x.src idx i).toNat) * (if xs % 2 = 1 then 2 ^ w else 1)
    x.ea glob base idx xs w off i = BitVec.ofInt 64 (b + v + off.toInt)) ∧
  (∀ (x : Ctx) (i : Fin 32) (a : Dword) (n al : Nat) (need : Need) (at_ : Bool),
    (a.toNat % al ≠ 0 → ∀ spc, x.place spc i a n al need at_ = .error .align) ∧
    (a.toNat % al = 0 →
      x.place .sp i a n al need at_ =
        (if a.toNat + n ≤ pkSp x.st.skein.pkt then .ok ⟨[(.sp x.st.wl.hoop a.toNat, n)], false, none⟩ else .error .range) ∧
      (x.place .cl i a n al need at_ =
        if a.toNat % 393216 + n ≤ pkSp x.st.skein.pkt ∧ a.toNat / 393216 < pkRim x.st.skein.pkt then
          match x.s.hoopAt x.st.hoop.skein
              (x.st.hoop.idx / pkRim x.st.skein.pkt * pkRim x.st.skein.pkt + a.toNat / 393216) with
          | some h => .ok ⟨[(.sp h (a.toNat % 393216), n)], false, none⟩
          | none => .error .range
        else .error .range) ∧
      (let r := (x.s.reg (rDscWin x.die x.part)).toNat
       x.place .dsc i a n al need at_ =
        if r / 2 ^ 16 % 2 = 1 ∧ a.toNat + n ≤ r / 2 ^ 8 % 256 * 2 ^ 20 then
          .ok ⟨[(.dsc x.die (r % 256 * 2 ^ 20 + a.toNat), n)], false, none⟩
        else .error .range) ∧
      ((∃ p, x.place .pv i a n al need at_ = .ok p) ↔ a.toNat + n ≤ pkPv x.st.skein.pkt) ∧
      (¬ a.toNat + n ≤ pkPv x.st.skein.pkt → x.place .pv i a n al need at_ = .error .range) ∧
      (∀ p, al = n → (n = 1 ∨ n = 2 ∨ n = 4 ∨ n = 8 ∨ n = 16) → x.place .pv i a n al need at_ = .ok p →
        ∀ s : State, s.placeRead p = (List.range n).map fun b =>
          s.locByte (.priv x.st.w (128 * ((a.toNat + b) / 4) + 4 * i.val + (a.toNat + b) % 4)) 0) ∧
      (∀ t, x.xlat a.toNat need = .ok t →
        x.place .glob i a n al need at_ =
          if at_ = true ∧ 2 ≤ t.mt then .error .perm
          else .ok ⟨[(.glob t.pa a.toNat t.key x.func x.part t.mt, n)], decide (2 ≤ t.mt) || isIo t.pa, some t⟩) ∧
      (∀ e, x.xlat a.toNat need = .error e →
        x.place .glob i a n al need at_ = .error (match e with
          | .xlate => .xlate | .perm => .perm | .part d => .part d | .wait => .wait | .away p => .away p
          | .demand => if a.toNat / 8192 ∈ x.st.wl.cur.refused then .xlate else .demand))))

/-- 08 R191, 11 R262, R263, R268, 14 R317: an access places every visited strand, or it takes the first of its errors in the order
ALIGN, RANGE, XLATE, PERM, for the strands that meet it, with the address of the lowest; a demand page goes before a fault of
translation, and the wale's region is then discarded, its page requested, and the wale waits at the head; an access that has to wait
for a table, or for a page that peers hold, waits before that. Every instruction
with an access raises its fault so, and has no other effect. That the request for a page comes before XLATE is log entry 44's reading
(DEDUCED). -/
def Obligations.AccessFaults : Prop :=
  (∀ (x : Ctx) (spc : Sp) (ss : List (Fin 32 × Dword)) (n al : Nat) (need : Need) (at_ sc : Bool),
    (∀ ps, x.placeAll spc ss n al need at_ sc = .ok ps →
      ps.map (fun e => (e.i, e.a)) = ss ∧ ∀ e ∈ ps, x.place spc e.i e.a n al need at_ = .ok e.p) ∧
    (∀ e m a parts, x.placeAll spc ss n al need at_ sc = .err e m a parts →
      (∃ i, (i, a) ∈ ss ∧ x.place spc i a n al need at_ = .error e ∧
        ((ss.map fun q => q.1).Pairwise (· < ·) →
          ∀ j b k, (j, b) ∈ ss → x.place spc j b n al need at_ = .error k → k.rank = e.rank → i ≤ j)) ∧
      (∀ j b k, (j, b) ∈ ss → x.place spc j b n al need at_ = .error k → e.rank ≤ k.rank) ∧
      (sc = true → m = x.fr.em) ∧
      (sc = false → ∀ i : Fin 32, m.getLsbD i.val = true ↔
        ∃ b k, (i, b) ∈ ss ∧ x.place spc i b n al need at_ = .error k ∧ k.rank = e.rank))) ∧
  (∀ (i : Instr) (s : State) (x : Ctx) (A : Access) (e : AErr) (m : Mask) (a : Dword) (parts : List (Fin 4)),
    ready i s = some x → accessOf x i = some A → A.placed x = .err e m a parts →
    (∃ j, (j, a) ∈ A.strands ∧ x.place A.spc j a A.n A.al A.need A.atomic = .error e ∧
      ∀ q ∈ A.strands, ∀ k, x.place A.spc q.1 q.2 A.n A.al A.need A.atomic = .error k → k.rank = e.rank → j ≤ q.1) ∧
    (e ≠ .demand → e ≠ .wait → (∀ p, e ≠ .away p) →
      ∃ t, exec i s = .next t ∧ Raised (x.refuse parts) ((x.refuse parts).record ⟨e.code, a, m⟩) t) ∧
    (e.code = 0x06 → ∀ d, d ∈ parts ↔ ∃ q ∈ A.strands, x.place A.spc q.1 q.2 A.n A.al A.need A.atomic = .error (.part d)) ∧
    (e.code ≠ 0x06 → parts = []) ∧
    (e = .wait → ∃ t, exec i s = .next t ∧ Waits x (.wait false) t) ∧
    (∀ p, e = .away p → ∃ t, exec i s = .next t ∧ Waits (x.over (x.s.callBack p)) (.wait false) t) ∧
    (e = .demand → ∃ t r, exec i s = .next t ∧ r ∈ t.pageReqs ∧ r.func = x.func ∧ r.page = a.toNat / 8192 ∧
      r.die = x.die.val ∧
      ((∀ q ∈ x.s.pageReqs, ¬(q.func = x.func ∧ q.page = a.toNat / 8192 ∧ q.die = x.die.val)) → r.kind = A.kind) ∧
      let w := x.st.wl
      t.wale? x.st.w = some { w with
        core := w.cur.ckpt.unstall, cur := { w.cur with held := [], q := none }, st := .page r.tag })) ∧
  (∀ (d : Fin 4) (p : Nat), AErr.align.rank < AErr.range.rank ∧ AErr.range.rank < AErr.wait.rank ∧
    AErr.wait.rank = (AErr.away p).rank ∧ AErr.wait.rank < AErr.demand.rank ∧ AErr.demand.rank < AErr.xlate.rank ∧
    AErr.xlate.rank < AErr.perm.rank ∧ AErr.perm.rank = (AErr.part d).rank ∧
    AErr.align.code = 0x07 ∧ AErr.range.code = 0x08 ∧ AErr.xlate.code = 0x05 ∧ AErr.perm.code = 0x06 ∧ (AErr.part d).code = 0x06)

/-- 14 R322 to R324, R317, R315: a translation that succeeds ends at a leaf entry that is valid, permits the access, is not both writable
and executable, and gives the physical address, the key and the memory type; the page root is valid and the address has at most
53 bits; a line of normal memory is recorded for no other partition; the page is held by no peer in a way that forbids the access. What
an access by way of the TLBs translates to is that, or what an entry that the TLB of its core or die holds gives. -/
def Obligations.TranslatedPages : Prop :=
  (∀ (s : State) (d : Fin 4) (core : Option Nat) (func part va : Nat) (n : Need) (t : Xl),
    s.xlat d core func part va n = .ok t →
    s.translate func part va n = .ok t ∨
    (∃ e ∈ (s.die d).tlb, (e.core = core ∨ e.core = none) ∧ e.func = func ∧ e.page = va / 2 ^ e.size ∧
      s.leafXl e.pte va e.size n [] = .ok t ∧ s.inPart part t = .ok t)) ∧
  ∀ (s : State) (func part va : Nat) (n : Need) (t : Xl), s.translate func part va n = .ok t →
    va < 2 ^ 53 ∧ (s.reg (rPtRoot func)).getLsbD 0 = true ∧
    (∃ a rest lvl, t.ptes = a :: rest ∧ lvl ≤ 2 ∧ rest.length + lvl = 3 ∧
      let p := s.pte a
      p % 2 = 1 ∧ p / 2 % 2 = 1 ∧ ¬(p / 2 ^ 3 % 2 = 1 ∧ p / 2 ^ 4 % 2 = 1) ∧
      (n = .r ∨ n = .rw → p / 2 ^ 2 % 2 = 1) ∧ (n = .w ∨ n = .rw → p / 2 ^ 3 % 2 = 1) ∧ (n = .x → p / 2 ^ 4 % 2 = 1) ∧
      t.mt = p / 2 ^ 5 % 4 ∧ t.key = p / 2 ^ 48 % 2 ^ 12 ∧
      p / 2 ^ 13 % 2 ^ 33 * 8192 % 2 ^ (13 + 10 * lvl) = 0 ∧
      t.pa = p / 2 ^ 13 % 2 ^ 33 * 8192 + va % 2 ^ (13 + 10 * lvl) ∧
      (∀ b ∈ rest, s.pte b % 2 = 1 ∧ s.pte b / 2 % 2 = 0)) ∧
    s.paOk t.pa t.key = true ∧
    s.pageAway t.pa (n == .w || n == .rw) = false ∧
    (t.mt = 0 → ∀ p, s.recorded (lineKey t.key t.pa) = some p → p = part)

/-- 14 R323, R319: the walker sets A in each entry that it walked, and D in the leaf for a write, and no other bit of memory: lines
without such an entry read as before under every key, the others under key 0 in every other byte. The TLB entries and grants that an
access leaves, and what it does to the caches (R324, R315, R312), change no byte. -/
def Obligations.WalkerMarks : Prop :=
  (∀ (s : State) (d : Fin 4) (c : Option Nat) (f va : Nat) (x : Xl) (wr : Bool) (l : Loc) (i : Nat),
    (s.noteXl d c f va x wr).locByte l i = (s.setAD x wr).locByte l i) ∧
  (∀ (s : State) (d : Fin 4) (c lv : Nat) (u : Use) (k l : Loc) (i : Nat),
    (s.touch d c lv u k).locByte l i = s.locByte l i) ∧
  ∀ (s : State) (x : Xl) (wr : Bool), (∀ a ∈ x.ptes, a % 8 = 0) →
    let t := s.setAD x wr
    (∀ a ∈ x.ptes, ∃ m, t.pte a = s.pte a ||| m ∧ m ||| 0x300 = 0x300 ∧ m ||| 0x100 = m) ∧
    (wr = true → ∀ a, x.ptes.head? = some a → t.pte a / 2 ^ 9 % 2 = 1) ∧
    (wr = false → ∀ a ∈ x.ptes, t.pte a = s.pte a ||| 0x100) ∧
    (∀ q, (∀ a ∈ x.ptes, q < a ∨ a + 8 ≤ q) → t.physByte 0 q = s.physByte 0 q) ∧
    (∀ k q, (∀ a ∈ x.ptes, a / 64 ≠ q / 64) → t.physByte k q = s.physByte k q) ∧
    (∀ (l : Loc) (i : Nat), (∀ pa va key f p mt, l ≠ .glob pa va key f p mt) → t.locByte l i = s.locByte l i)

/-- 08 R182, R187, R188, R191, 02 R50, R53: `ld`, `ldsp`, `ldcl`, `lddie`, `ldpv` put into the data registers what memory and the
wale's own held effects hold at each strand's place, extended as VAR [0] says for byte and halfword. A load from a page of type
I/O or mailbox is a single region and reads each strand's place once, in order. A load from a die in warm reset completes
without a value; its reply will raise HOMEOFF (11 R263). A load from under a held update of the wale waits for its release (log entry
79, DEDUCED). 16 R357 to R359: a read of POP takes a slot's oldest message, 16 zero bytes where there is none, one of STAT its count and
OVF, which it clears; any other read of a slot is zero; each strand's POP is a read of its own, in ascending order. The status page of
each die gives DIEUP and the dies' epochs. -/
def Obligations.Loads : Prop :=
  (∀ (i : Instr) (s : State) (x : Ctx) (o : MOps) (A : Access) (ps : List SAcc),
    loadOf i = some o → ready i s = some x → accessOf x i = some A → A.placed x = .ok ps →
    let y := x.notePlaces ps false
    let value (vs : List Nat) (j : Fin 32) : Nat := extendTo o.w.toNat (o.var.getLsbD 0) (valueAt ps vs j)
    let io := ∃ e ∈ ps, e.p.io = true
    let z := y.touchPlaces ps (levelOf o.cp.toNat o.ord.toNat o.scope.toNat) .read
    (¬io → y.underOwn ps = false → y.homeOffStrands ps = [] → ∃ t, exec i s = .next t ∧
      RanOn z false ⟨z.dataWrites o.d o.w.toNat
        (value (ps.map fun e => natLE ((z.s.ownView z.st.w z.st.wl z.die).placeRead e.p))), 0, []⟩ t) ∧
    ((io → y.st.wl.drained = true) → y.underOwn ps = true → ∃ t, exec i s = .next t ∧ Drains y t) ∧
    (io → y.st.wl.drained = true → y.underOwn ps = false → y.homeOffStrands ps = [] → ∃ t, exec i s = .next t ∧
      let r := y.s.ioReads (2 ^ o.w.toNat) ps []
      RanAlone { y with s := r.2 } ⟨y.dataWrites o.d o.w.toNat fun j =>
        extendTo o.w.toNat (o.var.getLsbD 0) (strandVal (r.1.map fun e => (e.1, natLE e.2.2)) j), 0, []⟩ t) ∧
    (io → y.st.wl.drained = false → ∃ t, exec i s = .next t ∧ Drains y t) ∧
    (∀ e r, (io → y.st.wl.drained = true) → y.underOwn ps = false → y.homeOffStrands ps = e :: r → y.core.hoff ≠ none →
      ∃ t, exec i s = .next t ∧ Waits y (.wait false) t) ∧
    (∀ e r, (io → y.st.wl.drained = true) → y.underOwn ps = false → y.homeOffStrands ps = e :: r → y.core.hoff = none → ∃ u t,
      exec i s = .next t ∧ RanOn y false {} u ∧ Changed u y.st.w (y.awaiting (y.replyOf (e :: r) A.scalar e.a)) t)) ∧
  (∀ (x : Ctx) (n : Fin 256) (k : Nat) (w : Nat) (f : Fin 32 → Nat) (i : Fin 32) (old : Word), k < dataRegs w →
    x.vis.getLsbD i.val = true →
    vAfter (x.dataWrites (.v n) w f) (Fin.ofNat 256 (n.val + k)) i old = BitVec.ofNat 32 (f i / 2 ^ (32 * k))) ∧
  (∀ (v : Nat), (v < 2 ^ 8 → extendTo 0 true v = ((BitVec.ofNat 8 v).signExtend 32).toNat) ∧
    (v < 2 ^ 16 → extendTo 1 true v = ((BitVec.ofNat 16 v).signExtend 32).toNat) ∧
    (∀ w, extendTo w false v = v) ∧ (∀ w sx, 2 ≤ w → extendTo w sx v = v)) ∧
  (∀ (s : State) (d : Fin 4) (slot o n : Nat), slot < 256 → o < 256 →
    let b := Sparse.getD (s.die d).mbox { msgs := [], ovf := false } slot
    let r := s.ioLoad (0x300008010000 + 2 ^ 28 * d.val + 256 * slot + o) n
    let left (c : Mbox) : Prop := r.2 = { s with dies := r.2.dies } ∧
      (∀ e, r.2.die e = if e = d then { s.die d with mbox := (r.2.die d).mbox } else s.die e) ∧
      (Sparse.wf (s.die d).mbox = true → ∀ k, Sparse.getD (r.2.die d).mbox { msgs := [], ovf := false } k =
        if k = slot then c else Sparse.getD (s.die d).mbox { msgs := [], ovf := false } k)
    (o = 16 → n = 16 → b.msgs = [] → r = (List.replicate 16 0, s)) ∧
    (∀ m ms, o = 16 → n = 16 → b.msgs = m :: ms → r.1.length = 16 ∧ natLE r.1 = m.toNat ∧ left { b with msgs := ms }) ∧
    (o = 32 → n = 4 → b.msgs.length ≤ 16 → r.1.length = 4 ∧
      natLE r.1 = b.msgs.length + (if b.ovf = true then 2 ^ 8 else 0) ∧ left { b with ovf := false }) ∧
    (¬(o = 16 ∧ n = 16) → ¬(o = 32 ∧ n = 4) → r = (List.replicate n 0, s))) ∧
  (∀ (s : State) (d : Fin 4) (o n : Nat), o < 2 ^ 13 →
    let r := s.ioLoad (0x300008000000 + 2 ^ 28 * d.val + o) n
    r.2 = s ∧ r.1.length = n ∧ ∀ i, i < n → r.1[i]? = some
      (if o + i = 0 then s.dieUp.setWidth 8 else if 4 ≤ o + i ∧ o + i < 8 then vget s.dieEpoch (Fin.ofNat 4 (o + i)) else 0)) ∧
  (∀ (s : State) (n : Nat) (e : SAcc) (l : List SAcc) (seen : List (Fin 32 × Dword × List Byte)),
    s.ioReads n [] seen = (seen, s) ∧
    (isMailbox e.p = true ∨ (∀ q ∈ seen, q.2.1 ≠ e.a) →
      let r := s.ioRead e.p n
      s.ioReads n (e :: l) seen = r.2.ioReads n l (seen ++ [(e.i, e.a, r.1)])) ∧
    (isMailbox e.p = false → ∀ q, (seen.find? fun q => q.2.1 == e.a) = some q →
      s.ioReads n (e :: l) seen = s.ioReads n l (seen ++ [(e.i, e.a, q.2.2)]))) ∧
  (∀ (s : State) (pa va key f p mt n : Nat) (x : Option Xl), isIo pa = true →
    s.ioRead ⟨[(.glob pa va key f p mt, n)], true, x⟩ n = s.ioLoad pa n)

/-- 02 R49, R54, 08 R187, R193, R195, R196, R201: `st`, `stsp`, `stcl`, `stdie`, `stpv`, `red`, `atom` and `atomsp` without a
destination, `xadd`, `xclr`, `swinit`, `swexp` and `arv` put one effect into the hold buffer, which holds their places, operands
and bytes; no byte of memory changes at issue. With no room the wale waits for a release (log entry 18). -/
def Obligations.StoresAreHeld : Prop :=
  ∀ (i : Instr) (s : State) (x : Ctx) (A : Access) (ps : List SAcc) (h : Held),
    ready i s = some x → accessOf x i = some A → A.placed x = .ok ps →
    let y := x.notePlaces ps true
    heldOf y ps i = some h →
    (y.room h = true → ∃ t, exec i s = .next t ∧ RanOn y true { held := [h] } t) ∧
    (y.room h = false → ∃ t, exec i s = .next t ∧ Drains y t)

/-- 08 R187, R198, 10 R248, 14 R319: a store performed at a place of plain memory: its bytes read as stored, every other byte
under its key as before, and every other line under every key; its line is unpublished for every core and in no instruction
cache; of the dies only versions in the watch table change. In the scratchpads and the private slice likewise. 16 R364: a store
to a doorbell area sends SIGADD when it is 4 bytes at an offset 8 n below 2,048, and nothing otherwise. 16 R358: a 16-byte store to PUSH
appends its 12 bytes of data with the sender's function and die to the slot, or sets OVF where the slot holds 16; any other store to the
I/O range has no effect. 14 R315: a store that finds its
page poisoned has no effect (log entry 97). -/
def Obligations.PerformedStores : Prop :=
  (∀ (s : State) (g : Agent) (d : Fin 4) (pa va key f p mt : Nat) (bs : List Byte), s.poisoned.contains (pa / 8192) = false →
    isIo pa = false → (isDoorbell pa && mt == 3) = false → bs ≠ [] → pa % 64 + bs.length ≤ 64 →
    let t := s.locWrite g d { loc := .glob pa va key f p mt, bytes := bs }
    (∀ q, t.physByte key q = if h : pa ≤ q ∧ q - pa < bs.length then bs[q - pa] else s.physByte key q) ∧
    (∀ k q, q / 64 ≠ pa / 64 → t.physByte k q = s.physByte k q) ∧
    (∀ core : Nat, core < 384 → t.unpublished core pa = true) ∧ (∀ e ∈ t.icache, e.1 % 2 ^ 46 / 64 ≠ pa / 64) ∧
    t = { s with mem := t.mem, lines := t.lines, free := t.free, unpub := t.unpub, icache := t.icache, dies := t.dies } ∧
    (∀ e, t.die e = { s.die e with reuse := (t.die e).reuse })) ∧
  (∀ (s : State) (g : Agent) (d : Fin 4) (pa va key f p mt : Nat) (bs : List Byte), s.poisoned.contains (pa / 8192) = true →
    s.locWrite g d { loc := .glob pa va key f p mt, bytes := bs } = s) ∧
  (∀ (s : State) (g : Agent) (d : Fin 4) (pa va key f p : Nat) (bs : List Byte), s.poisoned.contains (pa / 8192) = false →
    isIo pa = false → isDoorbell pa = true →
    s.locWrite g d { loc := .glob pa va key f p 3, bytes := bs } =
      if pa % 2 ^ 16 % 8 = 0 ∧ pa % 2 ^ 16 < 2048 ∧ bs.length = 4 then
        { s with peerOut := s.peerOut ++ [.sigadd (pa / 2 ^ 40 % 16) (pa % 2 ^ 16 / 8) (BitVec.ofNat 32 (natLE bs))] }
      else s) ∧
  (∀ (s : State) (g : Agent) (d e : Fin 4) (slot va key f p mt : Nat) (bs : List Byte), slot < 256 →
    let pa := 0x300008010000 + 2 ^ 28 * e.val + 256 * slot
    s.poisoned.contains (pa / 8192) = false → bs.length = 16 →
    let t := s.locWrite g d { loc := .glob pa va key f p mt, bytes := bs }
    let b := Sparse.getD (s.die e).mbox { msgs := [], ovf := false } slot
    let m : BitVec 128 := BitVec.ofNat 128 (natLE (bs.take 12) + 2 ^ 96 * (f % 2 ^ 8 + 2 ^ 8 * d.val + 2 ^ 31))
    t = { s with dies := t.dies } ∧ (∀ k, t.die k = if k = e then { s.die e with mbox := (t.die e).mbox } else s.die k) ∧
    (Sparse.wf (s.die e).mbox = true → ∀ k, Sparse.getD (t.die e).mbox { msgs := [], ovf := false } k =
      if k ≠ slot then Sparse.getD (s.die e).mbox { msgs := [], ovf := false } k
      else if b.msgs.length < 16 then { b with msgs := b.msgs ++ [m] } else { b with ovf := true })) ∧
  (∀ (s : State) (g : Agent) (d : Fin 4) (pa va key f p mt : Nat) (bs : List Byte), isIo pa = true →
    ¬(0x08010000 ≤ pa % 2 ^ 28 ∧ pa % 2 ^ 28 < 0x08020000 ∧ pa % 256 = 0 ∧ bs.length = 16) →
    s.locWrite g d { loc := .glob pa va key f p mt, bytes := bs } = s) ∧
  (∀ (s : State) (g : Agent) (d : Fin 4) (h o : Nat) (bs : List Byte), Sparse.wf s.spad = true → o + bs.length ≤ 2 ^ 19 →
    let t := s.locWrite g d { loc := .sp h o, bytes := bs }
    t = { s with spad := t.spad } ∧ ∀ k q, q < 2 ^ 19 → t.locByte (.sp k q) 0 =
      if j : k = h ∧ o ≤ q ∧ q - o < bs.length then bs[q - o]'(j.2.2) else s.locByte (.sp k q) 0) ∧
  (∀ (s : State) (g : Agent) (d e : Fin 4) (o : Nat) (bs : List Byte), Sparse.wf (s.die e).dsc = true →
    let t := s.locWrite g d { loc := .dsc e o, bytes := bs }
    (∀ k, t.die k = if k = e then { s.die e with dsc := (t.die e).dsc } else s.die k) ∧ t = { s with dies := t.dies } ∧
    ∀ q, t.locByte (.dsc e q) 0 = if j : o ≤ q ∧ q - o < bs.length then bs[q - o]'(j.2) else s.locByte (.dsc e q) 0) ∧
  (∀ (s : State) (g : Agent) (d : Fin 4) (v o : Nat) (bs : List Byte), o + bs.length ≤ 2 ^ 21 →
    let t := s.locWrite g d { loc := .priv v o, bytes := bs }
    t = { s with priv := t.priv } ∧ ∀ k q, q < 2 ^ 21 → t.locByte (.priv k q) 0 =
      if j : k = v ∧ o ≤ q ∧ q - o < bs.length then bs[q - o]'(j.2.2) else s.locByte (.priv k q) 0)

/-- 08 R192, R193, R195: `atom` and `atomsp` with a destination are performed once, alone, strand by strand in ascending order;
each strand takes the value from before its own update, and a later strand sees what an earlier one left; a location takes one
update in all (12 R273). One with a strand on a die in warm reset updates nothing and completes without a value; its reply will raise
HOMEOFF (11 R263, 08 R191). The operation on an
n-bit location is `add`, `min`, `max`, `and`, `or`, `xor`, `xchg` or `cas`. -/
def Obligations.AtomicResults : Prop :=
  (∀ (i : Instr) (s : State) (x : Ctx) (o : AOps) (A : Access) (ps : List SAcc),
    atomOf i = some o → ready i s = some x → accessOf x i = some A → A.placed x = .ok ps →
    let y := x.notePlaces ps true
    let z := Ctx.touchPlaces (y.over (y.s.writeBackTo (aLevel o).back y.die y.st.hoop.core y.part y.func)) ps
      (aLevel o).at_ .atomic
    let r := z.s.rmwAll (.wale z.st.w) z.die o.aop.toNat (o.var.getLsbD 0) (2 ^ o.w.toNat) (y.atomOps o ps)
    (y.homeOffStrands ps = [] → ∃ t, exec i s = .next t ∧
      RanAlone (z.over r.2) { writes := y.dataWrites o.d o.w.toNat (valueAt ps r.1) } t) ∧
    (∀ e q, y.homeOffStrands ps = e :: q → y.core.hoff ≠ none → ∃ t, exec i s = .next t ∧ Waits y (.wait false) t) ∧
    (∀ e q, y.homeOffStrands ps = e :: q → y.core.hoff = none → ∃ u t, exec i s = .next t ∧ RanOn y false {} u ∧
      Changed u y.st.w (y.awaiting (y.replyOf (e :: q) A.scalar e.a)) t)) ∧
  (∀ (s : State) (g : Agent) (d : Fin 4) (aop n : Nat) (u : Bool) (h a : Nat) (xs : List (Dword × Dword)),
    Sparse.wf s.spad = true → a + n ≤ 2 ^ 19 → 0 < n →
    let c := natLE (s.locRead (.sp h a) n)
    let f (c : Nat) (e : Dword × Dword) := applyAop aop u (8 * n) c (e.1.toNat % 2 ^ (8 * n)) (e.2.toNat % 2 ^ (8 * n))
    let r := s.rmwAll g d aop u n (xs.map fun e => (.sp h a, e))
    r.1 = (List.range xs.length).map (fun k => (xs.take k).foldl f c) ∧
    natLE (r.2.locRead (.sp h a) n) = xs.foldl f c) ∧
  (∀ (u : Bool) (n : Nat) (c x y : BitVec n), 0 < n →
    let lt (p q : BitVec n) : Bool := if u then decide (p.toNat < q.toNat) else decide (p.toInt < q.toInt)
    applyAop 0 u n c.toNat x.toNat y.toNat = (c + x).toNat ∧
    applyAop 1 u n c.toNat x.toNat y.toNat = (if lt x c then x else c).toNat ∧
    applyAop 2 u n c.toNat x.toNat y.toNat = (if lt c x then x else c).toNat ∧
    applyAop 3 u n c.toNat x.toNat y.toNat = (c &&& x).toNat ∧
    applyAop 4 u n c.toNat x.toNat y.toNat = (c ||| x).toNat ∧
    applyAop 5 u n c.toNat x.toNat y.toNat = (c ^^^ x).toNat ∧
    applyAop 6 u n c.toNat x.toNat y.toNat = x.toNat ∧
    applyAop 7 u n c.toNat x.toNat y.toNat = (if c = y then x else c).toNat)

/-- 03 R80 to R82, 08 R196: `xrd` reads a cell and rounds it once. A cell holds an integer count of 2^-160 in 504 bits: a finite
number adds exactly, modulo 2^504, and an overflow sets bit 507; an infinity sets bit 505 or 506, a NaN bit 504, and the count
stays. Two additions leave the same count in either order. Reading gives NaN with NV for bit 504, for bits 505 and 506 together, and for
bit 507, else the infinity of bit 505 or 506, else the count x 2^-160 rounded once to nearest, infinity beyond the largest number. An
`xrd` from under a held addition of the wale waits for its release (log entry 79, DEDUCED); one of a die in warm reset completes without
a value, and its reply will raise HOMEOFF (11 R263). -/
def Obligations.ExactCells : Prop :=
  (∀ (s : State) (x : Ctx) (o : MOps) (A : Access) (ps : List SAcc),
    ready (.xrd o) s = some x → accessOf x (.xrd o) = some A → A.placed x = .ok ps →
    let y := x.notePlaces ps false
    let z := y.touchPlaces ps (levelOf o.cp.toNat o.ord.toNat o.scope.toNat) .read
    let cell (j : Fin 32) : BitVec 512 := BitVec.ofNat 512
      (valueAt ps (ps.map fun e => natLE ((z.s.ownView z.st.w z.st.wl z.die).placeRead e.p)) j)
    (y.underOwn ps = true → ∃ t, exec (.xrd o) s = .next t ∧ Drains y t) ∧
    (∀ e r, y.underOwn ps = false → y.homeOffStrands ps = e :: r → y.core.hoff ≠ none →
      ∃ t, exec (.xrd o) s = .next t ∧ Waits y (.wait false) t) ∧
    (∀ e r, y.underOwn ps = false → y.homeOffStrands ps = e :: r → y.core.hoff = none → ∃ u t,
      exec (.xrd o) s = .next t ∧ RanOn y false {} u ∧ Changed u y.st.w (y.awaiting (y.replyOf (e :: r) A.scalar e.a)) t) ∧
    (y.underOwn ps = false → y.homeOffStrands ps = [] → ∃ t, exec (.xrd o) s = .next t ∧
      RanOn z false ⟨z.dataWrites o.d 2 fun j => (cellRead (cell j)).val,
        ps.foldl (fun f e => f ||| (cellRead (cell e.i)).fl) 0, []⟩ t)) ∧
  (∀ c : BitVec 512,
    let r := cellRead c
    let z : ℚ := ((c.extractLsb' 0 504).toInt : ℚ) / 2 ^ 160
    let nan : Prop := c.getLsbD 504 = true ∨ (c.getLsbD 505 = true ∧ c.getLsbD 506 = true) ∨ c.getLsbD 507 = true
    (nan → r = ⟨0x7FC00000, fNV⟩) ∧ (¬nan → c.getLsbD 505 = true → r = ⟨0x7F800000, 0⟩) ∧
    (¬nan → c.getLsbD 506 = true → r = ⟨0xFF800000, 0⟩) ∧
    (¬nan → c.getLsbD 505 = false → c.getLsbD 506 = false → (z = 0 → r = ⟨0, 0⟩) ∧
      (z ≠ 0 → |z| < 2 ^ 128 - 2 ^ 103 → fp32.nearest r z ∧ r.fl &&& fOF = 0 ∧
        (unpack fp32 r.val).sign = decide (z < 0)) ∧
      (2 ^ 128 - 2 ^ 103 ≤ |z| → r = ⟨if z < 0 then 0xFF800000 else 0x7F800000, fOF ||| fNX⟩))) ∧
  (∀ (c : BitVec 512) (x m : Nat) (neg : Bool) (e : Int), x < 2 ^ 32 → unpack fp32 x = .fin neg m e →
    let z : ℚ := ((c.extractLsb' 0 504).toInt : ℚ) + (unpack fp32 x).toRat * 2 ^ 160
    let d := cellAdd c x
    (-2 ^ 503 ≤ z → z < 2 ^ 503 → ((d.extractLsb' 0 504).toInt : ℚ) = z ∧ d.extractLsb' 504 8 = c.extractLsb' 504 8) ∧
    (z < -2 ^ 503 ∨ 2 ^ 503 ≤ z → d.extractLsb' 504 8 = c.extractLsb' 504 8 ||| 8 ∧
      ∃ k : Int, ((d.extractLsb' 0 504).toInt : ℚ) = z + k * 2 ^ 504)) ∧
  (∀ (c : BitVec 512) (x : Nat) (q : Nat), unpack fp32 x = .inf false → (cellAdd c x).getLsbD q = (c.getLsbD q || q == 505)) ∧
  (∀ (c : BitVec 512) (x : Nat) (q : Nat), unpack fp32 x = .inf true → (cellAdd c x).getLsbD q = (c.getLsbD q || q == 506)) ∧
  (∀ (c : BitVec 512) (x q : Nat) (b : Bool), unpack fp32 x = .nan b → (cellAdd c x).getLsbD q = (c.getLsbD q || q == 504)) ∧
  (∀ (c : BitVec 512) (a b : Nat),
    (cellAdd (cellAdd c a) b).extractLsb' 0 504 = (cellAdd (cellAdd c b) a).extractLsb' 0 504)

/-- 08 R200 to R203, 09 R214: an update of a sync word, and its advance: once ARR has reached EXP and CNT has reached TGT, GEN
rises by one modulo 2^32, ARR falls by EXP, CNT by TGT, and TGT is zero. `wtg` waits while GEN is X; else it gives GEN. -/
def Obligations.SyncWords : Prop :=
  (∀ (s : State) (x : Ctx) (o : AOps) (h a : Nat) (ps : List SAcc), ready (.wtg o) s = some x →
    (x.syncAcc o 0).placed x = .ok ps → (ps.flatMap fun e => e.p.pcs).head? = some (.sp h a, 16) →
    let g := natLE (x.s.locRead (.sp h a) 16) / 2 ^ 32 % 2 ^ 32
    (g = (x.uni o.x).toNat → ∃ t, exec (.wtg o) s = .next t ∧ Waits x (.gen h a) t) ∧
    (g ≠ (x.uni o.x).toNat → ∃ t, exec (.wtg o) s = .next t ∧ RanAlone x
      { writes := match o.d with | .s n => [.s n (BitVec.ofNat 32 g)] | _ => [] } t)) ∧
  (∀ y : SyncW, y.exp < 2 ^ 16 → y.arr < 2 ^ 16 → y.gen < 2 ^ 32 → y.tgt < 2 ^ 32 → y.cnt < 2 ^ 32 →
    SyncW.ofNat y.toNat = y ∧
    (y.exp ≤ y.arr ∧ y.tgt ≤ y.cnt → y.advance = ⟨y.exp, y.arr - y.exp, (y.gen + 1) % 2 ^ 32, 0, y.cnt - y.tgt⟩) ∧
    (y.arr < y.exp ∨ y.cnt < y.tgt → y.advance = y) ∧
    (∀ x t, SyncW.update .init x t y = ⟨x % 2 ^ 16, 0, y.gen, t, 0⟩ ∧
      SyncW.update .exp x t y = SyncW.advance { y with tgt := (y.tgt + x) % 2 ^ 32 } ∧
      SyncW.update .arv x t y = SyncW.advance { y with arr := min (y.arr + x) 0xFFFF } ∧
      SyncW.update .add x t y = SyncW.advance { y with cnt := (y.cnt + x) % 2 ^ 32 }))

/-- 08 R204, R205, 02 R49, R53: `bar`, `rbar` and `sbar` hold an arrival in a region of its own, which closes, and the wale waits
at the instruction; at an `sbar` in a skein that is not held the hoop's wales meet without an arrival (01 R12, R27; log entry 78). -/
def Obligations.Barriers : Prop :=
  ∀ (s : State) (x : Ctx),
    let waits (k : BarKind) (u : State) (t : State) : Prop :=
      Changed u x.st.w (fun w => { w with cur := w.cur.close (x.s.window x.die), st := .barrier k }) t
    (∀ o, ready (.bar o) s = some x → ∃ u t, exec (.bar o) s = .next t ∧
      Ran x { held := [.arrive .bar] } true { x.core with nBar := x.core.nBar + 1 } u ∧ waits .bar u t) ∧
    (∀ o, ready (.rbar o) s = some x → ∃ u t, exec (.rbar o) s = .next t ∧
      Ran x { held := [.arrive .rbar] } true { x.core with nRbar := x.core.nRbar + 1 } u ∧ waits .rbar u t) ∧
    (∀ o, ready (.sbar o) s = some x →
      (pkHeld x.st.skein.pkt = false → ∃ t, exec (.sbar o) s = .next t ∧
        OnlyWale x { x.st.wl with core := { x.core with nColl := x.core.nColl + 1 }, st := .coll,
                                  collArg := some (.sbar o, 0, 0) } t) ∧
      (pkHeld x.st.skein.pkt = true → ∃ u v t, exec (.sbar o) s = .next t ∧
        Ran x { held := [.arrive .sbar] } true { x.core with nSbar := x.core.nSbar + 1, nColl := x.core.nColl + 1 } u ∧
        waits .sbar u v ∧ Changed v x.st.w (fun w => { w with collArg := some (.sbar o, 0, 0) }) t))

/-- 08 R189, R197, R199: `pref` brings lines to its level and does nothing else, and ignores a strand that would fault; `fence` of scope wale is a `nop`, of any other it takes
a reported engine fault (09 R211) and completes when every held effect has been performed; `cpub` completes then too, and makes the
lines code for the cores of its scope to which no writes but the wale's own are unpublished. A line with a write of the wale's own
engine command that no `wtb.vis` or `wtc` has covered stays unpublished; a line with other agents' writes is a free choice (log
entry 19). None of the three changes a byte, the walker's marks apart. -/
def Obligations.Fences : Prop :=
  (∀ (s : State) (x : Ctx) (o : MOps),
    (ready (.pref o) s = some x →
      let y := (x.sites false (x.mAddr .glob o)).foldl
        (fun (y : Ctx) e => y.prefetch (levelOf o.cp.toNat o.ord.toNat o.scope.toNat) (2 ^ o.w.toNat) e.2) x
      ∃ t, exec (.pref o) s = .next t ∧ RanOn y false {} t) ∧
    (ready (.fence o) s = some x →
      (o.scope = 0 → ∃ t, exec (.fence o) s = .next t ∧ RanOn x false {} t) ∧
      (∀ e r, o.scope ≠ 0 → x.st.wl.engFaults = e :: r →
        ∃ t, exec (.fence o) s = .next t ∧ Raised x { e.f with mask := x.fr.em, resume := x.fr.pc } t) ∧
      (o.scope ≠ 0 → x.st.wl.engFaults = [] → x.st.wl.drained = true →
        ∃ t, exec (.fence o) s = .next t ∧ RanOn (x.writeBack (levelOf 0 1 o.scope.toNat)) false {} t) ∧
      (o.scope ≠ 0 → x.st.wl.engFaults = [] → x.st.wl.drained = false → ∃ t, exec (.fence o) s = .next t ∧ Drains x t)) ∧
    (ready (.cpub o) s = some x →
      (x.st.wl.drained = true → ∃ t, exec (.cpub o) s = .next t ∧
        let u := (x.writeBack (max 2 (levelOf 0 1 o.scope.toNat))).s
        RanOn (x.over (u.publish x.st.w (pubCores o.scope.toNat x.st.hoop.core))) false {} t) ∧
      (x.st.wl.drained = false → ∃ t, exec (.cpub o) s = .next t ∧ Drains x t))) ∧
  (∀ (x : Ctx) (lv n : Nat) (a : Dword),
    (a.toNat % n ≠ 0 → x.prefetch lv n a = x) ∧ (∀ e, x.xlat a.toNat .r = .error e → x.prefetch lv n a = x) ∧
    (∀ t, x.xlat a.toNat .r = .ok t → (t.mt ≠ 0 → x.prefetch lv n a = x) ∧
      (x.prefetch lv n a = x ∨ (x.prefetch lv n a = x.over (x.prefetch lv n a).s ∧
        ∀ (l : Loc) (i : Nat), (x.prefetch lv n a).s.locByte l i = (x.s.setAD t false).locByte l i)))) ∧
  (∀ (x : Ctx) (lv : Nat) (l : Loc) (i : Nat), (x.writeBack lv).s.locByte l i = x.s.locByte l i) ∧
  (∀ (s : State) (w pa core : Nat) (cores : BitVec 384), Sparse.wf s.unpub = true → cores.getLsbD core = true →
    ((∀ e ∈ Sparse.getD s.unpub [] (pa / 64), e.2.getLsbD core = true → e.1 = .wale w) →
      (s.publish w cores).unpublished core pa = false) ∧
    (∀ c q b m, (Agent.cmd w c q b, m) ∈ Sparse.getD s.unpub [] (pa / 64) → m.getLsbD core = true →
      (s.publish w cores).unpublished core pa = true)) ∧
  (∀ (s : State) (w pa core : Nat) (cores : BitVec 384), Sparse.wf s.unpub = true → cores.getLsbD core = false →
    (s.publish w cores).unpublished core pa = s.unpublished core pa) ∧
  (∀ (s : State) (w : Nat) (cores : BitVec 384),
    s.publish w cores = { s with unpub := (s.publish w cores).unpub, free := s.free + 1 })

/-! ### Engine commands, batches, slots -/

/-- 09 R206, R208, R209, R212, R213, R219, R220, R222, R223, R226, R227, 10 R235, R236, R241, R249, R252, R253, 02 R54: `cpy`,
`cpyst`, `cpyt`, `cpymm`, `gthr`, `scat`, `coll`, `sig`, `spawn`, `mma`, `mmad`, `mconv`, `mzero`, `mld`, `mst`, `rsdef`, `rsinv`,
`rssave`, `rsload` are held with their operand values when their checks pass, and raise a fault when they do not. With 16
commands in the array's queue, a counter of the class at 255, or no room for the spawn tree, the wale waits at the instruction;
with no room in the hold buffer it waits for a release (log entry 18, DEDUCED). -/
def Obligations.EngineCommandsHeld : Prop :=
  (∀ (i : Instr) (s : State) (x : Ctx) (ok : Bool) (o : CmdOps), Rule.command x i = some (ok, o) → ready i s = some x →
    let queued := Rule.isMatrix i = true ∧ 16 ≤ x.s.queuedMatrix x.st.hoop.core
    (ok = true → ¬queued → x.counterFull o.classes = false → x.room (.cmd o) = true →
      ∃ t, exec i s = .next t ∧ RanOn x true { held := [.cmd o] } t) ∧
    (ok = true → queued ∨ x.counterFull o.classes = true → ∃ t, exec i s = .next t ∧ Waits x (.wait false) t) ∧
    (ok = true → ¬queued → x.counterFull o.classes = false → x.room (.cmd o) = false →
      ∃ t, exec i s = .next t ∧ Drains x t) ∧
    (ok = false → ∃ (code : BitVec 8) (a : Dword) (m : Mask) (t : State), exec i s = .next t ∧
      Raised x (x.record ⟨code, a, m⟩) t ∧ code ∈ [cXLATE, cALIGN, cRANGE, cSLOT, cRIGHTS])) ∧
  (∀ (s : State) (x : Ctx) (o : ROps), ready (.spawn o) s = some x →
    let a := x.uni64 o.a
    let k := x.cmdOps (.spawn o) 0 a 0 0 []
    (a.toNat % 64 ≠ 0 → ∃ t, exec (.spawn o) s = .next t ∧ Raised x (x.record ⟨cALIGN, a, x.fr.em⟩) t) ∧
    (a.toNat % 64 = 0 → 2 ^ 53 ≤ a.toNat → ∃ t, exec (.spawn o) s = .next t ∧ Raised x (x.record ⟨cXLATE, a, x.fr.em⟩) t) ∧
    (a.toNat % 64 = 0 → a.toNat < 2 ^ 53 → x.spawnFull = true → ∃ t, exec (.spawn o) s = .next t ∧ Waits x (.wait true) t) ∧
    (a.toNat % 64 = 0 → a.toNat < 2 ^ 53 → x.spawnFull = false → x.room (.cmd k) = true →
      ∃ t, exec (.spawn o) s = .next t ∧ RanOn x true { held := [.cmd k] } t) ∧
    (a.toNat % 64 = 0 → a.toNat < 2 ^ 53 → x.spawnFull = false → x.room (.cmd k) = false →
      ∃ t, exec (.spawn o) s = .next t ∧ Drains x t)) ∧
  (∀ (x : Ctx) (k : Fin 4), x.counterFull [k] = true ↔
    255 ≤ vget x.st.wl.cnt k + (x.st.wl.heldAll.filter fun h => match h with | .cmd c => c.classes.contains k | _ => false).length)

/-- 09 R215 to R218, R228, R211: `seal` raises `sr.batch` and is held, and waits while 64 batches are sealed and not complete.
`wtb.src` and `wtb.vis` complete when every sealed batch but the N youngest has reached its source or visibility point, `wtc` when
at most N commands of the class are not complete; each takes a reported engine fault of a command that it covers. What `wtb.vis` and
`wtc` have waited for counts as the wale's own writes from then on (08 R199). `hwaitd` makes
the wale arrive and wait; a signal beyond 14 bits raises RANGE. With no room in the hold buffer `seal` waits for a release (log entry
18, DEDUCED). -/
def Obligations.SealAndWaits : Prop :=
  (∀ (s : State) (x : Ctx) (o : ROps), ready (.seal o) s = some x →
    (64 ≤ x.sealCount → Held.seal ∉ x.st.wl.heldAll → ∃ t, exec (.seal o) s = .next t ∧ Waits x (.wait false) t) ∧
    (64 ≤ x.sealCount → Held.seal ∈ x.st.wl.heldAll → ∃ t, exec (.seal o) s = .next t ∧ Drains x t) ∧
    (x.sealCount < 64 → x.room .seal = false → ∃ t, exec (.seal o) s = .next t ∧ Drains x t) ∧
    (x.sealCount < 64 → x.room .seal = true → ∃ t, exec (.seal o) s = .next t ∧
      RanOn (x.withCore { x.core with batch := x.core.batch + 1 }) true { held := [.seal] } t)) ∧
  (∀ (s : State) (x : Ctx) (o : IOps) (i : Instr) (vis : Bool), (i = .wtbSrc o ∧ vis = false ∨ i = .wtbVis o ∧ vis = true) →
    ready i s = some x →
    let n := o.imm.toNat % 16
    let due (b : Batch) : Prop := n < (x.core.batch - b.num).toNat ∧ ¬(b.failed = true ∨ ∀ c ∈ b.cmds,
      ∀ k, Sparse.find? x.s.cmds c = some k → k.stage = .done ∨ (vis = false ∧ k.stage = .sourced ∧ k.upTo = none))
    let u := if vis then x.s.covered x.st.w (fun _ _ b => b.any fun k => decide (n < (x.core.batch - k).toNat)) else x.s
    (∀ e, x.batchFault n = some e →
      ∃ t, exec i s = .next t ∧ Raised x { e.f with mask := x.fr.em, resume := x.fr.pc } t) ∧
    (x.batchFault n = none → (∀ b ∈ x.st.wl.sealed, ¬due b) → ∃ t, exec i s = .next t ∧ RanAlone (x.over u) {} t) ∧
    (x.batchFault n = none → (∃ b ∈ x.st.wl.sealed, due b) → ∃ t, exec i s = .next t ∧ Waits x (.wait true) t) ∧
    (x.batchFault n ≠ none ↔ ∃ e ∈ x.st.wl.engFaults, ∃ b ∈ x.st.wl.sealed,
      n < (x.core.batch - b.num).toNat ∧ e.cmd ∈ b.cmds)) ∧
  (∀ (s : State) (x : Ctx) (o : IOps), ready (.wtc o) s = some x →
    let c : Fin 4 := Fin.ofNat 4 (o.imm.toNat % 4)
    let n := o.imm.toNat / 4 % 256
    let mine (e : EngFault) : Prop := e.cls = some c ∧ n < vget x.st.wl.relSeq c - e.seq
    ((∃ e ∈ x.st.wl.engFaults, mine e) → ∃ e ∈ x.st.wl.engFaults, mine e ∧
      ∃ t, exec (.wtc o) s = .next t ∧ Raised x { e.f with mask := x.fr.em, resume := x.fr.pc } t) ∧
    ((∀ e ∈ x.st.wl.engFaults, ¬mine e) →
      (vget x.st.wl.cnt c ≤ n → ∃ t, exec (.wtc o) s = .next t ∧
        RanAlone (x.over (x.s.covered x.st.w fun k q _ => k == c && decide (n < vget x.st.wl.relSeq c - q))) {} t) ∧
      (n < vget x.st.wl.cnt c → ∃ t, exec (.wtc o) s = .next t ∧ Waits x (.wait true) t))) ∧
  (∀ (s : State) (x : Ctx) (o : ROps), ready (.hwaitd o) s = some x →
    let a := x.uni o.a
    (2 ^ 14 ≤ a.toNat → ∃ t, exec (.hwaitd o) s = .next t ∧ Raised x (x.record ⟨cRANGE, 0, x.fr.em⟩) t) ∧
    (a.toNat < 2 ^ 14 → ∃ t, exec (.hwaitd o) s = .next t ∧
      let w := x.st.wl
      OnlyWale x { w with core := { w.core with nColl := w.core.nColl + 1 }, st := .coll,
                          collArg := some (.hwaitd o, a, x.uni o.b) } t)) ∧
  (∀ (s : State) (w core pa : Nat) (f : Fin 4 → Nat → Option (BitVec 16) → Bool),
    s.covered w f = { s with unpub := (s.covered w f).unpub } ∧
    (s.covered w f).unpublished core pa = s.unpublished core pa ∧
    ∀ c q b, f c q b = true → ∀ e ∈ (s.covered w f).unpub, ∀ m, (Agent.cmd w c q b, m) ∉ e.2)

/-- 10 R230 to R234, R236, 02 R50: `tsdef` defines a slot from 64 bytes of the scratchpad, as the wale sees them; `tsset` sets a
word of a valid slot; `tsinv` clears VALID. Each is held. A misaligned address raises ALIGN, one beyond SP_BYTES or a word above
15 RANGE, a descriptor or word outside its limits, or an invalid slot, SHAPE. A `tsdef` that would read from under a held update of the
wale waits for its release (log entry 79, DEDUCED), and so does each with no room in the hold buffer (log entry 18, DEDUCED). -/
def Obligations.TensorSlots : Prop :=
  (∀ (s : State) (x : Ctx) (o : XOps), ready (.tsdef o) s = some x →
    let a := x.uni o.a
    let d : BitVec 512 := BitVec.ofNat 512
      (natLE ((x.s.ownView x.st.w x.st.wl x.die).locRead (.sp x.st.wl.hoop a.toNat) 64))
    let h : Held := .slot (Fin.ofNat 64 o.ts.toNat) (.def d)
    (a.toNat % 64 ≠ 0 → ∃ t, exec (.tsdef o) s = .next t ∧ Raised x (x.record ⟨cALIGN, a.setWidth 64, x.fr.em⟩) t) ∧
    (a.toNat % 64 = 0 → pkSp x.st.skein.pkt < a.toNat + 64 →
      ∃ t, exec (.tsdef o) s = .next t ∧ Raised x (x.record ⟨cRANGE, a.setWidth 64, x.fr.em⟩) t) ∧
    (a.toNat % 64 = 0 → a.toNat + 64 ≤ pkSp x.st.skein.pkt →
      let under := x.st.wl.unsettled (.sp x.st.wl.hoop a.toNat) 64
      (under = true → ∃ t, exec (.tsdef o) s = .next t ∧ Drains x t) ∧
      (under = false → (Desc.of d).ok = false →
        ∃ t, exec (.tsdef o) s = .next t ∧ Raised x (x.record ⟨cSHAPE, 0, x.fr.em⟩) t) ∧
      (under = false → (Desc.of d).ok = true → x.room h = true →
        ∃ t, exec (.tsdef o) s = .next t ∧ RanOn x true { held := [h] } t) ∧
      (under = false → (Desc.of d).ok = true → x.room h = false → ∃ t, exec (.tsdef o) s = .next t ∧ Drains x t))) ∧
  (∀ (s : State) (x : Ctx) (o : XOps), ready (.tsset o) s = some x →
    let k := (x.uni o.a).toNat
    let ok := (x.st.wl.slotView x.st.hoop o.ts.toNat).valid = true ∧ wordOk k (x.uni o.b) = true
    let h : Held := .slot (Fin.ofNat 64 o.ts.toNat) (.set (Fin.ofNat 16 k) (x.uni o.b))
    (15 < k → ∃ t, exec (.tsset o) s = .next t ∧ Raised x (x.record ⟨cRANGE, 0, x.fr.em⟩) t) ∧
    (k ≤ 15 → ¬ok → ∃ t, exec (.tsset o) s = .next t ∧ Raised x (x.record ⟨cSHAPE, 0, x.fr.em⟩) t) ∧
    (k ≤ 15 → ok → x.room h = true → ∃ t, exec (.tsset o) s = .next t ∧ RanOn x true { held := [h] } t) ∧
    (k ≤ 15 → ok → x.room h = false → ∃ t, exec (.tsset o) s = .next t ∧ Drains x t)) ∧
  (∀ (s : State) (x : Ctx) (o : XOps), ready (.tsinv o) s = some x →
    let h : Held := .slot (Fin.ofNat 64 o.ts.toNat) .inv
    (x.room h = true → ∃ t, exec (.tsinv o) s = .next t ∧ RanOn x true { held := [h] } t) ∧
    (x.room h = false → ∃ t, exec (.tsinv o) s = .next t ∧ Drains x t)) ∧
  (∀ (t : TSlot) (d : BitVec 512) (w : Fin 16) (x : Word),
    (SlotOp.def d).apply t = { valid := true, desc := d } ∧ SlotOp.inv.apply t = { t with valid := false } ∧
    (t.valid = false → (SlotOp.set w x).apply t = t) ∧
    (t.valid = true → ((SlotOp.set w x).apply t).valid = true ∧ ∀ k : Fin 16,
      ((SlotOp.set w x).apply t).desc.extractLsb' (32 * k.val) 32 = if k = w then x else t.desc.extractLsb' (32 * k.val) 32))

/-- 10 R252, R246: `rsstat` gives word SEL of a granted reuse entry: valid, the count and whether the weights have changed with the
version; the layer; the weight version; NLIM, SATTH and K. An entry that is not granted raises SLOT. 10 R240: `mfence` completes and
changes no register. It holds no effect; the mark that the model puts among the held effects is its own way to place the point in the
stream of the wale's matrix commands (log entry 111, DESIGN CHOICE), and it is released into `mfenceAt`. -/
def Obligations.ReuseStatus : Prop :=
  (∀ (s : State) (x : Ctx) (o : XOps), ready (.rsstat o) s = some x →
    let e := x.s.reuseEntry (pkRsDie x.st.basket.pkt) (pkRsBase x.st.basket.pkt + o.rs.toNat)
    let word : Nat := match o.flags.toNat % 4 with
      | 0 => ((if e.valid then 1 else 0) ||| 2 * e.count ||| (if e.wver ≠ e.version then 2 ^ 8 else 0) ||| e.sver.toNat * 2 ^ 16)
      | 1 => e.layer.toNat
      | 2 => e.wver.toNat
      | _ => e.nlim + e.satth * 2 ^ 7 + e.k * 2 ^ 16
    (o.rs.toNat < pkRsCount x.st.basket.pkt → ∃ t, exec (.rsstat o) s = .next t ∧
      RanOn x false (x.wordRes o.d fun _ => Rule.val (BitVec.ofNat 32 word)) t) ∧
    (pkRsCount x.st.basket.pkt ≤ o.rs.toNat → ∃ t, exec (.rsstat o) s = .next t ∧
      Raised x (x.record ⟨cSLOT, BitVec.ofNat 64 o.rs.toNat, x.fr.em⟩) t)) ∧
  (∀ (s : State) (x : Ctx) (o : ROps), ready (.mfence o) s = some x →
    ∃ t, exec (.mfence o) s = .next t ∧ RanOn x false { held := [.mfence] } t)

/-! ### System instructions and exceptions -/

/-- 11 R259, R260, R263: `trap` raises TRAP and `brkpt` BRKP with the low 16 bits of the immediate as address; in a basket without
a handler `brkpt` does nothing. `fwcall` sends its service number and argument, and its fragment waits for the reply, in a region that
opens there; A none stands for 0 (log entry 101, DESIGN CHOICE). -/
def Obligations.TrapsAndCalls : Prop :=
  ∀ (s : State) (x : Ctx) (o : IOps),
    (ready (.trap o) s = some x → ∃ t, exec (.trap o) s = .next t ∧
      Raised x (x.record ⟨0x10, BitVec.ofNat 64 (o.imm.toNat % 2 ^ 16), x.fr.em⟩) t) ∧
    (ready (.brkpt o) s = some x →
      (pkHandler x.st.basket.pkt ≠ 0 → ∃ t, exec (.brkpt o) s = .next t ∧
        Raised x (x.record ⟨0x11, BitVec.ofNat 64 (o.imm.toNat % 2 ^ 16), x.fr.em⟩) t) ∧
      (pkHandler x.st.basket.pkt = 0 → ∃ t, exec (.brkpt o) s = .next t ∧ RanOn x false {} t)) ∧
    (ready (.fwcall o) s = some x → ∃ t, exec (.fwcall o) s = .next t ∧
      let a := if o.a = .none then 0 else x.uni o.a
      let c := { x.core with call := some { arm := x.arm, n := o.imm.toNat % 2 ^ 12, x := a, d := o.d } }
      OnlyWale x (Wale.reopen { x.st.wl with core := c } x.cc) t)

/-- 02 R45, 11 R257, R258, 07 R172: `srd` reads a special register: `sr.lane` gives each strand its number, a 64-bit register two
words when W is set. `swr` writes `sr.fflags`, `sr.fcause`, `sr.fpc`, `sr.faddr`, `sr.fmask` and the loop counters, the bits
that exist; a counter written as zero is no longer active. -/
def Obligations.SpecialRegisters : Prop :=
  (∀ (s : State) (x : Ctx) (o : IOps), ready (.srd o) s = some x →
    let i := o.imm.toNat % 64
    (i = 0 → ∃ t, exec (.srd o) s = .next t ∧
      RanOn x false (x.wordRes o.d fun j => Rule.val (BitVec.ofNat 32 j.val)) t) ∧
    (i ≠ 0 → o.imm.getLsbD 6 = false → ∃ t, exec (.srd o) s = .next t ∧
      RanOn x false (x.wordRes o.d fun _ => Rule.val (BitVec.ofNat 32 (Rule.special x i))) t) ∧
    (i ≠ 0 → o.imm.getLsbD 6 = true → ∃ t, exec (.srd o) s = .next t ∧
      RanOn x false (x.pairRes o.d fun _ =>
        BitVec.ofNat 64 (Rule.special x i % 2 ^ 32 + Rule.special x (i + 1) % 2 ^ 32 * 2 ^ 32)) t)) ∧
  (∀ (s : State) (x : Ctx) (o : IOps), ready (.swr o) s = some x →
    let i := o.imm.toNat % 64
    let c := if o.imm.getLsbD 6 then (x.core.setSr i (lo32 (x.uni64 o.a))).setSr (i + 1) (hi32 (x.uni64 o.a))
      else x.core.setSr i (x.uni o.a)
    ∃ t, exec (.swr o) s = .next t ∧ RanOn (x.under c) false {} t) ∧
  (∀ (c : WaleCore) (v : Word),
    c.setSr 0x0E v = { c with fflags := v &&& 0x3F } ∧ c.setSr 0x0F v = { c with fcause := v &&& 0x7FF } ∧
    c.setSr 0x10 v = { c with fpc := hi32 c.fpc ++ v } ∧ c.setSr 0x11 v = { c with fpc := v ++ lo32 c.fpc } ∧
    c.setSr 0x12 v = { c with faddr := hi32 c.faddr ++ v } ∧ c.setSr 0x13 v = { c with faddr := v ++ lo32 c.faddr } ∧
    c.setSr 0x14 v = { c with fmask := v } ∧
    (∀ n : Fin 3, let d := c.setSr (0x18 + n.val) v
      (∀ m, vget d.lc m = if m = n then v else vget c.lc m) ∧
      (v ≠ 0 → d = { c with lc := d.lc }) ∧
      (v = 0 → d = { c with lc := d.lc, lstack := c.lstack.filter (fun m => decide (m ≠ n)), loops := d.loops } ∧
        ∀ m, vget d.loops m = if m = n then { vget c.loops n with lact := false } else vget c.loops m)))

/-- 11 R264, R266, R267: a fault is taken. The fault record holds the code with ARM, ENG and SHD, the faulting PC, the address and
the strands; a trap frame holds the fragment's `em`, the resume PC and the join-stack depth; the fragment continues at the
handler with its `em` unchanged, in a region of its own, and no fault is pending. Its lookahead shadows end, and their results are
written (log entry 77). The other fragment is suspended; a fault of its own is dropped, and its instruction issues again after the
return, for a HOMEOFF the load alone, whose shadow is gone (11 R263). Without a handler, or with a trap frame already active, the basket is ended. -/
def Obligations.FaultsAreTaken : Prop :=
  (∀ (s : State) (st : Site) (a : ArmId) (f : FaultRec), s.site? st.w = some st → Sparse.wf s.baskets = true →
    st.wl.core.frame ≠ none ∨ pkHandler st.basket.pkt = 0 →
    (s.takeFault st a f).basket? st.skein.basket = none) ∧
  (∀ (s : State) (st : Site) (a : ArmId) (f : FaultRec), s.site? st.w = some st → st.wl.core.frame = none →
    pkHandler st.basket.pkt ≠ 0 → (a = .sole ∨ st.wl.core.stack ≠ []) →
    let own (h : Shadow) : Bool := h.arm == a && h.depth == st.wl.core.stack.length
    let landed := (st.wl.core.shadows.filter own).flatMap fun h => h.writes
    let o := st.wl.core.frag a.sib
    ∃ w, (s.takeFault st a f).wale? st.w = some w ∧ s.takeFault st a f = { s with wales := (s.takeFault st a f).wales } ∧
      (∀ k, k ≠ st.w → Sparse.find? (s.takeFault st a f).wales k = Sparse.find? s.wales k) ∧
      w.core.fcause = BitVec.ofNat 32 (f.code.toNat + (if a = .a1 then 2 ^ 8 else 0) + (if f.eng then 2 ^ 9 else 0)
        + (if f.shd then 2 ^ 10 else 0)) ∧
      w.core.fpc = f.pc ∧ w.core.faddr = f.addr ∧ w.core.fmask = f.mask ∧
      w.core.frame = some ⟨a, (st.wl.core.frag a).em, f.pc, f.resume, st.wl.core.stack.length, f.fetch, f.cmd, f.eng⟩ ∧
      w.core.frag a = { st.wl.core.frag a with
        pc := pkHandler st.basket.pkt, st := .running, split := false, arr := true, retry := none, stall := false } ∧
      w.core.pend a = none ∧ w.core.pend a.sib = none ∧
      (a ≠ .sole → o.live = true ∨ o.st = .suspended → (w.core.frag a.sib).st = .suspended ∧ (w.core.frag a.sib).why = .trap ∧
        (w.core.frag a.sib).mem = o.mem ∧ (w.core.frag a.sib).em = o.em ∧
        (∀ g, st.wl.core.pend a.sib = some g → g.code = cHOMEOFF → g.eng = false →
          (w.core.frag a.sib).pc = g.pc ∧ (w.core.frag a.sib).retry = some g.resume ∧
          ∀ h ∈ w.core.shadows, h.off = true → h.arm = a.sib → h.depth ≠ st.wl.core.stack.length) ∧
        ((∀ g, st.wl.core.pend a.sib = some g → g.code ≠ cHOMEOFF ∨ g.eng = true) →
          (w.core.frag a.sib).pc = o.pc ∧ (w.core.frag a.sib).retry = o.retry)) ∧
      (∀ (n : Fin 256) (i : Fin 32), vget (w.core.getV n) i = vAfter landed n i (vget (st.wl.core.getV n) i)) ∧
      (∀ n : Fin 64, w.core.getS n = sAfter landed n (st.wl.core.getS n)) ∧
      (∀ (n : Fin 8) (i : Fin 32), n ≠ 0 → (w.core.getP n).getLsbD i.val =
        pAfter landed n i ((st.wl.core.getP n).getLsbD i.val)) ∧
      w.core.fflags = ((st.wl.core.shadows.filter own).map fun h => h.flags).foldl (fun p q => p ||| q) st.wl.core.fflags ∧
      (∀ h ∈ w.core.shadows, own h = false) ∧ w.st = .ready ∧ w.cur.ckpt = w.core ∧
      w.cur.held = [] ∧ w.core.icount = 0 ∧ w.core.wcount = 0)

/-- 11 R265, R269, R270: `tret.to`, `tret.retry` and `tret.skip` close the trap frame: `em` is what the frame holds without the
strands that have exited; the fragment continues at the PC of the s pair, at the faulting instruction, or at the resume PC; a
region head is made; the fragment that the handler suspended runs again. A retained engine command is released again, when its
queue and the hold buffer have room (log entry 18, DEDUCED); the engine fault of an `hwaitd` retains none, and the delivery
instruction is executed again. Without an open frame at this depth they raise SYNC; with an older region unreleased the wale waits. The
target of `tret.to` is checked before the frame closes (log entry 47, DEDUCED). -/
def Obligations.ReturnsFromTraps : Prop :=
  (∀ (s : State) (x : Ctx) (o : ROps),
    let went (f : TrapFrame) (pc : Dword) (arr : Bool) (retry : Option Dword) (h : List Held) (t : State) : Prop :=
      ∃ u, Ran x { held := h } false (x.core.closeFrame x.arm f pc arr retry) u ∧
        Changed u x.st.w (fun w => w.head (x.s.window x.die) (x.cc + 1)) t
    let opened (f : TrapFrame) : Prop := x.core.frame = some f ∧ f.depth = x.core.stack.length
    (∀ i, i = .tretTo o ∨ i = .tretRetry o ∨ i = .tretSkip o → ready i s = some x → (∀ f, ¬opened f) →
      ∃ t, exec i s = .next t ∧ Raised x (x.record ⟨cSYNC, 0, x.fr.em⟩) t) ∧
    (∀ i f, i = .tretRetry o ∨ i = .tretSkip o → ready i s = some x → opened f → x.st.wl.old ≠ none →
      ∃ t, exec i s = .next t ∧ Drains x t) ∧
    (∀ f, ready (.tretTo o) s = some x → opened f → x.targetRejected (x.uni64 o.a) = false →
      (x.st.wl.old ≠ none → ∃ t, exec (.tretTo o) s = .next t ∧ Drains x t) ∧
      (x.st.wl.old = none → ∃ t, exec (.tretTo o) s = .next t ∧ went f (x.uni64 o.a) true none [] t)) ∧
    (∀ f, ready (.tretTo o) s = some x → opened f → x.targetRejected (x.uni64 o.a) = true →
      ∃ t, exec (.tretTo o) s = .next t ∧
        Raised x ⟨cBTGT, x.core.inShadow x.arm, false, true, x.uni64 o.a, x.uni64 o.a, x.fr.em, x.uni64 o.a, none, 0⟩ t) ∧
    (∀ f, ready (.tretSkip o) s = some x → opened f → x.st.wl.old = none →
      ∃ t, exec (.tretSkip o) s = .next t ∧ went f f.resume f.fetch none [] t) ∧
    (∀ f, ready (.tretRetry o) s = some x → opened f → x.st.wl.old = none → f.cmd = none →
      (f.eng = true → ∃ t, exec (.tretRetry o) s = .next t ∧ went f f.resume false none [] t) ∧
      (f.eng = false → f.fetch = true → ∃ t, exec (.tretRetry o) s = .next t ∧ went f f.resume true none [] t) ∧
      (f.eng = false → f.fetch = false → ∃ t, exec (.tretRetry o) s = .next t ∧ went f f.pc false (some f.resume) [] t)) ∧
    (∀ f k, ready (.tretRetry o) s = some x → opened f → x.st.wl.old = none → f.cmd = some k →
      let full := x.counterFull k.classes = true ∨ ((∃ q, k.ins = .spawn q) ∧ x.spawnFull = true)
      (full → ∃ t, exec (.tretRetry o) s = .next t ∧ Waits x (.wait false) t) ∧
      (¬full → x.room (.cmd { k with again := true }) = false → ∃ t, exec (.tretRetry o) s = .next t ∧ Drains x t) ∧
      (¬full → x.room (.cmd { k with again := true }) = true →
        ∃ t, exec (.tretRetry o) s = .next t ∧ went f f.resume false none [.cmd { k with again := true }] t))) ∧
  (∀ (c : WaleCore) (a : ArmId) (f : TrapFrame) (pc : Dword) (arr : Bool) (retry : Option Dword),
    (a = .sole ∨ c.stack ≠ []) → (c.frag a).mem &&& ~~~c.exited ≠ 0 →
    let d := c.closeFrame a f pc arr retry
    let u := c.frag a.sib
    d.frame = none ∧ d.frag a =
      { c.frag a with st := .running, pc := pc, em := f.em &&& ~~~c.exited, split := false, arr := arr, retry := retry } ∧
    (a ≠ .sole → d.frag a.sib =
      if u.st = .suspended ∧ u.why = .trap then { u with st := .running, split := false, stall := false } else u))

/-! ### Operations of the device: wales -/

/-- 04 R94, 02 R51, 17 R384, 01 R31, R34, R36, 07 R175, 11 R263: the oldest result in flight lands, and the last cycle of the region that
its instruction belongs to is that of its landing; a wave wakes at most SLOPE wales of a cluster, those whose sync word has advanced and those at a barrier that is
complete, which go on behind it in a region of their own; a wale that has exited and has nothing outstanding leaves, the last of
a hoop with the hoop and its scratchpad; a wale without instructions left before its deadline ends its basket; the reply to an
access of a die in warm reset raises HOMEOFF. -/
def Obligations.WaleEvents : Prop :=
  (∀ (s : State) (w : Nat) (st : Site) (a b : List Shadow) (x : Shadow), s.site? w = some st →
    st.wl.core.shadows = a ++ x :: b → (∀ y ∈ a, y.landed = true) → x.landed = false →
    ∃ t, exec (.resultLand w) s = .next t ∧
      let n := (s.die st.hoop.die).cc + 1
      OnlyWaleDie s w (fun v => { v with
        core := { v.core with shadows := a ++ { x with landed := true } :: b }
        cur := if v.old.isSome = true ∧ x.old = true then v.cur else { v.cur with last := n }
        old := if x.old then v.old.map fun r => { r with last := n } else v.old })
        st.hoop.die { s.die st.hoop.die with cc := n } t) ∧
  (∀ (s : State) (d : Fin 4) (c : Fin 8), Sparse.wf s.wales = true →
    let due := (s.wakeList d c).take (s.regF (rSlope d c) 8 0)
    (∃ t, exec (.wakeWave d c) s = .next t ∧ t = { s with wales := t.wales } ∧
      (∀ w x, s.wale? w = some x → w ∉ due → t.wale? w = some x) ∧
      (∀ w x h, s.wale? w = some x → s.hoop? x.hoop = some h → w ∈ due → x.st = .woken →
        t.wale? w = some (x.goOn s.turn (s.die h.die).cc)) ∧
      (∀ w x h k, s.wale? w = some x → s.hoop? x.hoop = some h → w ∈ due → x.st = .barrier k →
        t.wale? w = some ((({ x with core := x.core.advance x.core.single, collArg := none } : Wale).goOn s.turn
          (s.die h.die).cc).reopen (s.die h.die).cc))) ∧
    (∀ w, w ∈ s.wakeList d c ↔ ∃ x h, s.wale? w = some x ∧ s.hoop? x.hoop = some h ∧ h.die = d ∧ h.cluster = c ∧
      (x.st = .woken ∨ ∃ k, x.st = .barrier k ∧ x.drained = true ∧ s.barDone w k = true))) ∧
  (∀ (s : State) (w : Nat) (st : Site), s.site? w = some st → st.wl.retirable = true → s.ownbmWaits st = false →
    Sparse.wf s.wales = true → Sparse.wf s.hoops = true →
    ∃ t, exec (.waleRetire w) s = .next t ∧ t.wale? w = none ∧ w ∉ t.order ∧
      ((∃ e ∈ s.wales, e.1 ≠ w ∧ e.2.hoop = st.wl.hoop) → t.hoops = s.hoops ∧ t.skeins = s.skeins ∧ t.spad = s.spad) ∧
      ((∀ e ∈ s.wales, e.2.hoop = st.wl.hoop → e.1 = w) → t.hoop? st.wl.hoop = none ∧
        (st.basket.recov = none → st.skein.doneHoops.length + 1 < pkHoops st.skein.pkt →
          t.skein? st.hoop.skein = some { st.skein with doneHoops := st.skein.doneHoops ++ [st.hoop.idx] }))) ∧
  (∀ (s : State) (w : Nat) (st : Site) (a : ArmId), s.site? w = some st → st.wl.pick (s.die st.hoop.die).cc = some a →
    st.wl.core.yleft = 0 → Sparse.wf s.baskets = true → ∃ t, exec (.wdog w) s = .next t ∧ t.basket? st.skein.basket = none) ∧
  (∀ (s : State) (w : Nat) (st : Site) (h : HomeOff), s.site? w = some st → st.wl.core.hoff = some h →
    ∃ (t : State) (v : Wale), exec (.homeoffReply w) s = .next t ∧ t.wale? w = some v ∧ v.core.hoff = none ∧
      v.core.pend h.arm = some
        { code := cHOMEOFF, shd := h.shd, eng := false, fetch := false, pc := h.pc, addr := h.addr, mask := h.mask,
          resume := (st.wl.core.frag h.arm).pc, cmd := none } ∧
      (h.old = true → v.cur.ckpt.pend h.arm = v.core.pend h.arm) ∧
      (∀ k, k ≠ w → t.wale? k = s.wale? k) ∧ t = { s with wales := t.wales })

/-- 02 R51, 01 R29, 13 R289: the oldest closed region of a wale is released in the cycle after its deadline, which is Q cycles after its
last result, and not while an event at or before that cycle is to come: its held effects are performed in program order, all now or the
first now and the others after what other wales do (log entry 12), and the wale goes on; the current region, when it is the one released,
opens anew. An effect that waits for a die, a link, a page granted to a peer or another core's request stays held (16 R356, R361, 14 R312,
R315). A fault that stands in a released region is taken (11 R264). What each effect does then: a store writes, an atomic, an `xadd` and a
sync word update combine, a slot operation changes its slot, an arrival is counted, a seal closes the batch, a command enters its queue
and its counter rises (09 R208), an `mfence` mark takes its place (log entry 111). A matrix command is ordered after those before the
wale's last `mfence`, those of equal SUB, K and tile, and those of its reuse entry (10 R239, R240, R251; a K that is not known yet is taken
as equal, log entry 84). Arrivals at skein and rim scope and commands write the
wale's lines back first (08 R185, R204). -/
def Obligations.RegionRelease : Prop :=
  (∀ (s : State) (w : Nat) (st : Site) (r : Region), s.site? w = some st → st.wl.releasable = true → st.wl.old = some r →
    let d := st.hoop.die
    let dl := r.last + r.q.getD (s.window d)
    let n := max (s.die d).cc (dl + 1)
    let hs := st.wl.due ++ r.held
    (s.eventBy d dl = true → st.wl.due = [] → exec (.regionRelease w) s = .next s) ∧
    (s.eventBy d dl = false → ∃ u now k, (now = hs.length ∨ now = 1 ∧ 2 ≤ hs.length) ∧
      OnlyWaleDie s w (fun v => { ({ v with old := none } : Wale).tryAgain true s.turn n with due := [] }) d
        { s.die d with cc := n } u ∧
      let v := (State.performAll w (hs.drop now ++ st.wl.cur.held) (hs.take now) { u with free := u.free + k }).updWale w
        fun x => { x with due := x.due ++ hs.drop now }
      exec (.regionRelease w) s = .next
        (if (v.wale? w).any (fun x => x.faultReady) = true then v.deliver w else v))) ∧
  (∀ (s : State) (w : Nat) (st : Site), s.site? w = some st → st.wl.releasable = true → st.wl.old = none →
    st.wl.curClosed = true → st.wl.core.pend0 = none → st.wl.core.pend1 = none → st.wl.due ++ st.wl.cur.held = [] →
    let d := st.hoop.die
    s.eventBy d (st.wl.cur.last + st.wl.cur.q.getD (s.window d)) = false →
    let n := max (s.die d).cc (st.wl.cur.last + st.wl.cur.q.getD (s.window d) + 1)
    ∃ t, exec (.regionRelease w) s = .next t ∧
      OnlyWaleDie s w (fun v => (v.reopen n).tryAgain true s.turn n) d { s.die d with cc := n } t) ∧
  (∀ (s : State) (w : Nat) (st : Site) (a : ArmId) (f : FaultRec), s.site? w = some st → st.wl.releasable = true →
    st.wl.faultReady = true → st.wl.dueFault = some (a, f) → exec (.regionRelease w) s = .next (s.takeFault st a f)) ∧
  (∀ (s : State) (w : Nat) (st : Site) (rest : List Held) (h : Held), s.site? w = some st →
    let t := State.performAll w rest [h] s
    let y := s.prepare st h
    let d := st.hoop.die
    let g := Agent.wale w
    (∀ (l : Loc) (i : Nat), y.locByte l i = s.locByte l i) ∧
    (2 ≤ h.uses.2.2 → h.locs = [] → ∀ line, line < 2 ^ 52 → Sparse.find? (y.die d).l1 (l1Key st.hoop.core line) ≠ some .m) ∧
    ((h = .arrive .rbar ∨ h = .arrive .sbar ∨ ∃ o, h = .cmd o) → 2 ≤ h.uses.2.2 ∧ h.locs = []) ∧
    (s.blocked d st.hoop.core h = true → (∀ (l : Loc) (i : Nat), t.locByte l i = s.locByte l i) ∧
      t.wale? w = some { st.wl with due := [h] }) ∧
    (s.blocked d st.hoop.core h = false →
      (∀ ws lv, h = .store ws lv → t = y.locWrites g d ws) ∧
      (∀ a u n xs lv, h = .rmw a u n xs lv → t = (y.rmwAll g d a.toNat u n xs).2) ∧
      (∀ b xs lv, h = .xadd b xs lv → t = y.combineAll g d 64 (xaddStep b) xs) ∧
      (∀ op l a b, h = .sync op l a b → t = y.syncUpdate g d op l a.toNat b.toNat) ∧
      (∀ n op, h = .slot n op → Sparse.wf st.hoop.slots = true → ∃ hp, t.hoop? st.wl.hoop = some hp ∧ hp.slotAt n.val = op.apply (st.hoop.slotAt n.val)) ∧
      (∀ k, h = .arrive k → t.wale? w = some (match k with
        | .bar => { st.wl with rBar := st.wl.rBar + 1 }
        | .rbar => { st.wl with rRbar := st.wl.rRbar + 1 }
        | .sbar => { st.wl with rSbar := st.wl.rSbar + 1 })) ∧
      (h = .seal → t.wale? w = some (st.wl.seal (rest.filter fun e => e == .seal).length)) ∧
      (h = .mfence → t.wale? w = some { st.wl with mfenceAt := vget st.wl.relSeq 2 }) ∧
      (∀ o c, h = .cmd o → cmdClasses o.ins = [c] → o.moot = false → Sparse.wf s.cmds = true → ∃ k v,
        Sparse.find? t.cmds s.nextId = some k ∧ k.ops = { o with fo := false } ∧ k.wale = w ∧ k.cls = c ∧ k.stage = .queued ∧
        k.seq = vget st.wl.relSeq c ∧ t.wale? w = some v ∧ v = { st.wl with cnt := v.cnt, relSeq := v.relSeq, opn := v.opn } ∧
        (∀ j, vget v.cnt j = if j = c then vget st.wl.cnt j + 1 else vget st.wl.cnt j) ∧
        (∀ j, vget v.relSeq j = if j = c then vget st.wl.relSeq j + 1 else vget st.wl.relSeq j) ∧
        (v.opn = if c = 0 ∧ o.again = false then st.wl.opn ++ [s.nextId] else st.wl.opn) ∧
        (c = 2 → ∀ id x, Sparse.find? s.cmds id = some x → x.wale = w → x.cls = 2 → (id ∈ k.deps ↔
          x.seq < st.wl.mfenceAt ∨ keysMeet (orderKey k.ops k.slots) (orderKey x.ops x.slots) = true ∨
            (cmdReuse o ≠ none ∧ cmdReuse x.ops = cmdReuse o))))))

/-- 15 R347, 11 R268, R260, 09 R228: the driver's reply to a page request sends the wales and commands that wait for it on, after a
refusal with the page noted, so that their replay raises XLATE. The firmware answers services 0 to 3, and any other with all
ones; the fragment that made the call takes the answer and goes on behind it, whatever the other does, and no checkpoint repeats the call
(02 R53). A hoop whose wales all wait at one `hwaitd` and whose signal meets the condition goes on, each wale with the value; wales that
stand at different operations, or at an `sbar` of a skein that is not held (01 R12), raise SYNC, a signal that is not there RANGE (01 R27,
R28, 15 R334); that every wale of the hoop raises it is log entry 48 (DEDUCED). -/
def Obligations.Replies : Prop :=
  (∀ (s : State) (f : Nat) (tag : BitVec 16) (r : PageReq) (i : Instr) (bad : Bool),
    i = .pageReplyMapped f tag ∧ bad = false ∨ i = .pageReplyRefused f tag ∧ bad = true →
    (s.pageReqs.find? fun q => q.func == f && q.tag == tag && q.posted) = some r →
    ∃ t : State, exec i s = .next t.retryAllDue ∧ (∀ q ∈ t.pageReqs, ¬(q.func = f ∧ q.tag = tag)) ∧
      (∀ w st, s.site? w = some st → st.basket.func = f → st.wl.st = .page tag →
        t.wale? w = some (Wale.goOn
          { st.wl with cur := { st.wl.cur with refused := if bad then st.wl.cur.refused ++ [r.page] else st.wl.cur.refused } }
          s.turn (s.die st.hoop.die).cc)) ∧
      (∀ w st o x rest, s.site? w = some st → st.basket.func = f → st.wl.st ≠ .page tag → st.wl.due = .cmd o :: rest →
        o.ins = .spawn x → o.a.toNat / 8192 = r.page →
        t.wale? w = some (if bad then { st.wl with refused := st.wl.refused ++ [r.page] } else st.wl)) ∧
      (∀ c k, Sparse.find? s.cmds c = some k → k.func = f → k.stage = .page tag →
        Sparse.find? t.cmds c = some { k with stage := .queued, refused := if bad then some r.page else none }) ∧
      t = { s with pageReqs := t.pageReqs, wales := t.wales, cmds := t.cmds } ∧
      ((∀ e ∈ s.wales, e.2.due = []) → s.owed = [] → t.retryAllDue = t)) ∧
  (∀ (s : State) (w : Nat) (st : Site) (k : FwCall), s.site? w = some st → st.wl.core.call = some k →
    let d := st.hoop.die
    let f := st.basket.func
    let v : Word := match k.n with
      | 0 => Config.fwVersion
      | 1 => ((s.reg (rThmMax d)).setWidth 16).signExtend 32
      | 2 => BitVec.ofNat 32 (s.regF (rAllot (s.partOf f)) 11 0)
      | 3 => 0
      | _ => 0xFFFFFFFF
    let q := Sparse.getD s.telem (0, 0, 0, 0, 0) f
    let y : State := if k.n = 3 then { s with telem := Sparse.put s.telem f (q.1, q.2.1, q.2.2.1, q.2.2.2.1 + 1, k.x) } else s
    let n := (s.die d).cc + 1
    ∃ t, exec (.fwcallReply w) s = .next t ∧
      OnlyWaleDie y w (fun x => x.answered k v s.turn n) d { s.die d with cc := n } t) ∧
  (∀ (x : Ctx) (k : FwCall) (v : Word), x.la = 0 → x.core.call = some k → x.arm = k.arm →
    let y := x.under { x.core with call := none }
    let g := y.core.advance k.arm
    RanCore y { writes := match k.d with | .s n => [.s n v] | _ => [] } false
      (g.setFrag k.arm { g.frag k.arm with st := (x.core.frag k.arm).st }) (x.core.answered k v)) ∧
  (∀ (x : Wale) (k : FwCall) (v : Word) (turn cc : Nat), x.core.call = some k →
    let y := x.answered k v turn cc
    y.core.call = none ∧ y.core.s = (x.core.answered k v).s ∧ (x.cur.ckpt.call ≠ none → y.cur.ckpt.call = none) ∧
    (x.drained = true → y.cur.ckpt.s = y.core.s) ∧ (∀ r, x.old = some r → ∃ q, y.old = some q ∧ q.ckpt.call = none)) ∧
  (∀ (s : State) (h w : Nat) (x : Wale) (st : Site) (cc : Nat) (a b : Word) (ws : List (Nat × Wale)), Sparse.wf s.wales = true →
    ((s.walesOf h).filter fun e => !e.2.gone) = ws → (w, x) ∈ ws → (∀ e ∈ ws, e.2.atColl = true) →
    (∃ e ∈ ws, e.2.st = .coll) → s.site? w = some st →
    ((∃ e ∈ ws, e.2.collKey ≠ x.collKey) ∨ (∀ e ∈ ws, s.sbarAlone e.2 = true) → ∃ t, exec (.hwaitdWake h) s = .next t ∧
      ∀ e ∈ ws, ∃ y f, t.wale? e.1 = some y ∧ y.core.pend y.core.single = some f ∧ f.code = cSYNC) ∧
    ((∀ e ∈ ws, e.2.collKey = some (true, cc, a, b)) →
      let d : Fin 4 := Fin.ofNat 4 (a.toNat / 4096 % 4)
      let i := a.toNat % 4096
      let v := s.signal d (s.sigBase st.basket.func + i)
      s.homeOff d = false →
      (s.sigCount st.basket.func ≤ i → ∃ t, exec (.hwaitdWake h) s = .next t ∧
        ∀ e ∈ ws, ∃ y f, t.wale? e.1 = some y ∧ y.core.pend y.core.single = some f ∧ f.code = cRANGE) ∧
      (i < s.sigCount st.basket.func →
        ¬(if cc = 0 then b.toNat ≤ v.toNat else if cc = 1 then v = b else v ≠ b) → exec (.hwaitdWake h) s = .next s) ∧
      (i < s.sigCount st.basket.func → (if cc = 0 then b.toNat ≤ v.toNat else if cc = 1 then v = b else v ≠ b) →
        ∃ t, exec (.hwaitdWake h) s = .next t ∧ ∀ e ∈ ws, ∃ y, t.wale? e.1 = some y ∧ y.st ≠ .coll ∧ y.collArg = none ∧
          ∀ o n, e.2.collArg = some (.hwaitd o, a, b) → o.d = .s n → e.2.core.shadows = [] → y.core.getS n = v)))

/-! ### Operations of the device: engines -/

/-- 09 R208 to R211, R214, R221, R229, 13 R293: a command whose results have left completes when no older one of its class is left: it
adds its bytes to its sync word, its counter falls and it leaves its batch. The source point stages what the command writes, as far
as its staging has room, under its engine's guard; once that has cleared, the staged writes are performed, and the command goes on
with the elements left; a command that has stopped reports its fault to its wale, or ends the basket of one that has exited; the
follow-on of a `cpymm` is no longer ordered after a copy whose last byte has landed in staging. A write to a page that has been poisoned
faults the command (14 R315, log entry 97). 09 R220, R222: `cpyt` and the copy of `cpymm` write the elements of the box, PAD outside the
source, in linear order; `gthr` and `scat` the rows of the visited strands. 09 R223, R224, 16 R363: `coll` writes what its operation makes
of the elements of all ranks, combined in the fixed tree; the peers' elements are free values of Config. 18 R399: a fatal device error
stops the engines and the arrays. Model's choices: staging in
pieces is log entry 55 (DEDUCED), elements in front of a fault are performed first by log entry 70 (DEDUCED), and a deadline counts with
the window in force at clearance by log entry 88 (DESIGN CHOICE). -/
def Obligations.EngineEvents : Prop :=
  (∀ (s : State) (id : Nat) (c : Cmd), s.liveCmd id = some c → c.stage = .done → Sparse.wf s.cmds = true →
    (s.isOldest c = false → exec (.engineCommandComplete id) s = .next s) ∧
    (s.isOldest c = true → ∃ t, exec (.engineCommandComplete id) s = .next t ∧ Sparse.find? t.cmds id = none ∧
      (∀ wl, s.wale? c.wale = some wl → ∃ v, t.wale? c.wale = some v ∧
        (c.inBatch = true → id ∉ v.opn ∧ ∀ b ∈ v.sealed, id ∉ b.cmds) ∧
        ∀ k, vget v.cnt k = if k = c.cls then vget wl.cnt k - 1 else vget wl.cnt k) ∧
      (∀ a h o cl, c.followOn = false → syncOf c.ops = some (a, cl) →
        (if cl = true then s.clusterLoc c.hoop a else some (.sp c.hoop a)) = some (.sp h o) →
        Sparse.wf s.spad = true → o + 16 ≤ 2 ^ 19 →
        let n := c.ops.off * c.elemBytes + (c.staged.writes.map fun w => w.bytes.length).sum
        natLE (t.locRead (.sp h o) 16) =
          (SyncW.update .add (n % 2 ^ 32) 0 (SyncW.ofNat (natLE (s.locRead (.sp h o) 16)))).toNat))) ∧
  (∀ (s : State) (id : Nat) (c : Cmd), s.liveCmd id = some c → c.cls ≠ 2 → c.stage = .queued →
    (s.room c = 0 → exec (.sourcePoint id) s = .next s) ∧
    (s.room c ≠ 0 →
      let run := (sourceWork c (s.room c)).run { s := s, far := [], port := false }
      (∀ (r : Moved) (e : EngSt), run = .ok (r, e) → (∀ p ∈ farOf e, e.s.tagsFull p.1 60 = false) →
        let cc := (e.s.die c.die).cc
        ∃ t, exec (.sourcePoint id) s = .next t ∧ (∀ (l : Loc) (i : Nat), t.locByte l i = e.s.locByte l i) ∧
          Sparse.find? t.cmds id = (Sparse.find? e.s.cmds id).map fun x =>
            let x := { x with
              staged := { x.staged with writes := r.writes, msgs := r.msgs }, upTo := r.upTo,
              stage := match r.stop with | some z => .stopped z | none => .staged }
            let x := if farOf e = [] then x.guardAt c.die c.engineRegion cc else x
            if e.port = true then x.guardAt c.die 60 cc else x) ∧
      (∀ code a, run = .error (.fault code a) → ∃ t, exec (.sourcePoint id) s = .next t ∧
        OnlyCmd s id { c with stage := .faulted code a } t) ∧
      (run = .error .wait → exec (.sourcePoint id) s = .next s))) ∧
  (∀ (s : State) (id : Nat) (c : Cmd) (o : ROps), s.liveCmd id = some c → c.stage = .queued → c.cls = 0 →
    c.ops.ins = .cpy o → o.mod.toNat % 4 = 1 → o.mod.toNat / 4 % 4 = 1 → c.ops.b = 16 → c.ops.off = 0 →
    c.ops.a.toNat % 16 = 0 → c.ops.d.toNat % 16 = 0 → c.ops.a.toNat + 16 ≤ pkSp (s.cmdPkt c) →
    c.ops.d.toNat + 16 ≤ pkSp (s.cmdPkt c) → s.room c ≠ 0 → c.rgns = [] →
    let w : Acc := { loc := .sp c.hoop c.ops.d.toNat, bytes := s.locRead (.sp c.hoop c.ops.a.toNat) 16 }
    ∃ t, exec (.sourcePoint id) s = .next t ∧ OnlyCmd s id { c with
      stage := .staged, staged := { c.staged with writes := [w] }, upTo := none,
      rgns := [{ die := c.die, rgn := c.engineRegion, last := (s.die c.die).cc, opened := false }] } t) ∧
  (∀ (c : Cmd) (space fuel a : Nat) (die : Fin 4) (bs : List Byte) (e e' : EngSt) (ws : List Acc), a % 16 + bs.length ≤ 16 * fuel →
    (engWriteRun c space die fuel a bs).run e = .ok (ws, e') → ws.flatMap (fun w => w.bytes) = bs ∧
      ∀ p w q, ws = p ++ w :: q →
        let n := a + (p.flatMap fun w => w.bytes).length
        (space = 1 → w.loc = .sp c.hoop n ∧ n + w.bytes.length ≤ pkSp (e.s.cmdPkt c)) ∧
        (space = 0 → ∃ pa key mt, w.loc = .glob pa (n % 2 ^ 64) key c.func c.part mt ∧ mt < 2 ∧ isIo pa = false)) ∧
  (∀ (c : Cmd) (space fuel a n : Nat) (die : Fin 4) (e : EngSt), a % 16 + n ≤ 16 * fuel → space = 1 → e.front = [] →
    (engReadRun c space die fuel a n).run e =
      if n = 0 ∨ a + n ≤ pkSp (e.s.cmdPkt c) then .ok (e.s.locRead (.sp c.hoop a) n, e)
      else .error (.fault cRANGE (BitVec.ofNat 64 (max a (pkSp (e.s.cmdPkt c)))))) ∧
  (∀ (s : State) (c : Cmd) (room scope : Nat) (r : Moved) (e : EngSt),
    (boxWork c room scope).run { s := s, far := [], port := false } = .ok (r, e) → r.stop = none →
    let d := Desc.of (c.slots.getD 0 TSlot.invalid).desc
    let t := Desc.of (c.slots.getD 1 TSlot.invalid).desc
    let w := fmtWidth d.fmt / 8
    let bw := 4 * (bfpBits d.fmt + 2)
    let n0 := if Machine.isBfp d.fmt then d.dim 0 / 32 else d.dim 0
    let all := n0 * d.dim 1 * d.dim 2 * d.dim 3 * d.dim 4
    let ix (k : Nat) : List Nat := [k % n0 * (if Machine.isBfp d.fmt then 32 else 1), k / n0 % d.dim 1, k / n0 / d.dim 1 % d.dim 2,
      k / n0 / d.dim 1 / d.dim 2 % d.dim 3, k / n0 / d.dim 1 / d.dim 2 / d.dim 3]
    let o (j : Nat) : Nat := [c.ops.a.toNat % 2 ^ 16, c.ops.a.toNat / 2 ^ 16 % 2 ^ 16, c.ops.b.toNat % 2 ^ 10, c.ops.b.toNat / 2 ^ 10 % 2 ^ 10,
      c.ops.b.toNat / 2 ^ 20 % 2 ^ 10].getD j 0
    let jx (k : Nat) : List Nat := [o 0 + (ix k).getD 0 0, o 1 + (ix k).getD 1 0, o 2 + (ix k).getD 2 0, o 3 + (ix k).getD 3 0,
      o 4 + (ix k).getD 4 0]
    d.fmt = t.fmt ∧ d.rank = t.rank ∧ (d.space = 0 ↔ scope ≠ 0) ∧
    r.upTo = (if c.ops.off + room < all then some (c.ops.off + room) else none) ∧ ∃ (b sc : Nat → List Byte) (a z : Nat → List Acc),
      (∀ k, c.ops.off ≤ k → k < min (c.ops.off + room) all →
        (Machine.isBfp d.fmt = false → z k = [] ∧ s.answers [] (engWriteRun c d.space d.die 2 (Rule.elemAt d (ix k)) (b k)) (a k) ∧
          (Rule.within t (jx k) → s.answers [] (engRead c t.space t.die (if t.space = 4 then
            1024 * t.base + 64 * (jx k).getD 1 0 + 4 * (jx k).getD 0 0 else Rule.elemAt t (jx k)) w) (b k)) ∧
          (¬Rule.within t (jx k) → b k = bytesLE w t.pad)) ∧
        (Machine.isBfp d.fmt = true →
          s.answers [] (engWriteRun c d.space d.die 4 (d.elemAddr (ix k)) (b k)) (a k) ∧
          s.answers [] (engWriteRun c d.space d.die 1 (d.sbase + 2 * d.blockNo (ix k)) (sc k)) (z k) ∧
          (Rule.within t (jx k) → s.answers [] (engReadRun c t.space t.die 4 (t.elemAddr (jx k)) bw) (b k) ∧
            s.answers [] (engRead c t.space t.die (t.sbase + 2 * t.blockNo (jx k)) 2) (sc k)) ∧
          (¬Rule.within t (jx k) → b k = List.replicate bw 0 ∧ sc k = [0, 0]))) ∧
      r.writes = ((List.range all).drop c.ops.off |>.take room).flatMap fun k => a k ++ z k) ∧
  (∀ (s : State) (c : Cmd) (room : Nat) (o : XOps) (r : Moved) (e : EngSt), (c.ops.ins = .gthr o ∨ c.ops.ins = .scat o) →
    (sourceWork c room).run { s := s, far := [], port := false } = .ok (r, e) → r.stop = none →
    let rb := 2 ^ (o.flags.toNat % 16)
    let rows := (c.ops.idx.drop c.ops.off).take room
    ∃ (b : Nat × Word → List Byte) (a : Nat × Word → List Acc), (∀ p ∈ rows,
        let g := (c.ops.b.toNat + p.2.toNat * rb) % 2 ^ 64
        let l := c.ops.d.toNat + p.1 * rb
        (c.ops.ins = .gthr o → s.answers [] (engReadRun c 0 c.die (rb / 4 + 1) g rb) (b p) ∧
          s.answers [] (engWriteRun c 1 c.die (rb / 4 + 1) l (b p)) (a p)) ∧
        (c.ops.ins = .scat o → s.answers [] (engReadRun c 1 c.die (rb / 4 + 1) l rb) (b p) ∧
          s.answers [] (engWriteRun c 0 c.die (rb / 4 + 1) g (b p)) (a p))) ∧
      r.writes = rows.flatMap a) ∧
  (∀ (op ty : Nat) (xs : List Nat), xs ≠ [] → xs.length ≤ 2 ^ 11 → collReduce op ty xs = Rule.tree (collOp op ty) xs 11 0) ∧
  (∀ a b : Word, collOp 0 3 a.toNat b.toNat = (a + b).toNat ∧ collOp 1 4 a.toNat b.toNat = (a + b).toNat ∧
    collOp 4 3 a.toNat b.toNat = (if b.toInt ≤ a.toInt then a else b).toNat ∧ collOp 5 3 a.toNat b.toNat = (if a.toInt ≤ b.toInt then a else b).toNat ∧
    collOp 4 4 a.toNat b.toNat = max a.toNat b.toNat ∧ collOp 5 4 a.toNat b.toNat = min a.toNat b.toNat) ∧
  (∀ (s : State) (c : Cmd) (room : Nat) (o : XOps), c.ops.ins = .coll o →
    let g := c.ops.c.toNat
    let n := c.ops.b.toNat
    let op := o.flags.toNat % 8
    let ty := o.flags.toNat / 8 % 16
    let p := s.regF (rCollGrp g) 10 0
    let me := s.regF (rCollGrp g) 26 16
    let w := if ty = 2 then 2 else 4
    let run := (sourceWork c room).run { s := s, far := [], port := false }
    let member := g < 256 ∧ s.regF (rCollGrp g) 63 63 = 1 ∧ s.regF (rCollGrp g) 39 32 = c.func ∧ me < p
    (¬member → run = .error (.fault cRANGE 0)) ∧
    (member → (∀ q, q < p → q ≠ me → Config.peerAgrees g c.inst q = true) ∨ run = .error (.fault cSYNC 0)) ∧
    (∀ r e, run = .ok (r, e) → r.stop = none ∧ r.upTo = none ∧ ∃ (x : Nat → Nat → Nat) (out : List Nat),
      (∀ q k, q < p → q ≠ me → x q k = (Config.peerElement g c.inst q k).toNat % 2 ^ (8 * w)) ∧
      (op ≠ 3 ∨ me = o.ts.toNat → ∃ src fuel, s.answers [] (engReadRun c 0 c.die fuel c.ops.a.toNat ((if op = 1 then n * p else n) * w)) src ∧
        ∀ k, x me k = natLE ((src.drop (k * w)).take w)) ∧
      r.writes.flatMap (fun a => a.bytes) = out.flatMap (bytesLE w) ∧
      let sum (k : Nat) : Nat := if p = 1 then x me k else
        let y := Rule.tree (collOp op ty) ((List.range p).map fun q => if ty = 2 then x q k * 2 ^ 16 else x q k) 11 0
        if ty = 2 then (roundFV bf16 .rne (unpack fp32 y)).val else y
      (op = 0 ∨ op = 4 ∨ op = 5 → out = (List.range n).map sum) ∧ (op = 1 → out = (List.range n).map fun k => sum (me * n + k)) ∧
      (op = 2 → out = (List.range p).flatMap fun q => (List.range n).map (x q)) ∧ (op = 3 → out = (List.range n).map (x o.ts.toNat)))) ∧
  (∀ (s : State) (id : Nat) (c : Cmd), s.liveCmd id = some c → c.cls ≠ 2 → c.stage = .staged →
    (s.uncleared id = true ∨ s.guardsWait c.rgns = true → exec (.sourcePoint id) s = .next s) ∧
    (s.uncleared id = false → s.guardsWait c.rgns = false → ∃ t, exec (.sourcePoint id) s = .next t ∧
      Sparse.find? t.cmds id = some { c with stage := .sourced } ∧ t.peerOut = s.peerOut ++ c.staged.msgs ∧ (∀ g ∈ c.rgns, g.last + s.window g.die < (t.die g.die).cc) ∧
      ∀ (l : Loc) (i : Nat), t.locByte l i = s.locByte l i)) ∧
  (∀ (s : State) (id : Nat) (c : Cmd), s.liveCmd id = some c →
    let ws := c.staged.writes
    let ls := ws.map fun a => a.loc
    (c.stage = .sourced → s.writesWait c.die ws = true → exec (.stagingClear id) s = .next (s.callBackFor ls)) ∧
    (c.stage = .sourced → s.writesWait c.die ws = false → ∃ t, exec (.stagingClear id) s = .next t ∧
      Sparse.find? t.cmds id = some (match s.poisonedWrite ws, c.upTo with
        | some a, _ => { c with stage := .faulted cPERM a }
        | none, none => { c with stage := .done }
        | none, some n => { c.redo with ops := { c.ops with off := n } }) ∧
      ∀ (l : Loc) (i : Nat), t.locByte l i =
        (((s.touchAll c.die 0 c.levels.2 .write ls).takeGrants ls).locWrites (s.agentOf id c) c.die ws).locByte l i) ∧
    (∀ z, c.stage = .stopped z → c.cls ≠ 2 → s.uncleared id = false → s.guardsWait c.rgns = false → s.writesWait c.die ws = false →
      s.poisonedWrite ws = none →
      ∃ t, exec (.stagingClear id) s = .next t ∧
        Sparse.find? t.cmds id = some { c with ops := { c.ops with off := z.off }, stage := .faulted z.code z.addr } ∧
        (∀ g ∈ c.rgns, g.last + s.window g.die < (t.die g.die).cc) ∧
        let u := s.pastGuards c.rgns
        ∀ (l : Loc) (i : Nat),
          t.locByte l i =
            (((u.touchAll c.die 0 c.levels.2 .write ls).takeGrants ls).locWrites (u.agentOf id c) c.die ws).locByte l i)) ∧
  (∀ (s : State) (id : Nat) (c : Cmd) (st : Site) (code : BitVec 8) (a : Dword), s.liveCmd id = some c →
    c.stage = .faulted code a → Sparse.wf s.cmds = true → Sparse.wf s.baskets = true → s.site? c.wale = some st →
    (s.isOldest c = false → exec (.engineFault id) s = .next s) ∧
    (s.isOldest c = true → st.wl.st = .exited → ∃ t, exec (.engineFault id) s = .next t ∧
      t.basket? st.skein.basket = none) ∧
    (s.isOldest c = true → st.wl.st ≠ .exited →
      ∃ (t : State) (v : Wale), exec (.engineFault id) s = .next t ∧ Sparse.find? t.cmds id = none ∧
        (∀ k x, k ≠ id → Sparse.find? s.cmds k = some x →
          Sparse.find? t.cmds k = some (if x.copy = some id then { x.redo with stage := .done } else x)) ∧
        t.wale? c.wale = some v ∧ v.engFaults = st.wl.engFaults ++
          [{ f := { code := code, shd := false, eng := true, fetch := false, pc := c.ops.pc, addr := a, mask := 0, resume := 0,
                    cmd := some c.ops, id := id }
             cls := some c.cls, cmd := id, seq := c.seq }] ∧
        ∀ k, vget v.cnt k = if k = c.cls then vget st.wl.cnt k - 1 else vget st.wl.cnt k)) ∧
  (∀ (s : State) (id k : Nat) (c : Cmd), s.liveCmd id = some c → c.copy = some k →
    (s.operandIn k = false → exec (.cpymmFollowOn id) s = .next s) ∧
    (s.operandIn k = true → ∃ t, exec (.cpymmFollowOn id) s = .next t ∧
      OnlyCmd s id { c with deps := c.deps.filter fun d => d != k } t)) ∧
  (∀ (s : State) (id : Nat) (i : Instr), s.fatal = true →
    i = .engineCommandComplete id ∨ i = .sourcePoint id ∨ i = .stagingClear id ∨ i = .engineFault id ∨ i = .cpymmFollowOn id ∨
      i = .matrixBurstStart id ∨ i = .matrixResultClear id ∨ i = .burstEnd id → exec i s = .next s)

/-- 10 R233, R238, R239, R241 to R245, R249, R250, 03 R77, 17 R383: a matrix command that may start, with none before it in the matrix
order, reads its operands and stages its result: for `mzero` the zeros of its tiles; for `mma` and the follow-on of a `cpymm` the sums of
products of rows and columns; for `mconv` those of the pixels of its window, PAD outside the input; for `mmad` the result of a delta step
or of a full refresh, with the entry's update; for `mld` the elements in FP32; for `mst` the writes of the tile's elements, rounded, in
order. Two commands are ordered by equal SUB, K and tile. A staged result of a burst that is over, whose tagged flits and copied operands have cleared, enters its tiles
together with the update of its reuse entry, in the cycle after its guards' deadlines, with the window in force at clearance (log entry
88, DESIGN CHOICE), and its writes are performed. The end of a
burst frees the cluster's token, when no burst is left. -/
def Obligations.ArrayEvents : Prop :=
  (∀ (s : State) (id : Nat) (c : Cmd) (h : Hoop) (o : XOps), s.liveCmd id = some c → s.hoop? c.hoop = some h →
    c.ops.ins = .mzero o → s.canStart c h = true →
    ∃ (t : State) (r : List (Nat × Word)), exec (.matrixBurstStart id) s = .next t ∧
      Sparse.find? t.cmds id = some { c with
        stage := .staged, burst := false, staged := { writes := [], tiles := r, entry := none },
        rgns := [{ die := c.die, rgn := h.region, last := (s.die c.die).cc, opened := false }] } ∧
      (∀ k v, (k, v) ∈ r ↔ v = 0 ∧ 256 * o.ts.toNat ≤ k ∧ k < 256 * (o.ts.toNat + o.ts2.toNat + 1))) ∧
  (∀ (s : State) (id : Nat) (c : Cmd), s.liveCmd id = some c → (∃ k ∈ c.deps, Sparse.find? s.cmds k ≠ none) →
    exec (.matrixBurstStart id) s = .next s) ∧
  (∀ (a b : XOps) (p q : CmdOps) (l m : List TSlot), p.ins = .mma a → q.ins = .mma b →
    (keysMeet (orderKey p l) (orderKey q m) = true ↔ a.sub = b.sub ∧ p.b = q.b ∧ tileOf p.d = tileOf q.d)) ∧
  (∀ (e : EngSt) (c : Cmd) (d : Desc) (i : List Nat), e.front = [] →
    (d.space = 1 → Rule.fits d (pkSp (e.s.cmdPkt c)) → (elemVal c d i).run e = .ok (Rule.number e.s c.hoop d i, e)) ∧
    (∀ h sub, d.space = 4 → d.ok = true → d.base < pkTiles (e.s.cmdPkt c) → e.s.hoop? c.hoop = some h → sub = 1 ∨ sub = 2 →
      let f := if sub = 1 then fp16 else bf16
      let x := if Rule.within d i then (Sparse.getD h.tiles 0 (256 * d.base + 16 * i.getD 1 0 + i.getD 0 0)).toNat else d.pad % 2 ^ 32
      (operand c sub d i).run e = .ok (unpack f (roundFV f .rne (unpack fp32 x)).val, e))) ∧
  (∀ (s : State) (c : Cmd) (h : Hoop) (sub k t : Nat) (za : Bool) (a b : Word) (front : List Acc) (r : MRes) (e : EngSt),
    (mmaWork c h sub k t za a b).run { s := s, far := [], port := false, front := front } = .ok (r, e) →
    let da := Desc.of (c.slots.getD 0 TSlot.invalid).desc
    let db := Desc.of (c.slots.getD 1 TSlot.invalid).desc
    r.writes = [] ∧ r.entry = none ∧ r.stop = none ∧ ∃ x y : Nat → Nat → FV,
      (∀ i q, i < 16 → q < k → s.answers front (operand c sub da [fld a 15 0 + q, fld a 31 16 + i, 0, 0, 0]) (x i q)) ∧
      (∀ j q, j < 16 → q < k → s.answers front (operand c sub db [fld b 15 0 + q, fld b 31 16 + j, 0, 0, 0]) (y j q)) ∧
      ∀ n v, (n, v) ∈ r.tiles ↔ ∃ i j, i < 16 ∧ j < 16 ∧ n = 256 * t + 16 * i + j ∧
        v = Rule.product (if Machine.isBfp sub then 32 else 16) k (if za then 0 else (Sparse.getD h.tiles 0 n).toNat) (x i) (y j)) ∧
  (∀ (s : State) (c : Cmd) (h : Hoop) (o : XOps), c.ops.ins = .mma o → ∀ e : EngSt, e.s = s →
    (matrixWork c h).run e =
      (mmaWork c h o.sub.toNat c.ops.b.toNat (tileOf c.ops.d) (o.flags.getLsbD 0) (lo32 c.ops.a) (lo32 c.ops.c)).run e) ∧
  (∀ (c : Cmd) (h : Hoop) (o : XOps) (e : EngSt), c.ops.ins = .cpymm o → followBad e.s c = none →
    let x := c.ops.c.toNat
    (matrixWork c h).run e = (mmaWork c h (x / 2 ^ 16 % 16) ((Desc.of (c.slots.getD 0 TSlot.invalid).desc).dim 0) (x / 2 ^ 8 % 2 ^ 8)
      false 0 0).run e) ∧
  (∀ (s : State) (c : Cmd) (h : Hoop) (o : XOps) (front : List Acc) (r : MRes) (e : EngSt), c.ops.ins = .mconv o →
    (matrixWork c h).run { s := s, far := [], port := false, front := front } = .ok (r, e) →
    let d := Desc.of (c.slots.getD 0 TSlot.invalid).desc
    let w := Desc.of (c.slots.getD 1 TSlot.invalid).desc
    let sub := o.sub.toNat
    let k0 := c.ops.b.toNat % 2 ^ 16
    let k := c.ops.b.toNat / 2 ^ 16 % 2 ^ 16
    let n0 := c.ops.c.toNat % 2 ^ 16
    let out (size kn : Nat) : Int := Int.fdiv ((size : Int) + 2 * d.padg - d.dil * ((kn : Int) - 1) - 1) d.stride + 1
    let oh := (out (d.dim 2) d.kh).toNat
    let ow := (out (d.dim 1) d.kw).toNat
    d.conv = true ∧ 1 ≤ out (d.dim 2) d.kh ∧ 1 ≤ out (d.dim 1) d.kw ∧ r.writes = [] ∧ r.entry = none ∧ r.stop = none ∧
    ∃ x y : Nat → Nat → FV,
      (∀ i q, i < 16 → q < k →
        let p := c.ops.a.toNat + i
        let kk := k0 + q
        let yy : Int := (p / ow % oh * d.stride : Nat) - (d.padg : Int) + (kk / (d.dim 0 * d.kw) * d.dil : Nat)
        let xx : Int := (p % ow * d.stride : Nat) - (d.padg : Int) + (kk / d.dim 0 % d.kw * d.dil : Nat)
        let outside := d.kh * d.kw * d.dim 0 ≤ kk ∨ d.dim 3 ≤ p / (oh * ow) ∨ yy < 0 ∨ xx < 0 ∨ (d.dim 2 : Int) ≤ yy ∨ (d.dim 1 : Int) ≤ xx
        (outside → x i q = if Machine.isBfp sub then .fin false 0 0 else unpack (if sub = 1 then fp16 else bf16) (d.pad % 2 ^ 16)) ∧
        (¬outside → s.answers front (operand c sub d [kk % d.dim 0, xx.toNat, yy.toNat, p / (oh * ow), 0]) (x i q))) ∧
      (∀ j q, j < 16 → q < k → s.answers front (operand c sub w [k0 + q, n0 + j, 0, 0, 0]) (y j q)) ∧
      ∀ n v, (n, v) ∈ r.tiles ↔ ∃ i j, i < 16 ∧ j < 16 ∧ (c.ops.a.toNat + i) / (oh * ow) < d.dim 3 ∧
        n = 256 * tileOf c.ops.d + 16 * i + j ∧
        v = Rule.product (if Machine.isBfp sub then 32 else 16) k (if o.flags.getLsbD 0 then 0 else (Sparse.getD h.tiles 0 n).toNat) (x i) (y j)) ∧
  (∀ (s : State) (c : Cmd) (h : Hoop) (o : XOps) (front : List Acc) (r : MRes) (u : EngSt), c.ops.ins = .mmad o →
    (matrixWork c h).run { s := s, far := [], port := false, front := front } = .ok (r, u) →
    let da := Desc.of (c.slots.getD 0 TSlot.invalid).desc
    let db := Desc.of (c.slots.getD 1 TSlot.invalid).desc
    let e := s.reuseEntry (s.entryOf c).2 (s.entryOf c).1
    let a := lo32 c.ops.a
    let b := lo32 c.ops.c
    r.writes = [] ∧ r.stop = none ∧ ∃ x w : Nat → Nat → FV,
      (∀ i q, i < 16 → q < e.k → s.answers front (operand c 2 da [fld a 15 0 + q, fld a 31 16 + i, 0, 0, 0]) (x i q)) ∧
      (∀ j q, j < 16 → q < e.k → s.answers front (elemVal c db [fld b 15 0 + q, fld b 31 16 + j, 0, 0, 0]) (w j q)) ∧
      let rows (f : Nat → Nat → FV) := (List.range 16).map fun i => (List.range e.k).map (f i)
      let e' := mmadStep e (o.flags.getLsbD 0) (lo32 c.ops.b) (BitVec.ofNat 53 db.base) db.footprint (rows x) (rows w)
      r.entry = some ((s.entryOf c).1, e') ∧
      ∀ n v, (n, v) ∈ r.tiles ↔ ∃ i j, i < 16 ∧ j < 16 ∧ n = 256 * tileOf c.ops.d + 16 * i + j ∧ v = BitVec.ofNat 32 (rAt e' i j)) ∧
  (∀ (e : ReuseEntry) (fr : Bool) (layer : Word) (base : BitVec 53) (foot : Nat × Nat) (x w : Nat → Nat → FV),
    e.k % 32 = 0 → e.k ≤ 1024 →
    let rows (f : Nat → Nat → FV) := (List.range 16).map fun i => (List.range e.k).map (f i)
    let e' := mmadStep e fr layer base foot (rows x) (rows w)
    let d (i q : Nat) : FV := unpack fp32 (addTerms fp32 .rne [x i q, (unpack bf16 (abarAt e i q)).neg]).val
    let blk (i b : Nat) : Block := formBlock ((List.range 32).map fun l => d i (32 * b + l)) 6 6
    let dq (i q : Nat) : FV := bfpValue 6 ((blk i (q / 32)).elems.getD (q % 32) 0) (blk i (q / 32)).e0 (blk i (q / 32)).e1
    let nsat := ((List.range 16).map fun i => ((List.range e.k).filter fun q =>
      (blk i (q / 32)).sat.getD (q % 32) false || (dq i q).isNaN).length).sum
    let fresh := fr = false ∧ e.valid = true ∧ e.layer = layer ∧ e.wbase = base ∧ (e.wfirst, e.wlines) = foot ∧ e.wver = e.version ∧
      e.count < e.nlim ∧ nsat ≤ e.satth
    (fresh → e' = { e with r := e'.r, abar := e'.abar, count := e.count + 1, sver := e.sver + 1 } ∧
      (∀ i j, i < 16 → j < 16 → BitVec.ofNat 32 (rAt e' i j) = Rule.product 32 e.k (rAt e i j) (dq i) (w j)) ∧
      ∀ i q, i < 16 → q < e.k → abarAt e' i q = (addTerms bf16 .rne [unpack bf16 (abarAt e i q), dq i q]).val) ∧
    (¬fresh → e' = { e with r := e'.r, abar := e'.abar, count := 0, valid := true, layer := layer, wbase := base, wfirst := foot.1,
                            wlines := foot.2, wver := e.version, sver := e.sver + 1 } ∧
      (∀ i j, i < 16 → j < 16 → BitVec.ofNat 32 (rAt e' i j) = Rule.product 16 e.k 0 (x i) (w j)) ∧
      ∀ i q, i < 16 → q < e.k → abarAt e' i q = (roundFV bf16 .rne (x i q)).val)) ∧
  (∀ (s : State) (c : Cmd) (h : Hoop) (o : XOps) (front : List Acc) (r : MRes) (e : EngSt), c.ops.ins = .mld o →
    (matrixWork c h).run { s := s, far := [], port := false, front := front } = .ok (r, e) →
    let d := Desc.of (c.slots.getD 0 TSlot.invalid).desc
    r.writes = [] ∧ r.entry = none ∧ r.stop = none ∧ ∃ x : Nat → Nat → Nat,
      (∀ i j, i < 16 → j < 16 →
        s.answers front (elemFp32 c d [c.ops.a.toNat % 2 ^ 16 + j, c.ops.a.toNat / 2 ^ 16 % 2 ^ 16 + i, 0, 0, 0]) (x i j)) ∧
      ∀ n v, (n, v) ∈ r.tiles ↔ ∃ i j, i < 16 ∧ j < 16 ∧ n = 256 * tileOf c.ops.d + 16 * i + j ∧ v = BitVec.ofNat 32 (x i j)) ∧
  (∀ (e : EngSt) (c : Cmd) (d : Desc) (i : List Nat), e.front = [] → d.space = 1 → d.fmt ≤ 2 → Rule.fits d (pkSp (e.s.cmdPkt c)) →
    ∃ y, (elemFp32 c d i).run e = .ok (y, e) ∧
      let x := if Rule.within d i then natLE (e.s.locRead (.sp c.hoop (Rule.elemAt d i)) (fmtWidth d.fmt / 8)) else d.pad % 2 ^ fmtWidth d.fmt
      (d.fmt = 0 → y = x) ∧ (d.fmt = 2 → (unpack bf16 x).isNaN = false → y = x * 2 ^ 16) ∧
      (d.fmt = 1 → fp16.finite x → fp32.finite y ∧ (unpack fp32 y).toRat = (unpack fp16 x).toRat ∧ (unpack fp32 y).sign = (unpack fp16 x).sign)) ∧
  (∀ (s : State) (c : Cmd) (h : Hoop) (o : XOps) (front : List Acc) (r : MRes) (e : EngSt), c.ops.ins = .mst o → c.ops.off = 0 →
    (matrixWork c h).run { s := s, far := [], port := false, front := front } = .ok (r, e) → r.stop = none →
    let d := Desc.of (c.slots.getD 0 TSlot.invalid).desc
    let f := if d.fmt = 0 then fp32 else if d.fmt = 1 then fp16 else bf16
    let n := fmtWidth d.fmt / 8
    let ix (k : Nat) : List Nat := [c.ops.a.toNat % 2 ^ 16 + k % 16, c.ops.a.toNat / 2 ^ 16 % 2 ^ 16 + k / 16, 0, 0, 0]
    let x (k : Nat) : Nat := (Sparse.getD h.tiles 0 (256 * tileOf c.ops.d + k)).toNat
    d.fmt ≤ 2 ∧ (d.space = 0 ↔ o.flags.toNat / 2 % 8 ≠ 0) ∧ r.tiles = [] ∧ r.entry = none ∧ ∃ l : Nat → Loc,
      (∀ k, k < 256 → Rule.within d (ix k) → s.answers front (engAt c d.space d.die (Rule.elemAt d (ix k)) n true) (l k)) ∧
      r.writes = (List.range 256).filterMap fun k => if Rule.within d (ix k) then
        some { loc := l k, bytes := bytesLE n (if d.fmt = 0 then x k else (roundFV f .rne (unpack fp32 (x k))).val) } else none) ∧
  (∀ (s : State) (id : Nat) (c : Cmd) (h : Hoop), s.liveCmd id = some c → s.hoop? c.hoop = some h →
    (s.canStart c h = false ∨ s.mayEnd c = false → exec (.matrixBurstStart id) s = .next s) ∧
    (s.canStart c h = true → s.mayEnd c = true →
      let run := (matrixWork c h).run { s := s, far := [], port := false, front := s.frontOf c }
      (∀ (r : MRes) (e : EngSt), run = .ok (r, e) →
        let n := c.imageIn (e.s.reuseEntry (e.s.entryOf c).2 (e.s.entryOf c).1).k
        let far := farOf (match e.s.reuseDie c with
          | some d => if n = 0 ∨ d = c.die then e else { e with far := e.far ++ [(d, n)] }
          | none => e)
        (∀ p ∈ far, e.s.tagsFull p.1 60 = false) →
        ∃ t, exec (.matrixBurstStart id) s = .next t ∧ (∀ (l : Loc) (i : Nat), t.locByte l i = e.s.locByte l i) ∧
          (Sparse.find? t.cmds id).map (fun x => (x.stage, x.burst, x.staged)) = (Sparse.find? e.s.cmds id).map fun _ =>
            ((match r.stop with | some z => CStage.stopped z | none => CStage.staged), c.isBurst,
              ({ writes := r.writes, tiles := r.tiles, entry := r.entry.map fun q => ((e.s.entryOf c).2, q) } : Staged))) ∧
      (∀ code a, run = .error (.fault code a) → ∃ t, exec (.matrixBurstStart id) s = .next t ∧
        OnlyCmd s id { c with stage := .faulted code a } t))) ∧
  (∀ (s : State) (id : Nat) (c : Cmd) (h : Hoop), s.liveCmd id = some c → s.hoop? c.hoop = some h → c.cls = 2 →
    c.stage.held = true → c.upTo = none → c.burst = false → s.uncleared id = false → s.guardsWait c.rgns = false →
    s.copyIn c = true → s.writesWait c.die c.staged.writes = false → s.poisonedWrite c.staged.writes = none →
    ((cmdReuse c.ops).isSome = true → s.dieWaits c.die (s.entryOf c).2 = false) → Sparse.wf h.tiles = true →
    ∃ (t : State) (g : Hoop), exec (.matrixResultClear id) s = .next t ∧ t.hoop? c.hoop = some g ∧
      (∀ q ∈ c.rgns, q.last + s.window q.die < (t.die q.die).cc) ∧
      Sparse.find? t.cmds id = some (match c.stage with
        | .stopped z => { c with ops := { c.ops with off := z.off }, stage := .faulted z.code z.addr }
        | _ => { c with stage := .done }) ∧
      (c.staged.writes = [] → g = { h with tiles := g.tiles } ∧
        (∀ k, (∀ v, (k, v) ∉ c.staged.tiles) → Sparse.getD g.tiles 0 k = Sparse.getD h.tiles 0 k) ∧
        (∀ k v, (k, v) ∈ c.staged.tiles → (∀ u, (k, u) ∈ c.staged.tiles → u = v) → Sparse.getD g.tiles 0 k = v) ∧
        (∀ d n e, c.staged.entry = some (d, n, e) → Sparse.wf (s.die d).reuse = true →
          let now := (s.reuseEntry d n).version
          t.reuseEntry d n = match c.ops.ins with
            | .rsload _ => e
            | .rsdef _ => { e with version := now, wver := now }
            | _ => { e with version := now }))) ∧
  (∀ (s : State) (id : Nat) (c : Cmd) (h : Hoop), s.liveCmd id = some c → c.burst = true → Sparse.wf s.cmds = true →
    s.hoop? c.hoop = some h →
    (s.mayEnd c = false → exec (.burstEnd id) s = .next s) ∧
    (s.mayEnd c = true → ∃ t y, exec (.burstEnd id) s = .next t ∧
      Sparse.find? t.cmds id = some y ∧ y = { c with burst := false, rgns := y.rgns } ∧
      { die := c.die, rgn := h.region, last := (s.die c.die).cc + 1, opened := false } ∈ y.rgns ∧
      (t.die c.die).cc = (s.die c.die).cc + 1 ∧
      ((∀ e ∈ s.cmds, e.1 ≠ id → e.2.burst = false ∧ e.2.stage ≠ .queued) → c.stage ≠ .queued →
        (t.die c.die).tokens = (s.die c.die).tokens.map fun k =>
          if k.at_ = c.cluster ∧ k.held = true then { k with held := false } else k)))

/-! ### Operations of the device: units -/

/-- 01 R15, R23, R33, R35, 15 R341 to R344, R348, R351, 04 R87: a unit whose pre-emption is pending and whose members stand at
pre-emption points is saved as images; a saved one at the head of its order is put back; a rim, or a held skein, for which there is
room starts with all its wales; a recovery-mode skein's waiting hoops are judged by their producers; a unit that has waited too long
asks only units of a lower priority to be pre-empted; a line is filled whole with the outcome of its check. -/
def Obligations.UnitEvents : Prop :=
  (∀ (s : State) (k r : Nat) (x : Skein) (u : State), s.skein? k = some x →
    let r' := if pkHeld x.pkt = true then 0 else r
    r' ∈ x.preempt →
    let hs := (s.unitHoops k r').filter fun e => e.2.st == .resident
    hs ≠ [] → (∀ e ∈ s.wales, e.2.hoop ∈ hs.map (·.1) → s.atPoint e.1 e.2 = true ∧ e.2.savable = true) →
    State.saveHoops (s.skeinFunc k) hs s = some u →
    ∃ t : State, exec (.unitPreempt k r) s = .next (t.refit k) ∧
      t.skein? k = some { x with preempt := x.preempt.filter fun q => q != r', saved := x.saved ++ [r'] } ∧
      (∀ e ∈ t.wales, e.2.hoop ∈ hs.map (·.1) → e.2.st = .saved) ∧ (pkHeld x.pkt = false → t.refit k = t)) ∧
  (∀ (s : State) (k r : Nat) (c : Cand) (x : Skein) (b : Basket) (l : List (Nat × Fin 4 × Fin 8 × List (Fin 12)))
      (v u : State) (imgs : List (Nat × List Byte)),
    (s.cands.find? fun c => c.skein == k && c.saved && (c.held || c.rim == r)) = some c → s.skein? k = some x →
    s.basket? x.basket = some b →
    let hs := s.savedHoops k c.rim
    let p := s.partOf b.func
    let heads := c.dies.filter fun d => s.headOn d == some c
    (if c.held = true then s.isHead c = true else heads ≠ []) → s.savedFits x.pkt p hs = true →
    State.planAll false p (fun q => (ofRim x.pkt hs q).length) (fun q => (rimDies x.pkt q).filter fun d => heads.contains d)
      x.pkt (markSaved x.pkt hs) (rimsOf x.pkt hs) s = some (v, l) →
    (s.raiseVotes k l).2 = true → State.readImages b.func x.pkt x.basket hs s = .ok (some imgs, u) →
    ∃ t y, exec (.unitResume k r) s = .next t ∧ t.skein? k = some y ∧ y.saved = x.saved.filter fun q => q != c.rim) ∧
  (∀ (c old : WaleCore) (vr q : Nat) (again : Bool) (e : Word), c.stack = [] → c.frame = none → vr ≤ 256 →
    c.lstack.length ≤ 3 → c.nBar < 2 ^ 32 → c.nSbar < 2 ^ 32 → c.nColl < 2 ^ 32 →
    let d := loadCore old (waleRecord c vr e again) vr q
    d.s = c.s ∧ (∀ n : Fin 8, d.getP n = c.getP n) ∧ (∀ n : Fin 256, n.val < vr → d.getV n = c.getV n) ∧
    d.base.pc = c.base.pc ∧ d.base.em = c.base.em ∧ d.base.mem = ~~~c.exited ∧ d.stack = [] ∧ d.exited = c.exited ∧
    d.serial = c.serial ∧ d.lc = c.lc ∧ d.loops = c.loops ∧ d.lstack = c.lstack ∧ d.batch = c.batch ∧ d.fflags = c.fflags ∧
    d.fcause = c.fcause ∧ d.fmask = c.fmask ∧ d.fpc = c.fpc ∧ d.faddr = c.faddr ∧ d.yleft = c.yleft ∧ d.frame = none ∧
    d.nBar = c.nBar ∧ d.nSbar = c.nSbar ∧ d.nColl = c.nColl ∧ d.nRbar = q) ∧
  (∀ (s u : State) (d : Fin 4) (c : Cand) (k : Skein) (b : Basket) (ps : List Word) (cl : Fin 8) (cs : List (Fin 12)),
    s.headOn d = some c → s.skein? c.skein = some k → s.basket? k.basket = some b → c.held = false → c.saved = false →
    s.ownBit k b c.rim = .ok false → s.skeinParams k b.func = .ok (ps, u) → s.neverFits k (s.partOf b.func) = false →
    s.planRim false (s.partOf b.func) (pkRim k.pkt) k.pkt (c.dies.filter fun x => s.headOn x == some c) = some (d, cl, cs) →
    (u.voteFor c.skein [(d, cl)]).2 = true →
    ∃ t, exec (.rimAdmit d) s = .next t ∧
      t.skein? c.skein = some { k with waiting := k.waiting.filter fun r => r != c.rim, params := some ps } ∧
      ∀ i n, cs[i]? = some n → ∃ h hp, t.hoop? h = some hp ∧ hp.skein = c.skein ∧ hp.idx = c.rim * pkRim k.pkt + i ∧
        hp.die = d ∧ hp.cluster = cl ∧ hp.coreNo = n ∧ hp.st = .resident ∧
        ∀ j, j < pkWales k.pkt → ∃ w x, t.wale? w = some x ∧ x.hoop = h ∧ x.idx = j ∧ x.st = .ready ∧
          x.vregs = pkVregs k.pkt ∧ w ∈ t.order ∧ x.core = WaleCore.start k.pkt ps) ∧
  (∀ (pkt : BitVec 512) (ps : List Word) (n : Fin 64),
    let c := WaleCore.start pkt ps
    c.getS n = ps.getD n.val 0 ∧ (∀ m i, vget (c.getV m) i = 0) ∧ (∀ m : Fin 8, m ≠ 0 → c.getP m = 0) ∧
    c.base.pc = pkEntry pkt ∧ c.base.em = 0xFFFFFFFF ∧ c.base.mem = 0xFFFFFFFF ∧ c.stack = [] ∧ c.exited = 0 ∧
    (∀ m, vget c.lc m = 0) ∧ c.batch = 0 ∧ c.serial = 0 ∧ c.fflags = 0 ∧ c.yleft = BitVec.ofNat 32 (64 * pkYdl pkt)) ∧
  (∀ (s u v : State) (id : Nat) (c : Cand) (k : Skein) (b : Basket) (ps : List Word) (l : List (Nat × Fin 4 × Fin 8 × List (Fin 12))),
    (s.cands.find? fun c => c.skein == id && c.held && !c.saved) = some c → s.skein? id = some k →
    s.basket? k.basket = some b → s.isHead c = true →
    let mark (ps : List Word) (s : State) (r : Nat) (d : Fin 4) (c : Fin 8) (ks : List (Fin 12)) : State :=
      s.startRim id r k.pkt ps d c ks
    (State.planAll true (s.partOf b.func) (fun _ => pkRim k.pkt) (rimDies k.pkt) k.pkt (mark []) (allRims k.pkt) s.idle).isSome = true →
    s.skeinParams k b.func = .ok (ps, u) →
    State.planAll false (s.partOf b.func) (fun _ => pkRim k.pkt) (rimDies k.pkt) k.pkt (mark ps) (allRims k.pkt) u = some (v, l) →
    (u.raiseVotes id l).2 = true →
    let y := (u.raiseVotes id l).1.startAll id k.pkt ps l
    ∃ t, exec (.heldSkeinAdmit id) s = .next t ∧ t.skein? id = some { k with waiting := [], params := some ps } ∧
      t.hoops = y.hoops ∧ t.wales = y.wales ∧ t.order = y.order) ∧
  (∀ (s : State) (b : Nat) (x : Basket) (v : Recov), s.baskets = [(b, x)] → x.recov = some v →
    (∀ e ∈ s.skeins, e.2.basket = b → e.2.num = 0 → ∀ h ∈ e.2.waiting, ∃ q, s.hoopReady e.2 x v h = .ok q) →
    ∃ (t : State) (y : Recov), exec .prodbmPoll s = .next t ∧ t.baskets = [(b, { x with recov := some y })] ∧
      y = { v with ready := y.ready } ∧
      (∀ h, h ∈ y.ready ↔ ∃ e ∈ s.skeins, e.2.basket = b ∧ e.2.num = 0 ∧ h ∈ e.2.waiting ∧
        s.hoopReady e.2 x v h = .ok true) ∧ t = { s with baskets := t.baskets }) ∧
  (∀ (s : State) (d : Fin 4) (c : Cand), s.headOn d = some c → s.regF rPreempt 15 0 ≠ 0 → s.hasRoom c = false →
    ∃ t, exec (.priorityPreempt d) s = .next t ∧ t = { s with skeins := t.skeins } ∧
      ∀ k y, t.skein? k = some y → ∃ x, s.skein? k = some x ∧ y = { x with preempt := y.preempt } ∧
        ∀ r ∈ y.preempt, r ∈ x.preempt ∨ pkPrio x.pkt < c.prio) ∧
  (∀ (s : State) (w : Nat) (va : Dword) (st : Site) (t : Xl), s.site? w = some st →
    s.xlat st.hoop.die (some st.hoop.core) st.basket.func (s.partOf st.basket.func) va.toNat .x = .ok t →
    s.homeOff (s.homeDie t.pa) = false → s.unpublished st.hoop.core t.pa = false →
    let line : BitVec 512 := BitVec.ofNat 512 (natLE (s.physRead t.key (t.pa / 64 * 64) 64))
    (t.mt ≠ 0 → exec (.lineFill w va) s = .next s) ∧
    (t.mt = 0 → ∃ u, exec (.lineFill w va) s = .next u ∧
      Sparse.find? u.icache (icacheKey st.hoop.core t.pa) = some { data := line, key := t.key, ok := lineOk line } ∧
      (∀ k, k ≠ icacheKey st.hoop.core t.pa → Sparse.find? u.icache k = Sparse.find? s.icache k) ∧
      (∀ (l : Loc) (i : Nat), u.locByte l i = s.locByte l i) ∧ u = { s with icache := u.icache, dies := u.dies }))

/-! ### Operations of the device: sensors, tags -/

/-- 02 R55, R56, 13 R287, R288, R299 to R305: a cell reports the lowest type that fired, a blind one nothing; an applied event counts,
and every wale of a region in the cell's mask gains one in `sr.qev` and, with unreleased results, restarts at the head of its oldest
unreleased region, its held effects from there on dropped. Q is taken from 80 to 512, and a value outside leaves it and marks the
status; an injection is armed only while INJEN is 1, and fires once; at the end of an interval counts start again and a region calmed
below half the threshold is no longer degraded; a cell that fails its self test goes blind and its regions are fenced. A cell reports
at most one event in a cycle; of the reports the one with the earliest apply cycle is applied first; a region taken out of the mask of
every blind cell is blind no longer. In recovery the PF arms no injection (log entry 100, DEDUCED). -/
def Obligations.GuardEvents : Prop :=
  (∀ (s : State) (d : Fin 4) (cell : Fin 256) (ty : Fin 3),
    ((cell, ty) ∈ (s.die d).blind → exec (.sensorReport d cell ty) s = .next s) ∧
    ((cell, ty) ∉ (s.die d).blind → ∃ t, exec (.sensorReport d cell ty) s = .next t ∧
      OnlyDie s d { s.die d with reports := (t.die d).reports } t ∧
      (∃ r ∈ (t.die d).reports, r.cell = cell ∧ r.at_ = (s.die d).cc ∧ r.ty ≤ ty ∧
        (r.ty = ty ∨ ∃ q ∈ (s.die d).reports, q.cell = cell ∧ q.at_ = (s.die d).cc ∧ q.ty = r.ty) ∧
        (r.blind = true → ∃ q ∈ (s.die d).reports, q.cell = cell ∧ q.at_ = (s.die d).cc ∧ q.blind = true)) ∧
      ∀ r : CellReport, r.cell ≠ cell ∨ r.at_ ≠ (s.die d).cc → (r ∈ (t.die d).reports ↔ r ∈ (s.die d).reports))) ∧
  (∀ (n : Nat) (l : List CellReport) (cell : Fin 256) (ty : Fin 3) (b : Bool),
    let mine (l : List CellReport) := l.filter fun r => r.cell == cell && r.at_ == n
    (mine l).length ≤ 1 → (mine (addReport n l cell ty b)).length = 1) ∧
  (∀ (d : Fin 4) (l : List CellReport) (r : CellReport), firstReport d l = some r →
    r ∈ l ∧ ∀ q ∈ l, r.due d ≤ q.due d) ∧
  (∀ (s : State) (d : Fin 4) (cell : Fin 256) (ty : Fin 3) (r : CellReport),
    firstReport d (s.die d).reports = some r → r.cell = cell → r.ty = ty → s.injectFirst d r = false →
    (∀ e ∈ s.wales, e.2.releasable = false) → Sparse.wf s.cmds = true →
    let cc := max (s.die d).cc (r.due d)
    let gs := regionsOf (s.cellMask d cell)
    cc < (s.die d).stormStart + s.stormLen d →
    ∃ t, exec (.guardEvent d cell ty) s = .next t ∧ (t.die d).cc = cc ∧
      t.reg (rQsmEvCnt d ty) = s.reg (rQsmEvCnt d ty) + 1 ∧ (t.die d).reports = (s.die d).reports.erase r ∧
      (∀ id c, Sparse.find? s.cmds id = some c → c.copy = none →
        Sparse.find? t.cmds id = some (if c.hit d gs cc (s.window d) = true then c.redo else c)) ∧
      ∀ w x, s.wale? w = some x →
        let hit := ∃ h, s.hoop? x.hoop = some h ∧ h.die = d ∧ h.st = .resident ∧ (s.cellMask d cell).getLsbD h.region = true
        (¬hit → t.wale? w = some x) ∧
        (hit → x.unreleased = false → t.wale? w = some { x with qev := x.qev + 1 }) ∧
        (hit → x.unreleased = true → ∃ y, t.wale? w = some y ∧ y.qev = x.qev + 1 ∧ y.old = none ∧ y.cur.held = [] ∧
          y.cur.ckpt = (match x.old with | some r => r.ckpt | none => x.cur.ckpt) ∧ y.core = y.cur.ckpt.unstall ∧ y.st = .ready ∧
          y.due = x.due ∧ y.cnt = x.cnt ∧ y.hoop = x.hoop)) ∧
  (∀ (s : State) (d : Fin 4) (x : BitVec 64),
    let q := getFld x 9 0
    (80 ≤ q → q ≤ 512 → ∃ u v t, exec (.qsmWindowWrite d x) s = .next t ∧ OnlyDie s d { s.die d with tags := (u.die d).tags } u ∧
      (∀ g, u.tagsOf d g = (s.tagsOf d g).closeOld (s.die d).cc (s.window d)) ∧ v = { u with wales := v.wales } ∧
      (∀ w, v.wale? w = (s.wale? w).map fun y =>
        if (s.hoop? y.hoop).any (fun h => h.die == d) = true ∧ y.curClosed = true then { y with cur := y.cur.close (s.window d) }
        else y) ∧ OnlyFld v (rQsmWindow d) 9 0 q t) ∧
    (q < 80 ∨ 512 < q → ∃ t, exec (.qsmWindowWrite d x) s = .next t ∧ OnlyFld s (rQsmStatus d) 0 0 1 t)) ∧
  (∀ (s : State) (d : Fin 4) (x : BitVec 64), (s.die d).cc < (s.die d).stormStart + s.stormLen d →
    (getFld x 31 16 = 0 ∨ getFld x 31 16 = s.regF (rQsmCtl d) 31 16 → ∃ t, exec (.qsmCtlWrite d x) s = .next t ∧
      t.regF (rQsmCtl d) 1 0 = getFld x 1 0 ∧
      t.regF (rQsmCtl d) 9 2 = (if getFld x 9 2 = 0 then s.regF (rQsmCtl d) 9 2 else getFld x 9 2) ∧
      t.regF (rQsmCtl d) 31 16 = s.regF (rQsmCtl d) 31 16 ∧ (∀ k, k ≠ rQsmCtl d → t.reg k = s.reg k) ∧
      t = { s with regs := t.regs }) ∧
    (getFld x 31 16 ≠ 0 → getFld x 31 16 ≠ s.regF (rQsmCtl d) 31 16 → Sparse.wf (s.die d).degRun = true →
      (∀ g, Sparse.getD (s.die d).degRun 0 g < 15) → ∃ t, exec (.qsmCtlWrite d x) s = .next t ∧
        t.regF (rQsmCtl d) 31 16 = getFld x 31 16 ∧ (t.die d).stormStart = (s.die d).cc + 1)) ∧
  (∀ (s : State) (d : Fin 4) (x : BitVec 64) (i : Instr) (b : Bool),
    (i = .qsmInjectArm d x ∧ b = true ∨ i = .qsmInjectDisarm d x ∧ b = false) → x.getLsbD 11 = b →
    (s.recovering = true ∨ s.regF (rQsmCtl d) 0 0 = 0 ∨ getFld x 1 0 = 3 → exec i s = .next s) ∧
    (s.recovering = false → s.regF (rQsmCtl d) 0 0 ≠ 0 → getFld x 1 0 ≠ 3 → ∃ u t, exec i s = .next t ∧
      OnlyFld s (rQsmInject d) 31 0 (getFld x 31 0) u ∧
      OnlyDie u d { s.die d with injArmed := b, injStart := (s.die d).cc } t)) ∧
  (∀ (s : State) (d : Fin 4) (n : Nat), s.injectAt d = some n → (∀ e ∈ s.wales, e.2.releasable = false) →
    max (s.die d).cc n < (s.die d).stormStart + s.stormLen d →
    ∃ t, exec (.injectionFire d) s = .next t ∧
      let ty : Fin 3 := Fin.ofNat 3 (s.regF (rQsmInject d) 1 0)
      (t.die d).injArmed = false ∧ (t.reg (rQsmInject d)).getLsbD 11 = false ∧ (t.reg (rQsmStatus d)).getLsbD 3 = true ∧
      (t.die d).cc = max (s.die d).cc n ∧ t.reg (rQsmEvCnt d ty) = s.reg (rQsmEvCnt d ty) + 1) ∧
  (∀ (s : State) (d : Fin 4), (s.die d).cc < (s.die d).stormStart + s.stormLen d → exec (.stormIntervalEnd d) s = .next s) ∧
  (∀ (s : State) (d : Fin 4), Sparse.wf (s.die d).degRun = true → (∀ g, Sparse.getD (s.die d).degRun 0 g < 15) →
    (s.die d).stormStart + s.stormLen d ≤ (s.die d).cc →
    ∃ t, exec (.stormIntervalEnd d) s = .next t ∧ (t.die d).stormStart = (s.die d).stormStart + s.stormLen d ∧
      ∀ g, g < 63 →
        let n := s.regF (rQsmRgn d g) 31 16
        t.regF (rQsmRgn d g) 31 16 = 0 ∧
        t.regF (rQsmRgn d g) 0 0 =
          if s.regF (rQsmRgn d g) 0 0 = 1 ∧ 2 * n < s.regF (rQsmCtl d) 9 2 then 0 else s.regF (rQsmRgn d g) 0 0) ∧
  (∀ (s : State) (d : Fin 4) (e : Fin 256 × Fin 3),
    (e ∈ (s.die d).blind → exec (.sensorSelfTest d [e] []) s = .next s) ∧
    (e ∉ (s.die d).blind → (∀ r ∈ (s.die d).reports, r.cell = e.1 → r.at_ ≠ (s.die d).cc) →
      (∀ k ∈ s.skeins, pkHeld k.2.pkt = false) →
      ∃ t, exec (.sensorSelfTest d [e] []) s = .next t ∧
      (t.die d).blind = (s.die d).blind ++ [e] ∧
      (t.die d).reports = (s.die d).reports ++ [{ cell := e.1, ty := e.2, blind := true, at_ := (s.die d).cc }] ∧
      (t.reg (rQsmStatus d)).getLsbD 2 = true ∧
      ∀ g, g < 63 → (s.cellMask d e.1).getLsbD g = true →
        (t.reg (rQsmRgn d g)).getLsbD 1 = true ∧ (t.reg (rQsmRgn d g)).getLsbD 2 = true)) ∧
  (∀ (s : State) (d : Fin 4) (g : Nat), g < 63 →
    (s.unblind d).regF (rQsmRgn d g) 2 2 =
      if ∃ e ∈ (s.die d).blind, (s.cellMask d e.1).getLsbD g = true then s.regF (rQsmRgn d g) 2 2 else 0) ∧
  (∀ (s : State) (d : Fin 4) (g : Fin 63), Sparse.wf (s.die d).degRun = true →
    ∃ u t, exec (.regionUnfence d g) s = .next t ∧ OnlyFld s (rQsmRgn d g) 1 1 0 u ∧
      OnlyDie u d { s.die d with degRun := (t.die d).degRun } t ∧
      ∀ k, Sparse.find? (t.die d).degRun k = if k = g.val then none else Sparse.find? (s.die d).degRun k)

/-- 13 R289, R294 to R298: an open tag window closes with Q, and the serial goes on; a closed one clears in the cycle after its deadline,
neither before an event that is to come by then: its count goes to every die that it sent to. A receiver holds a tagged flit, or drops it when its range is squashed; a tag with RGN 63
or a reserved bit is a link error. CLEAR releases the flits of its window once all have come; SQUASH discards those of its range. -/
def Obligations.TagEvents : Prop :=
  (∀ (s : State) (d : Fin 4) (g : Fin 63) (ws : List TagWin) (w : TagWin), (s.tagsOf d g).wins = ws ++ [w] →
    w.opened = true → (∀ v ∈ ws, v.opened = false) →
    (s.eventBy d (w.first + 31) = true → exec (.tagWindowClose d g) s = .next s) ∧
    (s.eventBy d (w.first + 31) = false → ∃ t, exec (.tagWindowClose d g) s = .next t ∧
      t.tagsOf d g = { serial := (s.tagsOf d g).serial + 1, wins := ws ++ [{ w with opened := false, q := s.window d }] } ∧
      OnlyDie s d { s.die d with cc := max (s.die d).cc (w.first + 32), tags := (t.die d).tags } t ∧
      (∀ k, k ≠ g.val → t.tagsOf d k = s.tagsOf d k))) ∧
  (∀ (s : State) (d : Fin 4) (g : Fin 63) (w : TagWin) (ws : List TagWin), (s.tagsOf d g).wins = w :: ws → w.opened = false →
    Sparse.wf (s.die d).tags = true →
    (s.eventBy d (w.last + w.q) = true → exec (.clearSend d g) s = .next s) ∧
    (s.eventBy d (w.last + w.q) = false → ∃ t, exec (.clearSend d g) s = .next t ∧ t.tagsOf d g = { s.tagsOf d g with wins := ws } ∧
      (t.die d).cc = max (s.die d).cc (w.last + w.q + 1) ∧
      t.links = s.links ++ (w.counts.filter fun e => !s.homeOff e.1).map fun e => .clear e.1 d g w.ser e.2)) ∧
  (∀ (s : State) (d src : Fin 4) (c : Nat) (g : BitVec 6) (ser : BitVec 12), g ≠ 63 →
    let f : Flit := { src := src, rgn := g.toNat, ser := ser, cmd := c }
    let tag : BitVec 24 := 0#4 ++ BitVec.ofNat 2 src.val ++ g ++ ser
    s.nextOn (.flit d f) = true → s.linkUp d src = true →
    ((s.die d).flits.filter fun q => q.src == src).length < 16384 → (s.die d).clears = [] →
    ((∃ q ∈ (s.die d).squashes, q.holds f = true) → ∃ t, exec (.taggedFlitReceive d c tag) s = .next t ∧
      t = { s with links := s.links.erase (.flit d f) }) ∧
    ((∀ q ∈ (s.die d).squashes, q.holds f = false) → ∃ t, exec (.taggedFlitReceive d c tag) s = .next t ∧
      t.links = s.links.erase (.flit d f) ∧ (t.die d).flits = (s.die d).flits ++ [f] ∧
      (∀ q, q ∈ (t.die d).squashes ↔
        q ∈ (s.die d).squashes ∧ ¬(q.src = src ∧ q.rgn = g.toNat ∧ serLater q.next ser = true)) ∧
      ∀ e, e ≠ d → t.die e = s.die e)) ∧
  (∀ (s : State) (d : Fin 4) (c : Nat) (tag : BitVec 24), tag.extractLsb' 20 4 ≠ 0 ∨ tag.extractLsb' 12 6 = 63 →
    exec (.taggedFlitReceive d c tag) s = .next (s.fatalError 2 d)) ∧
  (∀ (s : State) (d src : Fin 4) (g : Fin 63) (ser : BitVec 12) (count : Nat),
    s.nextOn (.clear d src g ser count) = true → s.linkUp d src = true → (s.die d).clears = [] →
    let mine (f : Flit) : Bool := f.src == src && f.rgn == g.val && f.ser == ser
    ∃ t, exec (.clearReceive d src g ser count) s = .next t ∧ t.links = s.links.erase (.clear d src g ser count) ∧
      (count ≤ ((s.die d).flits.filter mine).length →
        (t.die d).flits = (s.die d).flits.filter (fun f => !mine f) ∧ (t.die d).clears = [] ∧
        ∀ c k, Sparse.find? s.cmds c = some k → (∃ f ∈ (s.die d).flits, mine f = true ∧ f.cmd = c) →
          Sparse.find? t.cmds c = some (k.arrived d (s.die d).cc)) ∧
      (((s.die d).flits.filter mine).length < count → (t.die d).flits = (s.die d).flits ∧
        (t.die d).clears = [({ src := src, rgn := g, ser := ser, cmd := 0 }, count)])) ∧
  (∀ (s : State) (d src : Fin 4) (g : Fin 63) (first nxt : BitVec 12), s.nextOn (.squash d src g first nxt) = true →
    s.linkUp d src = true →
    let m : SquashMark := { src := src, rgn := g, first := first, next := nxt }
    let lost (f : Flit) : Prop := f.src = src ∧ f.rgn = g.val ∧ (f.ser - first).toNat < (nxt - first).toNat
    let tag (f : Flit) := (f.src, f.rgn, f.ser)
    (∀ f, m.holds f = true ↔ lost f) ∧
    ∃ t, exec (.squashReceive d src g first nxt) s = .next t ∧
      t.links.map LinkMsg.lane = (s.links.erase (.squash d src g first nxt)).map LinkMsg.lane ∧
      (t.die d).flits.map tag = ((s.die d).flits.filter fun f => !m.holds f).map tag ∧
      (t.die d).squashes = ((s.die d).sawWins src g (nxt - first).toNat first).squashes ++ [m] ∧
      (∀ c k, Sparse.find? s.cmds c = some k → (∃ f ∈ (s.die d).flits, lost f ∧ f.cmd = c) → k.stage.held = true →
        k.copy = none → Sparse.find? t.cmds c = some k.redo))

/-! ### Operations of the device: queues -/

/-- 15 R329 to R341, R347, 16 R369, R371: notify and control writes of a queue; the entries: a `nop`, a signal wait and a signal write,
a node declaration, a launch, which becomes a basket, is attached to its node, or is rejected with its shape, a launch with its
recovery extension, an extension without a launch, an unknown type, an entry that cannot be read; a cancelled wait; the event
ring's registers. In recovery the PF's registers take no write (18 R396). The model's own choices: log entries 38 and 60 (the front end
waits where a die or a link does), 56 (the node is judged before the shape), 57 (a reserved byte of an extension), 58 (the reuse
ranges of attached baskets count). -/
def Obligations.QueueEvents : Prop :=
  (∀ (s : State) (f : Fin 129) (q : Fin 64) (x : BitVec 64),
    (s.mute f = true → exec (.vfQnotify f q x) s = .next s) ∧
    (s.mute f = false → f.val ∈ s.flr → ∃ t, exec (.vfQnotify f q x) s = .next t ∧
      OnlyFld s (rDropCnt f) 31 0 (s.regF (rDropCnt f) 31 0 + 1) t) ∧
    (s.mute f = false → f.val ∉ s.flr → s.qEn f q = false → exec (.vfQnotify f q x) s = .next s) ∧
    (s.mute f = false → f.val ∉ s.flr → s.qEn f q = true → getFld x 15 0 < 2 ^ s.qLog f q → ∃ t, exec (.vfQnotify f q x) s = .next t ∧
      OnlyFld s (rQStat f q) 31 16 (getFld x 15 0) t) ∧
    (s.mute f = false → f.val ∉ s.flr → s.qEn f q = true → 2 ^ s.qLog f q ≤ getFld x 15 0 → ∃ t, exec (.vfQnotify f q x) s = .next t ∧
      Stopped s f q 1 t)) ∧
  (∀ (s : State) (f : Fin 129) (q : Fin 64) (x : BitVec 64),
    (s.mute f = true → exec (.queueEnable f q x) s = .next s ∧ exec (.queueDisable f q x) s = .next s ∧
      exec (.queueResume f q x) s = .next s) ∧
    (s.mute f = false → s.qEn f q = false → getFld x 0 0 = 1 → ∃ t, exec (.queueEnable f q x) s = .next t ∧ t.qEn f q = true ∧
      t.qLog f q = max 4 (getFld x 11 8) ∧ t.qHead f q = 0 ∧ t.qTail f q = 0) ∧
    (s.mute f = false → s.qEn f q = true → getFld x 0 0 = 0 → ∃ t, exec (.queueDisable f q x) s = .next t ∧ t.qEn f q = false ∧
      t.qLog f q = s.qLog f q ∧ t.qWaiting f q = false) ∧
    (s.mute f = false → s.qStopped f q = true → getFld x 1 1 = 1 → ∃ t, exec (.queueResume f q x) s = .next t ∧ t.qStopped f q = false ∧
      t.regF (rQStat f q) 39 32 = 0)) ∧
  (∀ (s : State) (f : Fin 129) (q : Fin 64) (i : Instr) (e : XErr),
    i = .nopEntry f q ∨ i = .launch f q ∨ i = .signalWait f q ∨ i = .signalWrite f q ∨ i = .graphNodeDeclaration f q ∨
      i = .recoveryExtension f q ∨ i = .unknownEntry f q →
    (s.takeable f q = false → exec i s = .next s) ∧
    (s.takeable f q = true → s.entryAt f q (s.qHead f q) = .error e →
      (e.waits = true → exec i s = .next (s.failed e)) ∧
      (e.waits = false → ∃ t, exec i s = .next t ∧ Stopped s f q 4 t))) ∧
  (∀ (s u : State) (f : Fin 129) (q : Fin 64) (bs : List Byte), s.entryDue f q = some (bs, u) →
    (entF bs 0 1 = 0 → ∃ t, exec (.nopEntry f q) s = .next t ∧ Took s f q 1 t) ∧
    (6 ≤ entF bs 0 1 → ∃ t, exec (.unknownEntry f q) s = .next t ∧ Stopped s f q 2 t) ∧
    (entF bs 0 1 = 5 → ∃ t, exec (.recoveryExtension f q) s = .next t ∧ Stopped s f q 6 t)) ∧
  (∀ (s u : State) (f : Fin 129) (q : Fin 64) (bs : List Byte) (d : Fin 4) (i : Nat), s.entryDue f q = some (bs, u) →
    entF bs 0 1 = 2 → u.sigEntry f bs 1 3 = some (d, i) →
    let x := u.signal d (u.sigBase f + i)
    let v : Word := BitVec.ofNat 32 (entF bs 8 4)
    let met := if entF bs 4 1 = 0 then v.toNat ≤ x.toNat else if entF bs 4 1 = 1 then x = v else x ≠ v
    (met ∧ u.dieWaits 0 d = false → ∃ t, exec (.signalWait f q) s = .next t ∧ Took s f q 1 t) ∧
    (¬(met ∧ u.dieWaits 0 d = false) → ∃ t, exec (.signalWait f q) s = .next t ∧ t.qWaiting f q = true ∧ t.qHead f q = s.qHead f q ∧
      { func := f, queue := q, die := d, idx := u.sigBase f + i, cc := entF bs 4 1, value := v } ∈ t.sigWaits)) ∧
  (∀ (s u : State) (f : Fin 129) (q : Fin 64) (bs : List Byte) (d : Fin 4) (i : Nat), s.entryDue f q = some (bs, u) →
    entF bs 0 1 = 3 → u.sigEntry f bs 2 2 = some (d, i) →
    (u.dieWaits 0 d = true → exec (.signalWrite f q) s = .next u) ∧
    (entF bs 1 1 = 1 → u.queueDrained f q = false → exec (.signalWrite f q) s = .next u) ∧
    (u.dieWaits 0 d = false → (entF bs 1 1 = 1 → u.queueDrained f q = true) → (∀ w ∈ u.sigWaits, w.queue < 64 ∧ ¬(w.func = f ∧ w.queue = q)) →
      Sparse.wf (u.die d).signals = true →
      ∃ t, exec (.signalWrite f q) s = .next t ∧ Took s f q 1 t ∧
        t.signal d (u.sigBase f + i) =
          if entF bs 4 1 = 1 then u.signal d (u.sigBase f + i) + BitVec.ofNat 32 (entF bs 8 4) else BitVec.ofNat 32 (entF bs 8 4))) ∧
  (∀ (s u : State) (f : Fin 129) (q : Fin 64) (bs : List Byte), s.entryDue f q = some (bs, u) →
    (entF bs 0 1 = 2 → u.sigEntry f bs 1 3 = none → ∃ t, exec (.signalWait f q) s = .next t ∧ Stopped s f q 3 t) ∧
    (entF bs 0 1 = 3 → u.sigEntry f bs 2 2 = none → ∃ t, exec (.signalWrite f q) s = .next t ∧ Stopped s f q 3 t)) ∧
  (∀ (s u : State) (f : Fin 129) (q : Fin 64) (bs : List Byte), s.entryDue f q = some (bs, u) → entF bs 0 1 = 4 →
    let n := entF bs 2 2
    let k := entF bs 6 1
    let key (m : Nat) := u.nodeBase f + m
    let succ := (List.range k).map fun i => entF bs (8 + 2 * i) 2
    let shape := entF bs 1 1 < 2 ∧ zeroAt bs 7 8 = true ∧ zeroAt bs 56 64 = true
    let fits := k ≤ 24 ∧ (∀ m ∈ n :: succ, m < u.nodeCount f) ∧ Sparse.find? u.nodes (key n) = none ∧
      ∀ m ∈ succ, (Sparse.find? u.nodes (key m)).isSome = true
    (¬shape → ∃ t, exec (.graphNodeDeclaration f q) s = .next t ∧ Stopped s f q 3 t) ∧
    (shape → ¬fits → ∃ t, exec (.graphNodeDeclaration f q) s = .next t ∧ Stopped s f q 5 t) ∧
    (shape → fits → ∃ t, exec (.graphNodeDeclaration f q) s = .next t ∧ Took s f q 1 t ∧
      (entF bs 1 1 = 1 → entF bs 4 2 = 0 → Sparse.wf u.nodes = true → Sparse.find? t.nodes (key n) = none) ∧
      (¬(entF bs 1 1 = 1 ∧ entF bs 4 2 = 0) →
        Sparse.find? t.nodes (key n) = some
          { preds := entF bs 4 2, succ := succ.map key, empty := entF bs 1 1 == 1, launch := none, running := false } ∧
        ∀ m, m ≠ key n → Sparse.find? t.nodes m = Sparse.find? u.nodes m))) ∧
  (∀ (s u : State) (f : Fin 129) (q : Fin 64) (bs : List Byte), s.entryDue f q = some (bs, u) → entF bs 0 1 = 1 →
    let p : BitVec 512 := BitVec.ofNat 512 (natLE bs)
    (∀ w ∈ u.sigWaits, w.queue < 64) →
    (u.extOf f q p = .wait → ∃ t, exec (.launch f q) s = .next t ∧ t.qWaiting f q = true ∧ t.qHead f q = s.qHead f q) ∧
    (∀ e, u.extOf f q p = .unread e → ∃ t, exec (.launch f q) s = .next t ∧ Stopped s f q 4 t) ∧
    (u.extOf f q p = .reserved → ∃ t, exec (.launch f q) s = .next t ∧
      Stopped s f q (if u.nodeBad f p then 5 else 3) t ∧ t.baskets = u.baskets ∧ t.nodes = u.nodes) ∧
    (u.extOf f q p = .none ∨ u.extOf f q p = .missing → u.nodeBad f p = true →
      ∃ t, exec (.launch f q) s = .next t ∧ Stopped s f q 5 t) ∧
    (u.extOf f q p = .missing ∨ (u.extOf f q p = .none ∧ u.launchBad f p = true) ∨
        (u.extOf f q p = .none ∧ ∃ e ∈ u.baskets, rsOverlap p e.2.pkt = true) → pkGnode p = false →
      ∃ t, exec (.launch f q) s = .next t ∧ t.qHead f q = (s.qHead f q + 1) % 2 ^ s.qLog f q ∧ t.baskets = u.baskets ∧
        t.skeins = u.skeins) ∧
    (u.extOf f q p = .ext none → pkGnode p = false → ∃ t, exec (.launch f q) s = .next t ∧
      t.qHead f q = (s.qHead f q + 2) % 2 ^ s.qLog f q ∧ t.baskets = u.baskets ∧ t.skeins = u.skeins) ∧
    (u.extOf f q p = .none → u.nodeBad f p = false → u.launchBad f p = false →
      (∀ e ∈ u.baskets, rsOverlap p e.2.pkt = false) →
      (u.freeBasket = none ∨ u.regF (rFuncB f) 43 32 ≤ (u.baskets.filter fun e => e.2.func == f.val).length →
        ∃ t, exec (.launch f q) s = .next t ∧ t.qWaiting f q = true ∧ t.qHead f q = s.qHead f q) ∧
      (∀ b, u.freeBasket = some b → (u.baskets.filter fun e => e.2.func == f.val).length < u.regF (rFuncB f) 43 32 →
        ∃ t, exec (.launch f q) s = .next t ∧ Took s f q 1 t ∧ t.unpub = [] ∧
          (∀ c, c ≠ b → t.basket? c = u.basket? c) ∧
          let go := pkGnode p = false ∨
            ∃ g, Sparse.find? u.nodes (u.nodeBase f + pkNode p) = some g ∧ g.preds = 0
          (go → t.basket? b =
              some { func := f, queue := q, pkt := p, ctr := 1, nextSkein := 1, recov := none, ran := false, moved := false } ∧
            ∃ k, t.skein? k = some { basket := b, num := 0, pkt := p, place := u.nextPlace,
                                     waiting := List.range (pkHoops p / pkRim p), saved := [], preempt := [], doneHoops := [],
                                     done := false, params := none }) ∧
          (¬go → t.skeins = u.skeins ∧ t.basket? b =
              some { func := f, queue := q, pkt := p, ctr := 0, nextSkein := 0, recov := none, ran := false, moved := false }) ∧
          (pkGnode p = true → ∀ g, Sparse.find? u.nodes (u.nodeBase f + pkNode p) = some g →
            Sparse.find? t.nodes (u.nodeBase f + pkNode p) = some { g with launch := some b, running := g.preds == 0 })))) ∧
  (∀ (s u : State) (f : Fin 129) (q : Fin 64) (bs : List Byte) (v : Recov) (b : Nat) (i : Instr), s.entryDue f q = some (bs, u) →
    entF bs 0 1 = 1 → i = .launch f q ∨ i = .recoveryExtension f q →
    let p : BitVec 512 := BitVec.ofNat 512 (natLE bs)
    u.extOf f q p = .ext (some v) → (∀ w ∈ u.sigWaits, w.queue < 64) → Sparse.wf u.baskets = true → u.nodeBad f p = false → u.launchBad f p = false →
    (∀ e ∈ u.baskets, rsOverlap p e.2.pkt = false) → u.freeBasket = some b →
    (u.baskets.filter fun e => e.2.func == f.val).length < u.regF (rFuncB f) 43 32 →
    ∃ t, exec i s = .next t ∧ t.qHead f q = (s.qHead f q + 2) % 2 ^ s.qLog f q ∧
      ∀ y, t.basket? b = some y → y.pkt = p ∧ y.recov.map (fun r => { r with ready := [] }) = some { v with ready := [] }) ∧
  (∀ (s : State) (f : Fin 129) (q : Fin 64),
    let s0 := (s.setRegF rQCancel 5 0 q).setRegF rQCancel 15 8 f
    let skips := ∃ t, exec (.qcancel f q) s = .next t ∧ t.qHead f q = (s.qHead f q + 1) % 2 ^ s.qLog f q ∧
      t.qWaiting f q = false ∧ t.rr = s.rr ∧ ∀ w ∈ t.sigWaits, ¬(w.func = f ∧ w.queue = q)
    (s.recovering = true → exec (.qcancel f q) s = .next s) ∧
    (s.recovering = false → s.qWaiting f q = false → exec (.qcancel f q) s = .next s0) ∧
    (s.recovering = false → s.qWaiting f q = true → (∃ w ∈ s.sigWaits, w.func = f ∧ w.queue = q) → skips) ∧
    (s.recovering = false → s.qWaiting f q = true → (∀ w ∈ s.sigWaits, ¬(w.func = f ∧ w.queue = q)) →
      (∀ e, s0.entryAt f q (s0.qHead f q) = .error e → exec (.qcancel f q) s = .next s0) ∧
      ∀ (bs : List Byte) (u : State), s0.entryAt f q (s0.qHead f q) = .ok (bs, u) →
        (entF bs 0 1 ≠ 2 → exec (.qcancel f q) s = .next s0) ∧
        (entF bs 0 1 = 2 → s0.sigEntry f bs 1 3 ≠ none → skips))) ∧
  (∀ (s : State) (f : Fin 129) (x : BitVec 64),
    (s.mute f = true → exec (.vfEvbaseWrite f x) s = .next s ∧ exec (.vfEvptrWrite f x) s = .next s) ∧
    (getFld x 63 59 < 4 ∨ 12 < getFld x 63 59 → exec (.vfEvbaseWrite f x) s = .next s) ∧
    (s.mute f = false → 4 ≤ getFld x 63 59 → getFld x 63 59 ≤ 12 → ∃ t : State, exec (.vfEvbaseWrite f x) s = .next (t.postRequests f t.pageReqs) ∧
      t.regF (rEvBase f) 63 59 = getFld x 63 59 ∧ t.regF (rEvBase f) 52 5 = getFld x 52 5 ∧ t.reg (rEvPtr f) = 0 ∧
      t = { s with regs := t.regs }) ∧
    (s.mute f = false → ∃ t : State, exec (.vfEvptrWrite f x) s = .next (t.postRequests f t.pageReqs) ∧
      OnlyFld s (rEvPtr f) 31 16 (getFld x 31 16 % 2 ^ s.regF (rEvBase f) 63 59) t) ∧
    ∀ t : State, (∀ r ∈ t.pageReqs, r.func = f.val → r.posted = true) → t.postRequests f t.pageReqs = t)

/-! ### Operations of the device: resets -/

/-- 16 R360, R361, R369, R370, 18 R400, R402, 02 R48: a function-level reset ends the function's baskets, takes its queues out of use and the
registers of its own block to their reset values but for VF_DROPCNT, drops its translations, its reuse images, its signals and its context
units, tells the peers to purge, and completes once its completion words are written; the PF's resets every VF and the PF itself. A warm reset quiesces a die: its
DIEUP bit falls and the units on it are to be pre-empted; those left at the limit are ended; past the home-off point nothing of the
die is left elsewhere; the reset keeps memory, signals, messages and RW fields; the links train; the die is re-admitted with its
epoch one higher. A package reset takes every register but FW_FATAL to its reset value and keeps the dump area; one that meets a dump
leaves DUMPED 0 and TRUNC 1, and a GO of FW_PKGRST waits for the dump. The model's own choices: log entries 28 (what a package reset keeps),
32 (cycle count and messages kept over a warm reset), 36 (the PF's own baskets, the second firing that completes), 37 (a purge that arrives
finds nothing to remove; the station of a purge that is sent is Config's). -/
def Obligations.ResetEvents : Prop :=
  (∀ (s : State) (f : Fin 129), Sparse.wf s.baskets = true → Sparse.wf s.regs = true →
    let busy := s.feBusy f = true ∨ (f = 0 ∧ ∃ g, g < 129 ∧ s.feBusy g = true)
    (f.val ∈ s.flr → s.fatal = false → ¬busy →
      ∃ t, exec (.functionLevelReset f) s = .next t ∧ f.val ∉ t.flr ∧ t = { s with flr := t.flr }) ∧
    (f.val ∈ s.flr → s.fatal = true ∨ busy → exec (.functionLevelReset f) s = .next s) ∧
    (f ≠ 0 → f.val ∉ s.flr → ∃ t, exec (.functionLevelReset f) s = .next t ∧ f.val ∈ t.flr ∧
      (∀ e ∈ t.baskets, e.2.func ≠ f.val) ∧ (∀ r ∈ t.pageReqs, r.func ≠ f.val) ∧ t.reg (rDropCnt f) = s.reg (rDropCnt f) ∧
      (∀ d i, i < t.sigCount f → t.signal d (t.sigBase f + i) = 0) ∧ .purge Config.ownStation (t.partOf f) ∈ t.peerOut ∧
      (∀ d, ∀ e ∈ (t.die d).tlb, e.func ≠ f.val) ∧ (∀ e ∈ t.ctxRuns, e.1 ≠ f.val) ∧ (∀ w ∈ t.sigWaits, w.func ≠ f.val) ∧
      (∀ d n, (t.reuseEntry d n).vf = f.val →
        (t.reuseEntry d n).valid = false ∧ (t.reuseEntry d n).r = [] ∧ (t.reuseEntry d n).abar = []) ∧
      (∀ o, o < 0x10000 → vfKey f o ≠ rDropCnt f → t.reg (vfKey f o) = regReset (vfKey f o)) ∧
      ∀ q : Fin 64, t.qEn f q = false ∧ t.qHead f q = 0 ∧ t.qTail f q = 0) ∧
    (f = 0 → 0 ∉ s.flr → ∃ t, exec (.functionLevelReset f) s = .next t ∧ 0 ∈ t.flr ∧
      (∀ e ∈ t.baskets, 128 < e.2.func) ∧
      (∀ o, o < 0x10000 → o ≠ rDropCnt 0 → t.reg o = regReset o) ∧ ∀ q : Fin 64, t.qEn 0 q = false ∧ t.qHead 0 q = 0 ∧ t.qTail 0 q = 0)) ∧
  (∀ (s : State) (a : BitVec 10) (p : BitVec 5), exec (.purge a p) s = .next s) ∧
  (∀ (s : State) (x : BitVec 64), s.recovering = true → exec (.dieResetGo x) s = .next s) ∧
  (∀ (s : State) (x : BitVec 64), s.recovering = false → x.getLsbD 2 = true → s.warm = none → s.fatal = false →
    Sparse.wf s.regs = true →
    let d : Fin 4 := Fin.ofNat 4 (getFld x 1 0)
    (d = 0 → ∃ t, exec (.dieResetGo x) s = .next t ∧ t.regF rDieRst 13 13 = 1 ∧ t = { s with regs := t.regs }) ∧
    (d ≠ 0 → ∃ t r, exec (.dieResetGo x) s = .next t ∧ t.warm = some r ∧ r.die = d ∧ r.phase = 1 ∧
      (∀ k, inDie d k = true → Sparse.getD r.saved (regReset k) k = s.reg k) ∧
      t.dieUp = s.dieUp &&& ~~~(BitVec.twoPow 4 d.val) ∧ t.regF rDieRst 10 8 = 1 ∧ t.regF rDieRst 11 11 = 1 ∧
      (getFld x 31 16 ≠ 0 → ∀ u ∈ s.unitsOn d, ∀ k, s.skein? u.1 = some k → ∃ y, t.skein? u.1 = some y ∧
        (if pkHeld k.pkt then 0 else u.2) ∈ y.preempt) ∧
      (getFld x 31 16 = 0 → Sparse.wf s.baskets = true → ∀ u ∈ s.unitsOn d, ∀ k, s.skein? u.1 = some k →
        t.basket? k.basket = none))) ∧
  (∀ (s : State) (r : WarmReset), s.warm = some r → s.fatal = false →
    (r.phase = 1 → Sparse.wf s.baskets = true → ∃ t, exec .quiesceTimeout s = .next t ∧
      ∀ u ∈ s.unitsOn r.die, ∀ k, s.skein? u.1 = some k → t.basket? k.basket = none) ∧
    (r.phase = 1 → s.unitsOn r.die ≠ [] → exec .flush s = .next s) ∧
    (r.phase = 1 → s.unitsOn r.die = [] → ∃ t, exec .flush s = .next t ∧ t.warm = some { r with phase := 2 } ∧
      t.homeOff r.die = true ∧ t.mem = s.mem ∧
      (∀ m ∈ t.links, m.lane.1 ≠ r.die ∧ m.lane.2.1 ≠ r.die) ∧ (∀ e ∈ t.icache, s.homeDie (e.1 % 2 ^ 46) ≠ r.die) ∧
      ∀ d, (∀ f ∈ (t.die d).flits, f.src ≠ r.die) ∧ (∀ e ∈ (t.die d).l1, s.lineHome (e.1 % 2 ^ 52) ≠ r.die) ∧
        ∀ e ∈ (t.die d).l2, s.lineHome e.1 ≠ r.die) ∧
    (r.phase = 2 → ∃ t, exec .dieReset s = .next t ∧ t.warm = some { r with phase := 3 } ∧ t.mem = s.mem ∧
      (t.die r.die).cc = (s.die r.die).cc ∧ (t.die r.die).signals = (s.die r.die).signals ∧
      (t.die r.die).mbox = (s.die r.die).mbox ∧ (t.die r.die).dsc = [] ∧ (t.die r.die).l1 = [] ∧ (t.die r.die).reports = [] ∧
      (∀ n, n < 256 → (t.reuseEntry r.die n).valid = false ∧ (t.reuseEntry r.die n).r = [] ∧ (t.reuseEntry r.die n).abar = []) ∧
      (∀ d, d ≠ r.die → t.die d = s.die d) ∧
      (∀ k : Fin 6, t.linkState k = if (linkDies k).1 = r.die ∨ (linkDies k).2 = r.die then 4 else s.linkState k) ∧
      (∀ key v, Sparse.find? s.regs key = some v → inDie r.die key = true → (∀ k : Fin 4, key ≠ rRail r.die k) →
        t.reg key = (Sparse.getD r.saved (regReset key) key &&& dieRw r.die (key - dieBase r.die))
          ||| (regReset key &&& ~~~(dieRw r.die (key - dieBase r.die))))) ∧
    (r.phase = 3 → ∃ t, exec .retrain s = .next t ∧ t.warm = some { r with phase := 4 } ∧
      (∀ k : Fin 6, t.linkState k =
        if ((linkDies k).1 = r.die ∨ (linkDies k).2 = r.die) ∧ s.linkState k = 4 then 1 else s.linkState k) ∧
      t = { s with regs := t.regs, warm := t.warm }) ∧
    (r.phase = 4 → (∀ e ∈ s.wales, e.2.due = []) → s.owed = [] →
      (∀ k : Fin 6, (linkDies k).1 = r.die ∨ (linkDies k).2 = r.die → s.linkState k = 2) →
      ∃ t, exec .readmit s = .next t ∧ t.warm = none ∧ t.dieUp = s.dieUp ||| BitVec.twoPow 4 r.die.val ∧
        (∀ d, vget t.dieEpoch d = if d = r.die then vget s.dieEpoch d + 1 else vget s.dieEpoch d) ∧
        t.regF rDieRst 12 12 = 1 ∧ t.regF rDieRst 11 11 = 0 ∧ t.regF rDieRst 10 8 = 0)) ∧
  (∀ s : State,
    (∀ x : BitVec 64, exec (.fwPkgrstGo x) s =
      if x.getLsbD 0 = false then .next s else if s.dumping = true then .next { s with rstGo := true } else exec .packageReset s) ∧
    ∃ t, exec .packageReset s = .next t ∧ t.wales = [] ∧ t.hoops = [] ∧ t.skeins = [] ∧ t.baskets = [] ∧ t.cmds = [] ∧
      t.fatal = false ∧ t.dumping = false ∧ t.warm = none ∧ t.epoch = s.epoch + 1 ∧ t.aer = s.aer ∧
      t.reg rFatal = (if s.dumping = true then setFld (s.reg rFatal) 8 7 2 else s.reg rFatal) ∧
      (∀ k, k ≠ rFatal → k ≠ rBootStat → t.reg k = regReset k) ∧
      (∀ e ∈ t.mem, s.regF rDumpBase 45 12 ≤ e.1 / 4096 ∧ e.1 / 4096 < s.regF rDumpBase 45 12 + s.regF rDumpCtl 23 0) ∧
      (s.dumping = false → ∀ e, e ∈ t.mem ↔ e ∈ s.mem ∧
        s.regF rDumpBase 45 12 ≤ e.1 / 4096 ∧ e.1 / 4096 < s.regF rDumpBase 45 12 + s.regF rDumpCtl 23 0))

/-- 16 R371 to R376: a GO of CFE_WSCTL records the switch, refuses the PF with status 5, and is stopped by a function-level reset in
progress with status 2. A save closes admission and asks for pre-emption; with nothing of the function resident its entries leave with
the image. A restore puts back what a good image stands for, and gives status 3 for another. A partition change is staged, and
applies once no unit of an affected partition is resident. In recovery nothing of this starts (18 R396). What the entries of an image say
is the model's choice: log entry 22. -/
def Obligations.WorldEvents : Prop :=
  (∀ (s : State) (f : Fin 129) (i : Instr) (op : Nat),
    (i = .wsSave f ∧ op = 0 ∨ i = .wsMsave f ∧ op = 2 ∨ i = .wsRestore f ∧ op = 1) → s.wsBusy = false →
    (s.fatal = true ∨ s.recovering = true → exec i s = .next s) ∧
    (s.fatal = false → s.recovering = false →
    (f = 0 → ∃ t, exec i s = .next t ∧ t.regF rWsCtl 31 24 = 5 ∧ t.wsBusy = false ∧ t = { s with regs := t.regs }) ∧
    (f ≠ 0 → f.val ∈ s.flr → ∃ t, exec i s = .next t ∧ t.regF rWsCtl 31 24 = 2 ∧ t.wsBusy = false ∧
      t.physRead s.wsKey s.wsAddr 4 = [0, 0, 0, 0]) ∧
    (f ≠ 0 → f.val ∉ s.flr → ∃ t, exec i s = .next t ∧ t.wsIs f op = true ∧
      t = { s with regs := t.regs, wsOp := t.wsOp }))) ∧
  (∀ (s : State) (f : Fin 129) (i : Instr) (op : Nat), (i = .wsSave f ∧ op = 0 ∨ i = .wsMsave f ∧ op = 2) →
    s.wsIs f op = true → s.warm = none → s.fatal = false →
    (f.val ∉ s.closed → op = 0 → ∃ t, exec i s = .next t ∧ f.val ∈ t.closed ∧ t.wsIs f op = true ∧
      ∀ u ∈ s.unitsOf f, ∀ k, s.skein? u.1 = some k → ∃ y, t.skein? u.1 = some y ∧
        (if pkHeld k.pkt then 0 else u.2) ∈ y.preempt) ∧
    (f.val ∉ s.closed → op = 2 → s.regF rWsCtl 10 10 = 0 → (∃ q, q < 64 ∧ s.headWaits f q (s.isPeerSignal f) = true) →
      ∃ t, exec i s = .next t ∧ t.regF rWsCtl 31 24 = 1 ∧ t.wsBusy = false ∧ f.val ∉ t.closed ∧
        t = { s with regs := t.regs, wsOp := none }) ∧
    (f.val ∈ s.closed → s.unitsOf f = [] → ∃ t w, exec i s = .next t ∧ t.worlds = s.worlds ++ [w] ∧ w.func = f.val ∧
      w.baskets = s.baskets.filter (fun e => e.2.func == f.val) ∧
      (∀ k x, (k, x) ∈ w.skeins ↔ (k, x) ∈ s.skeins ∧ ∃ e ∈ w.baskets, e.1 = x.basket) ∧
      (∀ k x, (k, x) ∈ w.hoops ↔ (k, x) ∈ s.hoops ∧ ∃ e ∈ w.skeins, e.1 = x.skein) ∧
      (∀ k x, (k, x) ∈ w.wales ↔ (k, x) ∈ s.wales ∧ ∃ e ∈ w.hoops, e.1 = x.hoop) ∧
      (∀ v, v ∈ w.waits ↔ v ∈ s.sigWaits ∧ v.func = f.val) ∧ (∀ v ∈ t.sigWaits, v.func ≠ f.val) ∧
      (∀ e ∈ t.baskets, e.2.func ≠ f.val) ∧ (∀ e ∈ t.wales, ∀ v ∈ w.wales, e.1 ≠ v.1) ∧
      t.regF rWsCtl 31 24 = 0 ∧ t.wsBusy = false)) ∧
  (∀ (s : State) (f : Fin 129) (w : World), s.wsIs f 1 = true → s.warm = none → s.fatal = false →
    let head := s.physRead s.wsKey s.wsAddr 1856
    let a := imgReg head 1832
    let b := imgReg head 1840
    let n := getFld a 16 0 + at_ head 10 2
    let len := 1856 + 16 * getFld b 28 16 + 64 * n + 33856 * at_ head 12 2
    let img := s.physRead s.wsKey s.wsAddr len
    let good := at_ head 4 4 = len ∧ at_ head 8 1 = f.val ∧ xorWords (img.drop 4) = BitVec.ofNat 32 (at_ img 0 4)
    (¬good → ∃ t, exec (.wsRestore f) s = .next t ∧ t.regF rWsCtl 31 24 = 3 ∧ t.wsBusy = false ∧
      t = { s with regs := t.regs, wsOp := none }) ∧
    (good → (s.worlds.find? fun w => w.func == f.val && w.baskets.length == at_ head 10 2 &&
        w.entries.length == at_ head 12 2 &&
        (img.drop (1856 + 16 * getFld b 28 16)).take (64 * n) == worldEntries w.name 0 n) = some w →
      s.rangeBusy f a b w = false → Sparse.wf w.baskets = true → Sparse.wf w.wales = true → Sparse.wf w.nodes = true →
      ∃ t, exec (.wsRestore f) s = .next t ∧ t.regF rWsCtl 31 24 = 0 ∧ t.wsBusy = false ∧ f.val ∉ t.closed ∧
        (∀ e ∈ w.baskets, t.basket? e.1 = some e.2) ∧ (∀ e ∈ w.wales, t.wale? e.1 = some e.2) ∧
        (∀ e ∈ w.nodes, Sparse.find? t.nodes e.1 = some e.2) ∧
        ∀ v, v ∈ t.sigWaits ↔ (v ∈ s.sigWaits ∧ v.func ≠ f.val) ∨ v ∈ w.waits)) ∧
  (∀ s : State, s.fatal = true ∨ s.recovering = true → exec .partitionChange s = .next s) ∧
  (∀ s : State, s.fatal = false → s.recovering = false →
    (s.partPending = none → ∃ t, exec .partitionChange s = .next t ∧
      t.partPending = some ((List.range 32).map fun c => s.regF (rPartNew c) 5 0) ∧ t.partMap = s.partMap ∧
      t.regF rPartCtl 1 1 = 1 ∧ t.regF rPartCtl 15 8 = 0) ∧
    (∀ m, s.partPending = some m → s.warm = none → s.flr = [] → s.affectedUnits = [] →
      ∃ t, exec .partitionChange s = .next t ∧ t.partPending = none ∧ (∀ c, vget t.partMap c = m.getD c.val 0x3F) ∧
        t.regF rPartCtl 1 1 = 0 ∧ t.regF rPartCtl 3 3 = 1)) ∧
  (∀ (s : State) (f : Fin 129) (x : BitVec 64),
    (s.recovering = true ∨ (∃ e ∈ s.baskets, e.2.func = f.val ∧ e.2.moved = false) → exec (.funcpartWrite f x) s = .next s) ∧
    (s.recovering = false → (∀ e ∈ s.baskets, e.2.func = f.val → e.2.moved = true) → ∃ t, exec (.funcpartWrite f x) s = .next t ∧
      t.partOf f = getFld x 4 0 ∧ (∀ k, k ≠ rFuncPart f → t.reg k = s.reg k) ∧
      ((∃ c, vget s.partMap c = getFld x 4 0) → ∀ e ∈ t.baskets, e.2.func = f.val → e.2.moved = false)))

/-! ### Operations of the device: links, peers, firmware -/

/-- 16 R356, R362, R364, 14 R315, 18 R398, R399: an adapter counts its retries; an ACTIVE link retrains; one that does not train in time
is a fatal device error of cause 3, a protocol error one of cause 2: issue stops, every wale with unreleased results restarts, the dump
begins, and a second such error changes nothing (18 R402); a
failed lane is repaired or its link retrains (log entry 31); a link that trains becomes ACTIVE. A peer's SIGADD adds to the signal of its valid entry; its reads, writes and additions are performed
under a grant of the page; grants are called back, released, or end with the page poisoned; an attestation request is answered. The
model's own choices: log entries 25 (the key of a page granted to peers, Config.peerKey), 27 (the attestation answer), 61 (a SIGADD for a
signal out of range is dropped). -/
def Obligations.LinkAndPeerEvents : Prop :=
  (∀ (s : State) (k : Fin 6), ∃ t, exec (.flitCrcRetry k) s = .next t ∧
    OnlyFld s (rDlStat k) 63 32 (s.regF (rDlStat k) 63 32 + 1) t) ∧
  (∀ (s : State) (k : Fin 6) (i : Instr), i = .linkRetrain k ∨ i = .retryThreshold k →
    (s.linkState k = 2 → ∃ t, exec i s = .next t ∧ OnlyFld s (rDlStat k) 2 0 3 t) ∧
    (s.linkState k ≠ 2 → exec i s = .next s)) ∧
  (∀ (s : State) (k : Fin 6), ∃ t, exec (.laneFailure k) s = .next t ∧
    let u := { s with free := s.free + 1 }
    (OnlyFld u (rDlStat k) 23 16 (s.regF (rDlStat k) 23 16 + 1) t ∨
      (s.linkState k = 2 ∧ OnlyFld u (rDlStat k) 2 0 3 t) ∨ (s.linkState k ≠ 2 ∧ t = u))) ∧
  (∀ (s : State) (k : Fin 6) (d : Fin 4), s.fatal = true → exec (.protocolError k d) s = .next s) ∧
  (∀ (s : State) (k : Fin 6) (d : Fin 4), s.fatal = false →
    ∃ t, exec (.protocolError k d) s = .next t ∧ t.fatal = true ∧ t.regF rFatal 3 0 = 2 ∧ t.regF rFatal 5 4 = d.val ∧
      t.regF rFatal 8 6 = 1 ∧ t.aer = s.aer + 1 ∧ t.select = none ∧ (t.dumping = true ↔ s.regF rDumpCtl 23 0 ≠ 0) ∧
      ∀ w x, s.wale? w = some x → t.wale? w = some (if x.unreleased then x.restart s.turn (s.ccOf x) else x)) ∧
  (∀ (s : State) (k : Fin 6), s.linkState k = 1 ∨ s.linkState k = 3 → s.fatal = false →
    ∃ t, exec (.trainingTimeout k) s = .next t ∧ t.linkState k = 0 ∧ t.fatal = true ∧ t.regF rFatal 3 0 = 3) ∧
  (∀ (s : State) (k : Fin 6) (rate : Fin 3) (mods : Fin 5), s.linkState k = 0 ∨ s.linkState k = 1 ∨ s.linkState k = 3 →
    rate.val ≤ s.regF (rDlCtl k) 25 24 → mods ≠ 0 → s.fatal = false →
    ∃ t : State, exec (.trainingComplete k rate mods) s = .next t.retryAllDue.wakeAll ∧ t.linkState k = 2 ∧ t.regF (rDlStat k) 4 3 = rate.val ∧
      t.regF (rDlStat k) 10 8 = mods.val ∧ (∀ j, j ≠ rDlStat k → t.reg j = s.reg j) ∧ t = { s with regs := t.regs }) ∧
  (∀ (s : State) (station : BitVec 10) (n : Fin 256) (x : BitVec 32),
    let r := s.reg (rPeerSig n)
    let d : Fin 4 := Fin.ofNat 4 (getFld r 37 36)
    let good := getFld r 63 63 = 1 ∧ getFld r 9 0 = station.toNat ∧ getFld r 35 24 < s.sigCount (getFld r 23 16)
    (¬good → exec (.sigadd station n x) s = .next s) ∧
    (good → Sparse.wf (s.die d).signals = true → ∃ t, exec (.sigadd station n x) s = .next t ∧
      let i := s.sigBase (getFld r 23 16) + getFld r 35 24
      t.signal d i = s.signal d i + x ∧ ∀ e j, e ≠ d ∨ j ≠ i → t.signal e j = s.signal e j)) ∧
  (∀ (s : State) (page : Nat),
    (isPeer (8192 * page) = false →
      (Sparse.find? s.grants page = none → exec (.revoke page) s = .next s) ∧
      ∀ g, Sparse.find? s.grants page = some g →
        (g.revoking = true → exec (.revoke page) s = .next s) ∧
        (g.revoking = false → ∃ t, exec (.revoke page) s = .next t ∧
          Sparse.find? t.grants page = some { g with revoking := true } ∧
          (∀ q, q ≠ page → Sparse.find? t.grants q = Sparse.find? s.grants q) ∧
          t.peerOut = s.peerOut ++ g.stations.map (fun a => .revoke a page) ∧
          t = { s with grants := t.grants, peerOut := t.peerOut })) ∧
    (isPeer (8192 * page) = true → Sparse.wf s.peerGrants = true → ∃ t, exec (.revoke page) s = .next t ∧
      (∀ e ∈ t.mem, e.1 / 8192 ≠ page) ∧ (∀ e ∈ t.lines, e.1 / 128 ≠ page) ∧
      (∀ e ∈ t.icache, e.1 % 2 ^ 46 / 8192 ≠ page) ∧ (∀ d, ∀ e ∈ (t.die d).l1, inPage page (e.1 % 2 ^ 52) = false) ∧
      Sparse.find? t.peerGrants page = none ∧
      t.peerOut = s.peerOut ++ [.release (8192 * page / 2 ^ 40 % 16) page (s.dirtyLines page)] ∧
      Sparse.find? t.peerEpochs page = some (Sparse.getD s.peerEpochs 0 page + 1))) ∧
  (∀ (s : State) (page : Nat) (station : BitVec 10) (g : Grant), Sparse.find? s.grants page = some g → station ∈ g.stations →
    (∀ e ∈ s.wales, e.2.due = []) → s.owed = [] → Sparse.wf s.grants = true →
    let left := g.stations.filter fun t => t != station
    (∀ ls, ∃ t, exec (.grantRelease page station ls) s = .next t ∧
      Sparse.find? t.grants page = if left = [] then none else some { g with stations := left }) ∧
    (∀ l (w : BitVec 512), l / 128 = page → ∃ t, exec (.grantRelease page station [(l, w)]) s = .next t ∧
      ∀ i, i < 64 → t.physByte (Config.peerKey page).toNat (64 * l + i) = w.extractLsb' (8 * i) 8)) ∧
  (∀ (s : State) (page : Nat) (g : Grant), Sparse.find? s.grants page = some g → (∀ e ∈ s.wales, e.2.due = []) → s.owed = [] →
    Sparse.wf s.grants = true →
    (g.revoking = false → exec (.grantTimeout page) s = .next s) ∧
    (g.revoking = true → ∃ t, exec (.grantTimeout page) s = .next t ∧ page ∈ t.poisoned ∧ Sparse.find? t.grants page = none)) ∧
  (∀ (s : State) (station : BitVec 10) (pa : Nat) (req : PeerReq), isNear pa = true ∨ isFar pa = true →
    pa / 8192 ∉ s.poisoned → s.homeOff (s.homeDie pa) = false →
    let key := (Config.peerKey (pa / 8192)).toNat
    (∀ g, Sparse.find? s.grants (pa / 8192) = some g → g.stations ≠ [station] → g.excl = true ∨ req ≠ .read →
      ∃ t, exec (.peerRequest station pa req) s = .next t ∧
        Sparse.find? t.grants (pa / 8192) = some { g with revoking := true } ∧
        t = { s with grants := t.grants, peerOut := t.peerOut }) ∧
    (∀ h, grantFor (Sparse.find? s.grants (pa / 8192)) station (match req with | .read => false | _ => true) = some h →
      ∃ t, exec (.peerRequest station pa req) s = .next t ∧
      Sparse.find? t.grants (pa / 8192) = some h ∧ station ∈ h.stations ∧
      (h.excl = true → ∀ d, ∀ e ∈ (t.die d).l1, inPage (pa / 8192) (e.1 % 2 ^ 52) = false) ∧
      (match req with
        | .read => t.peerReply = s.physRead key (pa / 64 * 64) 64
        | .write w => h.excl = true ∧ ∀ i, i < 64 → t.physByte key (pa / 64 * 64 + i) = w.extractLsb' (8 * i) 8
        | .atomic aop u wide x y =>
          let n := if wide = true then 8 else 4
          h.excl = true ∧ t.peerReply = s.physRead key (pa / n * n) n ∧
            natLE (t.physRead key (pa / n * n) n) = aopStep aop.val u n (natLE (s.physRead key (pa / n * n) n)) (x, y) % 2 ^ (8 * n)) ∧
      (Sparse.find? s.grants (pa / 8192) = none →
        h = { stations := [station], excl := (match req with | .read => false | _ => true), revoking := false }))) ∧
  (∀ (s : State) (n : Fin 8), s.layerRuns .monitor = false → exec (.attestationRequest n) s = .next s) ∧
  (∀ (s : State) (n : Fin 8) (box : Mbox) (m : BitVec 128), s.layerRuns .monitor = true →
    Sparse.find? (s.die 0).mbox (248 + n.val) = some box → (box.msgs.find? fun m => m.extractLsb' 96 8 != 0xFF) = some m →
    ∃ (t : State) (b : Mbox) (code : Nat), exec (.attestationRequest n) s = .next t ∧ code ≤ 2 ∧
      Sparse.find? (t.die 0).mbox (248 + n.val) = some b ∧ b.ovf = box.ovf ∧
      b.msgs = box.msgs.erase m ++ [(0x800000FF#32 : BitVec 32) ++ BitVec.ofNat 96 code])

/-! ### Operations of the device: memory system -/

/-- 14 R310 to R316, R319, R320, R325, R327, R328: a notification reaches every agent in order and leaves one owner, or only sharers; a
line cools; a core without a resident wale gates its L1; way groups are gated but group 0; a retired key's lines read as unrelated
data; an invalidation is done when nothing translated under a dropped entry is left; a die-scratchpad window is refused, or set and
zeroed when it opens; shares sum to 256 at most; an HBM mode is entered above its threshold and left 3 C below it, counts a breach, and
limits bandwidth. The model's own choices: log entries 30 (a rise counts one breach), 97 (when a poisoned page is unmapped), 105 (which
range an opening window zeroes). -/
def Obligations.MemoryEvents : Prop :=
  (∀ (s : State) (d : Fin 4), (s.die d).pending = [] → exec (.notificationDelivery d) s = .next s) ∧
  (∀ (s : State) (d : Fin 4) (n : Note) (ns : List Note), (s.die d).injected.notes = n :: ns → n.line < 2 ^ 52 →
    (n.kind = .own → (∀ e ∈ s.wales, e.2.due = []) ∧ s.owed = []) →
    let x := (s.die d).injected
    ∃ t, exec (.notificationDelivery d) s = .next t ∧ (t.die d).notes = ns ∧ (t.die d).cc = max x.cc (n.at_ + 20) ∧
      (n.kind = .back → OnlyDie s d { x with notes := ns, cc := max x.cc (n.at_ + 20) } t) ∧
      (n.kind = .own → Sparse.find? (t.die d).l1 (l1Key n.core n.line) = some (if n.back = true then .e else .m) ∧
        ∀ b, ∀ e ∈ (t.die b).l1, e.1 % 2 ^ 52 = n.line → e.1 / 2 ^ 52 = n.core) ∧
      (n.kind = .read →
        let other := ∃ b, ∃ e ∈ (s.die b).l1, e.1 % 2 ^ 52 = n.line ∧ e.1 / 2 ^ 52 ≠ n.core
        let sharers := ∃ q, Sparse.find? (s.die (s.lineHome n.line)).dir n.line = some q ∧
          q.sharers &&& ~~~(BitVec.twoPow 4 d.val) ≠ 0
        (other ∨ sharers → Sparse.find? (t.die d).l1 (l1Key n.core n.line) = some .s) ∧
        (¬(other ∨ sharers) → Sparse.find? (t.die d).l1 (l1Key n.core n.line) = some .e) ∧
        ∀ b, ∀ e ∈ (t.die b).l1, e.1 % 2 ^ 52 = n.line → e.1 / 2 ^ 52 ≠ n.core → e.2 = .s)) ∧
  (∀ (s : State) (d : Fin 4) (line : Nat), ∃ t, exec (.hotLineCool d line) s = .next t ∧
    OnlyDie s d { s.die d with hot := (t.die d).hot } t ∧
    ∀ h, h ∈ (t.die d).hot ↔ h ∈ (s.die d).hot ∧
      ¬(h.line = line ∧ h.hot = true ∧ h.last + s.regF (rHotTh d) 31 16 * 1024 ≤ (s.die d).cc)) ∧
  (∀ (s : State) (d : Fin 4) (a : Fin 96),
    let busy := ∃ e ∈ s.hoops, e.2.die = d ∧ e.2.st = .resident ∧ 12 * e.2.cluster.val + e.2.coreNo.val = a.val
    let since := Sparse.getD (s.die d).coreIdle 0 a.val
    (busy ∨ a ∈ (s.die d).l1gated ∨ (s.die d).cc < since + 65536 → exec (.l1Gate d a) s = .next s) ∧
    (¬busy → a ∉ (s.die d).l1gated → since + 65536 ≤ (s.die d).cc → ∃ t, exec (.l1Gate d a) s = .next t ∧
      (t.die d).l1gated = (s.die d).l1gated ++ [a] ∧
      (∀ e, e ∈ (t.die d).l1 ↔ e ∈ (s.die d).l1 ∧ e.1 / 2 ^ 52 ≠ 96 * d.val + a.val) ∧
      t = { s with dies := t.dies })) ∧
  (∀ (s : State) (d : Fin 4) (x : BitVec 64), ∃ t, exec (.waygateWrite d x) s = .next t ∧
    t.regF (rWayGate d) 5 0 = getFld x 5 1 * 2 ∧
    t.regF (rWayGate d) 6 6 = (if getFld x 5 1 * 2 &&& s.regF (rWayGate d) 5 0 = getFld x 5 1 * 2 then s.regF (rWayGate d) 6 6
      else 1) ∧
    (∀ k, k ≠ rWayGate d → t.reg k = s.reg k) ∧ t = { s with regs := t.regs }) ∧
  (∀ (s : State) (d : Fin 4),
    (s.regF (rWayGate d) 6 6 = 0 → exec (.wayGatingDone d) s = .next s) ∧
    (s.regF (rWayGate d) 6 6 ≠ 0 → ∃ u t, exec (.wayGatingDone d) s = .next t ∧
      OnlyDie s d { s.die d with l2 := (u.die d).l2 } u ∧
      (∀ e, e ∈ (u.die d).l2 ↔ e ∈ (s.die d).l2 ∧ (s.reg (rWayGate d)).getLsbD (e.2.way / 4) = false) ∧
      OnlyFld u (rWayGate d) 6 6 0 t)) ∧
  (∀ (s : State) (d : Fin 4) (x : BitVec 64), ∃ t, exec (.keyRetire d x) s = .next t ∧
    t.regF (rKeyRet d) 11 0 = getFld x 11 0 ∧
    let go := getFld x 12 12 = 1 ∧ getFld x 11 0 ≠ 0 ∧ (s.die d).keyRet = none
    (¬go → t.retired = s.retired ∧ t.regF (rKeyRet d) 13 13 = s.regF (rKeyRet d) 13 13 ∧ t.dies = s.dies) ∧
    (go → (∀ k, k ∈ t.retired ↔ k ∈ s.retired ∨ k = getFld x 11 0) ∧ t.regF (rKeyRet d) 13 13 = 1 ∧
      (t.die d).keyRet = some (getFld x 11 0))) ∧
  (∀ (s : State) (d : Fin 4) (k : Nat), (s.die d).keyRet = some k →
    (∀ e ∈ s.cmds, e.2.stage = .sourced → ∀ a ∈ e.2.staged.writes, a.underKey k = false) →
    ∃ t, exec (.keyRetireDone d) s = .next t ∧ t.regF (rKeyRet d) 13 13 = 0 ∧ t.regF (rKeyRet d) 14 14 = 1 ∧
      (t.die d).keyRet = none ∧ (∀ e ∈ t.icache, e.2.key ≠ k) ∧
      (∀ b, (∀ e ∈ (t.die b).l1, hasKey k (e.1 % 2 ^ 52) = false) ∧ (∀ e ∈ (t.die b).l2, hasKey k e.1 = false) ∧
        (∀ e ∈ (t.die b).dir, hasKey k e.1 = false) ∧ ∀ m ∈ (t.die b).pending, hasKey k m.line = false) ∧
      (∀ q i, Sparse.find? s.lines (q / 64) = some i → i.key = k → t.physByte k q = Config.unrelatedByte i.stamp k q)) ∧
  (∀ (s : State) (d : Fin 4) (x : BitVec 64), s.recovering = true → exec (.tlbInvalidate d x) s = .next s) ∧
  (∀ (s : State) (d : Fin 4) (x : BitVec 64), s.recovering = false → ∃ t, exec (.tlbInvalidate d x) s = .next t ∧
    t.regF (rTlbCtl d) 9 0 = getFld x 9 0 ∧ (∀ k, k ≠ rTlbCtl d → t.reg k = s.reg k) ∧
    let go := getFld x 10 10 = 1 ∧ getFld x 7 0 ≤ 128 ∧ (s.die d).tlbInv = none
    (¬go → t = { s with regs := t.regs }) ∧
    (go → t.regF (rTlbCtl d) 11 11 = 1 ∧ t = { s with regs := t.regs, dies := t.dies } ∧
      (t.die d).tlbInv = some (getFld x 7 0, getFld x 9 8, s.regF (rTlbVa d) 52 0))) ∧
  (∀ (s : State) (d : Fin 4) (f size va : Nat), (s.die d).tlbInv = some (f, size, va) →
    let hit (l : Loc) := inRange f size va l = true ∨
      ∃ b, ∃ e ∈ (s.die b).tlb, e.dropped f size va = true ∧ e.holds l = true
    let left := (∃ e ∈ s.wales, ∃ h ∈ e.2.heldAll, ∃ l ∈ h.locs, hit l) ∨
      (∃ o ∈ s.owed, ∃ w hp b c pt g h, o = .held w hp b c pt g h ∧ ∃ l ∈ h.locs, hit l) ∨
      ∃ e ∈ s.cmds, ∃ a ∈ e.2.staged.writes, hit a.loc
    (left → exec (.tlbInvalidateDone d) s = .next s) ∧
    (¬left → ∃ t, exec (.tlbInvalidateDone d) s = .next t ∧ t.regF (rTlbCtl d) 11 11 = 0 ∧ t.regF (rTlbCtl d) 12 12 = 1 ∧
      (t.die d).tlbInv = none ∧ (∀ b, (t.die b).tlb = (s.die b).tlb.filter fun e => !e.dropped f size va) ∧
      (∀ q, q ∈ t.poisoned ↔ q ∈ s.poisoned ∧ ((∃ g, g < 129 ∧ s.leafFor g (leafMaps q) ≠ none) ∨
        ∃ b, ∃ e ∈ (s.die b).tlb, e.dropped f size va = false ∧ leafMaps q e.pte e.size = true)) ∧
      t = { s with regs := t.regs, dies := t.dies, poisoned := t.poisoned })) ∧
  (∀ (s : State) (d : Fin 4) (p : Fin 32) (x : BitVec 64),
    (s.recovering = true → exec (.dscWinWrite d p x) s = .next s) ∧
    (s.recovering = false → s.dscRefused d p x = true → ∃ t, exec (.dscWinWrite d p x) s = .next t ∧ OnlyFld s (rDscWin d p) 31 31 1 t) ∧
    (s.recovering = false → s.dscRefused d p x = false → ∃ t, exec (.dscWinWrite d p x) s = .next t ∧
      t.regF (rDscWin d p) 16 0 = getFld x 16 0 ∧ t.regF (rDscWin d p) 31 31 = 0 ∧
      t.regF (rDscWin d p) 17 17 =
        (if s.regF (rDscWin d p) 16 16 = 0 ∧ getFld x 16 16 = 1 then 1 else s.regF (rDscWin d p) 17 17) ∧
      (∀ k, k ≠ rDscWin d p → t.reg k = s.reg k) ∧ t = { s with regs := t.regs })) ∧
  (∀ (s : State) (d : Fin 4) (p : Fin 32), s.regF (rDscWin d p) 17 17 = 1 → Sparse.wf (s.die d).dsc = true →
    let lo := s.regF (rDscWin d p) 7 0 * 2 ^ 20
    let hi := lo + s.regF (rDscWin d p) 15 8 * 2 ^ 20
    ∃ t, exec (.windowZeroingDone d p) s = .next t ∧ t.regF (rDscWin d p) 17 17 = 0 ∧
      ∀ q, t.locByte (.dsc d.val q) 0 = if lo ≤ q ∧ q < hi then 0 else s.locByte (.dsc d.val q) 0) ∧
  (∀ (s : State) (d : Fin 4) (f : Fin 129) (x : BitVec 64),
    let sum := ((List.range 129).map fun g => if g = f.val then getFld x 7 0 else s.regF (rBwShare d g) 7 0).sum
    (s.recovering = true ∨ 256 < sum → exec (.bwshareWrite d f x) s = .next s) ∧
    (s.recovering = false → sum ≤ 256 → ∃ t, exec (.bwshareWrite d f x) s = .next t ∧ OnlyFld s (rBwShare d f) 7 0 (getFld x 7 0) t)) ∧
  (∀ (s : State) (d : Fin 4) (k : Fin 2) (temp : BitVec 16), ∃ t, exec (.hbmModeChange d k temp) s = .next t ∧
    let m := s.regF (rHbmStat d k) 17 16
    let m' := t.regF (rHbmStat d k) 17 16
    t.regF (rHbmStat d k) 15 0 = temp.toNat ∧
    (m' = 3 ↔ 1680 < temp.toInt ∨ (m = 3 ∧ 1632 ≤ temp.toInt)) ∧
    (2 ≤ m' ↔ 1520 < temp.toInt ∨ (2 ≤ m ∧ 1472 ≤ temp.toInt)) ∧
    (1 ≤ m' ↔ 1360 < temp.toInt ∨ (1 ≤ m ∧ 1312 ≤ temp.toInt)) ∧
    t.regF (rHbmStat d k) 26 18 = (if m' = 0 then 256 else if m' = 1 then 240 else if m' = 2 then 176 else 96) ∧
    t.regF (rBwBreach 0) 31 0 = if m < m' then (s.regF (rBwBreach 0) 31 0 + 1) % 2 ^ 32 else s.regF (rBwBreach 0) 31 0)

/-! ### Operations of the device: power and temperature -/

/-- 17 R378 to R391: tokens go round the ring and are taken where a burst is queued; a class takes effect when its cluster is empty; a
rail moves one code at a time toward its target, and does not fall while it holds; a partition above its allotment is throttled one
step further; allotments sum to the budget at most; THM_MAX is the hottest valid sensor, the lowest of equally hot ones; above THROT
every cluster steps down, from 2 C below it up again; above CRIT, or without a valid sensor for long, the device fails. The model's own
choices: log entries 33 (the top of THR), 34 (THM_MAX with no valid sensor). -/
def Obligations.PowerEvents : Prop :=
  (∀ (s : State) (d : Fin 4),
    (s.cmds = [] → (s.die d).tokens.length ≤ s.regF (rTokens d) 3 0 → ∃ t, exec (.tokenHop d) s = .next t ∧
      OnlyDie s d { s.die d with
        cc := (s.die d).cc + 4
        tokens := (s.die d).tokens.map fun k => { k with at_ := k.at_ + 1, held := false } } t) ∧
    (∀ k id c, (s.die d).tokens = [k] → k.held = false → 1 ≤ s.regF (rTokens d) 3 0 → (id, c) ∈ s.cmds → c.die = d →
      c.cluster = k.at_ + 1 → c.cls = 2 → c.isBurst = true → c.stage = .queued →
      ∃ t, exec (.tokenHop d) s = .next t ∧ OnlyDie s d { s.die d with
        cc := (s.die d).cc + 4
        tokens := [{ at_ := k.at_ + 1, held := true, since := (s.die d).cc + 4 }] } t)) ∧
  (∀ (s : State) (d : Fin 4) (c : Fin 8) (k : PTok), ((s.die d).tokens.find? fun t => t.at_ == c && t.held) = some k →
    ∃ t, exec (.tokenHoldLimit d c) s = .next t ∧ (t.die d).cc = max (s.die d).cc (k.since + s.holdLimit d c) ∧
      (s.burstsOf d c true = true → (t.die d).tokens = (s.die d).tokens) ∧
      (s.burstsOf d c true = false → (t.die d).tokens = (s.die d).tokens.map fun q =>
        if q.at_ = c ∧ q.held = true then { q with held := false } else q)) ∧
  (∀ (s : State) (d : Fin 4) (x : BitVec 64), s.recovering = true →
    exec (.pwrTokensWrite d x) s = .next s ∧ ∀ c, exec (.classWrite d c x) s = .next s) ∧
  (∀ (s : State) (d : Fin 4) (x : BitVec 64), s.recovering = false → ∃ t, exec (.pwrTokensWrite d x) s = .next t ∧
    let n := if 1 ≤ getFld x 3 0 ∧ getFld x 3 0 ≤ 8 then getFld x 3 0 else s.regF (rTokens d) 3 0
    t.regF (rTokens d) 3 0 = n ∧
    t.regF (rTokens d) 15 8 = (if getFld x 15 8 = 0 then s.regF (rTokens d) 15 8 else getFld x 15 8) ∧
    (t.die d).tokens = (s.die d).tokens ++ List.replicate (n - (s.die d).tokens.length) ⟨0, false, (s.die d).cc⟩) ∧
  (∀ (s : State) (d : Fin 4) (c : Fin 8) (x : BitVec 64), s.recovering = false →
    (s.clusterWales d c = 0 → ∃ t, exec (.classWrite d c x) s = .next t ∧ t.regF (rClust d c) 1 0 = getFld x 1 0 ∧
      t.regF (rClust d c) 2 2 = 0) ∧
    (s.clusterWales d c ≠ 0 → ∃ t, exec (.classWrite d c x) s = .next t ∧ t.regF (rClust d c) 1 0 = s.regF (rClust d c) 1 0 ∧
      t.regF (rClust d c) 2 2 = 1 ∧ Sparse.find? (t.die d).classPend c.val = some (Fin.ofNat 4 (getFld x 1 0)))) ∧
  (∀ (s : State) (d : Fin 4) (c : Fin 8) (k : Fin 4), Sparse.find? (s.die d).classPend c.val = some k →
    Sparse.wf (s.die d).classPend = true →
    (s.clusterWales d c ≠ 0 → exec (.classChangeApply d c) s = .next s) ∧
    (s.clusterWales d c = 0 → ∃ t, exec (.classChangeApply d c) s = .next t ∧ t.regF (rClust d c) 1 0 = k.val ∧
      t.regF (rClust d c) 2 2 = 0 ∧ Sparse.find? (t.die d).classPend c.val = none)) ∧
  (∀ (s : State) (d k : Fin 4),
    let v := s.regF (rRail d k) 7 0
    let w := s.regF (rRail d k) 15 8
    (∃ t, exec (.railStep d k) s = .next t ∧ t.regF (rRail d k) 7 0 =
      (if v < w then v + 1 else if w < v ∧ s.regF (rRail d k) 24 24 = 0 then v - 1 else v) ∧
      t.regF (rRail d k) 15 8 = w ∧ t.regF (rRail d k) 24 24 = s.regF (rRail d k) 24 24) ∧
    ∃ t, exec (.railHoldExpiry d k) s = .next t ∧ OnlyFld s (rRail d k) 24 24 0 t) ∧
  (∀ (s : State) (p : Fin 32) (avg : BitVec 16) (mj : BitVec 64), (∀ d : Fin 4, s.regF (rHoldPt d) 4 0 ≤ 16) →
    let w := s.regF (rAllot p) 11 0
    let thr := s.regF (rMeter p) 19 16
    let top := ((s.clustersOf p).map fun e => s.targetRatio e.1 e.2 - 4).foldl max 0
    ∃ t, exec (.allotmentThrottle p avg mj) s = .next t ∧ t.regF (rMeter p) 15 0 = avg.toNat ∧
      t.regF (rMeter p) 19 16 =
        (if w < avg.toNat then min (thr + 1) top else if 100 * avg.toNat < 95 * w then thr - 1 else thr) ∧
      t.reg (rEj p) = s.reg (rEj p) + mj) ∧
  (∀ (s : State) (p : Fin 32) (x : BitVec 64),
    let sum := ((List.range 32).map fun q => if q = p.val then getFld x 11 0 else s.regF (rAllot q) 11 0).sum
    (s.recovering = true ∨ s.regF rBudget 11 0 < sum → exec (.pwrAllotWrite p x) s = .next s) ∧
    (s.recovering = false → sum ≤ s.regF rBudget 11 0 → ∃ t, exec (.pwrAllotWrite p x) s = .next t ∧ OnlyFld s (rAllot p) 11 0 (getFld x 11 0) t)) ∧
  (∀ (s : State) (d : Fin 4) (raw : List (BitVec 16 × Bool)), ∃ t, exec (.thermalSensorUpdate d raw) s = .next t ∧
    (∀ n v ok, n < 64 → raw[n]? = some (v, ok) →
      (t.reg (rThmSens d n)).setWidth 16 = v + (s.reg (rThmCal d n)).setWidth 16 ∧
      (t.reg (rThmSens d n)).getLsbD 16 = ok) ∧
    let valid (n : Nat) : Prop := n < 64 ∧ (t.reg (rThmSens d n)).getLsbD 16 = true
    ((t.die d).noSensor = true ↔ ∀ n, ¬valid n) ∧
    ((∃ n, valid n) → ∃ m, valid m ∧ t.regF (rThmMax d) 15 0 = t.regF (rThmSens d m) 15 0 ∧ t.regF (rThmMax d) 21 16 = m ∧
      ∀ n, valid n → t.tempAt (rThmSens d n) ≤ t.tempAt (rThmSens d m) ∧
        (n < m → t.tempAt (rThmSens d n) < t.tempAt (rThmSens d m))) ∧
    ((∀ n, ¬valid n) → t.reg (rThmMax d) = s.reg (rThmMax d) ∧ ∀ c, vget (t.die d).bins c = 15)) ∧
  (∀ (s : State) (d : Fin 4),
    let temp := s.tempAt (rThmMax d)
    let throt := s.tempAt (rThmTrip d)
    ((s.die d).noSensor = true ∨ (temp ≤ throt ∧ throt - 32 < temp) → exec (.thermalThrottleStep d) s = .next s) ∧
    ((s.die d).noSensor = false → temp ≤ throt - 32 → ∃ t, exec (.thermalThrottleStep d) s = .next t ∧
      ∀ c, vget (t.die d).thmSteps c = vget (s.die d).thmSteps c - 1) ∧
    ((s.die d).noSensor = false → throt < temp → ∃ t, exec (.thermalThrottleStep d) s = .next t ∧
      ∀ c, vget (t.die d).thmSteps c = vget (s.die d).thmSteps c + if 4 < s.ratioOf d c then 1 else 0)) ∧
  (∀ (s : State) (d : Fin 4),
    let hot := (s.die d).noSensor = false ∧ ((s.reg (rThmTrip d)).extractLsb' 16 16).toInt < s.tempAt (rThmMax d)
    (hot → exec (.thermalTrip d) s = .next (s.fatalError 4 d)) ∧ (¬hot → exec (.thermalTrip d) s = .next s) ∧
    ((s.die d).noSensor = true → exec (.noValidSensorTimeout d) s = .next (s.fatalError 4 d)) ∧
    ((s.die d).noSensor = false → exec (.noValidSensorTimeout d) s = .next s))

/-! ### Operations of the device: host -/

/-- 16 R365 to R367, 00 R8, 18 R394, R397: a read of the window returns the bytes of the function's pages, or Unsupported Request; a
write is performed or dropped. A register write of the host reaches its register's RW bits, or the operation of its register, and
nothing where no register lies; one of a firmware layer must be allowed by its core's protection regions: else the plug-in is stopped,
or a scheduler or monitor fault is a fatal device error of cause 5. After boot the monitor alone may write QSM_WINDOW, and a plug-in no
register (log entry 99); a layer that does not run writes nothing. The monitor stops a plug-in; each millisecond the scheduler writes a
record for every function whose ring is enabled, and the counts of the interval start again for every function. The model's own choices:
log entries 38 (a host's write that must wait is kept and performed later), 66 (which registers firmware reaches), 99, 100 (what the PF may
write in recovery). -/
def Obligations.HostEvents : Prop :=
  (∀ (s : State) (f : Fin 129) (o : BitVec 30),
    (s.regF (rHwin f) 0 0 = 0 →
      (∀ n, ∃ t, exec (.hostWindowRead f o n) s = .next t ∧ t = { s with hostRead := .unsupported }) ∧
      ∀ bs, exec (.hostWindowWrite f o bs) s = .next s) ∧
    (s.regF (rHwin f) 0 0 = 1 →
      let va := s.regF (rHwin f) 52 30 * 2 ^ 30 + o.toNat
      (∀ (n : Fin 65) bs u, 0 < n.val → va % 8192 + n.val ≤ 8192 → s.feRead f va n = .ok (bs, u) →
        ∃ t, exec (.hostWindowRead f o n) s = .next t ∧ t = { u with hostRead := .data bs }) ∧
      (∀ (n : Fin 65) e, 0 < n.val → va % 8192 + n.val ≤ 8192 → s.feRead f va n = .error e →
        (e.waits = true → exec (.hostWindowRead f o n) s = .next (s.failed e)) ∧
        (e.waits = false → ∃ t, exec (.hostWindowRead f o n) s = .next t ∧
          t = { s.failed e with hostRead := .unsupported })) ∧
      (∀ bs u, bs ≠ [] → va % 64 + bs.length ≤ 64 → s.feWrite f va bs = some u →
        exec (.hostWindowWrite f o bs) s = .next u) ∧
      (∀ bs, bs ≠ [] → va % 64 + bs.length ≤ 64 → s.feWrite f va bs = none →
        exec (.hostWindowWrite f o bs) s = .next (s.feTry f va bs) ∧
        ∃ r, s.feTry f va bs = { s with regs := r }))) ∧
  (∀ (s : State) (f : Fin 129) (x : BitVec 64),
    (∀ off, off % 8 ≠ 0 ∨ (0x10000 ≤ off ∧ (f ≠ 0 ∨ off < 0x100000 ∨ 0x2000000 ≤ off)) →
      exec (.registerWrite f off x none) s = .next s) ∧
    (∀ q : Fin 64, exec (.registerWrite f (8 * q.val) x none) s = exec (.vfQnotify f q x) s) ∧
    (s.regF rBootStat 3 0 ≠ 0xF ∨ f ≠ 0 → ∃ t, exec (.registerWrite f 0x1028 x none) s = .next t ∧ OnlyFld s (rCtxSize f) 31 0 (getFld x 31 0) t) ∧
    (s.regF rBootStat 3 0 = 0xF →
      (∀ a, a ≠ rPkgRst → a ≠ rHwin 0 → a ≠ rPtRoot 0 → exec (.registerWrite 0 a x none) s = .next s) ∧
      exec (.registerWrite 0 rPkgRst x none) s = exec (.fwPkgrstGo x) s) ∧
    (∀ d : Fin 4, exec (.registerWrite 0 (rQsmWindow d) x none) s = .next s ∧
      exec (.registerWrite 0 (rQsmStatus d) x none) s = .next s ∧
      (s.regF (rQsmCtl d) 0 0 = 0 → exec (.registerWrite 0 (rQsmInject d) x none) s = .next s))) ∧
  (∀ (s : State) (f : Fin 129) (core : Fin 4) (layer : FwLayer) (a : Nat) (x : BitVec 64),
    (s.layerRuns layer = false → exec (.registerWrite f a x (some (core, layer))) s = .next s) ∧
    (s.layerRuns layer = true → s.mayWrite core layer a = false →
      (∀ g, layer = .plugin g → ∃ t, exec (.registerWrite f a x (some (core, layer))) s = .next t ∧
        (∀ h, h ∈ t.pluginStopped ↔ h ∈ s.pluginStopped ∨ h = g.val) ∧ t = { s with pluginStopped := t.pluginStopped }) ∧
      ((∀ g, layer ≠ .plugin g) →
        exec (.registerWrite f a x (some (core, layer))) s = .next (s.fatalError 5 core))) ∧
    (s.mayWrite core layer a = true → a % 8 ≠ 0 ∨ mgmtOffset a = none →
      exec (.registerWrite f a x (some (core, layer))) s = .next s) ∧
    (∀ d : Fin 4, s.layerRuns layer = true → s.mayWrite core layer (0x80000000 + 0x400000 * d.val + 8) = true →
      exec (.registerWrite f (0x80000000 + 0x400000 * d.val + 8) x (some (core, layer))) s = exec (.qsmWindowWrite d x) s) ∧
    (∀ d : Fin 4, s.layerRuns layer = true → s.mayWrite core layer (0x80000000 + 0x400000 * d.val + 0x18) = true →
      ∃ t, exec (.registerWrite f (0x80000000 + 0x400000 * d.val + 0x18) x (some (core, layer))) s = .next t ∧
        OnlyReg s (rQsmStatus d) (s.reg (rQsmStatus d) &&& ~~~(x &&& 0xF)) t) ∧
    (∀ d : Fin 4, State.reset.mayWrite core .monitor (0x80000000 + 0x400000 * d.val + 8) = true ∧
      State.reset.mayWrite core .scheduler (0x80000000 + 0x400000 * d.val + 8) = false ∧
      ∀ g, State.reset.mayWrite core (.plugin g) a = false)) ∧
  (∀ (s : State) (f : Fin 129) (i : Instr), i = .pluginTimeout f ∨ i = .pluginViolation f →
    ∃ t, exec i s = .next t ∧ (∀ g, g ∈ t.pluginStopped ↔ g ∈ s.pluginStopped ∨ g = f.val) ∧
      t = { s with pluginStopped := t.pluginStopped }) ∧
  (∀ s : State, s.layerRuns .scheduler = false → exec .telemetryRecord s = .next { s with usTime := s.usTime + 1000 }) ∧
  (∀ s : State, s.layerRuns .scheduler = true → Sparse.wf s.telem = true →
    ∃ t, exec .telemetryRecord s = .next t ∧ t.usTime = s.usTime + 1000 ∧
    ((∀ f, f < 129 → s.regF (rTelem f) 0 0 = 0) → t = { s with usTime := s.usTime + 1000, telem := t.telem }) ∧
    ∀ f, f < 129 →
      let q := Sparse.getD s.telem (0, 0, 0, 0, 0) f
      Sparse.getD t.telem (0, 0, 0, 0, 0) f = (q.1 + s.regF (rTelem f) 0 0, 0, 0, 0, q.2.2.2.2))

/-! ### Reset, invariant, encodings -/

/-- 02 R48, 13 R299, 16 R366, 18 R400: what reset leaves: no work anywhere, memory unwritten and in its canonical form, no warm reset, no
fatal error, every die admitted (log entry 11), the registers at the values of their tables; in the step then taken the first link
trains by itself (log entry 31), and nothing else happens. -/
def Obligations.ResetState : Prop :=
  Memory.wf State.reset.mem ∧ State.reset.wales = [] ∧ State.reset.baskets = [] ∧ State.reset.cmds = [] ∧
  State.reset.nodes = [] ∧ State.reset.dieUp = 0xF ∧ State.reset.warm = none ∧ State.reset.fatal = false ∧
  (∀ d : Fin 4, State.reset.window d = 0x60 ∧ State.reset.reg (rQsmCtl d) = 0x400022 ∧ State.reset.reg (rTokens d) = 0x1006 ∧
    State.reset.reg (rThmTrip d) = 0x7D00730 ∧ ∀ n, (State.reset.reuseEntry d n).valid = false ∧ State.reset.signal d n = 0) ∧
  (∀ (f : Fin 129) (q : Fin 64), State.reset.qEn f q = false ∧ State.reset.qLog f q = 4 ∧ State.reset.qHead f q = 0) ∧
  (∀ f : Fin 129, State.reset.regF (rPtRoot f) 0 0 = 0) ∧ State.reset.reg rPreempt = 100 ∧
  ∃ t : State, step State.reset = .next t ∧ t.linkState 0 = 2 ∧ (∀ k, k ≠ rDlStat 0 → t.reg k = regReset k) ∧
    t = { State.reset with regs := t.regs, free := 1 }

/-- Every step keeps the canonical form of memory: addresses strictly rising (14 R306, R319; log entry 4). -/
def Obligations.StepKeepsMemoryForm : Prop :=
  ∀ s t : State, Memory.wf s.mem → step s = .next t → Memory.wf t.mem

/-- A few words, written out from the spec's encodings (04 R97 to R108), decode to what they stand for. -/
def Obligations.DecodeWords : Prop :=
  (∃ o : ROps, decode 0x01000000C0300BFF00000000 = some (.iadd o) ∧ o.d = .v 3 ∧ o.a = .v 3 ∧ o.b = .v 2) ∧
  (∃ o : IOps, decode 0x020080415050000000000001 = some (.isubI o) ∧ o.d = .s 5 ∧ o.a = .s 5 ∧ o.imm = 1) ∧
  (∃ o : BOps, decode 0x7100004140000000FFFFFFFE = some (.brcNz o) ∧ o.a = .s 5 ∧ o.dist = 0xFFFFFFFE) ∧
  (∃ o : BOps, decode 0x72000050C000000000000004 = some (.brd o) ∧ o.a = .p 3 ∧ o.dist = 4) ∧
  decode 0 = none
end

