-- ==== Sys2Proof/Laws/Sparse.lean ====
section
/-! SUPPORT. Laws of sparse maps, memory lists, vectors and lanes. -/

namespace Sys2Proof

/-! ### Reading after writing -/

@[simp] theorem Sparse.find?_nil {β : Type} (k : Nat) : Sparse.find? ([] : Sparse β) k = none := rfl

theorem Sparse.find?_put_self {β : Type} (m : Sparse β) (n : Nat) (v : β) : Sparse.find? (Sparse.put m n v) n = some v := by
  induction m with
  | nil => simp [Sparse.put, Sparse.find?]
  | cons e m ih =>
    obtain ⟨k, w⟩ := e
    simp only [Sparse.put]
    split
    · simp [Sparse.find?]
    · split
      · simp [Sparse.find?]
      · simp [Sparse.find?, *]

theorem Sparse.find?_put_ne {β : Type} (m : Sparse β) {n k : Nat} (v : β) (h : k ≠ n) :
    Sparse.find? (Sparse.put m n v) k = Sparse.find? m k := by
  induction m with
  | nil => simp [Sparse.put, Sparse.find?, h]
  | cons e m ih =>
    obtain ⟨j, w⟩ := e
    simp only [Sparse.put]
    split
    · subst j; simp [Sparse.find?, h]
    · split
      · simp only [Sparse.find?, h, if_false]
        split
        · split
          · omega
          · split <;> first | rfl | omega
        · rfl
      · simp only [Sparse.find?, ih]

theorem Sparse.find?_put {β : Type} (m : Sparse β) (n k : Nat) (v : β) :
    Sparse.find? (Sparse.put m n v) k = if k = n then some v else Sparse.find? m k := by
  split
  · subst k; exact Sparse.find?_put_self m n v
  · exact Sparse.find?_put_ne m v ‹_›

/-- Listing again what is listed changes nothing. -/
theorem Sparse.put_find? {β : Type} {m : Sparse β} {n : Nat} {v : β} (h : Sparse.find? m n = some v) :
    Sparse.put m n v = m := by
  induction m with
  | nil => simp at h
  | cons e m ih =>
    obtain ⟨k, w⟩ := e
    simp only [Sparse.find?] at h
    simp only [Sparse.put]
    split at h
    · simp_all
    · split at h
      · simp at h
      · simp_all

/-- The last of two writes at a key holds. -/
theorem Sparse.put_put {β : Type} (m : Sparse β) (n : Nat) (v w : β) :
    Sparse.put (Sparse.put m n v) n w = Sparse.put m n w := by
  induction m with
  | nil => simp [Sparse.put]
  | cons e m ih =>
    obtain ⟨k, u⟩ := e
    simp only [Sparse.put]
    split
    · simp [Sparse.put]
    · split
      · simp [Sparse.put]
      · simp [Sparse.put, *]

theorem Sparse.getD_put {β : Type} (m : Sparse β) (d : β) (n k : Nat) (v : β) :
    Sparse.getD (Sparse.put m n v) d k = if k = n then v else Sparse.getD m d k := by
  simp only [Sparse.getD, Sparse.find?_put]; split <;> simp

theorem Sparse.find?_upd_ne {β : Type} (m : Sparse β) {n k : Nat} (f : β → β) (h : k ≠ n) :
    Sparse.find? (Sparse.upd m n f) k = Sparse.find? m k := by
  unfold Sparse.upd; split
  · exact Sparse.find?_put_ne m _ h
  · rfl

theorem Sparse.find?_upd_self {β : Type} (m : Sparse β) (n : Nat) (f : β → β) :
    Sparse.find? (Sparse.upd m n f) n = (Sparse.find? m n).map f := by
  unfold Sparse.upd; split
  · simp [Sparse.find?_put_self, *]
  · simp [*]

/-! ### Canonical form -/

theorem Sparse.wfFrom_mono {β : Type} {m : Sparse β} {a b : Nat} (h : a ≤ b) (w : Sparse.wfFrom b m = true) :
    Sparse.wfFrom a m = true := by
  cases m with
  | nil => rfl
  | cons e m => obtain ⟨k, v⟩ := e; simp [Sparse.wfFrom] at *; exact ⟨by omega, w.2⟩

theorem Sparse.wfFrom_put {β : Type} {m : Sparse β} {a n : Nat} (v : β) (h : a ≤ n) (w : Sparse.wfFrom a m = true) :
    Sparse.wfFrom a (Sparse.put m n v) = true := by
  induction m generalizing a with
  | nil => simp [Sparse.put, Sparse.wfFrom, h]
  | cons e m ih =>
    obtain ⟨k, u⟩ := e
    simp only [Sparse.wfFrom, Bool.and_eq_true, decide_eq_true_eq] at w
    simp only [Sparse.put]
    split
    · subst n; simp [Sparse.wfFrom, h, w.2]
    · split
      · simp [Sparse.wfFrom, h, w.2]; omega
      · simp only [Sparse.wfFrom, Bool.and_eq_true, decide_eq_true_eq]
        exact ⟨w.1, ih (by omega) w.2⟩

theorem Sparse.wf_put {β : Type} {m : Sparse β} (n : Nat) (v : β) (w : Sparse.wf m = true) :
    Sparse.wf (Sparse.put m n v) = true :=
  Sparse.wfFrom_put v (Nat.zero_le n) w

theorem Sparse.wfFrom_del {β : Type} {m : Sparse β} {a : Nat} (n : Nat) (w : Sparse.wfFrom a m = true) :
    Sparse.wfFrom a (Sparse.del m n) = true := by
  induction m generalizing a with
  | nil => rfl
  | cons e m ih =>
    obtain ⟨k, u⟩ := e
    simp only [Sparse.wfFrom, Bool.and_eq_true, decide_eq_true_eq] at w
    simp only [Sparse.del]
    split
    · exact Sparse.wfFrom_mono (by omega) w.2
    · split
      · simp [Sparse.wfFrom, w]
      · simp only [Sparse.wfFrom, Bool.and_eq_true, decide_eq_true_eq]; exact ⟨w.1, ih w.2⟩

theorem Sparse.wf_del {β : Type} {m : Sparse β} (n : Nat) (w : Sparse.wf m = true) : Sparse.wf (Sparse.del m n) = true :=
  Sparse.wfFrom_del n w

theorem Sparse.wf_upd {β : Type} {m : Sparse β} (n : Nat) (f : β → β) (w : Sparse.wf m = true) :
    Sparse.wf (Sparse.upd m n f) = true := by
  unfold Sparse.upd; split
  · exact Sparse.wf_put n _ w
  · exact w

theorem Sparse.wf_setD {β : Type} [DecidableEq β] {m : Sparse β} (d : β) (n : Nat) (v : β) (w : Sparse.wf m = true) :
    Sparse.wf (Sparse.setD m d n v) = true := by
  unfold Sparse.setD; split
  · exact Sparse.wf_del n w
  · exact Sparse.wf_put n v w

/-- A key below the least possible one is not listed. -/
theorem Sparse.find?_of_lt {β : Type} {m : Sparse β} {a k : Nat} (w : Sparse.wfFrom a m = true) (h : k < a) :
    Sparse.find? m k = none := by
  cases m with
  | nil => rfl
  | cons e m =>
    obtain ⟨j, u⟩ := e
    simp only [Sparse.wfFrom, Bool.and_eq_true, decide_eq_true_eq] at w
    simp only [Sparse.find?]
    split
    · omega
    · split
      · rfl
      · omega

theorem Sparse.find?_del {β : Type} {m : Sparse β} {a : Nat} (n k : Nat) (w : Sparse.wfFrom a m = true) :
    Sparse.find? (Sparse.del m n) k = if k = n then none else Sparse.find? m k := by
  induction m generalizing a with
  | nil => simp [Sparse.del]
  | cons e m ih =>
    obtain ⟨j, u⟩ := e
    simp only [Sparse.wfFrom, Bool.and_eq_true, decide_eq_true_eq] at w
    simp only [Sparse.del]
    split
    · subst j
      split
      · subst k; exact Sparse.find?_of_lt w.2 (by omega)
      · simp only [Sparse.find?]
        split
        · contradiction
        · split
          · exact Sparse.find?_of_lt w.2 (by omega)
          · rfl
    · split
      · split
        · subst k; simp only [Sparse.find?]; simp [*]
        · rfl
      · simp only [Sparse.find?, ih w.2]
        split
        · subst k; simp; intro h; omega
        · split <;> split <;> simp_all

theorem Sparse.getD_setD {β : Type} [DecidableEq β] {m : Sparse β} (d : β) (n k : Nat) (v : β) (w : Sparse.wf m = true) :
    Sparse.getD (Sparse.setD m d n v) d k = if k = n then v else Sparse.getD m d k := by
  unfold Sparse.setD
  split
  · subst v; simp only [Sparse.getD, Sparse.find?_del n k w]; split <;> simp
  · exact Sparse.getD_put m d n k v

/-! ### Vectors and lanes -/

@[simp] theorem vget_vset {α : Type} {n : Nat} (x : Vector α n) (i j : Fin n) (a : α) :
    vget (vset x i a) j = if j = i then a else vget x j := by
  simp [vget, vset]

@[simp] theorem vget_vmap {α β : Type} {n : Nat} (f : α → β) (x : Vector α n) (i : Fin n) :
    vget (vmap f x) i = f (vget x i) := by
  simp [vget, vmap]

@[simp] theorem vget_mix (o x : Lanes) (m : Mask) (i : Fin 32) :
    vget (Lanes.mix o m x) i = if m.getLsbD i.val then vget x i else vget o i := by
  simp [vget, Lanes.mix]

@[simp] theorem vget_all (x : Word) (i : Fin 32) : vget (Lanes.all x) i = x := by
  simp [vget, Lanes.all]

@[simp] theorem vget_ofFn {α : Type} {n : Nat} (f : Fin n → α) (i : Fin n) : vget (Vector.ofFn f) i = f i := by
  simp [vget]

theorem vset_vget {α : Type} {n : Nat} (x : Vector α n) (i : Fin n) : vset x i (vget x i) = x := by
  apply Vector.ext; intro j hj
  simp only [vset, vget, Vector.getElem_ofFn]
  split
  · simp [← ‹_ = i›]
  · rfl

end Sys2Proof
end

