-- ==== Sys2Proof/Laws/State.lean ====
section
/-! SUPPORT. Laws of `State`: every field after every update, and what the accessors read after them. -/

namespace Sys2Proof.Machine

/-! ### `setWale` -/

@[simp] theorem State.setWale_agenda (s : State) (w : Nat) (x : Wale) : (s.setWale w x).agenda = s.agenda := rfl
@[simp] theorem State.setWale_cur (s : State) (w : Nat) (x : Wale) : (s.setWale w x).cur = s.cur := rfl
@[simp] theorem State.setWale_order (s : State) (w : Nat) (x : Wale) : (s.setWale w x).order = s.order := rfl
@[simp] theorem State.setWale_turn (s : State) (w : Nat) (x : Wale) : (s.setWale w x).turn = s.turn := rfl
@[simp] theorem State.setWale_free (s : State) (w : Nat) (x : Wale) : (s.setWale w x).free = s.free := rfl
@[simp] theorem State.setWale_wales (s : State) (w : Nat) (x : Wale) : (s.setWale w x).wales = Sparse.put s.wales w x := rfl
@[simp] theorem State.setWale_hoops (s : State) (w : Nat) (x : Wale) : (s.setWale w x).hoops = s.hoops := rfl
@[simp] theorem State.setWale_skeins (s : State) (w : Nat) (x : Wale) : (s.setWale w x).skeins = s.skeins := rfl
@[simp] theorem State.setWale_baskets (s : State) (w : Nat) (x : Wale) : (s.setWale w x).baskets = s.baskets := rfl
@[simp] theorem State.setWale_cmds (s : State) (w : Nat) (x : Wale) : (s.setWale w x).cmds = s.cmds := rfl
@[simp] theorem State.setWale_owed (s : State) (w : Nat) (x : Wale) : (s.setWale w x).owed = s.owed := rfl
@[simp] theorem State.setWale_nextId (s : State) (w : Nat) (x : Wale) : (s.setWale w x).nextId = s.nextId := rfl
@[simp] theorem State.setWale_nextPlace (s : State) (w : Nat) (x : Wale) : (s.setWale w x).nextPlace = s.nextPlace := rfl
@[simp] theorem State.setWale_mem (s : State) (w : Nat) (x : Wale) : (s.setWale w x).mem = s.mem := rfl
@[simp] theorem State.setWale_lines (s : State) (w : Nat) (x : Wale) : (s.setWale w x).lines = s.lines := rfl
@[simp] theorem State.setWale_epoch (s : State) (w : Nat) (x : Wale) : (s.setWale w x).epoch = s.epoch := rfl
@[simp] theorem State.setWale_unpub (s : State) (w : Nat) (x : Wale) : (s.setWale w x).unpub = s.unpub := rfl
@[simp] theorem State.setWale_icache (s : State) (w : Nat) (x : Wale) : (s.setWale w x).icache = s.icache := rfl
@[simp] theorem State.setWale_spad (s : State) (w : Nat) (x : Wale) : (s.setWale w x).spad = s.spad := rfl
@[simp] theorem State.setWale_priv (s : State) (w : Nat) (x : Wale) : (s.setWale w x).priv = s.priv := rfl
@[simp] theorem State.setWale_retired (s : State) (w : Nat) (x : Wale) : (s.setWale w x).retired = s.retired := rfl
@[simp] theorem State.setWale_dies (s : State) (w : Nat) (x : Wale) : (s.setWale w x).dies = s.dies := rfl
@[simp] theorem State.setWale_regs (s : State) (w : Nat) (x : Wale) : (s.setWale w x).regs = s.regs := rfl
@[simp] theorem State.setWale_partMap (s : State) (w : Nat) (x : Wale) : (s.setWale w x).partMap = s.partMap := rfl
@[simp] theorem State.setWale_partPending (s : State) (w : Nat) (x : Wale) : (s.setWale w x).partPending = s.partPending := rfl
@[simp] theorem State.setWale_nodes (s : State) (w : Nat) (x : Wale) : (s.setWale w x).nodes = s.nodes := rfl
@[simp] theorem State.setWale_pageReqs (s : State) (w : Nat) (x : Wale) : (s.setWale w x).pageReqs = s.pageReqs := rfl
@[simp] theorem State.setWale_dieUp (s : State) (w : Nat) (x : Wale) : (s.setWale w x).dieUp = s.dieUp := rfl
@[simp] theorem State.setWale_dieEpoch (s : State) (w : Nat) (x : Wale) : (s.setWale w x).dieEpoch = s.dieEpoch := rfl
@[simp] theorem State.setWale_warm (s : State) (w : Nat) (x : Wale) : (s.setWale w x).warm = s.warm := rfl
@[simp] theorem State.setWale_links (s : State) (w : Nat) (x : Wale) : (s.setWale w x).links = s.links := rfl
@[simp] theorem State.setWale_grants (s : State) (w : Nat) (x : Wale) : (s.setWale w x).grants = s.grants := rfl
@[simp] theorem State.setWale_peerEpochs (s : State) (w : Nat) (x : Wale) : (s.setWale w x).peerEpochs = s.peerEpochs := rfl
@[simp] theorem State.setWale_peerGrants (s : State) (w : Nat) (x : Wale) : (s.setWale w x).peerGrants = s.peerGrants := rfl
@[simp] theorem State.setWale_peerOut (s : State) (w : Nat) (x : Wale) : (s.setWale w x).peerOut = s.peerOut := rfl
@[simp] theorem State.setWale_poisoned (s : State) (w : Nat) (x : Wale) : (s.setWale w x).poisoned = s.poisoned := rfl
@[simp] theorem State.setWale_ctxRuns (s : State) (w : Nat) (x : Wale) : (s.setWale w x).ctxRuns = s.ctxRuns := rfl
@[simp] theorem State.setWale_wsOp (s : State) (w : Nat) (x : Wale) : (s.setWale w x).wsOp = s.wsOp := rfl
@[simp] theorem State.setWale_closed (s : State) (w : Nat) (x : Wale) : (s.setWale w x).closed = s.closed := rfl
@[simp] theorem State.setWale_flr (s : State) (w : Nat) (x : Wale) : (s.setWale w x).flr = s.flr := rfl
@[simp] theorem State.setWale_rr (s : State) (w : Nat) (x : Wale) : (s.setWale w x).rr = s.rr := rfl
@[simp] theorem State.setWale_sigWaits (s : State) (w : Nat) (x : Wale) : (s.setWale w x).sigWaits = s.sigWaits := rfl
@[simp] theorem State.setWale_worlds (s : State) (w : Nat) (x : Wale) : (s.setWale w x).worlds = s.worlds := rfl
@[simp] theorem State.setWale_svn (s : State) (w : Nat) (x : Wale) : (s.setWale w x).svn = s.svn := rfl
@[simp] theorem State.setWale_peerReply (s : State) (w : Nat) (x : Wale) : (s.setWale w x).peerReply = s.peerReply := rfl
@[simp] theorem State.setWale_telem (s : State) (w : Nat) (x : Wale) : (s.setWale w x).telem = s.telem := rfl
@[simp] theorem State.setWale_usTime (s : State) (w : Nat) (x : Wale) : (s.setWale w x).usTime = s.usTime := rfl
@[simp] theorem State.setWale_prot (s : State) (w : Nat) (x : Wale) : (s.setWale w x).prot = s.prot := rfl
@[simp] theorem State.setWale_pluginStopped (s : State) (w : Nat) (x : Wale) : (s.setWale w x).pluginStopped = s.pluginStopped := rfl
@[simp] theorem State.setWale_fatal (s : State) (w : Nat) (x : Wale) : (s.setWale w x).fatal = s.fatal := rfl
@[simp] theorem State.setWale_dumping (s : State) (w : Nat) (x : Wale) : (s.setWale w x).dumping = s.dumping := rfl
@[simp] theorem State.setWale_rstGo (s : State) (w : Nat) (x : Wale) : (s.setWale w x).rstGo = s.rstGo := rfl
@[simp] theorem State.setWale_collInst (s : State) (w : Nat) (x : Wale) : (s.setWale w x).collInst = s.collInst := rfl
@[simp] theorem State.setWale_hostRead (s : State) (w : Nat) (x : Wale) : (s.setWale w x).hostRead = s.hostRead := rfl
@[simp] theorem State.setWale_msix (s : State) (w : Nat) (x : Wale) : (s.setWale w x).msix = s.msix := rfl
@[simp] theorem State.setWale_aer (s : State) (w : Nat) (x : Wale) : (s.setWale w x).aer = s.aer := rfl

/-! ### `updWale` -/

@[simp] theorem State.updWale_agenda (s : State) (w : Nat) (f : Wale → Wale) : (s.updWale w f).agenda = s.agenda := rfl
@[simp] theorem State.updWale_cur (s : State) (w : Nat) (f : Wale → Wale) : (s.updWale w f).cur = s.cur := rfl
@[simp] theorem State.updWale_order (s : State) (w : Nat) (f : Wale → Wale) : (s.updWale w f).order = s.order := rfl
@[simp] theorem State.updWale_turn (s : State) (w : Nat) (f : Wale → Wale) : (s.updWale w f).turn = s.turn := rfl
@[simp] theorem State.updWale_free (s : State) (w : Nat) (f : Wale → Wale) : (s.updWale w f).free = s.free := rfl
@[simp] theorem State.updWale_wales (s : State) (w : Nat) (f : Wale → Wale) : (s.updWale w f).wales = Sparse.upd s.wales w f := rfl
@[simp] theorem State.updWale_hoops (s : State) (w : Nat) (f : Wale → Wale) : (s.updWale w f).hoops = s.hoops := rfl
@[simp] theorem State.updWale_skeins (s : State) (w : Nat) (f : Wale → Wale) : (s.updWale w f).skeins = s.skeins := rfl
@[simp] theorem State.updWale_baskets (s : State) (w : Nat) (f : Wale → Wale) : (s.updWale w f).baskets = s.baskets := rfl
@[simp] theorem State.updWale_cmds (s : State) (w : Nat) (f : Wale → Wale) : (s.updWale w f).cmds = s.cmds := rfl
@[simp] theorem State.updWale_owed (s : State) (w : Nat) (f : Wale → Wale) : (s.updWale w f).owed = s.owed := rfl
@[simp] theorem State.updWale_nextId (s : State) (w : Nat) (f : Wale → Wale) : (s.updWale w f).nextId = s.nextId := rfl
@[simp] theorem State.updWale_nextPlace (s : State) (w : Nat) (f : Wale → Wale) : (s.updWale w f).nextPlace = s.nextPlace := rfl
@[simp] theorem State.updWale_mem (s : State) (w : Nat) (f : Wale → Wale) : (s.updWale w f).mem = s.mem := rfl
@[simp] theorem State.updWale_lines (s : State) (w : Nat) (f : Wale → Wale) : (s.updWale w f).lines = s.lines := rfl
@[simp] theorem State.updWale_epoch (s : State) (w : Nat) (f : Wale → Wale) : (s.updWale w f).epoch = s.epoch := rfl
@[simp] theorem State.updWale_unpub (s : State) (w : Nat) (f : Wale → Wale) : (s.updWale w f).unpub = s.unpub := rfl
@[simp] theorem State.updWale_icache (s : State) (w : Nat) (f : Wale → Wale) : (s.updWale w f).icache = s.icache := rfl
@[simp] theorem State.updWale_spad (s : State) (w : Nat) (f : Wale → Wale) : (s.updWale w f).spad = s.spad := rfl
@[simp] theorem State.updWale_priv (s : State) (w : Nat) (f : Wale → Wale) : (s.updWale w f).priv = s.priv := rfl
@[simp] theorem State.updWale_retired (s : State) (w : Nat) (f : Wale → Wale) : (s.updWale w f).retired = s.retired := rfl
@[simp] theorem State.updWale_dies (s : State) (w : Nat) (f : Wale → Wale) : (s.updWale w f).dies = s.dies := rfl
@[simp] theorem State.updWale_regs (s : State) (w : Nat) (f : Wale → Wale) : (s.updWale w f).regs = s.regs := rfl
@[simp] theorem State.updWale_partMap (s : State) (w : Nat) (f : Wale → Wale) : (s.updWale w f).partMap = s.partMap := rfl
@[simp] theorem State.updWale_partPending (s : State) (w : Nat) (f : Wale → Wale) : (s.updWale w f).partPending = s.partPending := rfl
@[simp] theorem State.updWale_nodes (s : State) (w : Nat) (f : Wale → Wale) : (s.updWale w f).nodes = s.nodes := rfl
@[simp] theorem State.updWale_pageReqs (s : State) (w : Nat) (f : Wale → Wale) : (s.updWale w f).pageReqs = s.pageReqs := rfl
@[simp] theorem State.updWale_dieUp (s : State) (w : Nat) (f : Wale → Wale) : (s.updWale w f).dieUp = s.dieUp := rfl
@[simp] theorem State.updWale_dieEpoch (s : State) (w : Nat) (f : Wale → Wale) : (s.updWale w f).dieEpoch = s.dieEpoch := rfl
@[simp] theorem State.updWale_warm (s : State) (w : Nat) (f : Wale → Wale) : (s.updWale w f).warm = s.warm := rfl
@[simp] theorem State.updWale_links (s : State) (w : Nat) (f : Wale → Wale) : (s.updWale w f).links = s.links := rfl
@[simp] theorem State.updWale_grants (s : State) (w : Nat) (f : Wale → Wale) : (s.updWale w f).grants = s.grants := rfl
@[simp] theorem State.updWale_peerEpochs (s : State) (w : Nat) (f : Wale → Wale) : (s.updWale w f).peerEpochs = s.peerEpochs := rfl
@[simp] theorem State.updWale_peerGrants (s : State) (w : Nat) (f : Wale → Wale) : (s.updWale w f).peerGrants = s.peerGrants := rfl
@[simp] theorem State.updWale_peerOut (s : State) (w : Nat) (f : Wale → Wale) : (s.updWale w f).peerOut = s.peerOut := rfl
@[simp] theorem State.updWale_poisoned (s : State) (w : Nat) (f : Wale → Wale) : (s.updWale w f).poisoned = s.poisoned := rfl
@[simp] theorem State.updWale_ctxRuns (s : State) (w : Nat) (f : Wale → Wale) : (s.updWale w f).ctxRuns = s.ctxRuns := rfl
@[simp] theorem State.updWale_wsOp (s : State) (w : Nat) (f : Wale → Wale) : (s.updWale w f).wsOp = s.wsOp := rfl
@[simp] theorem State.updWale_closed (s : State) (w : Nat) (f : Wale → Wale) : (s.updWale w f).closed = s.closed := rfl
@[simp] theorem State.updWale_flr (s : State) (w : Nat) (f : Wale → Wale) : (s.updWale w f).flr = s.flr := rfl
@[simp] theorem State.updWale_rr (s : State) (w : Nat) (f : Wale → Wale) : (s.updWale w f).rr = s.rr := rfl
@[simp] theorem State.updWale_sigWaits (s : State) (w : Nat) (f : Wale → Wale) : (s.updWale w f).sigWaits = s.sigWaits := rfl
@[simp] theorem State.updWale_worlds (s : State) (w : Nat) (f : Wale → Wale) : (s.updWale w f).worlds = s.worlds := rfl
@[simp] theorem State.updWale_svn (s : State) (w : Nat) (f : Wale → Wale) : (s.updWale w f).svn = s.svn := rfl
@[simp] theorem State.updWale_peerReply (s : State) (w : Nat) (f : Wale → Wale) : (s.updWale w f).peerReply = s.peerReply := rfl
@[simp] theorem State.updWale_telem (s : State) (w : Nat) (f : Wale → Wale) : (s.updWale w f).telem = s.telem := rfl
@[simp] theorem State.updWale_usTime (s : State) (w : Nat) (f : Wale → Wale) : (s.updWale w f).usTime = s.usTime := rfl
@[simp] theorem State.updWale_prot (s : State) (w : Nat) (f : Wale → Wale) : (s.updWale w f).prot = s.prot := rfl
@[simp] theorem State.updWale_pluginStopped (s : State) (w : Nat) (f : Wale → Wale) : (s.updWale w f).pluginStopped = s.pluginStopped := rfl
@[simp] theorem State.updWale_fatal (s : State) (w : Nat) (f : Wale → Wale) : (s.updWale w f).fatal = s.fatal := rfl
@[simp] theorem State.updWale_dumping (s : State) (w : Nat) (f : Wale → Wale) : (s.updWale w f).dumping = s.dumping := rfl
@[simp] theorem State.updWale_rstGo (s : State) (w : Nat) (f : Wale → Wale) : (s.updWale w f).rstGo = s.rstGo := rfl
@[simp] theorem State.updWale_collInst (s : State) (w : Nat) (f : Wale → Wale) : (s.updWale w f).collInst = s.collInst := rfl
@[simp] theorem State.updWale_hostRead (s : State) (w : Nat) (f : Wale → Wale) : (s.updWale w f).hostRead = s.hostRead := rfl
@[simp] theorem State.updWale_msix (s : State) (w : Nat) (f : Wale → Wale) : (s.updWale w f).msix = s.msix := rfl
@[simp] theorem State.updWale_aer (s : State) (w : Nat) (f : Wale → Wale) : (s.updWale w f).aer = s.aer := rfl

/-! ### `updHoop` -/

@[simp] theorem State.updHoop_agenda (s : State) (h : Nat) (f : Hoop → Hoop) : (s.updHoop h f).agenda = s.agenda := rfl
@[simp] theorem State.updHoop_cur (s : State) (h : Nat) (f : Hoop → Hoop) : (s.updHoop h f).cur = s.cur := rfl
@[simp] theorem State.updHoop_order (s : State) (h : Nat) (f : Hoop → Hoop) : (s.updHoop h f).order = s.order := rfl
@[simp] theorem State.updHoop_turn (s : State) (h : Nat) (f : Hoop → Hoop) : (s.updHoop h f).turn = s.turn := rfl
@[simp] theorem State.updHoop_free (s : State) (h : Nat) (f : Hoop → Hoop) : (s.updHoop h f).free = s.free := rfl
@[simp] theorem State.updHoop_wales (s : State) (h : Nat) (f : Hoop → Hoop) : (s.updHoop h f).wales = s.wales := rfl
@[simp] theorem State.updHoop_hoops (s : State) (h : Nat) (f : Hoop → Hoop) : (s.updHoop h f).hoops = Sparse.upd s.hoops h f := rfl
@[simp] theorem State.updHoop_skeins (s : State) (h : Nat) (f : Hoop → Hoop) : (s.updHoop h f).skeins = s.skeins := rfl
@[simp] theorem State.updHoop_baskets (s : State) (h : Nat) (f : Hoop → Hoop) : (s.updHoop h f).baskets = s.baskets := rfl
@[simp] theorem State.updHoop_cmds (s : State) (h : Nat) (f : Hoop → Hoop) : (s.updHoop h f).cmds = s.cmds := rfl
@[simp] theorem State.updHoop_owed (s : State) (h : Nat) (f : Hoop → Hoop) : (s.updHoop h f).owed = s.owed := rfl
@[simp] theorem State.updHoop_nextId (s : State) (h : Nat) (f : Hoop → Hoop) : (s.updHoop h f).nextId = s.nextId := rfl
@[simp] theorem State.updHoop_nextPlace (s : State) (h : Nat) (f : Hoop → Hoop) : (s.updHoop h f).nextPlace = s.nextPlace := rfl
@[simp] theorem State.updHoop_mem (s : State) (h : Nat) (f : Hoop → Hoop) : (s.updHoop h f).mem = s.mem := rfl
@[simp] theorem State.updHoop_lines (s : State) (h : Nat) (f : Hoop → Hoop) : (s.updHoop h f).lines = s.lines := rfl
@[simp] theorem State.updHoop_epoch (s : State) (h : Nat) (f : Hoop → Hoop) : (s.updHoop h f).epoch = s.epoch := rfl
@[simp] theorem State.updHoop_unpub (s : State) (h : Nat) (f : Hoop → Hoop) : (s.updHoop h f).unpub = s.unpub := rfl
@[simp] theorem State.updHoop_icache (s : State) (h : Nat) (f : Hoop → Hoop) : (s.updHoop h f).icache = s.icache := rfl
@[simp] theorem State.updHoop_spad (s : State) (h : Nat) (f : Hoop → Hoop) : (s.updHoop h f).spad = s.spad := rfl
@[simp] theorem State.updHoop_priv (s : State) (h : Nat) (f : Hoop → Hoop) : (s.updHoop h f).priv = s.priv := rfl
@[simp] theorem State.updHoop_retired (s : State) (h : Nat) (f : Hoop → Hoop) : (s.updHoop h f).retired = s.retired := rfl
@[simp] theorem State.updHoop_dies (s : State) (h : Nat) (f : Hoop → Hoop) : (s.updHoop h f).dies = s.dies := rfl
@[simp] theorem State.updHoop_regs (s : State) (h : Nat) (f : Hoop → Hoop) : (s.updHoop h f).regs = s.regs := rfl
@[simp] theorem State.updHoop_partMap (s : State) (h : Nat) (f : Hoop → Hoop) : (s.updHoop h f).partMap = s.partMap := rfl
@[simp] theorem State.updHoop_partPending (s : State) (h : Nat) (f : Hoop → Hoop) : (s.updHoop h f).partPending = s.partPending := rfl
@[simp] theorem State.updHoop_nodes (s : State) (h : Nat) (f : Hoop → Hoop) : (s.updHoop h f).nodes = s.nodes := rfl
@[simp] theorem State.updHoop_pageReqs (s : State) (h : Nat) (f : Hoop → Hoop) : (s.updHoop h f).pageReqs = s.pageReqs := rfl
@[simp] theorem State.updHoop_dieUp (s : State) (h : Nat) (f : Hoop → Hoop) : (s.updHoop h f).dieUp = s.dieUp := rfl
@[simp] theorem State.updHoop_dieEpoch (s : State) (h : Nat) (f : Hoop → Hoop) : (s.updHoop h f).dieEpoch = s.dieEpoch := rfl
@[simp] theorem State.updHoop_warm (s : State) (h : Nat) (f : Hoop → Hoop) : (s.updHoop h f).warm = s.warm := rfl
@[simp] theorem State.updHoop_links (s : State) (h : Nat) (f : Hoop → Hoop) : (s.updHoop h f).links = s.links := rfl
@[simp] theorem State.updHoop_grants (s : State) (h : Nat) (f : Hoop → Hoop) : (s.updHoop h f).grants = s.grants := rfl
@[simp] theorem State.updHoop_peerEpochs (s : State) (h : Nat) (f : Hoop → Hoop) : (s.updHoop h f).peerEpochs = s.peerEpochs := rfl
@[simp] theorem State.updHoop_peerGrants (s : State) (h : Nat) (f : Hoop → Hoop) : (s.updHoop h f).peerGrants = s.peerGrants := rfl
@[simp] theorem State.updHoop_peerOut (s : State) (h : Nat) (f : Hoop → Hoop) : (s.updHoop h f).peerOut = s.peerOut := rfl
@[simp] theorem State.updHoop_poisoned (s : State) (h : Nat) (f : Hoop → Hoop) : (s.updHoop h f).poisoned = s.poisoned := rfl
@[simp] theorem State.updHoop_ctxRuns (s : State) (h : Nat) (f : Hoop → Hoop) : (s.updHoop h f).ctxRuns = s.ctxRuns := rfl
@[simp] theorem State.updHoop_wsOp (s : State) (h : Nat) (f : Hoop → Hoop) : (s.updHoop h f).wsOp = s.wsOp := rfl
@[simp] theorem State.updHoop_closed (s : State) (h : Nat) (f : Hoop → Hoop) : (s.updHoop h f).closed = s.closed := rfl
@[simp] theorem State.updHoop_flr (s : State) (h : Nat) (f : Hoop → Hoop) : (s.updHoop h f).flr = s.flr := rfl
@[simp] theorem State.updHoop_rr (s : State) (h : Nat) (f : Hoop → Hoop) : (s.updHoop h f).rr = s.rr := rfl
@[simp] theorem State.updHoop_sigWaits (s : State) (h : Nat) (f : Hoop → Hoop) : (s.updHoop h f).sigWaits = s.sigWaits := rfl
@[simp] theorem State.updHoop_worlds (s : State) (h : Nat) (f : Hoop → Hoop) : (s.updHoop h f).worlds = s.worlds := rfl
@[simp] theorem State.updHoop_svn (s : State) (h : Nat) (f : Hoop → Hoop) : (s.updHoop h f).svn = s.svn := rfl
@[simp] theorem State.updHoop_peerReply (s : State) (h : Nat) (f : Hoop → Hoop) : (s.updHoop h f).peerReply = s.peerReply := rfl
@[simp] theorem State.updHoop_telem (s : State) (h : Nat) (f : Hoop → Hoop) : (s.updHoop h f).telem = s.telem := rfl
@[simp] theorem State.updHoop_usTime (s : State) (h : Nat) (f : Hoop → Hoop) : (s.updHoop h f).usTime = s.usTime := rfl
@[simp] theorem State.updHoop_prot (s : State) (h : Nat) (f : Hoop → Hoop) : (s.updHoop h f).prot = s.prot := rfl
@[simp] theorem State.updHoop_pluginStopped (s : State) (h : Nat) (f : Hoop → Hoop) : (s.updHoop h f).pluginStopped = s.pluginStopped := rfl
@[simp] theorem State.updHoop_fatal (s : State) (h : Nat) (f : Hoop → Hoop) : (s.updHoop h f).fatal = s.fatal := rfl
@[simp] theorem State.updHoop_dumping (s : State) (h : Nat) (f : Hoop → Hoop) : (s.updHoop h f).dumping = s.dumping := rfl
@[simp] theorem State.updHoop_rstGo (s : State) (h : Nat) (f : Hoop → Hoop) : (s.updHoop h f).rstGo = s.rstGo := rfl
@[simp] theorem State.updHoop_collInst (s : State) (h : Nat) (f : Hoop → Hoop) : (s.updHoop h f).collInst = s.collInst := rfl
@[simp] theorem State.updHoop_hostRead (s : State) (h : Nat) (f : Hoop → Hoop) : (s.updHoop h f).hostRead = s.hostRead := rfl
@[simp] theorem State.updHoop_msix (s : State) (h : Nat) (f : Hoop → Hoop) : (s.updHoop h f).msix = s.msix := rfl
@[simp] theorem State.updHoop_aer (s : State) (h : Nat) (f : Hoop → Hoop) : (s.updHoop h f).aer = s.aer := rfl

/-! ### `updSkein` -/

@[simp] theorem State.updSkein_agenda (s : State) (k : Nat) (f : Skein → Skein) : (s.updSkein k f).agenda = s.agenda := rfl
@[simp] theorem State.updSkein_cur (s : State) (k : Nat) (f : Skein → Skein) : (s.updSkein k f).cur = s.cur := rfl
@[simp] theorem State.updSkein_order (s : State) (k : Nat) (f : Skein → Skein) : (s.updSkein k f).order = s.order := rfl
@[simp] theorem State.updSkein_turn (s : State) (k : Nat) (f : Skein → Skein) : (s.updSkein k f).turn = s.turn := rfl
@[simp] theorem State.updSkein_free (s : State) (k : Nat) (f : Skein → Skein) : (s.updSkein k f).free = s.free := rfl
@[simp] theorem State.updSkein_wales (s : State) (k : Nat) (f : Skein → Skein) : (s.updSkein k f).wales = s.wales := rfl
@[simp] theorem State.updSkein_hoops (s : State) (k : Nat) (f : Skein → Skein) : (s.updSkein k f).hoops = s.hoops := rfl
@[simp] theorem State.updSkein_skeins (s : State) (k : Nat) (f : Skein → Skein) : (s.updSkein k f).skeins = Sparse.upd s.skeins k f := rfl
@[simp] theorem State.updSkein_baskets (s : State) (k : Nat) (f : Skein → Skein) : (s.updSkein k f).baskets = s.baskets := rfl
@[simp] theorem State.updSkein_cmds (s : State) (k : Nat) (f : Skein → Skein) : (s.updSkein k f).cmds = s.cmds := rfl
@[simp] theorem State.updSkein_owed (s : State) (k : Nat) (f : Skein → Skein) : (s.updSkein k f).owed = s.owed := rfl
@[simp] theorem State.updSkein_nextId (s : State) (k : Nat) (f : Skein → Skein) : (s.updSkein k f).nextId = s.nextId := rfl
@[simp] theorem State.updSkein_nextPlace (s : State) (k : Nat) (f : Skein → Skein) : (s.updSkein k f).nextPlace = s.nextPlace := rfl
@[simp] theorem State.updSkein_mem (s : State) (k : Nat) (f : Skein → Skein) : (s.updSkein k f).mem = s.mem := rfl
@[simp] theorem State.updSkein_lines (s : State) (k : Nat) (f : Skein → Skein) : (s.updSkein k f).lines = s.lines := rfl
@[simp] theorem State.updSkein_epoch (s : State) (k : Nat) (f : Skein → Skein) : (s.updSkein k f).epoch = s.epoch := rfl
@[simp] theorem State.updSkein_unpub (s : State) (k : Nat) (f : Skein → Skein) : (s.updSkein k f).unpub = s.unpub := rfl
@[simp] theorem State.updSkein_icache (s : State) (k : Nat) (f : Skein → Skein) : (s.updSkein k f).icache = s.icache := rfl
@[simp] theorem State.updSkein_spad (s : State) (k : Nat) (f : Skein → Skein) : (s.updSkein k f).spad = s.spad := rfl
@[simp] theorem State.updSkein_priv (s : State) (k : Nat) (f : Skein → Skein) : (s.updSkein k f).priv = s.priv := rfl
@[simp] theorem State.updSkein_retired (s : State) (k : Nat) (f : Skein → Skein) : (s.updSkein k f).retired = s.retired := rfl
@[simp] theorem State.updSkein_dies (s : State) (k : Nat) (f : Skein → Skein) : (s.updSkein k f).dies = s.dies := rfl
@[simp] theorem State.updSkein_regs (s : State) (k : Nat) (f : Skein → Skein) : (s.updSkein k f).regs = s.regs := rfl
@[simp] theorem State.updSkein_partMap (s : State) (k : Nat) (f : Skein → Skein) : (s.updSkein k f).partMap = s.partMap := rfl
@[simp] theorem State.updSkein_partPending (s : State) (k : Nat) (f : Skein → Skein) : (s.updSkein k f).partPending = s.partPending := rfl
@[simp] theorem State.updSkein_nodes (s : State) (k : Nat) (f : Skein → Skein) : (s.updSkein k f).nodes = s.nodes := rfl
@[simp] theorem State.updSkein_pageReqs (s : State) (k : Nat) (f : Skein → Skein) : (s.updSkein k f).pageReqs = s.pageReqs := rfl
@[simp] theorem State.updSkein_dieUp (s : State) (k : Nat) (f : Skein → Skein) : (s.updSkein k f).dieUp = s.dieUp := rfl
@[simp] theorem State.updSkein_dieEpoch (s : State) (k : Nat) (f : Skein → Skein) : (s.updSkein k f).dieEpoch = s.dieEpoch := rfl
@[simp] theorem State.updSkein_warm (s : State) (k : Nat) (f : Skein → Skein) : (s.updSkein k f).warm = s.warm := rfl
@[simp] theorem State.updSkein_links (s : State) (k : Nat) (f : Skein → Skein) : (s.updSkein k f).links = s.links := rfl
@[simp] theorem State.updSkein_grants (s : State) (k : Nat) (f : Skein → Skein) : (s.updSkein k f).grants = s.grants := rfl
@[simp] theorem State.updSkein_peerEpochs (s : State) (k : Nat) (f : Skein → Skein) : (s.updSkein k f).peerEpochs = s.peerEpochs := rfl
@[simp] theorem State.updSkein_peerGrants (s : State) (k : Nat) (f : Skein → Skein) : (s.updSkein k f).peerGrants = s.peerGrants := rfl
@[simp] theorem State.updSkein_peerOut (s : State) (k : Nat) (f : Skein → Skein) : (s.updSkein k f).peerOut = s.peerOut := rfl
@[simp] theorem State.updSkein_poisoned (s : State) (k : Nat) (f : Skein → Skein) : (s.updSkein k f).poisoned = s.poisoned := rfl
@[simp] theorem State.updSkein_ctxRuns (s : State) (k : Nat) (f : Skein → Skein) : (s.updSkein k f).ctxRuns = s.ctxRuns := rfl
@[simp] theorem State.updSkein_wsOp (s : State) (k : Nat) (f : Skein → Skein) : (s.updSkein k f).wsOp = s.wsOp := rfl
@[simp] theorem State.updSkein_closed (s : State) (k : Nat) (f : Skein → Skein) : (s.updSkein k f).closed = s.closed := rfl
@[simp] theorem State.updSkein_flr (s : State) (k : Nat) (f : Skein → Skein) : (s.updSkein k f).flr = s.flr := rfl
@[simp] theorem State.updSkein_rr (s : State) (k : Nat) (f : Skein → Skein) : (s.updSkein k f).rr = s.rr := rfl
@[simp] theorem State.updSkein_sigWaits (s : State) (k : Nat) (f : Skein → Skein) : (s.updSkein k f).sigWaits = s.sigWaits := rfl
@[simp] theorem State.updSkein_worlds (s : State) (k : Nat) (f : Skein → Skein) : (s.updSkein k f).worlds = s.worlds := rfl
@[simp] theorem State.updSkein_svn (s : State) (k : Nat) (f : Skein → Skein) : (s.updSkein k f).svn = s.svn := rfl
@[simp] theorem State.updSkein_peerReply (s : State) (k : Nat) (f : Skein → Skein) : (s.updSkein k f).peerReply = s.peerReply := rfl
@[simp] theorem State.updSkein_telem (s : State) (k : Nat) (f : Skein → Skein) : (s.updSkein k f).telem = s.telem := rfl
@[simp] theorem State.updSkein_usTime (s : State) (k : Nat) (f : Skein → Skein) : (s.updSkein k f).usTime = s.usTime := rfl
@[simp] theorem State.updSkein_prot (s : State) (k : Nat) (f : Skein → Skein) : (s.updSkein k f).prot = s.prot := rfl
@[simp] theorem State.updSkein_pluginStopped (s : State) (k : Nat) (f : Skein → Skein) : (s.updSkein k f).pluginStopped = s.pluginStopped := rfl
@[simp] theorem State.updSkein_fatal (s : State) (k : Nat) (f : Skein → Skein) : (s.updSkein k f).fatal = s.fatal := rfl
@[simp] theorem State.updSkein_dumping (s : State) (k : Nat) (f : Skein → Skein) : (s.updSkein k f).dumping = s.dumping := rfl
@[simp] theorem State.updSkein_rstGo (s : State) (k : Nat) (f : Skein → Skein) : (s.updSkein k f).rstGo = s.rstGo := rfl
@[simp] theorem State.updSkein_collInst (s : State) (k : Nat) (f : Skein → Skein) : (s.updSkein k f).collInst = s.collInst := rfl
@[simp] theorem State.updSkein_hostRead (s : State) (k : Nat) (f : Skein → Skein) : (s.updSkein k f).hostRead = s.hostRead := rfl
@[simp] theorem State.updSkein_msix (s : State) (k : Nat) (f : Skein → Skein) : (s.updSkein k f).msix = s.msix := rfl
@[simp] theorem State.updSkein_aer (s : State) (k : Nat) (f : Skein → Skein) : (s.updSkein k f).aer = s.aer := rfl

/-! ### `updBasket` -/

@[simp] theorem State.updBasket_agenda (s : State) (b : Nat) (f : Basket → Basket) : (s.updBasket b f).agenda = s.agenda := rfl
@[simp] theorem State.updBasket_cur (s : State) (b : Nat) (f : Basket → Basket) : (s.updBasket b f).cur = s.cur := rfl
@[simp] theorem State.updBasket_order (s : State) (b : Nat) (f : Basket → Basket) : (s.updBasket b f).order = s.order := rfl
@[simp] theorem State.updBasket_turn (s : State) (b : Nat) (f : Basket → Basket) : (s.updBasket b f).turn = s.turn := rfl
@[simp] theorem State.updBasket_free (s : State) (b : Nat) (f : Basket → Basket) : (s.updBasket b f).free = s.free := rfl
@[simp] theorem State.updBasket_wales (s : State) (b : Nat) (f : Basket → Basket) : (s.updBasket b f).wales = s.wales := rfl
@[simp] theorem State.updBasket_hoops (s : State) (b : Nat) (f : Basket → Basket) : (s.updBasket b f).hoops = s.hoops := rfl
@[simp] theorem State.updBasket_skeins (s : State) (b : Nat) (f : Basket → Basket) : (s.updBasket b f).skeins = s.skeins := rfl
@[simp] theorem State.updBasket_baskets (s : State) (b : Nat) (f : Basket → Basket) : (s.updBasket b f).baskets = Sparse.upd s.baskets b f := rfl
@[simp] theorem State.updBasket_cmds (s : State) (b : Nat) (f : Basket → Basket) : (s.updBasket b f).cmds = s.cmds := rfl
@[simp] theorem State.updBasket_owed (s : State) (b : Nat) (f : Basket → Basket) : (s.updBasket b f).owed = s.owed := rfl
@[simp] theorem State.updBasket_nextId (s : State) (b : Nat) (f : Basket → Basket) : (s.updBasket b f).nextId = s.nextId := rfl
@[simp] theorem State.updBasket_nextPlace (s : State) (b : Nat) (f : Basket → Basket) : (s.updBasket b f).nextPlace = s.nextPlace := rfl
@[simp] theorem State.updBasket_mem (s : State) (b : Nat) (f : Basket → Basket) : (s.updBasket b f).mem = s.mem := rfl
@[simp] theorem State.updBasket_lines (s : State) (b : Nat) (f : Basket → Basket) : (s.updBasket b f).lines = s.lines := rfl
@[simp] theorem State.updBasket_epoch (s : State) (b : Nat) (f : Basket → Basket) : (s.updBasket b f).epoch = s.epoch := rfl
@[simp] theorem State.updBasket_unpub (s : State) (b : Nat) (f : Basket → Basket) : (s.updBasket b f).unpub = s.unpub := rfl
@[simp] theorem State.updBasket_icache (s : State) (b : Nat) (f : Basket → Basket) : (s.updBasket b f).icache = s.icache := rfl
@[simp] theorem State.updBasket_spad (s : State) (b : Nat) (f : Basket → Basket) : (s.updBasket b f).spad = s.spad := rfl
@[simp] theorem State.updBasket_priv (s : State) (b : Nat) (f : Basket → Basket) : (s.updBasket b f).priv = s.priv := rfl
@[simp] theorem State.updBasket_retired (s : State) (b : Nat) (f : Basket → Basket) : (s.updBasket b f).retired = s.retired := rfl
@[simp] theorem State.updBasket_dies (s : State) (b : Nat) (f : Basket → Basket) : (s.updBasket b f).dies = s.dies := rfl
@[simp] theorem State.updBasket_regs (s : State) (b : Nat) (f : Basket → Basket) : (s.updBasket b f).regs = s.regs := rfl
@[simp] theorem State.updBasket_partMap (s : State) (b : Nat) (f : Basket → Basket) : (s.updBasket b f).partMap = s.partMap := rfl
@[simp] theorem State.updBasket_partPending (s : State) (b : Nat) (f : Basket → Basket) : (s.updBasket b f).partPending = s.partPending := rfl
@[simp] theorem State.updBasket_nodes (s : State) (b : Nat) (f : Basket → Basket) : (s.updBasket b f).nodes = s.nodes := rfl
@[simp] theorem State.updBasket_pageReqs (s : State) (b : Nat) (f : Basket → Basket) : (s.updBasket b f).pageReqs = s.pageReqs := rfl
@[simp] theorem State.updBasket_dieUp (s : State) (b : Nat) (f : Basket → Basket) : (s.updBasket b f).dieUp = s.dieUp := rfl
@[simp] theorem State.updBasket_dieEpoch (s : State) (b : Nat) (f : Basket → Basket) : (s.updBasket b f).dieEpoch = s.dieEpoch := rfl
@[simp] theorem State.updBasket_warm (s : State) (b : Nat) (f : Basket → Basket) : (s.updBasket b f).warm = s.warm := rfl
@[simp] theorem State.updBasket_links (s : State) (b : Nat) (f : Basket → Basket) : (s.updBasket b f).links = s.links := rfl
@[simp] theorem State.updBasket_grants (s : State) (b : Nat) (f : Basket → Basket) : (s.updBasket b f).grants = s.grants := rfl
@[simp] theorem State.updBasket_peerEpochs (s : State) (b : Nat) (f : Basket → Basket) : (s.updBasket b f).peerEpochs = s.peerEpochs := rfl
@[simp] theorem State.updBasket_peerGrants (s : State) (b : Nat) (f : Basket → Basket) : (s.updBasket b f).peerGrants = s.peerGrants := rfl
@[simp] theorem State.updBasket_peerOut (s : State) (b : Nat) (f : Basket → Basket) : (s.updBasket b f).peerOut = s.peerOut := rfl
@[simp] theorem State.updBasket_poisoned (s : State) (b : Nat) (f : Basket → Basket) : (s.updBasket b f).poisoned = s.poisoned := rfl
@[simp] theorem State.updBasket_ctxRuns (s : State) (b : Nat) (f : Basket → Basket) : (s.updBasket b f).ctxRuns = s.ctxRuns := rfl
@[simp] theorem State.updBasket_wsOp (s : State) (b : Nat) (f : Basket → Basket) : (s.updBasket b f).wsOp = s.wsOp := rfl
@[simp] theorem State.updBasket_closed (s : State) (b : Nat) (f : Basket → Basket) : (s.updBasket b f).closed = s.closed := rfl
@[simp] theorem State.updBasket_flr (s : State) (b : Nat) (f : Basket → Basket) : (s.updBasket b f).flr = s.flr := rfl
@[simp] theorem State.updBasket_rr (s : State) (b : Nat) (f : Basket → Basket) : (s.updBasket b f).rr = s.rr := rfl
@[simp] theorem State.updBasket_sigWaits (s : State) (b : Nat) (f : Basket → Basket) : (s.updBasket b f).sigWaits = s.sigWaits := rfl
@[simp] theorem State.updBasket_worlds (s : State) (b : Nat) (f : Basket → Basket) : (s.updBasket b f).worlds = s.worlds := rfl
@[simp] theorem State.updBasket_svn (s : State) (b : Nat) (f : Basket → Basket) : (s.updBasket b f).svn = s.svn := rfl
@[simp] theorem State.updBasket_peerReply (s : State) (b : Nat) (f : Basket → Basket) : (s.updBasket b f).peerReply = s.peerReply := rfl
@[simp] theorem State.updBasket_telem (s : State) (b : Nat) (f : Basket → Basket) : (s.updBasket b f).telem = s.telem := rfl
@[simp] theorem State.updBasket_usTime (s : State) (b : Nat) (f : Basket → Basket) : (s.updBasket b f).usTime = s.usTime := rfl
@[simp] theorem State.updBasket_prot (s : State) (b : Nat) (f : Basket → Basket) : (s.updBasket b f).prot = s.prot := rfl
@[simp] theorem State.updBasket_pluginStopped (s : State) (b : Nat) (f : Basket → Basket) : (s.updBasket b f).pluginStopped = s.pluginStopped := rfl
@[simp] theorem State.updBasket_fatal (s : State) (b : Nat) (f : Basket → Basket) : (s.updBasket b f).fatal = s.fatal := rfl
@[simp] theorem State.updBasket_dumping (s : State) (b : Nat) (f : Basket → Basket) : (s.updBasket b f).dumping = s.dumping := rfl
@[simp] theorem State.updBasket_rstGo (s : State) (b : Nat) (f : Basket → Basket) : (s.updBasket b f).rstGo = s.rstGo := rfl
@[simp] theorem State.updBasket_collInst (s : State) (b : Nat) (f : Basket → Basket) : (s.updBasket b f).collInst = s.collInst := rfl
@[simp] theorem State.updBasket_hostRead (s : State) (b : Nat) (f : Basket → Basket) : (s.updBasket b f).hostRead = s.hostRead := rfl
@[simp] theorem State.updBasket_msix (s : State) (b : Nat) (f : Basket → Basket) : (s.updBasket b f).msix = s.msix := rfl
@[simp] theorem State.updBasket_aer (s : State) (b : Nat) (f : Basket → Basket) : (s.updBasket b f).aer = s.aer := rfl

/-! ### `setDie` -/

@[simp] theorem State.setDie_agenda (s : State) (d : Fin 4) (x : Die) : (s.setDie d x).agenda = s.agenda := rfl
@[simp] theorem State.setDie_cur (s : State) (d : Fin 4) (x : Die) : (s.setDie d x).cur = s.cur := rfl
@[simp] theorem State.setDie_order (s : State) (d : Fin 4) (x : Die) : (s.setDie d x).order = s.order := rfl
@[simp] theorem State.setDie_turn (s : State) (d : Fin 4) (x : Die) : (s.setDie d x).turn = s.turn := rfl
@[simp] theorem State.setDie_free (s : State) (d : Fin 4) (x : Die) : (s.setDie d x).free = s.free := rfl
@[simp] theorem State.setDie_wales (s : State) (d : Fin 4) (x : Die) : (s.setDie d x).wales = s.wales := rfl
@[simp] theorem State.setDie_hoops (s : State) (d : Fin 4) (x : Die) : (s.setDie d x).hoops = s.hoops := rfl
@[simp] theorem State.setDie_skeins (s : State) (d : Fin 4) (x : Die) : (s.setDie d x).skeins = s.skeins := rfl
@[simp] theorem State.setDie_baskets (s : State) (d : Fin 4) (x : Die) : (s.setDie d x).baskets = s.baskets := rfl
@[simp] theorem State.setDie_cmds (s : State) (d : Fin 4) (x : Die) : (s.setDie d x).cmds = s.cmds := rfl
@[simp] theorem State.setDie_owed (s : State) (d : Fin 4) (x : Die) : (s.setDie d x).owed = s.owed := rfl
@[simp] theorem State.setDie_nextId (s : State) (d : Fin 4) (x : Die) : (s.setDie d x).nextId = s.nextId := rfl
@[simp] theorem State.setDie_nextPlace (s : State) (d : Fin 4) (x : Die) : (s.setDie d x).nextPlace = s.nextPlace := rfl
@[simp] theorem State.setDie_mem (s : State) (d : Fin 4) (x : Die) : (s.setDie d x).mem = s.mem := rfl
@[simp] theorem State.setDie_lines (s : State) (d : Fin 4) (x : Die) : (s.setDie d x).lines = s.lines := rfl
@[simp] theorem State.setDie_epoch (s : State) (d : Fin 4) (x : Die) : (s.setDie d x).epoch = s.epoch := rfl
@[simp] theorem State.setDie_unpub (s : State) (d : Fin 4) (x : Die) : (s.setDie d x).unpub = s.unpub := rfl
@[simp] theorem State.setDie_icache (s : State) (d : Fin 4) (x : Die) : (s.setDie d x).icache = s.icache := rfl
@[simp] theorem State.setDie_spad (s : State) (d : Fin 4) (x : Die) : (s.setDie d x).spad = s.spad := rfl
@[simp] theorem State.setDie_priv (s : State) (d : Fin 4) (x : Die) : (s.setDie d x).priv = s.priv := rfl
@[simp] theorem State.setDie_retired (s : State) (d : Fin 4) (x : Die) : (s.setDie d x).retired = s.retired := rfl
@[simp] theorem State.setDie_dies (s : State) (d : Fin 4) (x : Die) : (s.setDie d x).dies = vset s.dies d x := rfl
@[simp] theorem State.setDie_regs (s : State) (d : Fin 4) (x : Die) : (s.setDie d x).regs = s.regs := rfl
@[simp] theorem State.setDie_partMap (s : State) (d : Fin 4) (x : Die) : (s.setDie d x).partMap = s.partMap := rfl
@[simp] theorem State.setDie_partPending (s : State) (d : Fin 4) (x : Die) : (s.setDie d x).partPending = s.partPending := rfl
@[simp] theorem State.setDie_nodes (s : State) (d : Fin 4) (x : Die) : (s.setDie d x).nodes = s.nodes := rfl
@[simp] theorem State.setDie_pageReqs (s : State) (d : Fin 4) (x : Die) : (s.setDie d x).pageReqs = s.pageReqs := rfl
@[simp] theorem State.setDie_dieUp (s : State) (d : Fin 4) (x : Die) : (s.setDie d x).dieUp = s.dieUp := rfl
@[simp] theorem State.setDie_dieEpoch (s : State) (d : Fin 4) (x : Die) : (s.setDie d x).dieEpoch = s.dieEpoch := rfl
@[simp] theorem State.setDie_warm (s : State) (d : Fin 4) (x : Die) : (s.setDie d x).warm = s.warm := rfl
@[simp] theorem State.setDie_links (s : State) (d : Fin 4) (x : Die) : (s.setDie d x).links = s.links := rfl
@[simp] theorem State.setDie_grants (s : State) (d : Fin 4) (x : Die) : (s.setDie d x).grants = s.grants := rfl
@[simp] theorem State.setDie_peerEpochs (s : State) (d : Fin 4) (x : Die) : (s.setDie d x).peerEpochs = s.peerEpochs := rfl
@[simp] theorem State.setDie_peerGrants (s : State) (d : Fin 4) (x : Die) : (s.setDie d x).peerGrants = s.peerGrants := rfl
@[simp] theorem State.setDie_peerOut (s : State) (d : Fin 4) (x : Die) : (s.setDie d x).peerOut = s.peerOut := rfl
@[simp] theorem State.setDie_poisoned (s : State) (d : Fin 4) (x : Die) : (s.setDie d x).poisoned = s.poisoned := rfl
@[simp] theorem State.setDie_ctxRuns (s : State) (d : Fin 4) (x : Die) : (s.setDie d x).ctxRuns = s.ctxRuns := rfl
@[simp] theorem State.setDie_wsOp (s : State) (d : Fin 4) (x : Die) : (s.setDie d x).wsOp = s.wsOp := rfl
@[simp] theorem State.setDie_closed (s : State) (d : Fin 4) (x : Die) : (s.setDie d x).closed = s.closed := rfl
@[simp] theorem State.setDie_flr (s : State) (d : Fin 4) (x : Die) : (s.setDie d x).flr = s.flr := rfl
@[simp] theorem State.setDie_rr (s : State) (d : Fin 4) (x : Die) : (s.setDie d x).rr = s.rr := rfl
@[simp] theorem State.setDie_sigWaits (s : State) (d : Fin 4) (x : Die) : (s.setDie d x).sigWaits = s.sigWaits := rfl
@[simp] theorem State.setDie_worlds (s : State) (d : Fin 4) (x : Die) : (s.setDie d x).worlds = s.worlds := rfl
@[simp] theorem State.setDie_svn (s : State) (d : Fin 4) (x : Die) : (s.setDie d x).svn = s.svn := rfl
@[simp] theorem State.setDie_peerReply (s : State) (d : Fin 4) (x : Die) : (s.setDie d x).peerReply = s.peerReply := rfl
@[simp] theorem State.setDie_telem (s : State) (d : Fin 4) (x : Die) : (s.setDie d x).telem = s.telem := rfl
@[simp] theorem State.setDie_usTime (s : State) (d : Fin 4) (x : Die) : (s.setDie d x).usTime = s.usTime := rfl
@[simp] theorem State.setDie_prot (s : State) (d : Fin 4) (x : Die) : (s.setDie d x).prot = s.prot := rfl
@[simp] theorem State.setDie_pluginStopped (s : State) (d : Fin 4) (x : Die) : (s.setDie d x).pluginStopped = s.pluginStopped := rfl
@[simp] theorem State.setDie_fatal (s : State) (d : Fin 4) (x : Die) : (s.setDie d x).fatal = s.fatal := rfl
@[simp] theorem State.setDie_dumping (s : State) (d : Fin 4) (x : Die) : (s.setDie d x).dumping = s.dumping := rfl
@[simp] theorem State.setDie_rstGo (s : State) (d : Fin 4) (x : Die) : (s.setDie d x).rstGo = s.rstGo := rfl
@[simp] theorem State.setDie_collInst (s : State) (d : Fin 4) (x : Die) : (s.setDie d x).collInst = s.collInst := rfl
@[simp] theorem State.setDie_hostRead (s : State) (d : Fin 4) (x : Die) : (s.setDie d x).hostRead = s.hostRead := rfl
@[simp] theorem State.setDie_msix (s : State) (d : Fin 4) (x : Die) : (s.setDie d x).msix = s.msix := rfl
@[simp] theorem State.setDie_aer (s : State) (d : Fin 4) (x : Die) : (s.setDie d x).aer = s.aer := rfl

/-! ### `updDie` -/

@[simp] theorem State.updDie_agenda (s : State) (d : Fin 4) (f : Die → Die) : (s.updDie d f).agenda = s.agenda := rfl
@[simp] theorem State.updDie_cur (s : State) (d : Fin 4) (f : Die → Die) : (s.updDie d f).cur = s.cur := rfl
@[simp] theorem State.updDie_order (s : State) (d : Fin 4) (f : Die → Die) : (s.updDie d f).order = s.order := rfl
@[simp] theorem State.updDie_turn (s : State) (d : Fin 4) (f : Die → Die) : (s.updDie d f).turn = s.turn := rfl
@[simp] theorem State.updDie_free (s : State) (d : Fin 4) (f : Die → Die) : (s.updDie d f).free = s.free := rfl
@[simp] theorem State.updDie_wales (s : State) (d : Fin 4) (f : Die → Die) : (s.updDie d f).wales = s.wales := rfl
@[simp] theorem State.updDie_hoops (s : State) (d : Fin 4) (f : Die → Die) : (s.updDie d f).hoops = s.hoops := rfl
@[simp] theorem State.updDie_skeins (s : State) (d : Fin 4) (f : Die → Die) : (s.updDie d f).skeins = s.skeins := rfl
@[simp] theorem State.updDie_baskets (s : State) (d : Fin 4) (f : Die → Die) : (s.updDie d f).baskets = s.baskets := rfl
@[simp] theorem State.updDie_cmds (s : State) (d : Fin 4) (f : Die → Die) : (s.updDie d f).cmds = s.cmds := rfl
@[simp] theorem State.updDie_owed (s : State) (d : Fin 4) (f : Die → Die) : (s.updDie d f).owed = s.owed := rfl
@[simp] theorem State.updDie_nextId (s : State) (d : Fin 4) (f : Die → Die) : (s.updDie d f).nextId = s.nextId := rfl
@[simp] theorem State.updDie_nextPlace (s : State) (d : Fin 4) (f : Die → Die) : (s.updDie d f).nextPlace = s.nextPlace := rfl
@[simp] theorem State.updDie_mem (s : State) (d : Fin 4) (f : Die → Die) : (s.updDie d f).mem = s.mem := rfl
@[simp] theorem State.updDie_lines (s : State) (d : Fin 4) (f : Die → Die) : (s.updDie d f).lines = s.lines := rfl
@[simp] theorem State.updDie_epoch (s : State) (d : Fin 4) (f : Die → Die) : (s.updDie d f).epoch = s.epoch := rfl
@[simp] theorem State.updDie_unpub (s : State) (d : Fin 4) (f : Die → Die) : (s.updDie d f).unpub = s.unpub := rfl
@[simp] theorem State.updDie_icache (s : State) (d : Fin 4) (f : Die → Die) : (s.updDie d f).icache = s.icache := rfl
@[simp] theorem State.updDie_spad (s : State) (d : Fin 4) (f : Die → Die) : (s.updDie d f).spad = s.spad := rfl
@[simp] theorem State.updDie_priv (s : State) (d : Fin 4) (f : Die → Die) : (s.updDie d f).priv = s.priv := rfl
@[simp] theorem State.updDie_retired (s : State) (d : Fin 4) (f : Die → Die) : (s.updDie d f).retired = s.retired := rfl
@[simp] theorem State.updDie_dies (s : State) (d : Fin 4) (f : Die → Die) : (s.updDie d f).dies = vset s.dies d (f (s.die d)) := rfl
@[simp] theorem State.updDie_regs (s : State) (d : Fin 4) (f : Die → Die) : (s.updDie d f).regs = s.regs := rfl
@[simp] theorem State.updDie_partMap (s : State) (d : Fin 4) (f : Die → Die) : (s.updDie d f).partMap = s.partMap := rfl
@[simp] theorem State.updDie_partPending (s : State) (d : Fin 4) (f : Die → Die) : (s.updDie d f).partPending = s.partPending := rfl
@[simp] theorem State.updDie_nodes (s : State) (d : Fin 4) (f : Die → Die) : (s.updDie d f).nodes = s.nodes := rfl
@[simp] theorem State.updDie_pageReqs (s : State) (d : Fin 4) (f : Die → Die) : (s.updDie d f).pageReqs = s.pageReqs := rfl
@[simp] theorem State.updDie_dieUp (s : State) (d : Fin 4) (f : Die → Die) : (s.updDie d f).dieUp = s.dieUp := rfl
@[simp] theorem State.updDie_dieEpoch (s : State) (d : Fin 4) (f : Die → Die) : (s.updDie d f).dieEpoch = s.dieEpoch := rfl
@[simp] theorem State.updDie_warm (s : State) (d : Fin 4) (f : Die → Die) : (s.updDie d f).warm = s.warm := rfl
@[simp] theorem State.updDie_links (s : State) (d : Fin 4) (f : Die → Die) : (s.updDie d f).links = s.links := rfl
@[simp] theorem State.updDie_grants (s : State) (d : Fin 4) (f : Die → Die) : (s.updDie d f).grants = s.grants := rfl
@[simp] theorem State.updDie_peerEpochs (s : State) (d : Fin 4) (f : Die → Die) : (s.updDie d f).peerEpochs = s.peerEpochs := rfl
@[simp] theorem State.updDie_peerGrants (s : State) (d : Fin 4) (f : Die → Die) : (s.updDie d f).peerGrants = s.peerGrants := rfl
@[simp] theorem State.updDie_peerOut (s : State) (d : Fin 4) (f : Die → Die) : (s.updDie d f).peerOut = s.peerOut := rfl
@[simp] theorem State.updDie_poisoned (s : State) (d : Fin 4) (f : Die → Die) : (s.updDie d f).poisoned = s.poisoned := rfl
@[simp] theorem State.updDie_ctxRuns (s : State) (d : Fin 4) (f : Die → Die) : (s.updDie d f).ctxRuns = s.ctxRuns := rfl
@[simp] theorem State.updDie_wsOp (s : State) (d : Fin 4) (f : Die → Die) : (s.updDie d f).wsOp = s.wsOp := rfl
@[simp] theorem State.updDie_closed (s : State) (d : Fin 4) (f : Die → Die) : (s.updDie d f).closed = s.closed := rfl
@[simp] theorem State.updDie_flr (s : State) (d : Fin 4) (f : Die → Die) : (s.updDie d f).flr = s.flr := rfl
@[simp] theorem State.updDie_rr (s : State) (d : Fin 4) (f : Die → Die) : (s.updDie d f).rr = s.rr := rfl
@[simp] theorem State.updDie_sigWaits (s : State) (d : Fin 4) (f : Die → Die) : (s.updDie d f).sigWaits = s.sigWaits := rfl
@[simp] theorem State.updDie_worlds (s : State) (d : Fin 4) (f : Die → Die) : (s.updDie d f).worlds = s.worlds := rfl
@[simp] theorem State.updDie_svn (s : State) (d : Fin 4) (f : Die → Die) : (s.updDie d f).svn = s.svn := rfl
@[simp] theorem State.updDie_peerReply (s : State) (d : Fin 4) (f : Die → Die) : (s.updDie d f).peerReply = s.peerReply := rfl
@[simp] theorem State.updDie_telem (s : State) (d : Fin 4) (f : Die → Die) : (s.updDie d f).telem = s.telem := rfl
@[simp] theorem State.updDie_usTime (s : State) (d : Fin 4) (f : Die → Die) : (s.updDie d f).usTime = s.usTime := rfl
@[simp] theorem State.updDie_prot (s : State) (d : Fin 4) (f : Die → Die) : (s.updDie d f).prot = s.prot := rfl
@[simp] theorem State.updDie_pluginStopped (s : State) (d : Fin 4) (f : Die → Die) : (s.updDie d f).pluginStopped = s.pluginStopped := rfl
@[simp] theorem State.updDie_fatal (s : State) (d : Fin 4) (f : Die → Die) : (s.updDie d f).fatal = s.fatal := rfl
@[simp] theorem State.updDie_dumping (s : State) (d : Fin 4) (f : Die → Die) : (s.updDie d f).dumping = s.dumping := rfl
@[simp] theorem State.updDie_rstGo (s : State) (d : Fin 4) (f : Die → Die) : (s.updDie d f).rstGo = s.rstGo := rfl
@[simp] theorem State.updDie_collInst (s : State) (d : Fin 4) (f : Die → Die) : (s.updDie d f).collInst = s.collInst := rfl
@[simp] theorem State.updDie_hostRead (s : State) (d : Fin 4) (f : Die → Die) : (s.updDie d f).hostRead = s.hostRead := rfl
@[simp] theorem State.updDie_msix (s : State) (d : Fin 4) (f : Die → Die) : (s.updDie d f).msix = s.msix := rfl
@[simp] theorem State.updDie_aer (s : State) (d : Fin 4) (f : Die → Die) : (s.updDie d f).aer = s.aer := rfl

/-! ### `tick` -/

@[simp] theorem State.tick_agenda (s : State) (d : Fin 4) : (s.tick d).agenda = s.agenda := rfl
@[simp] theorem State.tick_cur (s : State) (d : Fin 4) : (s.tick d).cur = s.cur := rfl
@[simp] theorem State.tick_order (s : State) (d : Fin 4) : (s.tick d).order = s.order := rfl
@[simp] theorem State.tick_turn (s : State) (d : Fin 4) : (s.tick d).turn = s.turn := rfl
@[simp] theorem State.tick_free (s : State) (d : Fin 4) : (s.tick d).free = s.free := rfl
@[simp] theorem State.tick_wales (s : State) (d : Fin 4) : (s.tick d).wales = s.wales := rfl
@[simp] theorem State.tick_hoops (s : State) (d : Fin 4) : (s.tick d).hoops = s.hoops := rfl
@[simp] theorem State.tick_skeins (s : State) (d : Fin 4) : (s.tick d).skeins = s.skeins := rfl
@[simp] theorem State.tick_baskets (s : State) (d : Fin 4) : (s.tick d).baskets = s.baskets := rfl
@[simp] theorem State.tick_cmds (s : State) (d : Fin 4) : (s.tick d).cmds = s.cmds := rfl
@[simp] theorem State.tick_owed (s : State) (d : Fin 4) : (s.tick d).owed = s.owed := rfl
@[simp] theorem State.tick_nextId (s : State) (d : Fin 4) : (s.tick d).nextId = s.nextId := rfl
@[simp] theorem State.tick_nextPlace (s : State) (d : Fin 4) : (s.tick d).nextPlace = s.nextPlace := rfl
@[simp] theorem State.tick_mem (s : State) (d : Fin 4) : (s.tick d).mem = s.mem := rfl
@[simp] theorem State.tick_lines (s : State) (d : Fin 4) : (s.tick d).lines = s.lines := rfl
@[simp] theorem State.tick_epoch (s : State) (d : Fin 4) : (s.tick d).epoch = s.epoch := rfl
@[simp] theorem State.tick_unpub (s : State) (d : Fin 4) : (s.tick d).unpub = s.unpub := rfl
@[simp] theorem State.tick_icache (s : State) (d : Fin 4) : (s.tick d).icache = s.icache := rfl
@[simp] theorem State.tick_spad (s : State) (d : Fin 4) : (s.tick d).spad = s.spad := rfl
@[simp] theorem State.tick_priv (s : State) (d : Fin 4) : (s.tick d).priv = s.priv := rfl
@[simp] theorem State.tick_retired (s : State) (d : Fin 4) : (s.tick d).retired = s.retired := rfl
@[simp] theorem State.tick_dies (s : State) (d : Fin 4) : (s.tick d).dies = vset s.dies d { (s.die d) with cc := (s.die d).cc + 1 } := rfl
@[simp] theorem State.tick_regs (s : State) (d : Fin 4) : (s.tick d).regs = s.regs := rfl
@[simp] theorem State.tick_partMap (s : State) (d : Fin 4) : (s.tick d).partMap = s.partMap := rfl
@[simp] theorem State.tick_partPending (s : State) (d : Fin 4) : (s.tick d).partPending = s.partPending := rfl
@[simp] theorem State.tick_nodes (s : State) (d : Fin 4) : (s.tick d).nodes = s.nodes := rfl
@[simp] theorem State.tick_pageReqs (s : State) (d : Fin 4) : (s.tick d).pageReqs = s.pageReqs := rfl
@[simp] theorem State.tick_dieUp (s : State) (d : Fin 4) : (s.tick d).dieUp = s.dieUp := rfl
@[simp] theorem State.tick_dieEpoch (s : State) (d : Fin 4) : (s.tick d).dieEpoch = s.dieEpoch := rfl
@[simp] theorem State.tick_warm (s : State) (d : Fin 4) : (s.tick d).warm = s.warm := rfl
@[simp] theorem State.tick_links (s : State) (d : Fin 4) : (s.tick d).links = s.links := rfl
@[simp] theorem State.tick_grants (s : State) (d : Fin 4) : (s.tick d).grants = s.grants := rfl
@[simp] theorem State.tick_peerEpochs (s : State) (d : Fin 4) : (s.tick d).peerEpochs = s.peerEpochs := rfl
@[simp] theorem State.tick_peerGrants (s : State) (d : Fin 4) : (s.tick d).peerGrants = s.peerGrants := rfl
@[simp] theorem State.tick_peerOut (s : State) (d : Fin 4) : (s.tick d).peerOut = s.peerOut := rfl
@[simp] theorem State.tick_poisoned (s : State) (d : Fin 4) : (s.tick d).poisoned = s.poisoned := rfl
@[simp] theorem State.tick_ctxRuns (s : State) (d : Fin 4) : (s.tick d).ctxRuns = s.ctxRuns := rfl
@[simp] theorem State.tick_wsOp (s : State) (d : Fin 4) : (s.tick d).wsOp = s.wsOp := rfl
@[simp] theorem State.tick_closed (s : State) (d : Fin 4) : (s.tick d).closed = s.closed := rfl
@[simp] theorem State.tick_flr (s : State) (d : Fin 4) : (s.tick d).flr = s.flr := rfl
@[simp] theorem State.tick_rr (s : State) (d : Fin 4) : (s.tick d).rr = s.rr := rfl
@[simp] theorem State.tick_sigWaits (s : State) (d : Fin 4) : (s.tick d).sigWaits = s.sigWaits := rfl
@[simp] theorem State.tick_worlds (s : State) (d : Fin 4) : (s.tick d).worlds = s.worlds := rfl
@[simp] theorem State.tick_svn (s : State) (d : Fin 4) : (s.tick d).svn = s.svn := rfl
@[simp] theorem State.tick_peerReply (s : State) (d : Fin 4) : (s.tick d).peerReply = s.peerReply := rfl
@[simp] theorem State.tick_telem (s : State) (d : Fin 4) : (s.tick d).telem = s.telem := rfl
@[simp] theorem State.tick_usTime (s : State) (d : Fin 4) : (s.tick d).usTime = s.usTime := rfl
@[simp] theorem State.tick_prot (s : State) (d : Fin 4) : (s.tick d).prot = s.prot := rfl
@[simp] theorem State.tick_pluginStopped (s : State) (d : Fin 4) : (s.tick d).pluginStopped = s.pluginStopped := rfl
@[simp] theorem State.tick_fatal (s : State) (d : Fin 4) : (s.tick d).fatal = s.fatal := rfl
@[simp] theorem State.tick_dumping (s : State) (d : Fin 4) : (s.tick d).dumping = s.dumping := rfl
@[simp] theorem State.tick_rstGo (s : State) (d : Fin 4) : (s.tick d).rstGo = s.rstGo := rfl
@[simp] theorem State.tick_collInst (s : State) (d : Fin 4) : (s.tick d).collInst = s.collInst := rfl
@[simp] theorem State.tick_hostRead (s : State) (d : Fin 4) : (s.tick d).hostRead = s.hostRead := rfl
@[simp] theorem State.tick_msix (s : State) (d : Fin 4) : (s.tick d).msix = s.msix := rfl
@[simp] theorem State.tick_aer (s : State) (d : Fin 4) : (s.tick d).aer = s.aer := rfl

/-! ### `setReg` -/

@[simp] theorem State.setReg_agenda (s : State) (k : Nat) (x : BitVec 64) : (s.setReg k x).agenda = s.agenda := rfl
@[simp] theorem State.setReg_cur (s : State) (k : Nat) (x : BitVec 64) : (s.setReg k x).cur = s.cur := rfl
@[simp] theorem State.setReg_order (s : State) (k : Nat) (x : BitVec 64) : (s.setReg k x).order = s.order := rfl
@[simp] theorem State.setReg_turn (s : State) (k : Nat) (x : BitVec 64) : (s.setReg k x).turn = s.turn := rfl
@[simp] theorem State.setReg_free (s : State) (k : Nat) (x : BitVec 64) : (s.setReg k x).free = s.free := rfl
@[simp] theorem State.setReg_wales (s : State) (k : Nat) (x : BitVec 64) : (s.setReg k x).wales = s.wales := rfl
@[simp] theorem State.setReg_hoops (s : State) (k : Nat) (x : BitVec 64) : (s.setReg k x).hoops = s.hoops := rfl
@[simp] theorem State.setReg_skeins (s : State) (k : Nat) (x : BitVec 64) : (s.setReg k x).skeins = s.skeins := rfl
@[simp] theorem State.setReg_baskets (s : State) (k : Nat) (x : BitVec 64) : (s.setReg k x).baskets = s.baskets := rfl
@[simp] theorem State.setReg_cmds (s : State) (k : Nat) (x : BitVec 64) : (s.setReg k x).cmds = s.cmds := rfl
@[simp] theorem State.setReg_owed (s : State) (k : Nat) (x : BitVec 64) : (s.setReg k x).owed = s.owed := rfl
@[simp] theorem State.setReg_nextId (s : State) (k : Nat) (x : BitVec 64) : (s.setReg k x).nextId = s.nextId := rfl
@[simp] theorem State.setReg_nextPlace (s : State) (k : Nat) (x : BitVec 64) : (s.setReg k x).nextPlace = s.nextPlace := rfl
@[simp] theorem State.setReg_mem (s : State) (k : Nat) (x : BitVec 64) : (s.setReg k x).mem = s.mem := rfl
@[simp] theorem State.setReg_lines (s : State) (k : Nat) (x : BitVec 64) : (s.setReg k x).lines = s.lines := rfl
@[simp] theorem State.setReg_epoch (s : State) (k : Nat) (x : BitVec 64) : (s.setReg k x).epoch = s.epoch := rfl
@[simp] theorem State.setReg_unpub (s : State) (k : Nat) (x : BitVec 64) : (s.setReg k x).unpub = s.unpub := rfl
@[simp] theorem State.setReg_icache (s : State) (k : Nat) (x : BitVec 64) : (s.setReg k x).icache = s.icache := rfl
@[simp] theorem State.setReg_spad (s : State) (k : Nat) (x : BitVec 64) : (s.setReg k x).spad = s.spad := rfl
@[simp] theorem State.setReg_priv (s : State) (k : Nat) (x : BitVec 64) : (s.setReg k x).priv = s.priv := rfl
@[simp] theorem State.setReg_retired (s : State) (k : Nat) (x : BitVec 64) : (s.setReg k x).retired = s.retired := rfl
@[simp] theorem State.setReg_dies (s : State) (k : Nat) (x : BitVec 64) : (s.setReg k x).dies = s.dies := rfl
@[simp] theorem State.setReg_regs (s : State) (k : Nat) (x : BitVec 64) : (s.setReg k x).regs = Sparse.put s.regs k x := rfl
@[simp] theorem State.setReg_partMap (s : State) (k : Nat) (x : BitVec 64) : (s.setReg k x).partMap = s.partMap := rfl
@[simp] theorem State.setReg_partPending (s : State) (k : Nat) (x : BitVec 64) : (s.setReg k x).partPending = s.partPending := rfl
@[simp] theorem State.setReg_nodes (s : State) (k : Nat) (x : BitVec 64) : (s.setReg k x).nodes = s.nodes := rfl
@[simp] theorem State.setReg_pageReqs (s : State) (k : Nat) (x : BitVec 64) : (s.setReg k x).pageReqs = s.pageReqs := rfl
@[simp] theorem State.setReg_dieUp (s : State) (k : Nat) (x : BitVec 64) : (s.setReg k x).dieUp = s.dieUp := rfl
@[simp] theorem State.setReg_dieEpoch (s : State) (k : Nat) (x : BitVec 64) : (s.setReg k x).dieEpoch = s.dieEpoch := rfl
@[simp] theorem State.setReg_warm (s : State) (k : Nat) (x : BitVec 64) : (s.setReg k x).warm = s.warm := rfl
@[simp] theorem State.setReg_links (s : State) (k : Nat) (x : BitVec 64) : (s.setReg k x).links = s.links := rfl
@[simp] theorem State.setReg_grants (s : State) (k : Nat) (x : BitVec 64) : (s.setReg k x).grants = s.grants := rfl
@[simp] theorem State.setReg_peerEpochs (s : State) (k : Nat) (x : BitVec 64) : (s.setReg k x).peerEpochs = s.peerEpochs := rfl
@[simp] theorem State.setReg_peerGrants (s : State) (k : Nat) (x : BitVec 64) : (s.setReg k x).peerGrants = s.peerGrants := rfl
@[simp] theorem State.setReg_peerOut (s : State) (k : Nat) (x : BitVec 64) : (s.setReg k x).peerOut = s.peerOut := rfl
@[simp] theorem State.setReg_poisoned (s : State) (k : Nat) (x : BitVec 64) : (s.setReg k x).poisoned = s.poisoned := rfl
@[simp] theorem State.setReg_ctxRuns (s : State) (k : Nat) (x : BitVec 64) : (s.setReg k x).ctxRuns = s.ctxRuns := rfl
@[simp] theorem State.setReg_wsOp (s : State) (k : Nat) (x : BitVec 64) : (s.setReg k x).wsOp = s.wsOp := rfl
@[simp] theorem State.setReg_closed (s : State) (k : Nat) (x : BitVec 64) : (s.setReg k x).closed = s.closed := rfl
@[simp] theorem State.setReg_flr (s : State) (k : Nat) (x : BitVec 64) : (s.setReg k x).flr = s.flr := rfl
@[simp] theorem State.setReg_rr (s : State) (k : Nat) (x : BitVec 64) : (s.setReg k x).rr = s.rr := rfl
@[simp] theorem State.setReg_sigWaits (s : State) (k : Nat) (x : BitVec 64) : (s.setReg k x).sigWaits = s.sigWaits := rfl
@[simp] theorem State.setReg_worlds (s : State) (k : Nat) (x : BitVec 64) : (s.setReg k x).worlds = s.worlds := rfl
@[simp] theorem State.setReg_svn (s : State) (k : Nat) (x : BitVec 64) : (s.setReg k x).svn = s.svn := rfl
@[simp] theorem State.setReg_peerReply (s : State) (k : Nat) (x : BitVec 64) : (s.setReg k x).peerReply = s.peerReply := rfl
@[simp] theorem State.setReg_telem (s : State) (k : Nat) (x : BitVec 64) : (s.setReg k x).telem = s.telem := rfl
@[simp] theorem State.setReg_usTime (s : State) (k : Nat) (x : BitVec 64) : (s.setReg k x).usTime = s.usTime := rfl
@[simp] theorem State.setReg_prot (s : State) (k : Nat) (x : BitVec 64) : (s.setReg k x).prot = s.prot := rfl
@[simp] theorem State.setReg_pluginStopped (s : State) (k : Nat) (x : BitVec 64) : (s.setReg k x).pluginStopped = s.pluginStopped := rfl
@[simp] theorem State.setReg_fatal (s : State) (k : Nat) (x : BitVec 64) : (s.setReg k x).fatal = s.fatal := rfl
@[simp] theorem State.setReg_dumping (s : State) (k : Nat) (x : BitVec 64) : (s.setReg k x).dumping = s.dumping := rfl
@[simp] theorem State.setReg_rstGo (s : State) (k : Nat) (x : BitVec 64) : (s.setReg k x).rstGo = s.rstGo := rfl
@[simp] theorem State.setReg_collInst (s : State) (k : Nat) (x : BitVec 64) : (s.setReg k x).collInst = s.collInst := rfl
@[simp] theorem State.setReg_hostRead (s : State) (k : Nat) (x : BitVec 64) : (s.setReg k x).hostRead = s.hostRead := rfl
@[simp] theorem State.setReg_msix (s : State) (k : Nat) (x : BitVec 64) : (s.setReg k x).msix = s.msix := rfl
@[simp] theorem State.setReg_aer (s : State) (k : Nat) (x : BitVec 64) : (s.setReg k x).aer = s.aer := rfl

/-! ### Accessors after updates -/

@[simp] theorem State.wale?_setWale (s : State) (w k : Nat) (x : Wale) :
    (s.setWale w x).wale? k = if k = w then some x else s.wale? k := by
  simp [State.wale?, State.setWale, Sparse.find?_put]

@[simp] theorem State.die_setWale (s : State) (w : Nat) (x : Wale) (d : Fin 4) : (s.setWale w x).die d = s.die d := rfl
@[simp] theorem State.reg_setWale (s : State) (w : Nat) (x : Wale) (k : Nat) : (s.setWale w x).reg k = s.reg k := rfl
@[simp] theorem State.hoop?_setWale (s : State) (w : Nat) (x : Wale) (h : Nat) : (s.setWale w x).hoop? h = s.hoop? h := rfl
@[simp] theorem State.skein?_setWale (s : State) (w : Nat) (x : Wale) (k : Nat) : (s.setWale w x).skein? k = s.skein? k := rfl
@[simp] theorem State.basket?_setWale (s : State) (w : Nat) (x : Wale) (b : Nat) :
    (s.setWale w x).basket? b = s.basket? b := rfl

@[simp] theorem State.die_setDie (s : State) (d e : Fin 4) (x : Die) :
    (s.setDie d x).die e = if e = d then x else s.die e := by
  simp [State.die, State.setDie]
@[simp] theorem State.die_updDie (s : State) (d e : Fin 4) (f : Die → Die) :
    (s.updDie d f).die e = if e = d then f (s.die d) else s.die e := by
  simp [State.updDie]
@[simp] theorem State.die_tick (s : State) (d e : Fin 4) :
    (s.tick d).die e = if e = d then { (s.die e) with cc := (s.die e).cc + 1 } else s.die e := by
  simp only [State.tick, State.die_updDie]; split
  · subst e; rfl
  · rfl

@[simp] theorem State.reg_setReg (s : State) (k j : Nat) (x : BitVec 64) :
    (s.setReg k x).reg j = if j = k then x else s.reg j := by
  simp only [State.reg, State.setReg, Sparse.getD_put]

/-- Putting a wale back as it was changes nothing. -/
theorem State.setWale_self {s : State} {w : Nat} {x : Wale} (h : s.wale? w = some x) : s.setWale w x = s := by
  simp only [State.wale?] at h
  simp [State.setWale, Sparse.put_find? h]

theorem State.setWale_setWale (s : State) (w : Nat) (x y : Wale) : (s.setWale w x).setWale w y = s.setWale w y := by
  simp [State.setWale, Sparse.put_put]

end Sys2Proof.Machine
end

