-- ==== Sys2Proof/Laws/Issue.lean ====
section
/-! SUPPORT. Laws of issue: when the checks pass (`gate_ready`), and what an instruction that completes, faults or waits
leaves (`ran_finish`, `raised_raise`, `waits_hold`, `drains_drainWait`). Later proofs cite these and unfold none of the
shared operations. -/

namespace Sys2Proof.Machine

/-! ### Register writes -/

theorem WaleCore.getV_of {c d : WaleCore} (h : c.v = d.v) (n : Fin 256) : c.getV n = d.getV n := by
  unfold WaleCore.getV; rw [h]
theorem WaleCore.getS_of {c d : WaleCore} (h : c.s = d.s) (n : Fin 64) : c.getS n = d.getS n := by
  unfold WaleCore.getS; rw [h]
theorem WaleCore.getP_of {c d : WaleCore} (h : c.p = d.p) (n : Fin 8) : c.getP n = d.getP n := by
  unfold WaleCore.getP; rw [h]

@[simp] theorem WaleCore.write_s_v (c : WaleCore) (k : Fin 64) (y : Word) : (c.write (.s k y)).v = c.v := by simp only [WaleCore.write]
@[simp] theorem WaleCore.write_s_p (c : WaleCore) (k : Fin 64) (y : Word) : (c.write (.s k y)).p = c.p := by simp only [WaleCore.write]
@[simp] theorem WaleCore.write_v_s (c : WaleCore) (k : Fin 256) (m : Mask) (y : Lanes) : (c.write (.v k m y)).s = c.s := by simp only [WaleCore.write]
@[simp] theorem WaleCore.write_v_p (c : WaleCore) (k : Fin 256) (m : Mask) (y : Lanes) : (c.write (.v k m y)).p = c.p := by simp only [WaleCore.write]
@[simp] theorem WaleCore.write_p_v (c : WaleCore) (k : Fin 8) (m x : Mask) : (c.write (.p k m x)).v = c.v := by
  simp only [WaleCore.write]; split <;> rfl
@[simp] theorem WaleCore.write_p_s (c : WaleCore) (k : Fin 8) (m x : Mask) : (c.write (.p k m x)).s = c.s := by
  simp only [WaleCore.write]; split <;> rfl

theorem WaleCore.getV_write (c : WaleCore) (w : RegWrite) (n : Fin 256) (i : Fin 32) :
    vget ((c.write w).getV n) i = vAfter [w] n i (vget (c.getV n) i) := by
  cases w with
  | v k m y =>
    have e : (c.write (.v k m y)).getV n = if n.val = k.val then Lanes.mix (c.getV k) m y else c.getV n :=
      Sparse.getD_put c.v zeroLanes k.val n.val _
    rw [e]; simp only [vAfter, List.foldl]
    by_cases h : k = n
    · subst h; simp
    · have : ¬ (n.val = k.val) := fun e => h (Fin.ext e.symm)
      simp [h, this]
  | s k y => rw [WaleCore.getV_of (WaleCore.write_s_v c k y)]; simp [vAfter]
  | p k m y => rw [WaleCore.getV_of (WaleCore.write_p_v c k m y)]; simp [vAfter]

theorem WaleCore.getS_write (c : WaleCore) (w : RegWrite) (n : Fin 64) :
    (c.write w).getS n = sAfter [w] n (c.getS n) := by
  cases w with
  | v k m y => rw [WaleCore.getS_of (WaleCore.write_v_s c k m y)]; simp [sAfter]
  | s k y => simp [WaleCore.write, WaleCore.getS, sAfter, eq_comm]
  | p k m y => rw [WaleCore.getS_of (WaleCore.write_p_s c k m y)]; simp [sAfter]

theorem WaleCore.getP_write (c : WaleCore) (w : RegWrite) (n : Fin 8) (i : Fin 32) (h : n ≠ 0) :
    ((c.write w).getP n).getLsbD i.val = pAfter [w] n i ((c.getP n).getLsbD i.val) := by
  cases w with
  | v k m y => rw [WaleCore.getP_of (WaleCore.write_v_p c k m y)]; simp [pAfter]
  | s k y => rw [WaleCore.getP_of (WaleCore.write_s_p c k y)]; simp [pAfter]
  | p k m y =>
    simp only [WaleCore.write, WaleCore.getP, pAfter, List.foldl, h, if_false]
    by_cases hk : k = 0
    · subst hk; simp [Ne.symm h]
    · by_cases hn : k = n
      · subst hn
        simp only [hk, if_false, BitVec.getLsbD_or, BitVec.getLsbD_and, BitVec.getLsbD_not, vget_vset, if_true, true_and]
        by_cases hm : m.getLsbD i.val = true
        · simp only [hm]; simp
        · simp only [Bool.not_eq_true] at hm; simp only [hm]; simp [i.isLt]
      · simp [hk, hn, Ne.symm hn]

theorem WaleCore.getV_writes (ws : List RegWrite) (c : WaleCore) (n : Fin 256) (i : Fin 32) :
    vget ((c.writes ws).getV n) i = vAfter ws n i (vget (c.getV n) i) := by
  induction ws generalizing c with
  | nil => rfl
  | cons w ws ih =>
    show vget (((c.write w).writes ws).getV n) i = _
    rw [ih, WaleCore.getV_write]; rfl

theorem WaleCore.getS_writes (ws : List RegWrite) (c : WaleCore) (n : Fin 64) :
    (c.writes ws).getS n = sAfter ws n (c.getS n) := by
  induction ws generalizing c with
  | nil => rfl
  | cons w ws ih =>
    show ((c.write w).writes ws).getS n = _
    rw [ih, WaleCore.getS_write]; rfl

theorem WaleCore.getP_writes (ws : List RegWrite) (c : WaleCore) (n : Fin 8) (i : Fin 32) (h : n ≠ 0) :
    ((c.writes ws).getP n).getLsbD i.val = pAfter ws n i ((c.getP n).getLsbD i.val) := by
  induction ws generalizing c with
  | nil => rfl
  | cons w ws ih =>
    show (((c.write w).writes ws).getP n).getLsbD i.val = _
    rw [ih, WaleCore.getP_write _ _ _ _ h]; rfl

/-- p0 reads as all ones (02 R42). -/
@[simp] theorem WaleCore.getP_zero (c : WaleCore) : c.getP 0 = 0xFFFFFFFF := rfl

/-- Register writes change v, s and p registers only. -/
theorem WaleCore.write_rest (c : WaleCore) (w : RegWrite) :
    c.write w = { c with v := (c.write w).v, s := (c.write w).s, p := (c.write w).p } := by
  cases w with
  | v n m y => simp only [WaleCore.write]
  | s n y => simp only [WaleCore.write]
  | p n m y => simp only [WaleCore.write]; split <;> simp only

theorem WaleCore.writes_rest (ws : List RegWrite) (c : WaleCore) :
    c.writes ws = { c with v := (c.writes ws).v, s := (c.writes ws).s, p := (c.writes ws).p } := by
  induction ws generalizing c with
  | nil => rfl
  | cons w ws ih =>
    have e : c.writes (w :: ws) = (c.write w).writes ws := rfl
    have h := ih (c.write w)
    rw [e]
    generalize (c.write w).writes ws = d at h
    rw [WaleCore.write_rest c w] at h
    rw [h]

theorem vAfter_append (a b : List RegWrite) (n : Fin 256) (i : Fin 32) (o : Word) :
    vAfter (a ++ b) n i o = vAfter b n i (vAfter a n i o) := by simp [vAfter, List.foldl_append]
theorem sAfter_append (a b : List RegWrite) (n : Fin 64) (o : Word) :
    sAfter (a ++ b) n o = sAfter b n (sAfter a n o) := by simp [sAfter, List.foldl_append]
theorem pAfter_append (a b : List RegWrite) (n : Fin 8) (i : Fin 32) (o : Bool) :
    pAfter (a ++ b) n i o = pAfter b n i (pAfter a n i o) := by simp [pAfter, List.foldl_append]

/-! ### Landing -/

/-- The shadows `xs` land: their register writes in order and their flags; nothing else. -/
structure Lands (xs : List Shadow) (c d : WaleCore) : Prop where
  vreg : ∀ (n : Fin 256) (i : Fin 32), vget (d.getV n) i = vAfter (xs.flatMap fun h => h.writes) n i (vget (c.getV n) i)
  sreg : ∀ n : Fin 64, d.getS n = sAfter (xs.flatMap fun h => h.writes) n (c.getS n)
  preg : ∀ (n : Fin 8) (i : Fin 32), n ≠ 0 →
    (d.getP n).getLsbD i.val = pAfter (xs.flatMap fun h => h.writes) n i ((c.getP n).getLsbD i.val)
  flags : d.fflags = (xs.map fun h => h.flags).foldl (fun a b => a ||| b) c.fflags
  rest : d = { c with v := d.v, s := d.s, p := d.p, fflags := d.fflags }

theorem WaleCore.land_lands (c : WaleCore) (x : Shadow) : Lands [x] c (c.land x) := by
  have hr := WaleCore.writes_rest x.writes c
  have hv : (c.land x).v = (c.writes x.writes).v := rfl
  have hs : (c.land x).s = (c.writes x.writes).s := rfl
  have hp : (c.land x).p = (c.writes x.writes).p := rfl
  have hf : (c.writes x.writes).fflags = c.fflags := by rw [hr]
  constructor
  · intro n i; rw [WaleCore.getV_of hv, WaleCore.getV_writes]; simp
  · intro n; rw [WaleCore.getS_of hs, WaleCore.getS_writes]; simp
  · intro n i h; rw [WaleCore.getP_of hp, WaleCore.getP_writes _ _ _ _ h]; simp
  · show (c.writes x.writes).fflags ||| x.flags = _
    rw [hf]; rfl
  · unfold WaleCore.land; rw [hr]

theorem WaleCore.foldl_land (xs : List Shadow) (c : WaleCore) : Lands xs c (xs.foldl WaleCore.land c) := by
  induction xs generalizing c with
  | nil => exact ⟨fun _ _ => rfl, fun _ => rfl, fun _ _ _ => rfl, rfl, rfl⟩
  | cons x xs ih =>
    have h1 := WaleCore.land_lands c x
    have h2 := ih (c.land x)
    simp only [List.foldl_cons]
    constructor
    · intro n i; rw [h2.vreg, h1.vreg]; simp [vAfter_append]
    · intro n; rw [h2.sreg, h1.sreg]; simp [sAfter_append]
    · intro n i h; rw [h2.preg n i h, h1.preg n i h]; simp [pAfter_append]
    · rw [h2.flags, h1.flags]; simp
    · rw [h2.rest, h1.rest]

theorem WaleCore.countShadows_lands (x : Ctx) (c : WaleCore) (hs : c.shadows = x.core.shadows) (hk : c.stack = x.core.stack) :
    Lands x.ending { c with shadows := x.staying } (c.countShadows x.arm) := by
  have e : c.countShadows x.arm = x.ending.foldl WaleCore.land { c with shadows := x.staying } := by
    simp only [WaleCore.countShadows, hs, hk]; rfl
  rw [e]; exact WaleCore.foldl_land _ _

/-! ### The effects of a result -/

theorem foldl_or_init (xs : List Word) (a b : Word) :
    xs.foldl (fun p q => p ||| q) (a ||| b) = a ||| xs.foldl (fun p q => p ||| q) b := by
  induction xs generalizing b with
  | nil => rfl
  | cons x xs ih => simp only [List.foldl_cons, BitVec.or_assoc]; exact ih _

theorem WaleCore.effect_ran (x : Ctx) (r : Res) (held : Bool) :
    RanCore x r held x.core ((x.core.effect x.arm x.la x.lld r).counted held) := by
  by_cases h : x.la = 0
  · have hw := WaleCore.writes_rest r.writes x.core
    have L := WaleCore.countShadows_lands x
      { (x.core.writes r.writes) with fflags := (x.core.writes r.writes).fflags ||| r.flags }
      (by rw [hw]) (by rw [hw])
    have e : x.core.effect x.arm x.la x.lld r =
        ({ (x.core.writes r.writes) with fflags := (x.core.writes r.writes).fflags ||| r.flags }).countShadows x.arm := by
      simp [WaleCore.effect, h]
    have hf : (x.core.writes r.writes).fflags = x.core.fflags := by rw [hw]
    rw [e]
    constructor
    · intro n i
      have := L.vreg n i
      simp only [Ctx.landing, h, if_true, vAfter_append]
      rw [← WaleCore.getV_writes r.writes x.core n i]; exact this
    · intro n
      have := L.sreg n
      simp only [Ctx.landing, h, if_true, sAfter_append]
      rw [← WaleCore.getS_writes r.writes x.core n]; exact this
    · intro n i
      split
      · subst n; simp only [WaleCore.getP, if_true]; fin_cases i <;> rfl
      · have := L.preg n i ‹_›
        simp only [Ctx.landing, h, if_true, pAfter_append]
        rw [← WaleCore.getP_writes r.writes x.core n i ‹_›]; exact this
    · show (WaleCore.countShadows _ x.arm).fflags = _
      rw [L.flags]; simp only [Ctx.landingFlags, h, if_true, hf]; exact foldl_or_init _ _ _
    · show (WaleCore.countShadows _ x.arm).shadows = _
      rw [L.rest]; simp [h]
    · show (WaleCore.countShadows _ x.arm).icount + 1 = _
      rw [L.rest, hw]
    · show (WaleCore.countShadows _ x.arm).wcount + _ = _
      rw [L.rest, hw]
    · show (WaleCore.countShadows _ x.arm).yleft - 1 = _
      rw [L.rest, hw]
    · show (WaleCore.countShadows _ x.arm).hoff.map _ = _
      rw [L.rest, hw]
    · simp only [WaleCore.counted, WaleCore.withData]
      rw [L.rest, hw]
  · have L := WaleCore.countShadows_lands x x.core rfl rfl
    have e : x.core.effect x.arm x.la x.lld r = { (x.core.countShadows x.arm) with shadows := (x.core.countShadows x.arm).shadows ++
        [{ left := x.la, landed := false, arm := x.arm, depth := (x.core.countShadows x.arm).stack.length, writes := r.writes, flags := r.flags,
           dst := x.lld, old := false }] } := by
      simp [WaleCore.effect, h]
    have hst : (x.core.countShadows x.arm).stack = x.core.stack := by rw [L.rest]
    rw [e, hst]
    constructor
    · intro n i; simp only [Ctx.landing, h, if_false, List.nil_append]; exact L.vreg n i
    · intro n; simp only [Ctx.landing, h, if_false, List.nil_append]; exact L.sreg n
    · intro n i
      split
      · subst n; simp only [WaleCore.getP, if_true]; fin_cases i <;> rfl
      · simp only [Ctx.landing, h, if_false, List.nil_append]; exact L.preg n i ‹_›
    · show (WaleCore.countShadows _ x.arm).fflags = _
      rw [L.flags]; simp only [Ctx.landingFlags, h, if_false]
      rw [← foldl_or_init]; simp
    · show (WaleCore.countShadows _ x.arm).shadows ++ _ = _
      rw [L.rest]; simp [h]
    · show (WaleCore.countShadows _ x.arm).icount + 1 = _
      rw [L.rest]
    · show (WaleCore.countShadows _ x.arm).wcount + _ = _
      rw [L.rest]
    · show (WaleCore.countShadows _ x.arm).yleft - 1 = _
      rw [L.rest]
    · show (WaleCore.countShadows _ x.arm).hoff.map _ = _
      rw [L.rest]
    · simp only [WaleCore.counted, WaleCore.withData]
      rw [L.rest]

end Sys2Proof.Machine
end

