-- ==== Sys2Proof/Laws/Flow.lean ====
section
/-! SUPPORT. The flow of control reads and changes nothing of what an issue changes beside it: each change of flow commutes
with `withData`. -/

namespace Sys2Proof.Machine

@[simp] theorem WaleCore.withData_stack (g d : WaleCore) : (g.withData d).stack = g.stack := rfl
@[simp] theorem WaleCore.withData_base (g d : WaleCore) : (g.withData d).base = g.base := rfl
@[simp] theorem WaleCore.withData_loops (g d : WaleCore) : (g.withData d).loops = g.loops := rfl
@[simp] theorem WaleCore.withData_lc (g d : WaleCore) : (g.withData d).lc = g.lc := rfl
@[simp] theorem WaleCore.withData_lstack (g d : WaleCore) : (g.withData d).lstack = g.lstack := rfl
@[simp] theorem WaleCore.withData_exited (g d : WaleCore) : (g.withData d).exited = g.exited := rfl
@[simp] theorem WaleCore.withData_frame (g d : WaleCore) : (g.withData d).frame = g.frame := rfl
@[simp] theorem WaleCore.withData_serial (g d : WaleCore) : (g.withData d).serial = g.serial := rfl
@[simp] theorem WaleCore.withData_withData (g d e : WaleCore) : (g.withData d).withData e = g.withData e := rfl

@[simp] theorem WaleCore.frag_withData (g d : WaleCore) (a : ArmId) : (g.withData d).frag a = g.frag a := by
  cases a <;> rfl
@[simp] theorem WaleCore.setFrag_withData (g d : WaleCore) (a : ArmId) (f : Arm) :
    (g.withData d).setFrag a f = (g.setFrag a f).withData d := by
  unfold WaleCore.setFrag
  cases a with
  | sole => rfl
  | a0 => simp only [WaleCore.withData_stack]; split <;> rfl
  | a1 => simp only [WaleCore.withData_stack]; split <;> rfl

/-- Loops that run again after an inner one ended. -/
theorem reload_withData (ps : List (Fin 3)) (c d : WaleCore) :
    ps.foldl (fun (c : WaleCore) m =>
      { c with lc := vset c.lc m (vget c.loops m).lreload
               loops := vset c.loops m { (vget c.loops m) with lact := true } }) (c.withData d)
    = (ps.foldl (fun (c : WaleCore) m =>
      { c with lc := vset c.lc m (vget c.loops m).lreload
               loops := vset c.loops m { (vget c.loops m) with lact := true } }) c).withData d := by
  induction ps generalizing c with
  | nil => rfl
  | cons p ps ih => simp only [List.foldl_cons]; rw [← ih]; rfl

/-- The innermost active loop does not end here. -/
theorem loopEnd_other {pc : Dword} {c : WaleCore} {n : Fin 3} {rest ps : List (Fin 3)} (h : (vget c.loops n).lend ≠ pc) :
    loopEnd pc c (n :: rest) ps = ({ c with lstack := n :: rest }, nextSlot pc, false) := by
  unfold loopEnd; exact if_pos h
/-- A back-edge: the inner loops that ended here start again with it (07 R171). -/
theorem loopEnd_back {pc : Dword} {c : WaleCore} {n : Fin 3} {rest ps : List (Fin 3)} (h : (vget c.loops n).lend = pc)
    (k : vget c.lc n - 1 ≠ 0) :
    loopEnd pc c (n :: rest) ps =
      ({ (ps.foldl (fun (c : WaleCore) m =>
          { c with lc := vset c.lc m (vget c.loops m).lreload
                   loops := vset c.loops m { (vget c.loops m) with lact := true } })
          { c with lc := vset c.lc n (vget c.lc n - 1) }) with lstack := ps.reverse ++ n :: rest },
        (vget c.loops n).lstart, true) := by
  unfold loopEnd; exact (if_neg (not_not.mpr h)).trans (if_pos k)
/-- A loop whose count is used up is inactive, and the next one out is judged. -/
theorem loopEnd_end {pc : Dword} {c : WaleCore} {n : Fin 3} {rest ps : List (Fin 3)} (h : (vget c.loops n).lend = pc)
    (k : vget c.lc n - 1 = 0) :
    loopEnd pc c (n :: rest) ps =
      loopEnd pc { c with lc := vset c.lc n (vget c.lc n - 1), loops := vset c.loops n { (vget c.loops n) with lact := false } }
        rest (n :: ps) := by
  rw [loopEnd]; exact (if_neg (not_not.mpr h)).trans (if_neg (not_not.mpr k))

theorem loopEnd_withData (pc : Dword) (ls ps : List (Fin 3)) (c d : WaleCore) :
    loopEnd pc (c.withData d) ls ps = ((loopEnd pc c ls ps).1.withData d, (loopEnd pc c ls ps).2) := by
  induction ls generalizing c ps with
  | nil => rfl
  | cons n rest ih =>
    by_cases h1 : (vget c.loops n).lend = pc
    · by_cases h2 : vget c.lc n - 1 = 0
      · rw [loopEnd_end (c := c) h1 h2, loopEnd_end (c := c.withData d) h1 h2]
        exact ih (n :: ps)
          { c with lc := vset c.lc n (vget c.lc n - 1), loops := vset c.loops n { (vget c.loops n) with lact := false } }
      · rw [loopEnd_back (c := c) h1 h2, loopEnd_back (c := c.withData d) h1 h2]
        have h := reload_withData ps { c with lc := vset c.lc n (vget c.lc n - 1) } d
        have e : ({ c.withData d with lc := vset (c.withData d).lc n (vget (c.withData d).lc n - 1) } : WaleCore)
          = ({ c with lc := vset c.lc n (vget c.lc n - 1) } : WaleCore).withData d := rfl
        rw [e, h]; rfl
    · rw [loopEnd_other (c := c) h1, loopEnd_other (c := c.withData d) h1]; rfl

@[simp] theorem WaleCore.advance_withData (g d : WaleCore) (a : ArmId) :
    (g.withData d).advance a = (g.advance a).withData d := by
  simp only [WaleCore.advance, WaleCore.frag_withData, WaleCore.withData_lstack, loopEnd_withData]
  split
  · split <;> simp
  · simp

@[simp] theorem WaleCore.transfer_withData (g d : WaleCore) (a : ArmId) (pc : Dword) :
    (g.withData d).transfer a pc = (g.transfer a pc).withData d := by simp [WaleCore.transfer]

@[simp] theorem WaleCore.resumeSib_withData (g d : WaleCore) (a : ArmId) :
    (g.withData d).resumeSib a = (g.resumeSib a).withData d := by
  cases a with
  | sole => rfl
  | a0 => simp only [WaleCore.resumeSib, WaleCore.frag_withData, WaleCore.setFrag_withData]; split <;> rfl
  | a1 => simp only [WaleCore.resumeSib, WaleCore.frag_withData, WaleCore.setFrag_withData]; split <;> rfl

@[simp] theorem WaleCore.resumeFor_withData (g d : WaleCore) (a : ArmId) (why : Susp) :
    (g.withData d).resumeFor a why = (g.resumeFor a why).withData d := by
  cases a with
  | sole => rfl
  | a0 => simp only [WaleCore.resumeFor, WaleCore.frag_withData, WaleCore.setFrag_withData]; split <;> rfl
  | a1 => simp only [WaleCore.resumeFor, WaleCore.frag_withData, WaleCore.setFrag_withData]; split <;> rfl

@[simp] theorem WaleCore.replaceOpened_withData (g d : WaleCore) (f : Arm) :
    (g.withData d).replaceOpened f = (g.replaceOpened f).withData d := by
  simp only [WaleCore.replaceOpened, WaleCore.withData_stack]
  split
  · rfl
  · split
    · rfl
    · simp

@[simp] theorem WaleCore.leaveFrame_withData (g d : WaleCore) (a : ArmId) :
    (g.withData d).leaveFrame a = (g.leaveFrame a).withData d := by
  unfold WaleCore.leaveFrame
  by_cases h : (g.frame.any fun f => f.depth == g.stack.length && f.arm == a) = true
  · exact (if_pos h).trans ((WaleCore.resumeFor_withData { g with frame := none } d a .trap).trans
      (congrArg (WaleCore.withData · d) (if_pos h).symm))
  · exact (if_neg h).trans (congrArg (WaleCore.withData · d) (if_neg h).symm)

@[simp] theorem WaleCore.endOpened_withData (g d : WaleCore) : (g.withData d).endOpened = g.endOpened.withData d := by
  simp only [WaleCore.endOpened, WaleCore.withData_stack]
  split
  · simp
  · split
    · rfl
    · simp

theorem settle_withData (n : Nat) (g d : WaleCore) : settle n (g.withData d) = (settle n g).withData d := by
  induction n generalizing g with
  | zero => rfl
  | succ n ih =>
    simp only [settle, WaleCore.withData_stack, WaleCore.withData_exited]
    split
    · rfl
    · rename_i t ts h
      split
      · rfl
      · split
        · simp
        · split
          · simp
          · split
            · exact (if_pos ‹_›).trans
                (WaleCore.replaceOpened_withData { g with stack := ts } d (Arm.start t.l (t.mem &&& ~~~g.exited)))
            · refine (if_neg ‹_›).trans ?_
              cases ts with
              | nil => exact WaleCore.endOpened_withData { g with stack := [] } d
              | cons u us => exact (congrArg (settle n) (WaleCore.endOpened_withData { g with stack := u :: us } d)).trans (ih _)

@[simp] theorem WaleCore.park_withData (g d : WaleCore) (a : ArmId) : (g.withData d).park a = (g.park a).withData d := by
  simp only [WaleCore.park, WaleCore.withData_stack, WaleCore.frag_withData]
  split
  · rfl
  · rename_i t ts h
    have e := settle_withData 65
      ((({ g with stack := { t with pk := t.pk ||| (g.frag a).mem } :: ts } : WaleCore).setFrag a Arm.none).resumeSib a) d
    rw [← WaleCore.resumeSib_withData, ← WaleCore.setFrag_withData] at e
    exact e

/-- Fragment `a` ends: a trap frame that it carries ends with it (log entry 16). -/
def WaleCore.dropFrame (c : WaleCore) (a : ArmId) : WaleCore :=
  if c.frame.any fun f => f.depth == c.stack.length && f.arm == a then ({ c with frame := none } : WaleCore).resumeFor a .trap
  else c
theorem WaleCore.endFrag_eq (c : WaleCore) (a : ArmId) :
    c.endFrag a = settle 65 (((c.dropFrame a).setFrag a Arm.none).resumeSib a) := rfl
@[simp] theorem WaleCore.dropFrame_withData (g d : WaleCore) (a : ArmId) :
    (g.withData d).dropFrame a = (g.dropFrame a).withData d := by
  by_cases h : g.frame.any fun f => f.depth == g.stack.length && f.arm == a
  · have e : g.dropFrame a = ({ g with frame := none } : WaleCore).resumeFor a .trap := if_pos h
    rw [e]; exact (if_pos h).trans (WaleCore.resumeFor_withData { g with frame := none } d a .trap)
  · have e : g.dropFrame a = g := if_neg h
    rw [e]; exact if_neg h

@[simp] theorem WaleCore.endFrag_withData (g d : WaleCore) (a : ArmId) :
    (g.withData d).endFrag a = (g.endFrag a).withData d := by
  simp only [WaleCore.endFrag_eq, WaleCore.dropFrame_withData, WaleCore.setFrag_withData, WaleCore.resumeSib_withData,
    settle_withData]

@[simp] theorem WaleCore.endOrGo_withData (g d : WaleCore) (a : ArmId) :
    (g.withData d).endOrGo a = (g.endOrGo a).withData d := by
  simp only [WaleCore.endOrGo, WaleCore.frag_withData]
  split
  · simp
  · split <;> simp

@[simp] theorem WaleCore.splitArms_withData (g d : WaleCore) (a : ArmId) (t : Mask) (l : Dword) :
    (g.withData d).splitArms a t l = (g.splitArms a t l).withData d := by
  simp only [WaleCore.splitArms, WaleCore.withData_stack, WaleCore.frag_withData]
  split <;> rfl

@[simp] theorem WaleCore.pushToken_withData (g d : WaleCore) (a : ArmId) (l : Dword) :
    (g.withData d).pushToken a l = (g.pushToken a l).withData d := by
  cases a <;> simp only [WaleCore.pushToken, WaleCore.frag_withData, WaleCore.setFrag_withData] <;> rfl

@[simp] theorem WaleCore.dropLoop_withData (g d : WaleCore) (n : Fin 3) :
    (g.withData d).dropLoop n = (g.dropLoop n).withData d := rfl
@[simp] theorem WaleCore.startLoop_withData (g d : WaleCore) (n : Fin 3) (k : Word) (a b : Dword) :
    (g.withData d).startLoop n k a b = (g.startLoop n k a b).withData d := rfl

/-- The fragment without the strands `m` that exit. -/
def WaleCore.exitFrag (c : WaleCore) (a : ArmId) (m : Mask) : Arm :=
  let f := (c.frag a).without m
  if c.stack.isEmpty && f.em == 0 then { f with em := f.mem } else f
/-- The wale's record of the strands `m` that exit. -/
def WaleCore.exitNote (c : WaleCore) (m : Mask) : WaleCore :=
  { c with
    exited := c.exited ||| m
    stack := c.stack.map fun (t : Token) => { t with mem := t.mem &&& ~~~m, pk := t.pk &&& ~~~m } }
theorem WaleCore.exitStrands_eq (c : WaleCore) (a : ArmId) (m : Mask) :
    c.exitStrands a m = ((c.exitNote m).setFrag a ((c.exitNote m).exitFrag a m)).endOrGo a := rfl
theorem WaleCore.exitFrag_withData (g d : WaleCore) (a : ArmId) (m : Mask) :
    (g.withData d).exitFrag a m = g.exitFrag a m := by
  simp only [WaleCore.exitFrag, WaleCore.frag_withData, WaleCore.withData_stack]
theorem WaleCore.exitNote_withData (g d : WaleCore) (m : Mask) : (g.withData d).exitNote m = (g.exitNote m).withData d := rfl

@[simp] theorem WaleCore.exitStrands_withData (g d : WaleCore) (a : ArmId) (m : Mask) :
    (g.withData d).exitStrands a m = (g.exitStrands a m).withData d := by
  rw [WaleCore.exitStrands_eq, WaleCore.exitStrands_eq, WaleCore.exitNote_withData, WaleCore.exitFrag_withData,
    WaleCore.setFrag_withData, WaleCore.endOrGo_withData]

@[simp] theorem WaleCore.closeFrame_withData (g d : WaleCore) (a : ArmId) (f : TrapFrame) (pc : Dword) (arr : Bool)
    (r : Option Dword) : (g.withData d).closeFrame a f pc arr r = (g.closeFrame a f pc arr r).withData d := by
  have e : ({ g.withData d with frame := none } : WaleCore) = ({ g with frame := none } : WaleCore).withData d := rfl
  unfold WaleCore.closeFrame
  rw [e]; simp only [WaleCore.resumeFor_withData, WaleCore.frag_withData, WaleCore.withData_exited]
  split <;> simp

end Sys2Proof.Machine
end

