-- ==== Sys2Proof/Laws/Memory.lean ====
section
/-! SUPPORT. Laws of memory: every operation keeps the canonical form, changes no other field than it says, and a read after a
write gives what was written (14 R306, R319). -/

namespace Sys2Proof.Machine

/-! ### Byte strings -/

@[simp] theorem bytesLE_length (n x : Nat) : (bytesLE n x).length = n := by
  induction n generalizing x with
  | zero => rfl
  | succ n ih => simp [bytesLE, ih]

theorem bytesLE_getElem (n x i : Nat) (h : i < (bytesLE n x).length) : (bytesLE n x)[i] = BitVec.ofNat 8 (x / 256 ^ i) := by
  induction n generalizing x i with
  | zero => simp [bytesLE] at h
  | succ n ih =>
    cases i with
    | zero => simp [bytesLE]
    | succ i =>
      simp only [bytesLE, List.getElem_cons_succ]
      rw [ih]
      congr 1
      rw [Nat.div_div_eq_div_mul, Nat.pow_succ, Nat.mul_comm]

/-- The number of a byte string of a number is that number, modulo its width. -/
theorem natLE_bytesLE (n x : Nat) : natLE (bytesLE n x) = x % 256 ^ n := by
  induction n generalizing x with
  | zero => simp [bytesLE, natLE, Nat.mod_one]
  | succ n ih =>
    simp only [bytesLE, natLE, ih, BitVec.toNat_ofNat]
    rw [show (256 : Nat) ^ (n + 1) = 256 * 256 ^ n by rw [Nat.pow_succ, Nat.mul_comm], Nat.mod_mul]

/-! ### Runs of bytes in a map -/

theorem putBytes_wf {m : Mem} (a : Nat) (bs : List Byte) (h : Memory.wf m) : Memory.wf (putBytes m a bs) := by
  induction bs generalizing m a with
  | nil => exact h
  | cons b bs ih => exact ih (a + 1) (Sparse.wf_put a b h)

theorem find?_putBytes_out (m : Mem) (a : Nat) (bs : List Byte) {k : Nat} (h : k < a ∨ a + bs.length ≤ k) :
    Sparse.find? (putBytes m a bs) k = Sparse.find? m k := by
  induction bs generalizing m a with
  | nil => rfl
  | cons b bs ih =>
    simp only [List.length_cons] at h
    simp only [putBytes]
    rw [ih _ _ (by omega), Sparse.find?_put_ne _ _ (by omega)]

theorem find?_putBytes_in (m : Mem) (a : Nat) (bs : List Byte) {i : Nat} (h : i < bs.length) :
    Sparse.find? (putBytes m a bs) (a + i) = some bs[i] := by
  induction bs generalizing m a i with
  | nil => simp at h
  | cons b bs ih =>
    simp only [putBytes]
    cases i with
    | zero => rw [find?_putBytes_out _ _ _ (by omega)]; simpa using Sparse.find?_put_self m a b
    | succ i =>
      have := ih (Sparse.put m a b) (a + 1) (i := i) (by simpa using h)
      rw [show a + (i + 1) = a + 1 + i by omega, this]; rfl

/-! ### Physical memory -/

@[simp] theorem State.physRead_length (s : State) (key pa n : Nat) : (s.physRead key pa n).length = n := by
  induction n generalizing pa with
  | zero => rfl
  | succ n ih => simp [State.physRead, ih]

theorem State.physRead_getElem (s : State) (key pa n i : Nat) (h : i < (s.physRead key pa n).length) :
    (s.physRead key pa n)[i] = s.physByte key (pa + i) := by
  induction n generalizing pa i with
  | zero => simp [State.physRead] at h
  | succ n ih =>
    cases i with
    | zero => simp [State.physRead]
    | succ i => simp only [State.physRead, List.getElem_cons_succ]; rw [ih]; congr 1; omega

/-- Two states whose bytes agree read alike. -/
theorem State.physRead_congr {s t : State} {key pa n : Nat} (h : ∀ i, i < n → s.physByte key (pa + i) = t.physByte key (pa + i)) :
    s.physRead key pa n = t.physRead key pa n := by
  induction n generalizing pa with
  | zero => rfl
  | succ n ih =>
    have h0 : s.physByte key pa = t.physByte key pa := h 0 (by omega)
    have hr : s.physRead key (pa + 1) n = t.physRead key (pa + 1) n := ih fun i hi => by
      have := h (i + 1) (by omega)
      rwa [show pa + 1 + i = pa + (i + 1) by omega]
    simp only [State.physRead, h0, hr]

/-- What `rekey` does: nothing to a line of this key or of none, else the whole line is listed as it reads under the key. -/
theorem State.rekey_eq (s : State) (key pa : Nat) :
    s.rekey key pa = { s with mem := match Sparse.find? s.lines (pa / 64) with
      | some i => if i.key = key then s.mem else putBytes s.mem (pa / 64 * 64) (s.physRead key (pa / 64 * 64) 64)
      | none => s.mem } := by
  unfold State.rekey
  generalize s.physRead key (pa / 64 * 64) 64 = bs
  cases Sparse.find? s.lines (pa / 64) with
  | none => rfl
  | some i => by_cases h : i.key = key <;> simp only [h, if_true, if_false]
theorem State.rekey_rest (s : State) (key pa : Nat) : s.rekey key pa = { s with mem := (s.rekey key pa).mem } := by
  rw [State.rekey_eq]
theorem State.rekey_wf {s : State} (key pa : Nat) (h : Memory.wf s.mem) : Memory.wf (s.rekey key pa).mem := by
  rw [State.rekey_eq]
  generalize s.physRead key (pa / 64 * 64) 64 = bs
  cases Sparse.find? s.lines (pa / 64) with
  | none => exact h
  | some i =>
    by_cases hk : i.key = key
    · simpa only [hk, if_true] using h
    · simpa only [hk, if_false] using putBytes_wf _ bs h
@[simp] theorem State.rekey_lines (s : State) (key pa : Nat) : (s.rekey key pa).lines = s.lines := by rw [State.rekey_rest]
@[simp] theorem State.rekey_free (s : State) (key pa : Nat) : (s.rekey key pa).free = s.free := by rw [State.rekey_rest]
@[simp] theorem State.rekey_epoch (s : State) (key pa : Nat) : (s.rekey key pa).epoch = s.epoch := by rw [State.rekey_rest]
@[simp] theorem State.rekey_peerEpochs (s : State) (key pa : Nat) : (s.rekey key pa).peerEpochs = s.peerEpochs := by
  rw [State.rekey_rest]

/-- A write of bytes of one line changes memory, the line's record and the count of free values, and nothing else. -/
theorem State.physWrite_rest (s : State) (key pa : Nat) (bs : List Byte) :
    s.physWrite key pa bs =
      { s with mem := (s.physWrite key pa bs).mem, lines := (s.physWrite key pa bs).lines, free := s.free + 1 } := by
  unfold State.physWrite; rw [State.rekey_rest s key pa]
theorem State.physWrite_wf {s : State} (key pa : Nat) (bs : List Byte) (h : Memory.wf s.mem) :
    Memory.wf (s.physWrite key pa bs).mem :=
  putBytes_wf _ _ (State.rekey_wf key pa h)
@[simp] theorem State.physWrite_lines (s : State) (key pa : Nat) (bs : List Byte) :
    (s.physWrite key pa bs).lines = Sparse.put s.lines (pa / 64) { key := key, stamp := s.free } := by
  simp [State.physWrite]
theorem State.physWrite_mem (s : State) (key pa : Nat) (bs : List Byte) :
    (s.physWrite key pa bs).mem = putBytes (s.rekey key pa).mem pa bs := rfl

@[simp] theorem unlistedByte_physWrite (s : State) (key pa : Nat) (bs : List Byte) (k q : Nat) :
    unlistedByte (s.physWrite key pa bs) k q = unlistedByte s k q := by
  rw [State.physWrite_rest]; rfl

/-- A write leaves every byte of another line alone, under every key. -/
theorem State.physByte_physWrite_line (s : State) (key pa : Nat) {bs : List Byte} {k q : Nat}
    (hb : pa % 64 + bs.length ≤ 64) (hq : q / 64 ≠ pa / 64) : (s.physWrite key pa bs).physByte k q = s.physByte k q := by
  have hm : Sparse.find? (s.physWrite key pa bs).mem q = Sparse.find? s.mem q := by
    rw [State.physWrite_mem, find?_putBytes_out _ _ _ (by omega), State.rekey_eq]
    have hl : (s.physRead key (pa / 64 * 64) 64).length = 64 := State.physRead_length ..
    generalize s.physRead key (pa / 64 * 64) 64 = cs at hl
    cases Sparse.find? s.lines (pa / 64) with
    | none => rfl
    | some i =>
      by_cases hk : i.key = key
      · simp only [hk, if_true]
      · simp only [hk, if_false]; exact find?_putBytes_out _ _ _ (by omega)
  simp only [State.physByte, State.physWrite_lines, Sparse.find?_put_ne _ _ hq, hm, unlistedByte_physWrite]

/-- A byte of the line written reads, under the key of the write, as what was written there, or else as it read before. -/
theorem State.physByte_physWrite_key (s : State) (key pa : Nat) {bs : List Byte} {q : Nat}
    (hq : q / 64 = pa / 64) :
    (s.physWrite key pa bs).physByte key q =
      if h : pa ≤ q ∧ q < pa + bs.length then bs[q - pa]'(by omega) else s.physByte key q := by
  have hl : Sparse.find? (s.physWrite key pa bs).lines (q / 64) = some { key := key, stamp := s.free } := by
    rw [State.physWrite_lines, hq, Sparse.find?_put_self]
  have hr : (s.physWrite key pa bs).physByte key q =
      (Sparse.find? (s.physWrite key pa bs).mem q).getD (unlistedByte s key q) := by
    simp only [State.physByte, hl, if_true, unlistedByte_physWrite]
  rw [hr, State.physWrite_mem]
  split
  · rename_i h
    obtain ⟨i, rfl⟩ : ∃ i, q = pa + i := ⟨q - pa, by omega⟩
    rw [find?_putBytes_in _ _ _ (by omega : i < bs.length)]; simp
  · rename_i h
    rw [find?_putBytes_out _ _ _ (by omega)]
    have hg : ∀ i, i < 64 → ∀ hi, (s.physRead key (pa / 64 * 64) 64)[i]'hi = s.physByte key (pa / 64 * 64 + i) :=
      fun i _ hi => State.physRead_getElem ..
    have hl : (s.physRead key (pa / 64 * 64) 64).length = 64 := State.physRead_length ..
    rw [State.rekey_eq]
    generalize s.physRead key (pa / 64 * 64) 64 = cs at hg hl
    cases hf : Sparse.find? s.lines (pa / 64) with
    | none => simp only [State.physByte, hq, hf]
    | some i =>
      by_cases hk : i.key = key
      · simp only [State.physByte, hq, hf, hk, if_true]
      · simp only [hk, if_false]
        obtain ⟨j, rfl⟩ : ∃ j, q = pa / 64 * 64 + j := ⟨q - pa / 64 * 64, by omega⟩
        rw [find?_putBytes_in _ _ _ (by omega : j < cs.length), hg j (by omega)]; rfl

/-- A read after a write of the same bytes under the same key gives what was written. -/
theorem State.physRead_physWrite (s : State) (key pa : Nat) (bs : List Byte) (hb : pa % 64 + bs.length ≤ 64) :
    (s.physWrite key pa bs).physRead key pa bs.length = bs := by
  apply List.ext_getElem
  · simp
  · intro i h1 h2
    rw [State.physRead_getElem, State.physByte_physWrite_key s key pa (by omega)]
    simp [h2]

/-- A run of bytes that ends within its first line is one write. -/
theorem State.physWriteRun_line (fuel : Nat) (s : State) (key pa : Nat) {bs : List Byte} (h0 : bs ≠ [])
    (hb : pa % 64 + bs.length ≤ 64) : State.physWriteRun (fuel + 1) s key pa bs = s.physWrite key pa bs := by
  cases bs with
  | nil => exact absurd rfl h0
  | cons b bs =>
    simp only [State.physWriteRun]
    rw [List.take_of_length_le (by omega), List.drop_of_length_le (by omega)]
    cases fuel <;> rfl

/-- A run of bytes changes memory, the records of lines and the count of free values, and nothing else. -/
theorem State.physWriteRun_rest (fuel : Nat) (s : State) (key pa : Nat) (bs : List Byte) :
    State.physWriteRun fuel s key pa bs =
      { s with mem := (State.physWriteRun fuel s key pa bs).mem, lines := (State.physWriteRun fuel s key pa bs).lines
               free := (State.physWriteRun fuel s key pa bs).free } := by
  induction fuel generalizing s pa bs with
  | zero => rfl
  | succ n ih =>
    simp only [State.physWriteRun]
    split
    · rfl
    · rw [ih]; rw [State.physWrite_rest]
theorem State.physWriteRun_wf (fuel : Nat) {s : State} (key pa : Nat) (bs : List Byte) (h : Memory.wf s.mem) :
    Memory.wf (State.physWriteRun fuel s key pa bs).mem := by
  induction fuel generalizing s pa bs with
  | zero => exact h
  | succ n ih =>
    simp only [State.physWriteRun]
    split
    · exact h
    · exact ih _ _ (State.physWrite_wf _ _ _ h)

/-! ### Operations that leave memory's bytes alone -/

@[simp] theorem State.unpublish_mem (s : State) (g : Agent) (pa : Nat) : (s.unpublish g pa).mem = s.mem := rfl
@[simp] theorem State.unpublish_physByte (s : State) (g : Agent) (pa k q : Nat) :
    (s.unpublish g pa).physByte k q = s.physByte k q := rfl
@[simp] theorem State.watch_mem (s : State) (f va n : Nat) : (s.watch f va n).mem = s.mem := rfl
@[simp] theorem State.watch_physByte (s : State) (f va n k q : Nat) : (s.watch f va n).physByte k q = s.physByte k q := rfl
@[simp] theorem State.wakeWord_mem (s : State) (l : Loc) : (s.wakeWord l).mem = s.mem := by cases l <;> rfl
@[simp] theorem State.ioLoad_mem (s : State) (pa n : Nat) : (s.ioLoad pa n).2.mem = s.mem := by
  simp only [State.ioLoad]; repeat' split
  all_goals rfl
@[simp] theorem State.ioStore_mem (s : State) (pa f : Nat) (d : Fin 4) (bs : List Byte) : (s.ioStore pa f d bs).mem = s.mem := by
  simp only [State.ioStore]; split <;> rfl
@[simp] theorem State.ring_mem (s : State) (pa : Nat) (bs : List Byte) : (s.ring pa bs).mem = s.mem := by
  simp only [State.ring]; split <;> rfl
@[simp] theorem State.updDie_mem' (s : State) (d : Fin 4) (f : Die → Die) : (s.updDie d f).mem = s.mem := rfl
@[simp] theorem State.mapDies_mem (s : State) (f : Fin 4 → Die → Die) : (s.mapDies f).mem = s.mem := rfl
@[simp] theorem State.recall_mem (s : State) (l : Nat) (b : Option Nat) : (s.recall l b).mem = s.mem := rfl
@[simp] theorem State.share_mem (s : State) (l : Nat) : (s.share l).mem = s.mem := rfl
@[simp] theorem State.heat_mem (s : State) (l : Nat) : (s.heat l).mem = s.mem := rfl
@[simp] theorem State.allocate_mem (s : State) (d : Fin 4) (l p f : Nat) : (s.allocate d l p f).mem = s.mem := by
  simp only [State.allocate]; repeat' split
  all_goals rfl
@[simp] theorem State.inject_mem (s : State) (d : Fin 4) (c l : Nat) (o : Bool) (p f : Nat) : (s.inject d c l o p f).mem = s.mem := by
  simp only [State.inject]; repeat' split
  all_goals rfl
/-- Room is made and a line allocated: no byte of memory changes. -/
theorem State.recall_allocate_mem (s : State) (h : Fin 4) (k p f : Nat) : ((s.recall k).allocate h k p f).mem = s.mem :=
  (State.allocate_mem (s.recall k) h k p f).trans (State.recall_mem s k none)
/-- What an access does to the caches changes no byte of memory. -/
theorem State.touchLine_mem (s : State) (d : Fin 4) (c lv : Nat) (u : Use) (k p f : Nat) :
    (s.touchLine d c lv u k p f).mem = s.mem := by
  unfold State.touchLine
  split
  · exact State.inject_mem s d c k false p f
  · exact State.allocate_mem s _ k p f
  · exact State.share_mem s k
  · exact State.inject_mem s d c k true p f
  · exact s.recall_allocate_mem _ k p f
  · exact State.recall_mem s k none
  · split
    · exact (State.heat_mem _ k).trans (s.recall_allocate_mem _ k p f)
    · exact (State.heat_mem _ k).trans (State.inject_mem s d c k true p f)
  · exact (State.heat_mem _ k).trans (s.recall_allocate_mem _ k p f)
  · exact (State.heat_mem _ k).trans (State.recall_mem s k none)
@[simp] theorem State.touch_mem (s : State) (d : Fin 4) (c lv : Nat) (u : Use) (l : Loc) : (s.touch d c lv u l).mem = s.mem := by
  unfold State.touch
  split
  · split
    · rfl
    · exact s.touchLine_mem ..
  · rfl
@[simp] theorem State.takeGrant_mem (s : State) (pa : Nat) (wr : Bool) : (s.takeGrant pa wr).mem = s.mem := by
  unfold State.takeGrant; split <;> rfl
@[simp] theorem State.keepXl_mem (s : State) (d : Fin 4) (c : Option Nat) (f va : Nat) (x : Xl) :
    (s.keepXl d c f va x).mem = s.mem := by
  unfold State.keepXl; split <;> rfl

/-! ### Every memory operation keeps the canonical form -/

/-- The operation `t` of `s` keeps the canonical form. -/
def KeepsForm (s t : State) : Prop := Memory.wf s.mem → Memory.wf t.mem

theorem KeepsForm.refl (s : State) : KeepsForm s s := id
theorem KeepsForm.trans {a b c : State} (h : KeepsForm a b) (k : KeepsForm b c) : KeepsForm a c := fun w => k (h w)
theorem KeepsForm.of_eq {s t : State} (h : t.mem = s.mem) : KeepsForm s t := fun w => h ▸ w
theorem KeepsForm.foldl {α : Type} {f : State → α → State} (h : ∀ s a, KeepsForm s (f s a)) (l : List α) (s : State) :
    KeepsForm s (l.foldl f s) := by
  induction l generalizing s with
  | nil => exact .refl s
  | cons a l ih => exact (h s a).trans (ih _)

theorem State.locWrite_keeps (s : State) (w : Agent) (sd : Fin 4) (a : Acc) : KeepsForm s (s.locWrite w sd a) := by
  intro h
  unfold State.locWrite
  split
  · split
    · simpa using h
    · split
      · simpa using h
      · split
        · simpa using h
        · simpa using State.physWriteRun_wf 8 _ _ _ (by simpa using h)
  all_goals exact h
theorem State.locWrites_keeps (s : State) (w : Agent) (sd : Fin 4) (as : List Acc) : KeepsForm s (s.locWrites w sd as) :=
  .foldl (fun s a => s.locWrite_keeps w sd a) as s
theorem State.combineAll_keeps {α : Type} (s : State) (w : Agent) (sd : Fin 4) (n : Nat) (f : Nat → α → Nat) (xs : List (Loc × α)) :
    KeepsForm s (s.combineAll w sd n f xs) :=
  .foldl (fun s _ => s.locWrite_keeps w sd _) _ s
theorem State.rmwAll_keeps (s : State) (w : Agent) (sd : Fin 4) (aop : Nat) (u : Bool) (n : Nat)
    (xs : List (Loc × Dword × Dword)) : KeepsForm s (s.rmwAll w sd aop u n xs).2 :=
  State.combineAll_keeps s w sd n _ xs
theorem State.syncUpdate_keeps (s : State) (w : Agent) (sd : Fin 4) (op : SyncOp) (l : Loc) (x y : Nat) :
    KeepsForm s (s.syncUpdate w sd op l x y) := by
  simp only [State.syncUpdate]
  split
  · exact s.locWrite_keeps w sd _
  · exact (s.locWrite_keeps w sd _).trans (.of_eq (State.wakeWord_mem _ _))
theorem State.performMem_keeps (s : State) (w h : Nat) (sd : Fin 4) (e : Held) : KeepsForm s (s.performMem w h sd e) := by
  cases e with
  | store ws lv => exact s.locWrites_keeps _ sd ws
  | rmw aop u n xs lv => exact s.rmwAll_keeps _ sd _ u n xs
  | xadd bf xs lv => exact State.combineAll_keeps s _ sd _ _ xs
  | sync op l x y => exact s.syncUpdate_keeps _ sd op l _ _
  | slot n op => exact .of_eq rfl
  | _ => exact .refl s
theorem State.setAD_keeps (s : State) (x : Xl) (wr : Bool) : KeepsForm s (s.setAD x wr) := by
  have one (s : State) (a m : Nat) :
      KeepsForm s (if s.pte a ||| m = s.pte a then s else s.physWrite 0 a (bytesLE 8 (s.pte a ||| m))) := by
    split
    · exact .refl s
    · exact State.physWrite_wf _ _ _
  unfold State.setAD
  split
  · exact .refl s
  · exact (one s _ _).trans (.foldl (fun s a => one s a _) _ _)
theorem State.feRead_keeps {s t : State} {f va n : Nat} {bs : List Byte} (h : s.feRead f va n = .ok (bs, t)) : KeepsForm s t := by
  unfold State.feRead at h
  split at h
  · cases h
  · rename_i x _
    split at h
    · cases h
    · split at h
      all_goals
        injection h with h
        have := congrArg (fun e => e.2) h; subst this
        exact (s.setAD_keeps x false).trans (.of_eq (by simp))
theorem State.failed_mem (s : State) (e : XErr) : (s.failed e).mem = s.mem := by
  unfold State.failed
  split
  · rfl
  · unfold State.callBack; repeat' split
    all_goals rfl
  · rfl
/-- The state that comes of a write by the front end keeps the form. -/
def FeOut.Keeps (s : State) : FeOut → Prop
  | .done t | .waits t => KeepsForm s t
  | .refused _ => True
theorem State.fePut_keeps (s : State) (f va : Nat) (bs : List Byte) : (s.fePut f va bs).Keeps s := by
  unfold State.fePut
  split
  · split
    · exact .of_eq (State.failed_mem _ _)
    · trivial
  · rename_i x _
    dsimp only
    split
    · exact .refl s
    · exact ((s.setAD_keeps x true).trans (.of_eq (by simp))).trans (State.locWrite_keeps _ _ _ _)
theorem State.feWrite_keeps {s t : State} {f va : Nat} {bs : List Byte} (h : s.feWrite f va bs = some t) : KeepsForm s t := by
  unfold State.feWrite at h
  have out := s.fePut_keeps f va bs
  split at h
  · cases h; exact .of_eq rfl
  · split at h
    · cases h; rename_i e; rw [e] at out; exact out
    · cases h; rename_i e; rw [e] at out; exact out
    · cases h
theorem State.feTry_keeps (s : State) (f va : Nat) (bs : List Byte) : KeepsForm s (s.feTry f va bs) := by
  unfold State.feTry
  split
  · exact State.feWrite_keeps ‹_›
  · split
    · exact .of_eq (State.failed_mem _ _)
    · exact .refl s
theorem State.feWriteRun_keeps (fuel : Nat) (s : State) (f va : Nat) (bs : List Byte) :
    KeepsForm s (State.feWriteRun fuel s f va bs).1 := by
  induction fuel generalizing s va bs with
  | zero => exact .refl s
  | succ n ih =>
    simp only [State.feWriteRun]
    split
    · exact .refl s
    · split
      · exact s.feTry_keeps _ _ _
      · exact (State.feWrite_keeps ‹_›).trans (ih _ _ _)

end Sys2Proof.Machine
end

