-- ==== Sys2Proof/Laws/Outcome.lean ====
section
/-! SUPPORT. Laws of the shared operations of an issue, each once: the checks pass (`gate_ready`); an instruction completes
(`ran_finish`, `ran_after`, `ranAlone_finishSingle`), raises a fault (`raised_raise`), waits (`waits_hold`) or drains
(`drains_drainWait`). -/

namespace Sys2Proof.Machine

/-! ### The context -/

/-- What the context of the issuing fragment is. -/
theorem State.ctx?_spec {s : State} {x : Ctx} (h : s.ctx? = some x) :
    x.s = s ∧ s.site? x.st.w = some x.st ∧ x.fr = x.core.frag x.arm ∧ s.cur = some ⟨x.st.w, x.arm⟩ := by
  unfold State.ctx? at h
  split at h
  · simp at h
  · rename_i c hc
    split at h
    · simp at h
    · rename_i st hs
      have hw : st.w = c.wale := by
        unfold State.site? at hs
        repeat' split at hs
        all_goals first | (simp at hs; done) | (injection hs with hs; rw [← hs])
      injection h with h
      subst h
      exact ⟨rfl, by rw [hw]; exact hs, rfl, by rw [hc, hw]⟩

theorem State.site?_wale {s : State} {w : Nat} {st : Site} (h : s.site? w = some st) : s.wale? w = some st.wl := by
  unfold State.site? at h
  repeat' split at h
  all_goals first | (simp at h; done) | (injection h with h; rw [← h]; assumption)

/-- The facts that `ready` states. -/
structure ReadyFacts (i : Instr) (s : State) (f : Info) (y x : Ctx) : Prop where
  info : infoOf i = some f
  ctx : s.ctx? = some y
  head : x = y.header f
  left : x.core.yleft ≠ 0
  wf : i.wf = true
  regs : vregsOk x.st.wl.vregs f.regs = true
  shadow : shadowIll x.core x.arm f = false
  point : atPoint i f x = false ∨ judge x.core x.arm (splits i x.core x.fr) = .go
  region : regionOk f x = true

theorem ready_facts {i : Instr} {s : State} {x : Ctx} (h : ready i s = some x) : ∃ f y, ReadyFacts i s f y x := by
  unfold ready checked legal at h
  cases hf : infoOf i with
  | none => simp [hf] at h
  | some f =>
    cases hy : s.ctx? with
    | none => simp [hf, hy] at h
    | some y =>
      rw [hf, hy] at h
      dsimp only at h
      by_cases h1 : (y.core.yleft != 0 && i.wf && vregsOk y.st.wl.vregs f.regs && !shadowIll y.core y.arm f) = true
      · rw [if_pos h1] at h
        dsimp only at h
        by_cases h2 : (!atPoint i f (y.header f) ||
            judge (y.header f).core (y.header f).arm (splits i (y.header f).core (y.header f).fr) == .go) = true
        · rw [if_pos h2] at h
          dsimp only at h
          by_cases h3 : regionOk f (y.header f) = true
          · rw [if_pos h3] at h
            injection h with h
            subst h
            simp only [Bool.and_eq_true, bne_iff_ne, Bool.not_eq_true'] at h1
            simp only [Bool.or_eq_true, Bool.not_eq_true', beq_iff_eq] at h2
            obtain ⟨⟨⟨a1, a2⟩, a3⟩, a4⟩ := h1
            exact ⟨f, y, ⟨hf, hy, rfl, a1, a2, a3, a4, h2, h3⟩⟩
          · rw [if_neg h3] at h; simp at h
        · rw [if_neg h2] at h; simp at h
      · rw [if_neg h1] at h; simp at h

@[simp] theorem Ctx.header_s (x : Ctx) (h : Info) : (x.header h).s = x.s := rfl
@[simp] theorem Ctx.header_st (x : Ctx) (h : Info) : (x.header h).st = x.st := rfl
@[simp] theorem Ctx.header_arm (x : Ctx) (h : Info) : (x.header h).arm = x.arm := rfl
@[simp] theorem Ctx.header_fr (x : Ctx) (h : Info) : (x.header h).fr = x.fr := rfl
@[simp] theorem Ctx.header_core (x : Ctx) (h : Info) : (x.header h).core = x.core := rfl

/-- The context of a ready instruction stands at the state itself. -/
theorem ready_ctx {i : Instr} {s : State} {x : Ctx} (h : ready i s = some x) :
    x.s = s ∧ s.wale? x.st.w = some x.st.wl ∧ x.fr = x.core.frag x.arm := by
  obtain ⟨f, y, r⟩ := ready_facts h
  obtain ⟨h1, h2, h3, -⟩ := State.ctx?_spec r.ctx
  have e := r.head; subst e
  exact ⟨h1, State.site?_wale h2, h3⟩

/-- Putting the core back as it was changes nothing. -/
theorem Ctx.withCore_self {x : Ctx} (hw : x.s.wale? x.st.w = some x.st.wl) (hf : x.fr = x.core.frag x.arm) :
    x.withCore x.core = x := by
  have e : x.withCore x.core = { x with s := x.s.setWale x.st.w x.st.wl, fr := x.core.frag x.arm } := rfl
  rw [e, State.setWale_self hw, ← hf]

/-- The checks pass for a ready instruction. -/
theorem gate_ready {i : Instr} {s : State} {x : Ctx} (h : ready i s = some x) : gate i s = .go x := by
  obtain ⟨f, y, r⟩ := ready_facts h
  obtain ⟨hs, hw, hf⟩ := ready_ctx h
  subst hs
  have hx := r.head
  have hl := r.left; have hr := r.regs; have hsh := r.shadow; have hp := r.point; have hg := r.region
  have hyl : y.core.yleft ≠ 0 := by rw [hx] at hl; exact hl
  have hyr : vregsOk y.st.wl.vregs f.regs = true := by rw [hx] at hr; exact hr
  have hys : shadowIll y.core y.arm f = false := by rw [hx] at hsh; exact hsh
  have hj : (if (splits i x.core x.fr || f.sfp || f.dst.isS || atLoopEnd x.core x.fr.pc) = true
      then judge x.core x.arm (splits i x.core x.fr) else Sfp.go) = .go := by
    rcases hp with hp | hp
    · unfold atPoint at hp; simp [hp]
    · split <;> simp [hp]
  unfold gate
  rw [r.info, r.ctx]
  simp only [hyl, if_false, r.wf, hyr, hys, Bool.not_true, Bool.or_self, Bool.false_eq_true]
  rw [← hx, hj]
  have hc : applyJudge x.core x.arm (splits i x.core x.fr) .go = x.core := rfl
  rw [hc, Ctx.withCore_self hw hf]
  simp only [Sfp.proceeds, Bool.not_true, Bool.false_eq_true, if_false]
  have e0 : (Sfp.go == Sfp.sync0) = false := rfl
  rw [e0]
  simp only [Bool.false_eq_true, if_false]
  unfold regionOk at hg
  by_cases hsg : f.single = true
  · rw [if_pos hsg] at hg ⊢; rw [if_pos hg]
  · rw [if_neg hsg] at hg ⊢
    simp only [Bool.not_eq_true'] at hg
    rw [hg]; rfl

/-! ### Frames of a change of one wale -/

theorem OnlyWale.setWale (x : Ctx) (w : Wale) : OnlyWale x w (x.s.setWale x.st.w w) := by
  refine ⟨by simp, ?_, rfl, ?_⟩
  · intro k hk; simp [State.setWale, Sparse.find?_put_ne _ _ hk]
  · intro l i; cases l <;> rfl

/-- The fragment waits while the other can issue; else the wale becomes `w`. -/
theorem waitsElse_stalls (x : Ctx) (w : Wale) : WaitsElse x w (x.s.setWale x.st.w (x.stalls.getD w)) := by
  have e : x.stalls.getD w = if x.stalled.live.any x.stalled.issuable then { x.st.wl with core := x.stalled } else w := by
    show (if x.stalled.live.any x.stalled.issuable then some { x.st.wl with core := x.stalled } else none).getD w = _
    split <;> rfl
  unfold WaitsElse; rw [← e]; exact OnlyWale.setWale x _
theorem waits_hold (x : Ctx) (w : WSt) : Waits x w (x.hold w) := waitsElse_stalls x _
theorem drainsAll_drainAll (x : Ctx) : DrainsAll x x.drainAll := OnlyWale.setWale x _
theorem drains_drainWait (x : Ctx) : Drains x x.drainWait := by
  have e : x.drainWait = x.s.setWale x.st.w (x.stalls.getD x.draining) := by
    unfold Ctx.drainWait; cases x.stalls <;> rfl
  rw [e]; exact waitsElse_stalls x _
theorem raised_raiseRec (x : Ctx) (f : FaultRec) : Raised x f (x.s.raiseRec x.st x.arm f) := OnlyWale.setWale x _
theorem raised_raise (x : Ctx) (f : Flt) : Raised x (x.record f) (x.raise f) := raised_raiseRec x _

/-! ### Completion -/

@[simp] theorem Region.close_held (r : Region) (q : Nat) : (r.close q).held = r.held := by
  unfold Region.close; split <;> rfl

/-- A wale that commits: its core, its held effects, and the frame. -/
theorem ran_commit {x : Ctx} {r : Res} {held : Bool} {g c : WaleCore} (h : RanCore x r held g c) :
    Ran x r held g (x.commit c r.held) := by
  have hw : (x.commit c r.held).wale? x.st.w = some
      (let cur : Region := { x.st.wl.cur with held := x.st.wl.cur.held ++ r.held, last := x.cc + 1 }
       { x.st.wl with
         core := c
         st := if c.ended then .exited else .ready
         cur := if c.ended then cur.close (x.s.window x.die) else cur
         ready1 := x.ready1 c
         since := x.s.turn + 1 }) :=
    Sparse.find?_put_self _ _ _
  refine ⟨⟨_, hw, h, rfl⟩, ?_, rfl, ?_, rfl, ?_⟩
  · intro k hk
    exact Sparse.find?_put_ne _ _ hk
  · intro d
    show vget (vset x.s.dies x.die _) d = _
    rw [vget_vset]; split
    · subst d; rfl
    · rfl
  · intro l i
    cases l with
    | glob pa va key func part mt => rfl
    | sp h o => rfl
    | dsc d o =>
      show Sparse.getD (vget (vset x.s.dies x.die _) (Fin.ofNat 4 d)).dsc 0 (o + i)
        = Sparse.getD (vget x.s.dies (Fin.ofNat 4 d)).dsc 0 (o + i)
      rw [vget_vset]; split
      · rename_i e; rw [e]; rfl
      · rfl
    | priv w o => rfl
    | tile h o => rfl

/-- The flow of control changes nothing that `RanCore` speaks of. -/
theorem ranCore_flow {x : Ctx} {r : Res} {held : Bool} {F : WaleCore → WaleCore}
    (hF : ∀ g d : WaleCore, F (g.withData d) = (F g).withData d) :
    RanCore x r held (F x.core) (F ((x.core.effect x.arm x.la x.lld r).counted held)) := by
  have h := WaleCore.effect_ran x r held
  generalize (x.core.effect x.arm x.la x.lld r).counted held = d at h
  have e : F d = (F x.core).withData d := by rw [← hF, ← h.rest]
  rw [e]
  exact ⟨h.vreg, h.sreg, h.preg, h.flags, h.shadows, h.icount, h.wcount, h.yleft, h.hoff, rfl⟩

/-- An instruction completes and its fragment continues in sequence. -/
theorem ran_finish (x : Ctx) (held : Bool) (r : Res) : RanOn x held r (x.finish held r) :=
  ran_commit (ranCore_flow (F := fun c => c.advance x.arm) fun g d => WaleCore.advance_withData g d x.arm)

/-- An instruction completes with a change of control `F`. -/
theorem ran_after (x : Ctx) {F : WaleCore → WaleCore} (hF : ∀ g d : WaleCore, F (g.withData d) = (F g).withData d) :
    Ran x {} false (F x.core) (x.after F) :=
  ran_commit (ranCore_flow hF)

/-- A single region completes. -/
theorem ranAlone_finishSingle (x : Ctx) (r : Res) : RanAlone x r (x.finishSingle r) := by
  obtain ⟨⟨w, hw, hc, hr⟩, ho⟩ := ran_finish x false r
  refine ⟨x.finish false r, w, ⟨⟨w, hw, hc, hr⟩, ho⟩, hw, ?_, ?_, rfl⟩
  · show Sparse.find? (Sparse.upd _ _ _) x.st.w = _
    rw [Sparse.find?_upd_self]
    show Option.map _ ((x.finish false r).wale? x.st.w) = _
    rw [hw]; rfl
  · intro k hk
    exact Sparse.find?_upd_ne _ _ hk

/-! ### The forms of a meaning -/

theorem issueReg_ready {i : Instr} {s : State} {x : Ctx} {f : Ctx → Except Flt Res} (h : ready i s = some x) :
    issueReg i s f = match f x with
      | .error e => .next (x.raise e)
      | .ok r => .next (x.finish (match infoOf i with | some g => g.held | none => false) r) := by
  unfold issueReg; simp only [gate_ready h]; try rfl
theorem issueWith_ready {i : Instr} {s : State} {x : Ctx} {f : Ctx → State} (h : ready i s = some x) :
    issueWith i s f = .next (f x) := by
  unfold issueWith; rw [gate_ready h]

/-- A register result without a held effect. -/
theorem issueReg_ok {i : Instr} {s : State} {x : Ctx} {f : Ctx → Except Flt Res} {r : Res} {g : Info}
    (h : ready i s = some x) (hi : infoOf i = some g) (hg : g.held = false) (hf : f x = .ok r) :
    ∃ t, issueReg i s f = .next t ∧ RanOn x false r t := by
  refine ⟨x.finish false r, ?_, ran_finish x false r⟩
  rw [issueReg_ready h, hf]; simp [hi, hg]

end Sys2Proof.Machine
end

