-- ==== Sys2Proof/Laws/PerInstr.lean ====
section
/-! SUPPORT. One lemma for each instruction: it has a word exactly when it is one that a wale issues (04 R108); an operation of the
device has neither. -/

namespace Sys2Proof.Laws

/-- The instruction has an encoding exactly when a wale issues it. -/
def Issued.Statement (i : Instr) : Prop := (Machine.infoOf i).isSome = (encode i).isSome

theorem Issued.nop : Issued.Statement (.nop) := rfl
theorem Issued.iadd (o : ROps) : Issued.Statement (.iadd o) := rfl
theorem Issued.iaddI (o : IOps) : Issued.Statement (.iaddI o) := rfl
theorem Issued.isub (o : ROps) : Issued.Statement (.isub o) := rfl
theorem Issued.isubI (o : IOps) : Issued.Statement (.isubI o) := rfl
theorem Issued.iadds (o : ROps) : Issued.Statement (.iadds o) := rfl
theorem Issued.iaddsI (o : IOps) : Issued.Statement (.iaddsI o) := rfl
theorem Issued.isubs (o : ROps) : Issued.Statement (.isubs o) := rfl
theorem Issued.isubsI (o : IOps) : Issued.Statement (.isubsI o) := rfl
theorem Issued.imul (o : ROps) : Issued.Statement (.imul o) := rfl
theorem Issued.imulI (o : IOps) : Issued.Statement (.imulI o) := rfl
theorem Issued.imulh (o : ROps) : Issued.Statement (.imulh o) := rfl
theorem Issued.imulhI (o : IOps) : Issued.Statement (.imulhI o) := rfl
theorem Issued.imad (o : ROps) : Issued.Statement (.imad o) := rfl
theorem Issued.imadw (o : ROps) : Issued.Statement (.imadw o) := rfl
theorem Issued.idiv (o : ROps) : Issued.Statement (.idiv o) := rfl
theorem Issued.idivI (o : IOps) : Issued.Statement (.idivI o) := rfl
theorem Issued.irem (o : ROps) : Issued.Statement (.irem o) := rfl
theorem Issued.iremI (o : IOps) : Issued.Statement (.iremI o) := rfl
theorem Issued.imin (o : ROps) : Issued.Statement (.imin o) := rfl
theorem Issued.iminI (o : IOps) : Issued.Statement (.iminI o) := rfl
theorem Issued.imax (o : ROps) : Issued.Statement (.imax o) := rfl
theorem Issued.imaxI (o : IOps) : Issued.Statement (.imaxI o) := rfl
theorem Issued.iabs (o : ROps) : Issued.Statement (.iabs o) := rfl
theorem Issued.iadd64 (o : ROps) : Issued.Statement (.iadd64 o) := rfl
theorem Issued.iadd64I (o : IOps) : Issued.Statement (.iadd64I o) := rfl
theorem Issued.isub64 (o : ROps) : Issued.Statement (.isub64 o) := rfl
theorem Issued.isub64I (o : IOps) : Issued.Statement (.isub64I o) := rfl
theorem Issued.lea (o : ROps) : Issued.Statement (.lea o) := rfl
theorem Issued.leaI (o : IOps) : Issued.Statement (.leaI o) := rfl
theorem Issued.iand (o : ROps) : Issued.Statement (.iand o) := rfl
theorem Issued.iandI (o : IOps) : Issued.Statement (.iandI o) := rfl
theorem Issued.ior (o : ROps) : Issued.Statement (.ior o) := rfl
theorem Issued.iorI (o : IOps) : Issued.Statement (.iorI o) := rfl
theorem Issued.ixor (o : ROps) : Issued.Statement (.ixor o) := rfl
theorem Issued.ixorI (o : IOps) : Issued.Statement (.ixorI o) := rfl
theorem Issued.iandn (o : ROps) : Issued.Statement (.iandn o) := rfl
theorem Issued.iandnI (o : IOps) : Issued.Statement (.iandnI o) := rfl
theorem Issued.inot (o : ROps) : Issued.Statement (.inot o) := rfl
theorem Issued.shl (o : ROps) : Issued.Statement (.shl o) := rfl
theorem Issued.shlI (o : IOps) : Issued.Statement (.shlI o) := rfl
theorem Issued.shr (o : ROps) : Issued.Statement (.shr o) := rfl
theorem Issued.shrI (o : IOps) : Issued.Statement (.shrI o) := rfl
theorem Issued.sar (o : ROps) : Issued.Statement (.sar o) := rfl
theorem Issued.sarI (o : IOps) : Issued.Statement (.sarI o) := rfl
theorem Issued.rotl (o : ROps) : Issued.Statement (.rotl o) := rfl
theorem Issued.rotlI (o : IOps) : Issued.Statement (.rotlI o) := rfl
theorem Issued.bfe (o : ROps) : Issued.Statement (.bfe o) := rfl
theorem Issued.bfeI (o : IOps) : Issued.Statement (.bfeI o) := rfl
theorem Issued.bfi (o : ROps) : Issued.Statement (.bfi o) := rfl
theorem Issued.popc (o : ROps) : Issued.Statement (.popc o) := rfl
theorem Issued.clz (o : ROps) : Issued.Statement (.clz o) := rfl
theorem Issued.brev (o : ROps) : Issued.Statement (.brev o) := rfl
theorem Issued.icmp (o : ROps) : Issued.Statement (.icmp o) := rfl
theorem Issued.icmpI (o : IOps) : Issued.Statement (.icmpI o) := rfl
theorem Issued.sel (o : ROps) : Issued.Statement (.sel o) := rfl
theorem Issued.mov (o : ROps) : Issued.Statement (.mov o) := rfl
theorem Issued.movi (o : IOps) : Issued.Statement (.movi o) := rfl
theorem Issued.idp4 (o : ROps) : Issued.Statement (.idp4 o) := rfl
theorem Issued.shfl (o : ROps) : Issued.Statement (.shfl o) := rfl
theorem Issued.shflI (o : IOps) : Issued.Statement (.shflI o) := rfl
theorem Issued.vote (o : ROps) : Issued.Statement (.vote o) := rfl
theorem Issued.rdfl (o : ROps) : Issued.Statement (.rdfl o) := rfl
theorem Issued.rdln (o : ROps) : Issued.Statement (.rdln o) := rfl
theorem Issued.rdlnI (o : IOps) : Issued.Statement (.rdlnI o) := rfl
theorem Issued.bcast (o : ROps) : Issued.Statement (.bcast o) := rfl
theorem Issued.bcastI (o : IOps) : Issued.Statement (.bcastI o) := rfl
theorem Issued.lred (o : ROps) : Issued.Statement (.lred o) := rfl
theorem Issued.lscan (o : ROps) : Issued.Statement (.lscan o) := rfl
theorem Issued.lmatch (o : ROps) : Issued.Statement (.lmatch o) := rfl
theorem Issued.elect (o : ROps) : Issued.Statement (.elect o) := rfl
theorem Issued.pand (o : ROps) : Issued.Statement (.pand o) := rfl
theorem Issued.por (o : ROps) : Issued.Statement (.por o) := rfl
theorem Issued.pxor (o : ROps) : Issued.Statement (.pxor o) := rfl
theorem Issued.pnot (o : ROps) : Issued.Statement (.pnot o) := rfl
theorem Issued.pmov (o : ROps) : Issued.Statement (.pmov o) := rfl
theorem Issued.emget (o : ROps) : Issued.Statement (.emget o) := rfl
theorem Issued.emset (o : ROps) : Issued.Statement (.emset o) := rfl
theorem Issued.fadd (o : ROps) : Issued.Statement (.fadd o) := rfl
theorem Issued.faddI (o : IOps) : Issued.Statement (.faddI o) := rfl
theorem Issued.fsub (o : ROps) : Issued.Statement (.fsub o) := rfl
theorem Issued.fsubI (o : IOps) : Issued.Statement (.fsubI o) := rfl
theorem Issued.fmul (o : ROps) : Issued.Statement (.fmul o) := rfl
theorem Issued.fmulI (o : IOps) : Issued.Statement (.fmulI o) := rfl
theorem Issued.fma (o : ROps) : Issued.Statement (.fma o) := rfl
theorem Issued.fmin (o : ROps) : Issued.Statement (.fmin o) := rfl
theorem Issued.fminI (o : IOps) : Issued.Statement (.fminI o) := rfl
theorem Issued.fmax (o : ROps) : Issued.Statement (.fmax o) := rfl
theorem Issued.fmaxI (o : IOps) : Issued.Statement (.fmaxI o) := rfl
theorem Issued.fcmp (o : ROps) : Issued.Statement (.fcmp o) := rfl
theorem Issued.fcmpI (o : IOps) : Issued.Statement (.fcmpI o) := rfl
theorem Issued.fclass (o : ROps) : Issued.Statement (.fclass o) := rfl
theorem Issued.fdiv (o : ROps) : Issued.Statement (.fdiv o) := rfl
theorem Issued.fdivI (o : IOps) : Issued.Statement (.fdivI o) := rfl
theorem Issued.frcp (o : ROps) : Issued.Statement (.frcp o) := rfl
theorem Issued.fsqrt (o : ROps) : Issued.Statement (.fsqrt o) := rfl
theorem Issued.frsq (o : ROps) : Issued.Statement (.frsq o) := rfl
theorem Issued.fpow2 (o : ROps) : Issued.Statement (.fpow2 o) := rfl
theorem Issued.flog2 (o : ROps) : Issued.Statement (.flog2 o) := rfl
theorem Issued.frnd (o : ROps) : Issued.Statement (.frnd o) := rfl
theorem Issued.hadd2 (o : ROps) : Issued.Statement (.hadd2 o) := rfl
theorem Issued.hmul2 (o : ROps) : Issued.Statement (.hmul2 o) := rfl
theorem Issued.hfma2 (o : ROps) : Issued.Statement (.hfma2 o) := rfl
theorem Issued.fdp2 (o : ROps) : Issued.Statement (.fdp2 o) := rfl
theorem Issued.cvt (o : ROps) : Issued.Statement (.cvt o) := rfl
theorem Issued.cvtb (o : ROps) : Issued.Statement (.cvtb o) := rfl
theorem Issued.cvtbx (o : ROps) : Issued.Statement (.cvtbx o) := rfl
theorem Issued.bra (o : BOps) : Issued.Statement (.bra o) := rfl
theorem Issued.brcNz (o : BOps) : Issued.Statement (.brcNz o) := rfl
theorem Issued.brcZ (o : BOps) : Issued.Statement (.brcZ o) := rfl
theorem Issued.brd (o : BOps) : Issued.Statement (.brd o) := rfl
theorem Issued.tok (o : BOps) : Issued.Statement (.tok o) := rfl
theorem Issued.join (o : ROps) : Issued.Statement (.join o) := rfl
theorem Issued.brk (o : BOps) : Issued.Statement (.brk o) := rfl
theorem Issued.jmp (o : ROps) : Issued.Statement (.jmp o) := rfl
theorem Issued.call (o : BOps) : Issued.Statement (.call o) := rfl
theorem Issued.callr (o : ROps) : Issued.Statement (.callr o) := rfl
theorem Issued.ret (o : ROps) : Issued.Statement (.ret o) := rfl
theorem Issued.loop (o : BOps) : Issued.Statement (.loop o) := rfl
theorem Issued.exit (o : ROps) : Issued.Statement (.exit o) := rfl
theorem Issued.yield (o : IOps) : Issued.Statement (.yield o) := rfl
theorem Issued.rhead (o : ROps) : Issued.Statement (.rhead o) := rfl
theorem Issued.ld (o : MOps) : Issued.Statement (.ld o) := rfl
theorem Issued.st (o : MOps) : Issued.Statement (.st o) := rfl
theorem Issued.ldsp (o : MOps) : Issued.Statement (.ldsp o) := rfl
theorem Issued.stsp (o : MOps) : Issued.Statement (.stsp o) := rfl
theorem Issued.ldcl (o : MOps) : Issued.Statement (.ldcl o) := rfl
theorem Issued.stcl (o : MOps) : Issued.Statement (.stcl o) := rfl
theorem Issued.lddie (o : MOps) : Issued.Statement (.lddie o) := rfl
theorem Issued.stdie (o : MOps) : Issued.Statement (.stdie o) := rfl
theorem Issued.ldpv (o : MOps) : Issued.Statement (.ldpv o) := rfl
theorem Issued.stpv (o : MOps) : Issued.Statement (.stpv o) := rfl
theorem Issued.pref (o : MOps) : Issued.Statement (.pref o) := rfl
theorem Issued.fence (o : MOps) : Issued.Statement (.fence o) := rfl
theorem Issued.cpub (o : MOps) : Issued.Statement (.cpub o) := rfl
theorem Issued.atom (o : AOps) : Issued.Statement (.atom o) := rfl
theorem Issued.atomsp (o : AOps) : Issued.Statement (.atomsp o) := rfl
theorem Issued.red (o : AOps) : Issued.Statement (.red o) := rfl
theorem Issued.xadd (o : AOps) : Issued.Statement (.xadd o) := rfl
theorem Issued.xrd (o : MOps) : Issued.Statement (.xrd o) := rfl
theorem Issued.xclr (o : MOps) : Issued.Statement (.xclr o) := rfl
theorem Issued.swinit (o : AOps) : Issued.Statement (.swinit o) := rfl
theorem Issued.swexp (o : AOps) : Issued.Statement (.swexp o) := rfl
theorem Issued.arv (o : AOps) : Issued.Statement (.arv o) := rfl
theorem Issued.wtg (o : AOps) : Issued.Statement (.wtg o) := rfl
theorem Issued.bar (o : ROps) : Issued.Statement (.bar o) := rfl
theorem Issued.rbar (o : ROps) : Issued.Statement (.rbar o) := rfl
theorem Issued.sbar (o : ROps) : Issued.Statement (.sbar o) := rfl
theorem Issued.cpy (o : ROps) : Issued.Statement (.cpy o) := rfl
theorem Issued.cpyst (o : ROps) : Issued.Statement (.cpyst o) := rfl
theorem Issued.seal (o : ROps) : Issued.Statement (.seal o) := rfl
theorem Issued.wtbSrc (o : IOps) : Issued.Statement (.wtbSrc o) := rfl
theorem Issued.wtbVis (o : IOps) : Issued.Statement (.wtbVis o) := rfl
theorem Issued.wtc (o : IOps) : Issued.Statement (.wtc o) := rfl
theorem Issued.cpyt (o : XOps) : Issued.Statement (.cpyt o) := rfl
theorem Issued.cpymm (o : XOps) : Issued.Statement (.cpymm o) := rfl
theorem Issued.gthr (o : XOps) : Issued.Statement (.gthr o) := rfl
theorem Issued.scat (o : XOps) : Issued.Statement (.scat o) := rfl
theorem Issued.coll (o : XOps) : Issued.Statement (.coll o) := rfl
theorem Issued.spawn (o : ROps) : Issued.Statement (.spawn o) := rfl
theorem Issued.sig (o : ROps) : Issued.Statement (.sig o) := rfl
theorem Issued.hwaitd (o : ROps) : Issued.Statement (.hwaitd o) := rfl
theorem Issued.tsdef (o : XOps) : Issued.Statement (.tsdef o) := rfl
theorem Issued.tsset (o : XOps) : Issued.Statement (.tsset o) := rfl
theorem Issued.tsinv (o : XOps) : Issued.Statement (.tsinv o) := rfl
theorem Issued.mma (o : XOps) : Issued.Statement (.mma o) := rfl
theorem Issued.mmad (o : XOps) : Issued.Statement (.mmad o) := rfl
theorem Issued.mconv (o : XOps) : Issued.Statement (.mconv o) := rfl
theorem Issued.mzero (o : XOps) : Issued.Statement (.mzero o) := rfl
theorem Issued.mld (o : XOps) : Issued.Statement (.mld o) := rfl
theorem Issued.mst (o : XOps) : Issued.Statement (.mst o) := rfl
theorem Issued.rsdef (o : XOps) : Issued.Statement (.rsdef o) := rfl
theorem Issued.rsinv (o : XOps) : Issued.Statement (.rsinv o) := rfl
theorem Issued.rssave (o : XOps) : Issued.Statement (.rssave o) := rfl
theorem Issued.rsload (o : XOps) : Issued.Statement (.rsload o) := rfl
theorem Issued.rsstat (o : XOps) : Issued.Statement (.rsstat o) := rfl
theorem Issued.mfence (o : ROps) : Issued.Statement (.mfence o) := rfl
theorem Issued.trap (o : IOps) : Issued.Statement (.trap o) := rfl
theorem Issued.srd (o : IOps) : Issued.Statement (.srd o) := rfl
theorem Issued.swr (o : IOps) : Issued.Statement (.swr o) := rfl
theorem Issued.tretTo (o : ROps) : Issued.Statement (.tretTo o) := rfl
theorem Issued.tretRetry (o : ROps) : Issued.Statement (.tretRetry o) := rfl
theorem Issued.tretSkip (o : ROps) : Issued.Statement (.tretSkip o) := rfl
theorem Issued.brkpt (o : IOps) : Issued.Statement (.brkpt o) := rfl
theorem Issued.fwcall (o : IOps) : Issued.Statement (.fwcall o) := rfl
theorem Issued.fwcallReply (w : Nat) : Issued.Statement (.fwcallReply w) := rfl
theorem Issued.resultLand (w : Nat) : Issued.Statement (.resultLand w) := rfl
theorem Issued.regionRelease (w : Nat) : Issued.Statement (.regionRelease w) := rfl
theorem Issued.wakeWave (d : Fin 4) (c : Fin 8) : Issued.Statement (.wakeWave d c) := rfl
theorem Issued.hwaitdWake (h : Nat) : Issued.Statement (.hwaitdWake h) := rfl
theorem Issued.wdog (w : Nat) : Issued.Statement (.wdog w) := rfl
theorem Issued.homeoffReply (w : Nat) : Issued.Statement (.homeoffReply w) := rfl
theorem Issued.pageReplyMapped (f : Nat) (tag : BitVec 16) : Issued.Statement (.pageReplyMapped f tag) := rfl
theorem Issued.pageReplyRefused (f : Nat) (tag : BitVec 16) : Issued.Statement (.pageReplyRefused f tag) := rfl
theorem Issued.waleRetire (w : Nat) : Issued.Statement (.waleRetire w) := rfl
theorem Issued.engineCommandComplete (c : Nat) : Issued.Statement (.engineCommandComplete c) := rfl
theorem Issued.sourcePoint (c : Nat) : Issued.Statement (.sourcePoint c) := rfl
theorem Issued.engineFault (c : Nat) : Issued.Statement (.engineFault c) := rfl
theorem Issued.stagingClear (c : Nat) : Issued.Statement (.stagingClear c) := rfl
theorem Issued.cpymmFollowOn (c : Nat) : Issued.Statement (.cpymmFollowOn c) := rfl
theorem Issued.matrixBurstStart (c : Nat) : Issued.Statement (.matrixBurstStart c) := rfl
theorem Issued.matrixResultClear (c : Nat) : Issued.Statement (.matrixResultClear c) := rfl
theorem Issued.unitPreempt (k : Nat) (r : Nat) : Issued.Statement (.unitPreempt k r) := rfl
theorem Issued.unitResume (k : Nat) (r : Nat) : Issued.Statement (.unitResume k r) := rfl
theorem Issued.lineFill (w : Nat) (va : BitVec 64) : Issued.Statement (.lineFill w va) := rfl
theorem Issued.sensorReport (d : Fin 4) (cell : Fin 256) (ty : Fin 3) : Issued.Statement (.sensorReport d cell ty) := rfl
theorem Issued.guardEvent (d : Fin 4) (cell : Fin 256) (ty : Fin 3) : Issued.Statement (.guardEvent d cell ty) := rfl
theorem Issued.tagWindowClose (d : Fin 4) (g : Fin 63) : Issued.Statement (.tagWindowClose d g) := rfl
theorem Issued.clearSend (d : Fin 4) (g : Fin 63) : Issued.Statement (.clearSend d g) := rfl
theorem Issued.taggedFlitReceive (d : Fin 4) (c : Nat) (tag : BitVec 24) : Issued.Statement (.taggedFlitReceive d c tag) := rfl
theorem Issued.clearReceive (d src : Fin 4) (g : Fin 63) (ser : BitVec 12) (count : Nat) : Issued.Statement (.clearReceive d src g ser count) := rfl
theorem Issued.squashReceive (d src : Fin 4) (g : Fin 63) (first nxt : BitVec 12) : Issued.Statement (.squashReceive d src g first nxt) := rfl
theorem Issued.vfQnotify (f : Fin 129) (q : Fin 64) (x : BitVec 64) : Issued.Statement (.vfQnotify f q x) := rfl
theorem Issued.queueEnable (f : Fin 129) (q : Fin 64) (x : BitVec 64) : Issued.Statement (.queueEnable f q x) := rfl
theorem Issued.queueDisable (f : Fin 129) (q : Fin 64) (x : BitVec 64) : Issued.Statement (.queueDisable f q x) := rfl
theorem Issued.queueResume (f : Fin 129) (q : Fin 64) (x : BitVec 64) : Issued.Statement (.queueResume f q x) := rfl
theorem Issued.nopEntry (f : Fin 129) (q : Fin 64) : Issued.Statement (.nopEntry f q) := rfl
theorem Issued.launch (f : Fin 129) (q : Fin 64) : Issued.Statement (.launch f q) := rfl
theorem Issued.signalWait (f : Fin 129) (q : Fin 64) : Issued.Statement (.signalWait f q) := rfl
theorem Issued.signalWrite (f : Fin 129) (q : Fin 64) : Issued.Statement (.signalWrite f q) := rfl
theorem Issued.graphNodeDeclaration (f : Fin 129) (q : Fin 64) : Issued.Statement (.graphNodeDeclaration f q) := rfl
theorem Issued.recoveryExtension (f : Fin 129) (q : Fin 64) : Issued.Statement (.recoveryExtension f q) := rfl
theorem Issued.unknownEntry (f : Fin 129) (q : Fin 64) : Issued.Statement (.unknownEntry f q) := rfl
theorem Issued.rimAdmit (d : Fin 4) : Issued.Statement (.rimAdmit d) := rfl
theorem Issued.heldSkeinAdmit (k : Nat) : Issued.Statement (.heldSkeinAdmit k) := rfl
theorem Issued.prodbmPoll : Issued.Statement (.prodbmPoll) := rfl
theorem Issued.priorityPreempt (d : Fin 4) : Issued.Statement (.priorityPreempt d) := rfl
theorem Issued.vfEvbaseWrite (f : Fin 129) (x : BitVec 64) : Issued.Statement (.vfEvbaseWrite f x) := rfl
theorem Issued.vfEvptrWrite (f : Fin 129) (x : BitVec 64) : Issued.Statement (.vfEvptrWrite f x) := rfl
theorem Issued.functionLevelReset (f : Fin 129) : Issued.Statement (.functionLevelReset f) := rfl
theorem Issued.purge (station : BitVec 10) (part : BitVec 5) : Issued.Statement (.purge station part) := rfl
theorem Issued.wsSave (f : Fin 129) : Issued.Statement (.wsSave f) := rfl
theorem Issued.wsMsave (f : Fin 129) : Issued.Statement (.wsMsave f) := rfl
theorem Issued.wsRestore (f : Fin 129) : Issued.Statement (.wsRestore f) := rfl
theorem Issued.qcancel (f : Fin 129) (q : Fin 64) : Issued.Statement (.qcancel f q) := rfl
theorem Issued.partitionChange : Issued.Statement (.partitionChange) := rfl
theorem Issued.funcpartWrite (f : Fin 129) (x : BitVec 64) : Issued.Statement (.funcpartWrite f x) := rfl
theorem Issued.dieResetGo (x : BitVec 64) : Issued.Statement (.dieResetGo x) := rfl
theorem Issued.quiesceTimeout : Issued.Statement (.quiesceTimeout) := rfl
theorem Issued.flush : Issued.Statement (.flush) := rfl
theorem Issued.dieReset : Issued.Statement (.dieReset) := rfl
theorem Issued.retrain : Issued.Statement (.retrain) := rfl
theorem Issued.readmit : Issued.Statement (.readmit) := rfl
theorem Issued.attestationRequest (n : Fin 8) : Issued.Statement (.attestationRequest n) := rfl
theorem Issued.flitCrcRetry (k : Fin 6) : Issued.Statement (.flitCrcRetry k) := rfl
theorem Issued.protocolError (k : Fin 6) (d : Fin 4) : Issued.Statement (.protocolError k d) := rfl
theorem Issued.linkRetrain (k : Fin 6) : Issued.Statement (.linkRetrain k) := rfl
theorem Issued.retryThreshold (k : Fin 6) : Issued.Statement (.retryThreshold k) := rfl
theorem Issued.laneFailure (k : Fin 6) : Issued.Statement (.laneFailure k) := rfl
theorem Issued.trainingTimeout (k : Fin 6) : Issued.Statement (.trainingTimeout k) := rfl
theorem Issued.sigadd (station : BitVec 10) (n : Fin 256) (x : BitVec 32) : Issued.Statement (.sigadd station n x) := rfl
theorem Issued.revoke (page : Nat) : Issued.Statement (.revoke page) := rfl
theorem Issued.grantRelease (page : Nat) (station : BitVec 10) (lines : List (Nat × BitVec 512)) : Issued.Statement (.grantRelease page station lines) := rfl
theorem Issued.grantTimeout (page : Nat) : Issued.Statement (.grantTimeout page) := rfl
theorem Issued.notificationDelivery (d : Fin 4) : Issued.Statement (.notificationDelivery d) := rfl
theorem Issued.hotLineCool (d : Fin 4) (line : Nat) : Issued.Statement (.hotLineCool d line) := rfl
theorem Issued.l1Gate (d : Fin 4) (a : Fin 96) : Issued.Statement (.l1Gate d a) := rfl
theorem Issued.waygateWrite (d : Fin 4) (x : BitVec 64) : Issued.Statement (.waygateWrite d x) := rfl
theorem Issued.keyRetire (d : Fin 4) (x : BitVec 64) : Issued.Statement (.keyRetire d x) := rfl
theorem Issued.keyRetireDone (d : Fin 4) : Issued.Statement (.keyRetireDone d) := rfl
theorem Issued.tlbInvalidate (d : Fin 4) (x : BitVec 64) : Issued.Statement (.tlbInvalidate d x) := rfl
theorem Issued.tlbInvalidateDone (d : Fin 4) : Issued.Statement (.tlbInvalidateDone d) := rfl
theorem Issued.dscWinWrite (d : Fin 4) (p : Fin 32) (x : BitVec 64) : Issued.Statement (.dscWinWrite d p x) := rfl
theorem Issued.windowZeroingDone (d : Fin 4) (p : Fin 32) : Issued.Statement (.windowZeroingDone d p) := rfl
theorem Issued.bwshareWrite (d : Fin 4) (f : Fin 129) (x : BitVec 64) : Issued.Statement (.bwshareWrite d f x) := rfl
theorem Issued.hbmModeChange (d : Fin 4) (k : Fin 2) (temp : BitVec 16) : Issued.Statement (.hbmModeChange d k temp) := rfl
theorem Issued.qsmWindowWrite (d : Fin 4) (x : BitVec 64) : Issued.Statement (.qsmWindowWrite d x) := rfl
theorem Issued.qsmCtlWrite (d : Fin 4) (x : BitVec 64) : Issued.Statement (.qsmCtlWrite d x) := rfl
theorem Issued.qsmInjectArm (d : Fin 4) (x : BitVec 64) : Issued.Statement (.qsmInjectArm d x) := rfl
theorem Issued.qsmInjectDisarm (d : Fin 4) (x : BitVec 64) : Issued.Statement (.qsmInjectDisarm d x) := rfl
theorem Issued.injectionFire (d : Fin 4) : Issued.Statement (.injectionFire d) := rfl
theorem Issued.stormIntervalEnd (d : Fin 4) : Issued.Statement (.stormIntervalEnd d) := rfl
theorem Issued.sensorSelfTest (d : Fin 4) (blind : List (Fin 256 × Fin 3)) (partial_ : List (Fin 256 × Fin 3)) : Issued.Statement (.sensorSelfTest d blind partial_) := rfl
theorem Issued.tokenHop (d : Fin 4) : Issued.Statement (.tokenHop d) := rfl
theorem Issued.tokenHoldLimit (d : Fin 4) (c : Fin 8) : Issued.Statement (.tokenHoldLimit d c) := rfl
theorem Issued.pwrTokensWrite (d : Fin 4) (x : BitVec 64) : Issued.Statement (.pwrTokensWrite d x) := rfl
theorem Issued.classWrite (d : Fin 4) (c : Fin 8) (x : BitVec 64) : Issued.Statement (.classWrite d c x) := rfl
theorem Issued.classChangeApply (d : Fin 4) (c : Fin 8) : Issued.Statement (.classChangeApply d c) := rfl
theorem Issued.railStep (d : Fin 4) (k : Fin 4) : Issued.Statement (.railStep d k) := rfl
theorem Issued.railHoldExpiry (d : Fin 4) (k : Fin 4) : Issued.Statement (.railHoldExpiry d k) := rfl
theorem Issued.allotmentThrottle (p : Fin 32) (avg : BitVec 16) (mj : BitVec 64) : Issued.Statement (.allotmentThrottle p avg mj) := rfl
theorem Issued.pwrAllotWrite (p : Fin 32) (x : BitVec 64) : Issued.Statement (.pwrAllotWrite p x) := rfl
theorem Issued.thermalSensorUpdate (d : Fin 4) (raw : List (BitVec 16 × Bool)) : Issued.Statement (.thermalSensorUpdate d raw) := rfl
theorem Issued.thermalThrottleStep (d : Fin 4) : Issued.Statement (.thermalThrottleStep d) := rfl
theorem Issued.thermalTrip (d : Fin 4) : Issued.Statement (.thermalTrip d) := rfl
theorem Issued.noValidSensorTimeout (d : Fin 4) : Issued.Statement (.noValidSensorTimeout d) := rfl
theorem Issued.packageReset : Issued.Statement (.packageReset) := rfl
theorem Issued.fwPkgrstGo (x : BitVec 64) : Issued.Statement (.fwPkgrstGo x) := rfl
theorem Issued.pluginTimeout (f : Fin 129) : Issued.Statement (.pluginTimeout f) := rfl
theorem Issued.pluginViolation (f : Fin 129) : Issued.Statement (.pluginViolation f) := rfl
theorem Issued.telemetryRecord : Issued.Statement (.telemetryRecord) := rfl
theorem Issued.hostWindowRead (f : Fin 129) (o : BitVec 30) (n : Fin 65) : Issued.Statement (.hostWindowRead f o n) := rfl
theorem Issued.hostWindowWrite (f : Fin 129) (o : BitVec 30) (bs : List (BitVec 8)) : Issued.Statement (.hostWindowWrite f o bs) := rfl
theorem Issued.registerWrite (f : Fin 129) (a : Nat) (x : BitVec 64) (w : RegWriter) : Issued.Statement (.registerWrite f a x w) := rfl
theorem Issued.trainingComplete (k : Fin 6) (rate : Fin 3) (mods : Fin 5) : Issued.Statement (.trainingComplete k rate mods) := rfl
theorem Issued.burstEnd (c : Nat) : Issued.Statement (.burstEnd c) := rfl
theorem Issued.wayGatingDone (d : Fin 4) : Issued.Statement (.wayGatingDone d) := rfl
theorem Issued.regionUnfence (d : Fin 4) (g : Fin 63) : Issued.Statement (.regionUnfence d g) := rfl
theorem Issued.peerRequest (station : BitVec 10) (pa : Nat) (req : PeerReq) : Issued.Statement (.peerRequest station pa req) := rfl

end Sys2Proof.Laws
end

