-- ==== Sys2Proof/Laws/Regs.lean ====
section
/-! SUPPORT. Laws of register fields: what a field reads after a field has been written (00 R8). -/

namespace Sys2Proof.Machine

theorem testBit_getFld (r : BitVec 64) (hi lo i : Nat) :
    (getFld r hi lo).testBit i = (decide (i < hi + 1 - lo) && r.getLsbD (lo + i)) := by
  simp [getFld, nfld, Nat.testBit_mod_two_pow, Nat.testBit_div_two_pow, BitVec.testBit_toNat, Nat.add_comm]

/-- A bit of a register after a field has been replaced. -/
theorem getLsbD_setFld (r : BitVec 64) (hi lo x j : Nat) :
    (setFld r hi lo x).getLsbD j =
      if lo ≤ j ∧ j < hi + 1 ∧ j < 64 then x.testBit (j - lo) else r.getLsbD j := by
  simp only [setFld, BitVec.getLsbD_or, BitVec.getLsbD_and, BitVec.getLsbD_not, BitVec.getLsbD_ofNat, Nat.testBit_mul_two_pow,
    Nat.testBit_two_pow_sub_one]
  by_cases h1 : lo ≤ j
  · by_cases h2 : j < hi + 1
    · by_cases h3 : j < 64
      · have : j - lo < hi + 1 - lo := by omega
        simp [h1, h2, h3, this]
      · simp [h1, h2, h3, BitVec.getLsbD_of_ge r j (by omega)]
    · have : ¬ j - lo < hi + 1 - lo := by omega
      simp [h1, h2, this]
      by_cases h3 : j < 64
      · simp [h3]
      · simp [h3, BitVec.getLsbD_of_ge r j (by omega)]
  · simp [h1]
    by_cases h3 : j < 64
    · simp [h3]
    · simp [h3, BitVec.getLsbD_of_ge r j (by omega)]

/-- A field that has been written reads as what was written, cut to its width. -/
theorem getFld_setFld_self (r : BitVec 64) {hi lo : Nat} (x : Nat) (h : hi < 64) :
    getFld (setFld r hi lo x) hi lo = x % 2 ^ (hi + 1 - lo) := by
  apply Nat.eq_of_testBit_eq
  intro i
  rw [testBit_getFld, getLsbD_setFld, Nat.testBit_mod_two_pow]
  by_cases hi' : i < hi + 1 - lo
  · have : lo ≤ lo + i ∧ lo + i < hi + 1 ∧ lo + i < 64 := by omega
    simp [hi', this]
  · simp [hi']

/-- A field apart from the one written reads as before. -/
theorem getFld_setFld_ne (r : BitVec 64) {hi lo hi' lo' : Nat} (x : Nat) (h : hi' < lo ∨ hi < lo') :
    getFld (setFld r hi lo x) hi' lo' = getFld r hi' lo' := by
  apply Nat.eq_of_testBit_eq
  intro i
  rw [testBit_getFld, testBit_getFld, getLsbD_setFld]
  by_cases h' : i < hi' + 1 - lo'
  · have : ¬(lo ≤ lo' + i ∧ lo' + i < hi + 1 ∧ lo' + i < 64) := by omega
    rw [if_neg this]
  · simp [h']

/-! ### Fields of registers of the machine -/

@[simp] theorem State.reg_setRegF (s : State) (k hi lo x j : Nat) :
    (s.setRegF k hi lo x).reg j = if j = k then setFld (s.reg k) hi lo x else s.reg j := by
  simp [State.setRegF]
theorem State.regF_setRegF_self (s : State) (k : Nat) {hi lo : Nat} (x : Nat) (h : hi < 64) :
    (s.setRegF k hi lo x).regF k hi lo = x % 2 ^ (hi + 1 - lo) := by
  simp [State.regF, getFld_setFld_self _ x h]
theorem State.regF_setRegF_fld (s : State) (k : Nat) {hi lo hi' lo' : Nat} (x : Nat) (h : hi' < lo ∨ hi < lo') :
    (s.setRegF k hi lo x).regF k hi' lo' = s.regF k hi' lo' := by
  simp [State.regF, getFld_setFld_ne _ x h]
theorem State.regF_setRegF_ne (s : State) {k j : Nat} (hi lo x hi' lo' : Nat) (h : j ≠ k) :
    (s.setRegF k hi lo x).regF j hi' lo' = s.regF j hi' lo' := by
  simp [State.regF, h]

theorem onlyReg_setReg (s : State) (k : Nat) (x : BitVec 64) : OnlyReg s k x (s.setReg k x) :=
  ⟨by simp, fun j h => by simp [h], rfl⟩
theorem onlyFld_setRegF (s : State) (k hi lo x : Nat) : OnlyFld s k hi lo x (s.setRegF k hi lo x) := onlyReg_setReg s k _
theorem onlyDie_setDie (s : State) (d : Fin 4) (x : Die) : OnlyDie s d x (s.setDie d x) :=
  ⟨by simp, fun e h => by simp [h], rfl⟩

end Sys2Proof.Machine
end

