-- ==== Sys2Proof/Tests/Slice0.lean ====
section
/-! SUPPORT. Tests: ill-formed terms that the checks refuse, words written out from the encodings of spec/, single steps with results
from the rules and worked examples of spec/, and, for each statement with hypotheses, a state and operands that meet them. -/

open Sys2Proof Sys2Proof.Machine

namespace Sys2Proof.Tests

set_option Elab.async false

/-! ### Operands -/

def h0 : Hdr := ⟨0, false, 0⟩
def oR (d a b c : Opnd) (m : BitVec 16) : ROps := ⟨h0, d, a, b, c, m⟩
def oI (d a : Opnd) (m : BitVec 12) (imm : Word) : IOps := ⟨h0, d, a, m, imm⟩
/-- A load or store: data, base, index, width, with ORD and SCOPE 0. -/
def oM (d base idx : Opnd) (w : BitVec 3) (off : Word) : MOps := ⟨h0, d, base, idx, w, 0, 0, 0, 0, 0, 0, off⟩
def oA (d base idx : Opnd) (w : BitVec 3) (aop : BitVec 4) (x y : Opnd) (var : BitVec 3) : AOps :=
  ⟨h0, d, base, idx, w, 0, 0, 0, 0, 0, var, 0, y, x, aop⟩
def oB (sub : BitVec 8) (a : Opnd) (dist : Word) : BOps := ⟨h0, sub, a, dist⟩
def oX (sub : BitVec 8) (d a b c : Opnd) (ts ts2 rs flags : BitVec 8) : XOps := ⟨h0, sub, d, a, b, c, ts, ts2, rs, flags⟩

def n_ : Opnd := .none
/-- v3 from v1 and v2; from v1; from v1, v2 and v5; from v1 and an immediate. -/
def vvv : ROps := oR (.v 3) (.v 1) (.v 2) n_ 0
def vv : ROps := oR (.v 3) (.v 1) n_ n_ 0
def vvvv : ROps := oR (.v 3) (.v 1) (.v 2) (.v 5) 0
def vvi : IOps := oI (.v 3) (.v 1) 0 7
/-- Nothing. -/
def nil : ROps := oR n_ n_ n_ n_ 0

/-! ### An instruction for each row of the opcode map (04 R108) -/

def intSamples : List Instr :=
  [Instr.iadd, .isub, .iadds, .isubs, .imul, .imulh, .idiv, .irem, .imin, .imax, .iand, .ior, .ixor, .iandn, .shl, .shr, .sar,
    .rotl, .bfe].map (fun f => f vvv)
  ++ [Instr.iabs, .inot, .popc, .clz, .brev, .mov].map (fun f => f vv)
  ++ [Instr.imad, .bfi, .idp4].map (fun f => f vvvv)
  ++ [Instr.iaddI, .isubI, .iaddsI, .isubsI, .imulI, .imulhI, .idivI, .iremI, .iminI, .imaxI, .iandI, .iorI, .ixorI, .iandnI, .shlI,
    .shrI, .sarI, .rotlI, .bfeI].map (fun f => f vvi)
  ++ [.sel (oR (.v 3) (.v 1) (.v 2) (.p 1) 0), .movi (oI (.v 3) n_ 0 7)]
def pairSamples : List Instr :=
  [.iadd64 (oR (.v 4) (.v 6) (.v 8) n_ 0), .iadd64I (oI (.v 4) (.v 6) 0 7), .isub64 (oR (.s 4) (.s 6) (.s 8) n_ 0),
   .isub64I (oI (.s 4) (.s 6) 0 7), .lea (oR (.v 4) (.s 6) (.v 8) n_ 2), .leaI (oI (.v 4) (.s 6) 2 7),
   .imadw (oR (.v 4) (.v 1) (.v 2) (.v 6) 0), .mov (oR (.s 4) (.s 6) n_ n_ 1), .movi (oI (.v 4) n_ 1 7)]
def predSamples : List Instr :=
  [.icmp (oR (.p 1) (.v 1) (.v 2) n_ 2), .icmpI (oI (.p 1) (.v 1) 2 7), .fcmp (oR (.p 1) (.v 1) (.v 2) n_ 2),
   .fcmpI (oI (.p 1) (.v 1) 2 7), .vote (oR (.p 1) (.v 1) n_ n_ 1), .elect (oR (.p 1) n_ n_ n_ 0), .pand (oR (.p 1) (.p 2) (.p 3) n_ 0),
   .por (oR (.p 1) (.p 2) (.p 3) n_ 0), .pxor (oR (.p 1) (.p 2) (.p 3) n_ 0), .pnot (oR (.p 1) (.p 2) n_ n_ 0),
   .pmov (oR (.p 1) (.s 2) n_ n_ 0)]
def laneSamples : List Instr :=
  [.shfl vvv, .shflI (oI (.v 3) (.v 1) 0 7), .vote (oR (.s 4) (.v 1) n_ n_ 0), .lmatch vv]
def foldSamples : List Instr :=
  [.rdfl (oR (.s 4) (.v 1) n_ n_ 0), .lred (oR (.s 4) (.v 1) n_ n_ 0), .lred vv, .lscan vv]
def namedSamples : List Instr :=
  [.rdln (oR (.s 4) (.v 1) (.s 2) n_ 0), .rdlnI (oI (.s 4) (.v 1) 0 31), .bcast (oR (.v 3) (.v 1) (.s 2) n_ 0),
   .bcastI (oI (.v 3) (.v 1) 0 31)]
def maskSamples : List Instr :=
  [.nop, .pmov (oR (.s 4) (.p 1) n_ n_ 0), .emget (oR (.s 4) .em n_ n_ 0), .emget (oR (.p 4) .em n_ n_ 0),
   .emset (oR .em (.p 1) n_ n_ 0)]
def floatSamples : List Instr :=
  [Instr.fadd, .fsub, .fmul, .fmin, .fmax, .fdiv, .hadd2, .hmul2].map (fun f => f vvv)
  ++ [Instr.fma, .hfma2, .fdp2].map (fun f => f vvvv)
  ++ [Instr.fclass, .frcp, .fsqrt, .frsq, .fpow2, .flog2, .frnd, .cvt].map (fun f => f vv)
  ++ [Instr.faddI, .fsubI, .fmulI, .fminI, .fmaxI, .fdivI].map (fun f => f vvi)
  ++ [.cvtbx (oR (.v 3) (.v 1) (.s 2) n_ 8), .cvtbx (oR (.v 3) (.v 1) n_ n_ 7)]
def blockSample : Instr := .cvtb (oR (.v 3) (.v 1) n_ n_ 7)
def flowSamples : List Instr :=
  [.bra (oB 0 n_ 4), .brcNz (oB 0 (.s 4) 4), .brcZ (oB 1 (.s 4) 4), .jmp (oR n_ (.s 4) n_ n_ 0), .call (oB 0 (.s 6) 4),
   .callr (oR (.s 6) (.s 4) n_ n_ 0), .ret (oR n_ (.s 4) n_ n_ 0), .tok (oB 0 n_ 4), .brd (oB 0 (.p 1) 4), .join nil,
   .brk (oB 0 (.p 1) 0), .exit nil, .loop (oB 0 (.s 4) 4), .yield (oI n_ n_ 0 (64 + 2 ^ 12)), .rhead nil]
def loadSamples : List Instr :=
  [.ld (oM (.v 3) (.s 4) (.v 1) 2 0), .ldsp (oM (.v 3) (.s 4) (.v 1) 2 0), .ldcl (oM (.v 4) (.s 4) (.v 1) 3 0),
   .lddie (oM (.v 4) (.s 4) (.v 1) 4 0), .ldpv (oM (.v 3) n_ n_ 2 0)]
def storeSamples : List Instr :=
  [.st (oM (.v 3) (.s 4) (.v 1) 2 0), .stsp (oM (.v 3) (.s 4) (.v 1) 2 0), .stcl (oM (.v 4) (.s 4) (.v 1) 3 0),
   .stdie (oM (.v 4) (.s 4) (.v 1) 4 0), .stpv (oM (.v 3) n_ n_ 2 0), .red (oA n_ (.s 4) (.v 1) 2 0 (.v 2) n_ 0),
   .atom (oA n_ (.s 4) (.v 1) 2 0 (.v 2) n_ 0), .atomsp (oA n_ (.s 4) (.v 1) 2 0 (.v 2) n_ 0),
   .xadd (oA n_ (.s 4) (.v 1) 2 0 (.v 2) n_ 0), .xclr (oM n_ (.s 4) (.v 1) 2 0), .swinit (oA n_ (.s 4) n_ 0 0 (.s 2) n_ 0),
   .swexp (oA n_ (.s 4) n_ 0 0 (.s 2) n_ 0), .arv (oA n_ (.s 4) n_ 0 0 n_ n_ 0)]
def memSamples : List Instr :=
  [.atom (oA (.v 3) (.s 4) (.v 1) 2 0 (.v 2) n_ 0), .atomsp (oA (.v 3) (.s 4) (.v 1) 2 7 (.v 2) (.v 5) 0),
   .xrd (oM (.v 3) (.s 4) (.v 1) 2 0), .wtg (oA (.s 6) (.s 4) n_ 0 0 (.s 2) n_ 0), .pref (oM n_ (.s 4) (.v 1) 2 0),
   .fence ⟨h0, n_, n_, n_, 0, 4, 0, 0, 0, 0, 0, 0⟩, .cpub ⟨h0, n_, n_, n_, 0, 4, 0, 0, 0, 0, 0, 0⟩, .bar nil, .rbar nil, .sbar nil]
def engineSamples : List Instr :=
  [.cpy (oR (.s 4) (.s 6) (.s 8) n_ 5), .cpyst (oR (.s 4) (.s 6) (.s 8) n_ 0x64), .cpyt (oX 0 n_ (.s 4) n_ n_ 0 1 0 0),
   .cpymm (oX 0 n_ (.s 4) n_ (.s 6) 0 1 0 0), .gthr (oX 0 (.s 4) (.v 1) (.s 6) n_ 0 0 0 2), .scat (oX 0 (.s 4) (.v 1) (.s 6) n_ 0 0 0 0x62),
   .coll (oX 0 (.s 4) (.s 6) (.s 8) (.s 9) 0 0 0 0), .sig (oR n_ (.s 4) (.s 5) n_ 0), .mma (oX 2 (.s 4) (.s 5) (.s 6) (.s 7) 0 1 0 0),
   .mmad (oX 2 (.s 4) (.s 5) (.s 6) (.s 7) 0 1 0 0), .mconv (oX 2 (.s 4) (.s 5) (.s 6) (.s 7) 0 1 0 0), .mzero (oX 0 n_ n_ n_ n_ 0 0 0 0),
   .mld (oX 0 (.s 4) (.s 5) n_ n_ 0 0 0 0), .mst (oX 0 (.s 4) (.s 5) n_ n_ 0 0 0 0), .rsdef (oX 0 n_ (.s 4) (.s 5) n_ 0 0 0 0),
   .rsinv (oX 0 n_ n_ n_ n_ 0 0 0 0), .rssave (oX 0 n_ (.s 4) n_ n_ 0 0 0 0), .rsload (oX 0 n_ (.s 4) n_ n_ 0 0 0 0)]
def batchSamples : List Instr :=
  [.spawn (oR n_ (.s 4) n_ n_ 0), .seal nil, .wtbSrc (oI n_ n_ 0 0), .wtbVis (oI n_ n_ 0 0), .wtc (oI n_ n_ 0 0),
   .hwaitd (oR (.s 4) (.s 5) (.s 6) n_ 0), .tsdef (oX 0 n_ (.s 4) n_ n_ 0 0 0 0), .tsset (oX 0 n_ (.s 4) (.s 5) n_ 0 0 0 0),
   .tsinv (oX 0 n_ n_ n_ n_ 0 0 0 0), .rsstat (oX 0 (.s 4) n_ n_ n_ 0 0 0 0), .mfence nil]
def systemSamples : List Instr :=
  [.trap (oI n_ n_ 0 5), .brkpt (oI n_ n_ 0 5), .fwcall (oI (.s 4) (.s 5) 0 1), .srd (oI (.v 3) n_ 0 0), .srd (oI (.s 4) n_ 0 1),
   .srd (oI (.s 4) n_ 0 0x48), .swr (oI n_ (.s 4) 0 0x0E), .tretTo (oR n_ (.s 4) n_ n_ 0), .tretRetry (oR n_ n_ n_ n_ 1),
   .tretSkip (oR n_ n_ n_ n_ 2)]
def samples : List Instr :=
  intSamples ++ pairSamples ++ predSamples ++ laneSamples ++ foldSamples ++ namedSamples ++ maskSamples ++ floatSamples
  ++ blockSample :: (flowSamples ++ loadSamples ++ storeSamples ++ memSamples ++ engineSamples ++ batchSamples ++ systemSamples)

/-- Each is well formed, and its word decodes to it. -/
theorem test_samples_decode : ∀ i ∈ samples, i.wf = true ∧ (encode i).bind decode = some i := by decide +kernel

/-! ### A state: a wale of function 0, alone in its basket, about to issue -/

def base : State := { State.reset.placeWale with cur := some ⟨0, .sole⟩ }
/-- The state with its wale changed, and with the core of its wale changed. -/
def onWale (f : Wale → Wale) : State := base.updWale 0 f
def onCore (f : WaleCore → WaleCore) : State := onWale fun w => { w with core := f w.core }
/-- Every one of them may issue there. -/
theorem test_samples_issue : ∀ i ∈ samples, (ready i base).isSome = true := by decide +kernel

theorem wit {α : Type} {o : Option α} (P : α → Prop) [DecidablePred P] (h : (o.any fun a => decide (P a)) = true) :
    ∃ a, o = some a ∧ P a := by
  cases o with
  | none => simp at h
  | some a => exact ⟨a, rfl, by simpa using h⟩

theorem wit_EncodeAndDecode : issued (.iadd vvv) ∧ (Instr.iadd vvv).wf = true :=
  ⟨rfl, by decide⟩

theorem witOk {ε α : Type} {e : Except ε α} (P : α → Prop) [DecidablePred P]
    (h : (match e with | .ok a => decide (P a) | .error _ => false) = true) : ∃ a, e = .ok a ∧ P a := by
  cases e with
  | ok a => exact ⟨a, rfl, by simpa using h⟩
  | error _ => simp at h
theorem witErr {ε α : Type} {e : Except ε α} (P : ε → Prop) [DecidablePred P]
    (h : (match e with | .ok _ => false | .error a => decide (P a)) = true) : ∃ a, e = .error a ∧ P a := by
  cases e with
  | ok _ => simp at h
  | error a => exact ⟨a, rfl, by simpa using h⟩

/-! ### Witnesses: fetch and issue -/

/-- The word of `iadd v3, v3, v2` at PC 0. -/
def wIadd : BitVec 96 := 0x01000000C0300BFF00000000
def placed (w : BitVec 96) : State := State.reset.placeWord w
def sole : Cur := ⟨0, .sole⟩
def atPc (s : State) (pc : Dword) (arr : Bool) : State :=
  s.updWale 0 fun w => { w with core := { w.core with base := { w.core.base with pc := pc, arr := arr } } }
/-- The checks of `Fetches` at the fragment of a state. -/
def fetches (x : Ctx) (w : BitVec 96) : Bool :=
  match x.xlat x.fr.pc.toNat .x with
  | .error _ => false
  | .ok t => match x.s.codeAt x.st.hoop.core t with
    | none => false
    | some l => decide (x.fr.pc >>> 53 = 0) && !x.s.homeOff (x.s.homeDie t.pa) && !x.s.unpublished x.st.hoop.core t.pa
      && decide (l.key = t.key) && l.ok && slotPc x.fr.pc && (!x.fr.arr || lineBtm l.data (slotOf x.fr.pc))
      && decide (lineSlot l.data (slotOf x.fr.pc) = w)
theorem fetches_spec {x : Ctx} {w : BitVec 96} (h : fetches x w = true) : ∃ t l, Fetches x t l w := by
  unfold fetches at h
  split at h
  · simp at h
  · rename_i t ht
    split at h
    · simp at h
    · rename_i l hl
      simp only [Bool.and_eq_true, decide_eq_true_eq, Bool.not_eq_true', Bool.or_eq_true] at h
      obtain ⟨⟨⟨⟨⟨⟨⟨a, b⟩, c⟩, d⟩, e⟩, f⟩, g⟩, k⟩ := h
      exact ⟨t, l, a, ht, b, c, hl, d, e, f, fun q => by rcases g with g | g <;> simp_all, k⟩

theorem wit_StepRunsDecoded : (placed wIadd).issues sole ∧
    (∃ x, ({ placed wIadd with cur := some sole } : State).ctx? = some x ∧ x.core.yleft ≠ 0 ∧ ∃ t l, Fetches x t l wIadd) ∧
    ∃ i, decode wIadd = some i := by
  refine ⟨?_, ?_, ?_⟩
  · exact ⟨by decide +kernel, by decide +kernel, by decide +kernel, by decide +kernel, by decide +kernel⟩
  · obtain ⟨x, hx, h1, h2⟩ := wit (o := ({ placed wIadd with cur := some sole } : State).ctx?)
      (fun x => x.core.yleft ≠ 0 ∧ fetches x wIadd = true) (by decide +kernel)
    exact ⟨x, hx, h1, fetches_spec h2⟩
  · obtain ⟨i, h, -⟩ := wit (o := decode wIadd) (fun _ => True) (by decide +kernel)
    exact ⟨i, h⟩

/-- Where the fragment of a state stands at fetch. -/
def fetchAt (s : State) (P : Ctx → Bool) : Bool :=
  decide (s.agenda = [] ∧ s.noteNow = none ∧ s.injectNow = none ∧ s.guardNow = none ∧ s.cur = none ∧ s.select = some sole)
  && (({ s with cur := some sole } : State).ctx?.any fun x => decide (x.core.yleft ≠ 0) && P x)
theorem fetchAt_spec {s : State} {P : Ctx → Bool} (h : fetchAt s P = true) :
    s.issues sole ∧ ∃ x, ({ s with cur := some sole } : State).ctx? = some x ∧ x.core.yleft ≠ 0 ∧ P x = true := by
  simp only [fetchAt, Bool.and_eq_true, decide_eq_true_eq] at h
  refine ⟨h.1, ?_⟩
  cases hx : ({ s with cur := some sole } : State).ctx? with
  | none => rw [hx] at h; simp at h
  | some x => rw [hx] at h; simp at h; exact ⟨x, rfl, h.2.1, h.2.2⟩
/-- The translation at the fragment's PC, and the line that the instruction cache holds there. -/
def xlAt (x : Ctx) (P : Xl → Option ILine → Bool) : Bool :=
  match x.xlat x.fr.pc.toNat .x with
  | .error _ => false
  | .ok t => !x.s.homeOff (x.s.homeDie t.pa) && P t (x.s.codeAt x.st.hoop.core t)
/-- The translation fails at the fragment's PC. -/
def xlFails (s : State) (e : XErr) : Bool :=
  fetchAt s fun x => decide (x.fr.pc >>> 53 = 0) && (match x.xlat x.fr.pc.toNat .x with | .error u => decide (u = e) | _ => false)
/-- The leaf of page 0 names another page. -/
def leafAt (a : Nat) : State := (placed wIadd).physWrite 0 0x8000 (placePte a true)
def badLine : State :=
  { placed wIadd with icache := [(0xA000, { data := lineOfWord wIadd, key := 0, ok := false })] }

/-- A PC beyond 53 bits; a page that is not mapped, one that may not be executed, a line of another partition, a page behind a link
that is down, one granted to a peer, one of a die in warm reset; an unpublished line; a line whose check fails, also in a page that no
cache holds; a PC that is no slot, and a slot where no transfer may arrive; a word that is no instruction. -/
theorem wit_FetchFaultsInOrder :
    fetchAt (atPc (placed wIadd) (2 ^ 53) false) (fun x => decide (x.fr.pc >>> 53 ≠ 0)) = true ∧
    xlFails (atPc ((placed wIadd).physWrite 0 0x8008 (bytesLE 8 0)) 0x2000 false) .xlate = true ∧
    xlFails ((placed wIadd).physWrite 0 0x8000 (bytesLE 8 0xA107)) .perm = true ∧
    xlFails ((placed wIadd).updDie 0 fun x => { x with l2 := [(0xA000 / 64, { part := 5, way := 0 })] }) (.part 0) = true ∧
    xlFails (leafAt (2 ^ 37)) .wait = true ∧
    xlFails { placed wIadd with grants := [(5, ⟨[1], true, false⟩)] } (.away 5) = true ∧
    fetchAt { leafAt (2 ^ 37) with warm := some ⟨1, 2, []⟩ } (fun x => decide (x.fr.pc >>> 53 = 0) &&
      (match x.xlat x.fr.pc.toNat .x with | .ok t => x.s.homeOff (x.s.homeDie t.pa) | _ => false)) = true ∧
    fetchAt ((placed wIadd).unpublish .other 0xA000) (fun x =>
      xlAt x fun t _ => decide (x.fr.pc >>> 53 = 0) && x.s.unpublished x.st.hoop.core t.pa) = true ∧
    fetchAt badLine (fun x => xlAt x fun t l => decide (x.fr.pc >>> 53 = 0) && !x.s.unpublished x.st.hoop.core t.pa
      && l.any fun l => decide (l.key = t.key) && !l.ok) = true ∧
    fetchAt (((placed wIadd).physWrite 0 0x8000 (bytesLE 8 0xA157)).physWrite 0 0xA000 [1]) (fun x => xlAt x fun t l => decide (x.fr.pc >>> 53 = 0)
      && !x.s.unpublished x.st.hoop.core t.pa && decide (t.mt ≠ 0) && l.any fun l => decide (l.key = t.key) && !l.ok) = true ∧
    fetchAt (atPc (placed wIadd) 60 false) (fun x => xlAt x fun t l => decide (x.fr.pc >>> 53 = 0)
      && !x.s.unpublished x.st.hoop.core t.pa && (l.any fun l => decide (l.key = t.key) && l.ok) && !slotPc x.fr.pc) = true ∧
    fetchAt (atPc (placed wIadd) 12 true) (fun x => xlAt x fun t l => !x.s.unpublished x.st.hoop.core t.pa
      && (l.any fun l => decide (l.key = t.key) && l.ok && !lineBtm l.data (slotOf x.fr.pc)) && x.fr.arr) = true ∧
    (fetchAt (placed 0xFF) (fun x => fetches x 0xFF) = true ∧ decode 0xFF = none) := by
  refine ⟨?_, ?_, ?_, ?_, ?_, ?_, ?_, ?_, ?_, ?_, ?_, ?_, ?_, ?_⟩ <;> decide +kernel

/-- An instruction with a bit that must be zero, one with a v register at VREGS, one that may not stand in its shadow; no
instruction left before the deadline. -/
theorem wit_IllegalAndOverdueInstructions :
    (∃ y, base.ctx? = some y ∧ y.core.yleft ≠ 0 ∧ (Instr.iadd { vvv with mod := 2 }).wf = false) ∧
    (∃ y, (onWale fun w => { w with vregs := 32 }).ctx? = some y ∧ y.core.yleft ≠ 0 ∧ vregsOk y.st.wl.vregs [.v 32] = false) ∧
    (∃ y, (onCore fun c => { c with shadows := [⟨1, false, .sole, 0, [], 0, [.v 3], false, false⟩] }).ctx? = some y ∧
      y.core.yleft ≠ 0 ∧ (infoOf (.idiv vvv)).any (shadowIll y.core y.arm) = true) ∧
    (∃ y, (onCore fun c => { c with yleft := 0 }).ctx? = some y ∧ y.core.yleft = 0 ∧
      Sparse.wf (onCore fun c => { c with yleft := 0 }).baskets = true) :=
  ⟨wit _ (by decide +kernel), wit _ (by decide +kernel), wit _ (by decide +kernel), wit _ (by decide +kernel)⟩

/-- A region that is closed and not released. -/
def aRegion (w : Wale) : Region := { w.cur with q := some 96 }
theorem wit_HeadsBeforeInstructions :
    (∃ x, checked (.iadd vvv) (onCore fun c => { c with icount := 512 }) = some x ∧ 512 ≤ x.core.icount ∧ x.st.wl.old = none) ∧
    (∃ x, checked (.iadd vvv) (onCore fun c => { c with wcount := 64 }) = some x ∧ 64 ≤ x.core.wcount ∧ x.st.wl.old = none) ∧
    (∃ x, checked (.iadd vvv) (onWale fun w => { w with core := { w.core with icount := 512 }, old := some (aRegion w) }) = some x ∧
      512 ≤ x.core.icount ∧ x.st.wl.old ≠ none) ∧
    (∃ x, checked (.wtc (oI n_ n_ 0 0)) (onWale fun w => { w with old := some (aRegion w) }) = some x ∧ x.st.wl.drained = false) :=
  ⟨wit _ (by decide +kernel), wit _ (by decide +kernel), wit _ (by decide +kernel), wit _ (by decide +kernel)⟩

/-- Two arms: ARM0 at 0x30 with the strands of p1, ARM1 behind with the others. -/
def twoArms : State :=
  onCore fun c => (({ c with p := vset c.p 1 0xFFFF } : WaleCore).pushToken .sole 0x40).splitArms .a0 0xFFFF 0x30
def arm (a : ArmId) (s : State) : State := { s with cur := some ⟨0, a⟩ }
def siblingIs (s : State) (a : ArmId) (st : ArmSt) (split : Bool) : State :=
  arm a (s.updWale 0 fun w => { w with core := w.core.setFrag a.sib { w.core.frag a.sib with st := st, split := split } })
def toS : Instr := .movi (oI (.s 4) n_ 0 1)
def brd1 : BOps := oB 0 (.p 1) 4
/-- An s destination and a `brd` that splits are single-fragment points; `o` is the other fragment. -/
def atPointOf (i : Instr) (s : State) (P : Ctx → Arm → Bool → Prop) [∀ x o m, Decidable (P x o m)] : Prop :=
  ∃ f x, infoOf i = some f ∧ legal i s = some x ∧ atPoint i f x = true ∧ x.arm ≠ .sole ∧ (x.core.frag x.arm.sib).heldByTrap = false ∧
    P x (x.core.frag x.arm.sib) (splits i x.core x.fr)
theorem atPointOf_of {i : Instr} {s : State} {P : Ctx → Arm → Bool → Prop} [∀ x o m, Decidable (P x o m)]
    (h : ((infoOf i).any fun f => (legal i s).any fun x => decide (atPoint i f x = true ∧ x.arm ≠ .sole ∧ (x.core.frag x.arm.sib).heldByTrap = false ∧
      P x (x.core.frag x.arm.sib) (splits i x.core x.fr))) = true) : atPointOf i s P := by
  cases hf : infoOf i with
  | none => rw [hf] at h; simp at h
  | some f =>
    rw [hf] at h
    cases hx : legal i s with
    | none => rw [hx] at h; simp at h
    | some x => rw [hx] at h; exact ⟨f, x, hf, hx, by simpa using h⟩
/-- Both arms hold strands of both kinds, so that a `brd` splits. -/
def mixedArms (s : State) : State :=
  s.updWale 0 fun w => { w with core := { w.core with p := vset w.core.p 1 0x00FF00FF } }
/-- ARM0 handles a trap; ARM1 is suspended for it. -/
def handling (s : State) : State :=
  s.updWale 0 fun w =>
    let a := { w.core.frag .a1 with st := .suspended, why := .trap }
    { w with core := { w.core.setFrag .a1 a with frame := some ⟨.a0, 0xFFFF, 12, 24, 1, false, none, false⟩ } }
theorem wit_SingleFragmentPoints :
    (∃ x, legal (.brd brd1) (handling (siblingIs (mixedArms twoArms) .a0 .suspended false)) = some x ∧ x.arm ≠ .sole ∧
      (infoOf (.brd brd1)).any (atPoint (.brd brd1) · x) = true ∧ (x.core.frag x.arm.sib).heldByTrap = true ∧ splits (.brd brd1) x.core x.fr = true) ∧
    (∃ x, legal toS (handling (siblingIs twoArms .a0 .suspended false)) = some x ∧ x.arm ≠ .sole ∧
      (infoOf toS).any (atPoint toS · x) = true ∧ (x.core.frag x.arm.sib).heldByTrap = true ∧ splits toS x.core x.fr = false) ∧
    atPointOf toS (arm .a0 twoArms) (fun _ o _ => o.st = .running) ∧
    atPointOf (.brd brd1) (siblingIs (mixedArms twoArms) .a0 .waiting true) (fun _ o m => o.st = .waiting ∧ m = true ∧ o.split = true) ∧
    atPointOf (.brd brd1) (siblingIs (mixedArms twoArms) .a1 .suspended true)
      (fun _ o m => o.st = .suspended ∧ m = true ∧ o.split = true) ∧
    atPointOf toS (siblingIs twoArms .a0 .waiting false)
      (fun x o m => o.st = .waiting ∧ ¬(m = true ∧ o.split = true) ∧ (x.arm = .a1 ↔ (if x.arm = .a0 then m else o.split) = true)) ∧
    atPointOf toS (siblingIs twoArms .a1 .waiting true)
      (fun x o m => o.st = .waiting ∧ ¬(m = true ∧ o.split = true) ∧ (x.arm = .a1 ↔ (if x.arm = .a0 then m else o.split) = true)) ∧
    atPointOf toS (siblingIs twoArms .a1 .waiting false)
      (fun x o m => o.st = .waiting ∧ ¬(m = true ∧ o.split = true) ∧ ¬(x.arm = .a1 ↔ (if x.arm = .a0 then m else o.split) = true)) ∧
    atPointOf (.brd brd1) (siblingIs (mixedArms twoArms) .a0 .waiting false)
      (fun x o m => o.st = .waiting ∧ ¬(m = true ∧ o.split = true) ∧ ¬(x.arm = .a1 ↔ (if x.arm = .a0 then m else o.split) = true)) :=
  ⟨wit _ (by decide +kernel), wit _ (by decide +kernel), atPointOf_of (by decide +kernel), atPointOf_of (by decide +kernel),
    atPointOf_of (by decide +kernel), atPointOf_of (by decide +kernel), atPointOf_of (by decide +kernel), atPointOf_of (by decide +kernel),
    atPointOf_of (by decide +kernel)⟩

/-- A core at PC 24 in a loop over `lc0`, with `n` passes left, and inside it one over `lc1` that ends there too. -/
def core0 : WaleCore := WaleCore.start placePkt []
def loopCore (n0 n1 : Word) (ls : List (Fin 3)) (e : Dword) : WaleCore :=
  let l : LoopD := { lact := true, lstart := 12, lend := e, lreload := 5 }
  { core0 with base := { core0.base with pc := 24 }, loops := Vector.ofFn fun _ => l, lstack := ls,
               lc := Vector.ofFn fun i => if i = 0 then n0 else n1 }
theorem wit_SequenceAndLoopEnds :
    ((core0.frag .sole).retry = none ∧ core0.lstack = []) ∧
    ((loopCore 2 0 [0] 36).lstack = [0] ∧ (vget (loopCore 2 0 [0] 36).loops 0).lend ≠ ((loopCore 2 0 [0] 36).frag .sole).pc) ∧
    ((vget (loopCore 2 0 [0] 24).loops 0).lend = ((loopCore 2 0 [0] 24).frag .sole).pc ∧ vget (loopCore 2 0 [0] 24).lc 0 ≠ 1) ∧
    (vget (loopCore 0 0 [0] 24).lc 0 ≠ 1) ∧
    ((vget (loopCore 1 0 [0] 24).loops 0).lend = ((loopCore 1 0 [0] 24).frag .sole).pc ∧ vget (loopCore 1 0 [0] 24).lc 0 = 1) ∧
    ((loopCore 1 2 [0, 1] 24).lstack = [0, 1] ∧ vget (loopCore 1 2 [0, 1] 24).lc 0 = 1 ∧
      (vget (loopCore 1 2 [0, 1] 24).loops 1).lend = ((loopCore 1 2 [0, 1] 24).frag .sole).pc ∧
      vget (loopCore 1 2 [0, 1] 24).lc 1 ≠ 1 ∧ ((loopCore 1 2 [0, 1] 24).frag .sole).retry = none) ∧
    (let c := loopCore 1 2 [0, 1] 24
     c.lstack = [0] ++ [1] ∧ c.lstack.Nodup ∧ (∀ u ∈ [(0 : Fin 3)], (vget c.loops u).lend = (c.frag .sole).pc ∧ vget c.lc u = 1)) ∧
    (let c := loopCore 1 1 [0, 1, 2] 24
     c.lstack = [0, 1, 2] ++ [] ∧ c.lstack.Nodup ∧
     (∀ u ∈ [(0 : Fin 3), 1, 2], (vget c.loops u).lend = (c.frag .sole).pc ∧ vget c.lc u = 1) ∧ (c.frag .sole).retry = none) := by
  decide +kernel

/-! ### Witnesses: results -/

theorem wit_IntegerResults : ∀ i ∈ intSamples, (Rule.int i).isSome = true ∧ (ready i base).isSome = true := by decide +kernel
theorem wit_PairResults : ∀ i ∈ pairSamples, (Rule.pairs i).isSome = true ∧ (ready i base).isSome = true := by decide +kernel
theorem wit_PredicateResults : ∀ i ∈ predSamples, (Rule.preds i).isSome = true ∧ (ready i base).isSome = true := by decide +kernel
theorem wit_FloatResults : ∀ i ∈ floatSamples, (Rule.float i).isSome = true ∧ (ready i base).isSome = true := by decide +kernel
theorem wit_LaneResults : (∀ i ∈ laneSamples, (Rule.lane i).isSome = true ∧ (ready i base).isSome = true) ∧
    ∀ i ∈ foldSamples, (ready i base).isSome = true := by decide +kernel
theorem wit_BlockFormed : (ready blockSample base).isSome = true := by decide +kernel

/-- ARM0 issues; the strands of ARM1 run beside it, and those of an outer arm are suspended under a deeper token. -/
def nested : State := twoArms.updWale 0 fun w => { w with core := w.core.pushToken .a0 0x60 }
theorem wit_NamedLaneReads :
    (∀ i ∈ namedSamples, ∃ x, ready i base = some x ∧ ∃ n a d, namedLane x i = some (n, a, d) ∧ laneStatus x.core x.arm n = .here) ∧
    (∃ x, ready (.bcastI (oI (.v 3) (.v 1) 0 31)) (arm .a0 nested) = some x ∧ laneStatus x.core x.arm 31 = .suspended) ∧
    (∃ x, ready (.bcastI (oI (.v 3) (.v 1) 0 31)) (arm .a0 twoArms) = some x ∧ laneStatus x.core x.arm 31 = .other ∧
      x.core.frame = none ∧ (x.core.frag x.arm.sib).st = .running) := by
  refine ⟨?_, wit _ (by decide +kernel), wit _ (by decide +kernel)⟩
  intro i hi
  have h : (ready i base).any (fun x => (namedLane x i).any fun e => decide (laneStatus x.core x.arm e.1 = .here)) = true := by
    revert i; decide +kernel
  cases hx : ready i base with
  | none => rw [hx] at h; simp at h
  | some x =>
    rw [hx] at h
    cases hn : namedLane x i with
    | none => simp [hn] at h
    | some e => obtain ⟨n, a, d⟩ := e; exact ⟨x, rfl, n, a, d, hn, by simpa [hn] using h⟩

def emsetOf (n : Fin 8) : Instr := .emset (oR .em (.p n) n_ n_ 0)
theorem wit_MaskMoves :
    (∀ i ∈ maskSamples, (ready i base).isSome = true) ∧
    (∃ x, ready (emsetOf 0) base = some x ∧ x.maskSrc (.p 0) &&& x.fr.mem ≠ 0) ∧
    (∃ x, ready (emsetOf 1) base = some x ∧ x.maskSrc (.p 1) &&& x.fr.mem = 0 ∧ x.core.stack = []) ∧
    (∃ x, ready (emsetOf 2) (arm .a0 twoArms) = some x ∧ x.maskSrc (.p 2) &&& x.fr.mem = 0 ∧ x.core.stack ≠ []) :=
  ⟨by decide +kernel, wit _ (by decide +kernel), wit _ (by decide +kernel), wit _ (by decide +kernel)⟩

theorem wit_RoundingIsNearest :
    (1 : Nat) ≠ 0 ∧ (roundFin fp32 .rne false 1 0 false).fl &&& fOF = 0 ∧ (roundFin fp16 .rne true (2 ^ 24 - 1) (-9) false).fl &&& fOF = 0
    ∧ 0 < 2 ^ fp32.width ∧ 0 / 2 ^ fp32.fb % 2 ^ fp32.eb ≠ fp32.emax := by decide +kernel
/-- Patterns of FP32 for 0, 1 and -1; the largest finite one plus itself goes beyond the range. -/
theorem wit_RoundingIsNearest_values :
    (fp32.finite 0 ∧ fp32.finite 0x3F800000 ∧ fp32.finite 0xBF800000 ∧ fp32.finite 0x7F7FFFFF) ∧
    ((unpack fp32 0).toRat = 0 ∧ (unpack fp32 0x3F800000).toRat = 1 ∧ (unpack fp32 0xBF800000).toRat < 0) ∧
    (fDiv fp32 .rne 0x3F800000 0x3F800000).fl &&& fOF = 0 ∧ (unpack fp32 0x7FC00000).isNaN = true ∧
    (let z (a : Nat) (ps : List (FV × FV)) : ℚ := (unpack fp32 a).toRat + (ps.map fun p => p.1.toRat * p.2.toRat).sum
     (z 0 [(.fin false 1 0, .fin false 1 0)] ≠ 0 ∧ |z 0 [(.fin false 1 0, .fin false 1 0)]| < 2 ^ 128 - 2 ^ 103) ∧
     2 ^ 128 - 2 ^ 103 ≤ |z 0 [(.fin false 1 100, .fin false 1 100)]|) := by
  have h0 : unpack fp32 0 = .fin false 0 (-149) := by decide +kernel
  have h1 : unpack fp32 0x3F800000 = .fin false (2 ^ 23) (-23) := by decide +kernel
  have h2 : unpack fp32 0xBF800000 = .fin true (2 ^ 23) (-23) := by decide +kernel
  refine ⟨⟨?_, ?_, ?_, ?_⟩, ?_, by decide +kernel, by decide +kernel, ?_⟩
  iterate 4 (unfold Fmt.finite; decide +kernel)
  · rw [h0, h1, h2]; norm_num [FV.toRat]
  · simp only [h0]; norm_num [FV.toRat]
/-- Lists with a NaN, with an infinity, of zeros, and of a number that is the largest, with its exponent. -/
theorem wit_BlockFormed_values :
    (∃ g, FV.nan g ∈ [FV.nan false]) ∧ (∃ s, FV.inf s ∈ [FV.inf true]) ∧ (∀ x ∈ [FV.fin false 0 0], x.toRat = 0) ∧
    (∀ y ∈ [FV.fin false 3 0], |y.toRat| ≤ |(FV.fin false 3 0).toRat|) ∧
    ((2 : ℚ) ^ (1 : Int) ≤ |(FV.fin false 3 0).toRat| ∧ |(FV.fin false 3 0).toRat| < (2 : ℚ) ^ ((1 : Int) + 1)) ∧
    (([FV.fin false 3 0] : List FV)[0]? = some (.fin false 3 0) ∧ ((formBlock [FV.fin false 3 0] 4 4).elems[0]?).isSome = true) := by
  refine ⟨⟨false, by simp⟩, ⟨true, by simp⟩, by simp [FV.toRat], by simp, ?_, by decide +kernel⟩
  norm_num [FV.toRat]

/-! ### Witnesses: control flow -/

/-- The instruction may issue in a context with the property. -/
def meets (i : Instr) (s : State) (P : Ctx → Prop) : Prop := ∃ x, ready i s = some x ∧ P x
theorem meets_of {i : Instr} {s : State} {P : Ctx → Prop} [DecidablePred P]
    (h : ((ready i s).any fun x => decide (P x)) = true) : meets i s P := wit P h
/-- The core with an s register set, and with a p register. -/
def withS (n : Fin 64) (x : Word) (c : WaleCore) : WaleCore := { c with s := vset c.s n x }
def withP (n : Fin 8) (x : Mask) (c : WaleCore) : WaleCore := { c with p := vset c.p n x }

theorem wit_Branches :
    (∀ i ∈ flowSamples, (ready i base).isSome = true) ∧
    meets (.brcNz (oB 0 (.s 4) 4)) base (fun x => x.uni (.s 4) = 0) ∧
    meets (.brcNz (oB 0 (.s 4) 4)) (onCore (withS 4 1)) (fun x => x.uni (.s 4) ≠ 0) ∧
    meets (.brcZ (oB 1 (.s 4) 4)) base (fun x => x.uni (.s 4) = 0) ∧
    meets (.brcZ (oB 1 (.s 4) 4)) (onCore (withS 4 1)) (fun x => x.uni (.s 4) ≠ 0) ∧
    meets (.call (oB 0 (.s 6) 4)) base (fun _ => True) ∧ meets (.callr (oR (.s 6) (.s 4) n_ n_ 0)) base (fun _ => True) ∧
    (slotPc 0 = true ∧ slotPc 48 = true) :=
  ⟨by decide +kernel, meets_of (by decide +kernel), meets_of (by decide +kernel), meets_of (by decide +kernel),
    meets_of (by decide +kernel), meets_of (by decide +kernel), meets_of (by decide +kernel), by decide⟩

/-- The fragment has pushed `n` tokens, one in another. -/
def tokens : Nat → WaleCore → WaleCore
  | 0, c => c
  | n + 1, c => tokens n (c.pushToken (if c.stack.isEmpty then .sole else .a0) 0x40)
def inToken (f : WaleCore → WaleCore) : State := arm .a0 (onCore fun c => f (tokens 1 c))
def aFault : FaultRec := ⟨0x0A, false, false, false, 0, 0, 1, 12, none, 0⟩
/-- An engine fault of command 5, in class 0. -/
def aEng : EngFault := ⟨{ aFault with eng := true }, some 0, 5, 0⟩
def tok1 : BOps := oB 0 n_ 4
def brk0 : BOps := oB 0 (.p 1) 0

theorem wit_TokenInstructions :
    meets (.tok tok1) (arm .a0 (onCore (tokens 64))) (fun x => 64 ≤ x.core.stack.length) ∧
    meets (.tok tok1) (arm .a0 (twoArms.updWale 0 fun w => { w with core := w.core.setPend .a1 (some aFault) }))
      (fun x => x.core.stack.length < 64 ∧ x.arm ≠ .sole ∧ (x.core.frag x.arm.sib).live = true ∧ x.core.pend x.arm.sib ≠ none) ∧
    meets (.tok tok1) base (fun x => x.core.stack.length < 64 ∧ x.arm = .sole) ∧
    meets (.brd brd1) base (fun x => x.core.stack = []) ∧
    meets (.brd brd1) (inToken id) (fun x => x.core.stack ≠ [] ∧ x.fr.em &&& x.pred (.p 1) = 0) ∧
    meets (.brd brd1) (inToken (withP 1 0xFFFFFFFF))
      (fun x => x.core.stack ≠ [] ∧ x.fr.em &&& x.pred (.p 1) ≠ 0 ∧ x.fr.em &&& ~~~(x.pred (.p 1)) = 0) ∧
    meets (.brd brd1) (inToken (withP 1 0xFFFF))
      (fun x => x.core.stack ≠ [] ∧ x.fr.em &&& x.pred (.p 1) ≠ 0 ∧ x.fr.em &&& ~~~(x.pred (.p 1)) ≠ 0) ∧
    meets (.join nil) base (fun x => x.core.stack = []) ∧ meets (.join nil) (inToken id) (fun x => x.core.stack ≠ []) ∧
    meets (.brk brk0) base (fun x => x.core.stack.length ≤ 0) ∧
    meets (.brk brk0) (inToken id) (fun x => 0 < x.core.stack.length ∧ x.fr.em &&& x.pred (.p 1) = 0) ∧
    meets (.brk brk0) (inToken (withP 1 0xFFFF)) (fun x => 0 < x.core.stack.length ∧ x.fr.em &&& x.pred (.p 1) ≠ 0) ∧
    meets (.exit nil) base (fun x => x.st.wl.engFaults = []) ∧
    meets (.exit nil) (onWale fun w => { w with engFaults := [aEng] })
      (fun x => x.st.wl.engFaults = [aEng] ∧ x.core.exited ||| x.vis = 0xFFFFFFFF) :=
  ⟨meets_of (by decide +kernel), meets_of (by decide +kernel), meets_of (by decide +kernel), meets_of (by decide +kernel),
    meets_of (by decide +kernel), meets_of (by decide +kernel), meets_of (by decide +kernel), meets_of (by decide +kernel),
    meets_of (by decide +kernel), meets_of (by decide +kernel), meets_of (by decide +kernel), meets_of (by decide +kernel),
    meets_of (by decide +kernel), meets_of (by decide +kernel)⟩

def sib (c : WaleCore) (st : ArmSt) : WaleCore := c.setFrag .a1 { c.frag .a1 with st := st }
/-- ARM1 is suspended for a trap handler. -/
def trapped (c : WaleCore) : WaleCore := c.setFrag .a1 { c.frag .a1 with st := .suspended, why := .trap }
def core2 : WaleCore := (tokens 1 core0).splitArms .a0 0xFFFF 0x30
/-- A token opened by ARM1 of another. -/
def core3 : WaleCore := (core2.setFrag .a0 Arm.none).pushToken .a1 0x60
theorem wit_TokenRules :
    (core0.stack = [] ∧ (∃ k ks, core2.stack = k :: ks)) ∧
    ((core2.frag ArmId.a0.sib).st = .running ∧ ((sib core2 .waiting).frag ArmId.a0.sib).st = .waiting ∧
      ((sib core2 .suspended).frag ArmId.a0.sib).st = .suspended ∧ ((sib core2 .suspended).frag ArmId.a0.sib).why ≠ .trap) ∧
    (((trapped core2).frag ArmId.a0.sib).heldByTrap = true ∧ (trapped core2).stack.length = 1) ∧
    (((trapped core3).frag ArmId.a0.sib).heldByTrap = true ∧ (trapped core3).stack.length = 2) ∧
    ((∃ k, (tokens 1 core0).stack = [k]) ∧ ((tokens 1 core0).frag ArmId.a0.sib).st = .free) ∧
    (∃ k k2 ks2, core3.stack = k :: k2 :: ks2 ∧ (core3.frag ArmId.a0.sib).st = .free ∧ k.mem &&& ~~~core3.exited ≠ 0 ∧
      k2.openedArm = some .a1) ∧
    (core0.base.mem &&& ~~~0xFFFFFFFF = 0) ∧ (core0.base.mem &&& ~~~0xFFFF ≠ 0 ∧ core0.base.em &&& ~~~0xFFFF ≠ 0) := by
  refine ⟨⟨rfl, _, _, rfl⟩, by decide +kernel, by decide +kernel, by decide +kernel, ⟨⟨_, rfl⟩, by decide +kernel⟩, ⟨_, _, _, rfl, ?_, ?_, ?_⟩, ?_, ?_⟩ <;> decide +kernel

theorem wit_LoopStarts :
    meets (.loop (oB 0 (.s 4) 4)) base (fun x => x.uni (.s 4) = 0) ∧
    meets (.loop (oB 2 (.s 4) 4)) (onCore (withS 4 3)) (fun x => x.uni (.s 4) ≠ 0) :=
  ⟨meets_of (by decide +kernel), meets_of (by decide +kernel)⟩

def yieldOf (n : Word) : Instr := .yield (oI n_ n_ 0 (64 + n * 2 ^ 12))
theorem wit_YieldAndHeads :
    meets (yieldOf 64) (onWale fun w => { w with vregs := 32 }) (fun x => x.st.wl.vregs < 64) ∧
    meets (yieldOf 256) (onWale fun w => { w with engFaults := [aEng] }) (fun x => 256 ≤ x.st.wl.vregs ∧ x.st.wl.engFaults = [aEng]) ∧
    meets (yieldOf 0) (onWale fun w => { w with old := some (aRegion w) })
      (fun x => 0 ≤ x.st.wl.vregs ∧ x.st.wl.engFaults = [] ∧ x.st.wl.old ≠ none) ∧
    meets (yieldOf 0) base (fun x => x.st.wl.engFaults = [] ∧ x.st.wl.old = none) ∧
    meets (.rhead nil) (onWale fun w => { w with old := some (aRegion w) }) (fun x => x.st.wl.old ≠ none) ∧
    meets (.rhead nil) base (fun x => x.st.wl.old = none) ∧ (Sparse.wf core0.v = true ∧ (4095 : Nat) < 2 ^ 12) :=
  ⟨meets_of (by decide +kernel), meets_of (by decide +kernel), meets_of (by decide +kernel), meets_of (by decide +kernel),
    meets_of (by decide +kernel), meets_of (by decide +kernel), by decide +kernel⟩

/-! ### Witnesses: accesses -/

/-- The last table of the page tables of function 0, entry `k` set. -/
def entryAt (k pte : Nat) (s : State) : State := s.physWrite 0 (0x8000 + 8 * k) (bytesLE 8 pte)
/-- Page 1 may be read and written, page 2 is not present, page 3 may only be read, page 4 is a mailbox, page 5 is not mapped,
page 6 lies on die 1. The window of the die scratchpad has 1 MiB. s4 holds the address `a`; the fragment runs strands 0 and 31. -/
def paged (a : Word) : State :=
  let s := entryAt 6 (2 ^ 37 + 0x30F) (entryAt 5 0 (entryAt 4 (0x3000_0801_0000 + 0x36F) (entryAt 3 (0xE000 + 0x307)
    (entryAt 2 0x80 (entryAt 1 (0xC000 + 0x30F) (placed wIadd))))))
  let s := s.setReg (rDscWin 0 0) (2 ^ 16 + 2 ^ 8)
  { s.updWale 0 (fun w => { w with core := withS 4 a { w.core with base := { w.core.base with em := 0x80000001 } } }) with
    cur := some sole }

/-- The instruction's access is placed, with the property. -/
def lies (i : Instr) (s : State) (P : Ctx → List SAcc → Prop) : Prop :=
  ∃ x A ps, ready i s = some x ∧ accessOf x i = some A ∧ A.placed x = .ok ps ∧ P x ps
def liesB (i : Instr) (s : State) (P : Ctx → List SAcc → Bool) : Bool :=
  (ready i s).any fun x => (accessOf x i).any fun A => match A.placed x with | .ok ps => P x ps | .err .. => false
theorem lies_of {i : Instr} {s : State} {P : Ctx → List SAcc → Prop} [∀ x ps, Decidable (P x ps)]
    (h : liesB i s (fun x ps => decide (P x ps)) = true) : lies i s P := by
  unfold liesB at h
  cases hx : ready i s with
  | none => rw [hx] at h; simp at h
  | some x =>
    cases hA : accessOf x i with
    | none => rw [hx] at h; simp [hA] at h
    | some A =>
      cases hp : A.placed x with
      | ok ps => rw [hx] at h; exact ⟨x, A, ps, hx, hA, hp, by simpa [hA, hp] using h⟩
      | err e m a parts => rw [hx] at h; simp [hA, hp] at h
/-- The instruction's access takes the error. -/
def fails (i : Instr) (s : State) (e : AErr) : Prop :=
  ∃ x A m a parts, ready i s = some x ∧ accessOf x i = some A ∧ A.placed x = .err e m a parts
def failsB (i : Instr) (s : State) (e : AErr) : Bool :=
  (ready i s).any fun x => (accessOf x i).any fun A => match A.placed x with | .ok _ => false | .err k _ _ _ => decide (k = e)
theorem fails_of {i : Instr} {s : State} {e : AErr} (h : failsB i s e = true) : fails i s e := by
  unfold failsB at h
  cases hx : ready i s with
  | none => rw [hx] at h; simp at h
  | some x =>
    cases hA : accessOf x i with
    | none => rw [hx] at h; simp [hA] at h
    | some A =>
      cases hp : A.placed x with
      | ok ps => rw [hx] at h; simp [hA, hp] at h
      | err k m a parts => rw [hx] at h; simp [hA, hp] at h; exact ⟨x, A, m, a, parts, hx, hA, h ▸ hp⟩

def ld4 : Instr := .ld (oM (.v 3) (.s 4) (.v 1) 2 0)
def st4 : Instr := .st (oM (.v 3) (.s 4) (.v 1) 2 0)
def ldsp4 : Instr := .ldsp (oM (.v 3) (.s 4) (.v 1) 2 0)
def isOk {α β : Type} : Except α β → Bool | .ok _ => true | .error _ => false

theorem wit_AddressesAndPlaces :
    (3 : Nat) < 4 ∧ ((0x2001 : Dword).toNat % 4 ≠ 0 ∧ (0x2000 : Dword).toNat % 4 = 0) ∧
    (∃ x, (paged 0).ctx? = some x ∧ isOk (x.s.translate x.func x.part 0x2000 .rw) = true ∧
      isOk (x.s.translate x.func x.part 0xA000 .r) = false ∧
      isOk (x.place .pv 31 64 16 16 .w false) = true ∧ ¬((65536 : Dword).toNat + 4 ≤ pkPv x.st.skein.pkt)) :=
  ⟨by decide, by decide, wit _ (by decide +kernel)⟩

theorem wit_AccessFaults :
    lies ld4 (paged 0x2000) (fun _ _ => True) ∧
    fails ld4 (paged 0x2001) .align ∧ fails ldsp4 (paged 0x60000) .range ∧ fails ld4 (paged 0xA000) .xlate ∧
    fails st4 (paged 0x6000) .perm ∧ fails ld4 (paged 0x4000) .demand ∧
    fails ld4 { paged 0x2000 with grants := [(6, ⟨[1], true, false⟩)] } (.away 6) ∧ fails ld4 (paged 0xC000) .wait ∧
    fails ld4 ((paged 0x2000).updDie 0 fun x => { x with l2 := [(0xC000 / 64, { part := 1, way := 0 })] }) (.part 0) :=
  ⟨lies_of (by decide +kernel), fails_of (by decide +kernel), fails_of (by decide +kernel), fails_of (by decide +kernel),
    fails_of (by decide +kernel), fails_of (by decide +kernel), fails_of (by decide +kernel), fails_of (by decide +kernel),
    fails_of (by decide +kernel)⟩

/-- A TLB holds the entry of page 1, which the tables no longer map. -/
def inTlb : State :=
  (entryAt 1 0 (paged 0x2000)).updDie 0 fun x => { x with tlb := [{ core := some 0, func := 0, page := 1, size := 13, pte := 0xC30F }] }
theorem wit_TranslatedPages :
    isOk ((paged 0).xlat 0 (some 0) 0 0 0x2000 .rw) = true ∧
    (∃ e, inTlb.cached 0 (some 0) 0 0x2000 .rw = some e ∧ isOk e = true) ∧
    ∃ t, (paged 0).translate 0 0 0x2000 .rw = .ok t ∧ ∀ a ∈ t.ptes, a % 8 = 0 :=
  ⟨by decide +kernel, wit (fun e => isOk e = true) (by decide +kernel), witOk (fun t : Xl => ∀ a ∈ t.ptes, a % 8 = 0) (by decide +kernel)⟩
theorem wit_WalkerMarks : ∀ a ∈ [0x8008, 0x6000], a % 8 = 0 := by decide

/-- A die in warm reset past its home-off point. -/
def away (s : State) : State := { s with warm := some ⟨1, 2, []⟩ }
def busyWale (s : State) : State := s.updWale 0 fun w => { w with core := { w.core with icount := 1 } }
/-- The wale holds a byte of its scratchpad. -/
def heldByte (s : State) : State :=
  s.updWale 0 fun w => { w with cur := { w.cur with held := [.store [{ loc := .sp 0 0x2000, bytes := [1] }] { at_ := 1, back := 0 }] } }
/-- Slot 3 of die 0 holds a message. -/
def withMail : State := State.reset.updDie 0 fun x => { x with mbox := [(3, { msgs := [7], ovf := true })] }
def mailAt (s : State) (n : Nat) : Mbox := Sparse.getD (s.die 0).mbox { msgs := [], ovf := false } n
def ioPlace (pa n : Nat) : Place := ⟨[(.glob pa 0 0 0 0 3, n)], true, none⟩
theorem wit_Loads_mail :
    (mailAt State.reset 255).msgs = [] ∧ (∃ m ms, (mailAt withMail 3).msgs = m :: ms) ∧ (mailAt withMail 3).msgs.length ≤ 16 ∧
    Sparse.wf (withMail.die 0).mbox = true ∧ (255 : Nat) < 256 ∧ ¬((255 : Nat) = 16 ∧ (16 : Nat) = 16) ∧ (8191 : Nat) < 2 ^ 13 ∧
    isMailbox (ioPlace 0x300008010310 16) = true ∧ isMailbox (ioPlace 0x300008010320 4) = false ∧ isIo 0x300008010310 = true ∧
    ([(0, 0, [])] : List (Fin 32 × Dword × List Byte)).find? (fun q => q.2.1 == 0) = some (0, 0, []) :=
  ⟨by decide +kernel, ⟨_, _, rfl⟩, by decide +kernel, by decide +kernel, by decide, by decide, by decide, by decide +kernel,
    by decide +kernel, by decide +kernel, by decide +kernel⟩
theorem wit_Loads :
    lies ldsp4 (heldByte (paged 0x2000)) (fun x ps => (∀ e ∈ ps, e.p.io = false) ∧ (x.notePlaces ps false).underOwn ps = true) ∧
    lies ld4 (away { paged 0xC000 with wales := (onCore fun c =>
        { (withS 4 0xC000 c) with base := { c.base with em := 1 }, hoff := some ⟨0, 0, 1, .sole, 0, false, false⟩ }).wales })
      (fun x ps => (x.notePlaces ps false).homeOffStrands ps ≠ [] ∧ x.core.hoff ≠ none ∧
        (x.notePlaces ps false).underOwn ps = false) ∧
    (∀ i ∈ loadSamples, loadOf i ≠ none ∧
      liesB i (paged 0x2000) (fun x ps => decide ((∀ e ∈ ps, e.p.io = false) ∧ (x.notePlaces ps false).underOwn ps = false ∧
        (x.notePlaces ps false).homeOffStrands ps = [])) = true) ∧
    lies ld4 (paged 0x8000) (fun x ps => (∃ e ∈ ps, e.p.io = true) ∧ x.st.wl.drained = true ∧ (x.notePlaces ps false).underOwn ps = false ∧
      (x.notePlaces ps false).homeOffStrands ps = []) ∧
    lies ld4 (busyWale (paged 0x8000)) (fun x ps => (∃ e ∈ ps, e.p.io = true) ∧ x.st.wl.drained = false) ∧
    lies ld4 (away (paged 0xC000)) (fun x ps => (∀ e ∈ ps, e.p.io = false) ∧ (x.notePlaces ps false).homeOffStrands ps ≠ [] ∧
      x.core.hoff = none) ∧
    lies (.ld (oM (.s 6) (.s 4) n_ 2 0)) (away (paged 0xC000)) (fun x ps => (x.notePlaces ps false).homeOffStrands ps ≠ []) ∧
    (0 < dataRegs 4 ∧ ∃ x, base.ctx? = some x ∧ x.vis.getLsbD 31 = true) ∧ (0x80 : Nat) < 2 ^ 8 ∧ (0x8000 : Nat) < 2 ^ 16 :=
  ⟨lies_of (by decide +kernel), lies_of (by decide +kernel), by decide +kernel, lies_of (by decide +kernel),
    lies_of (by decide +kernel), lies_of (by decide +kernel), lies_of (by decide +kernel), ⟨by decide, wit _ (by decide +kernel)⟩, by decide, by decide⟩

/-- The wale's hold buffer is full. -/
def fullBuffer (s : State) : State :=
  s.updWale 0 fun w => { w with cur := { w.cur with held := List.replicate 1024 .seal } }
def roomFor (b : Bool) (x : Ctx) (ps : List SAcc) (i : Instr) : Bool :=
  let y := x.notePlaces ps true
  (heldOf y ps i).any fun h => y.room h == b
theorem wit_StoresAreHeld :
    (∀ i ∈ storeSamples, liesB i (paged 0x2000) (fun x ps => roomFor true x ps i) = true) ∧
    lies st4 (fullBuffer (paged 0x2000)) (fun x ps => roomFor false x ps st4 = true) :=
  ⟨by decide +kernel, lies_of (by decide +kernel)⟩

theorem wit_PerformedStores :
    (isIo 0x10FF_FFFF_0008 = false ∧ isDoorbell 0x10FF_FFFF_0008 = true) ∧
    State.reset.poisoned.contains (0xC03C / 8192) = false ∧ ({ State.reset with poisoned := [6] } : State).poisoned.contains (0xC03C / 8192) = true ∧
    (State.reset.poisoned.contains (0x30003801FF00 / 8192) = false ∧ (bytesLE 16 7).length = 16 ∧ Sparse.wf (withMail.die 0).mbox = true) ∧
    (isIo 0x300008010010 = true ∧ ¬(0x08010000 ≤ 0x300008010010 % 2 ^ 28 ∧ 0x300008010010 % 2 ^ 28 < 0x08020000 ∧
      0x300008010010 % 256 = 0 ∧ (bytesLE 16 7).length = 16)) ∧
    (isIo 0xC03C = false ∧ (isDoorbell 0xC03C && (0 : Nat) == 3) = false ∧ bytesLE 4 7 ≠ [] ∧ 0xC03C % 64 + (bytesLE 4 7).length ≤ 64) ∧
    (Sparse.wf State.reset.spad = true ∧ 0 + (bytesLE 4 7).length ≤ 2 ^ 19) ∧ Sparse.wf (State.reset.die 3).dsc = true ∧
    0 + (bytesLE 4 7).length ≤ 2 ^ 21 := by decide +kernel

def withResult : List Instr :=
  [.atom (oA (.v 3) (.s 4) (.v 1) 2 0 (.v 2) n_ 0), .atomsp (oA (.v 3) (.s 4) (.v 1) 2 7 (.v 2) (.v 5) 0)]
def atomAway : Instr := .atom (oA (.v 3) (.s 4) (.v 1) 2 0 (.v 2) n_ 0)
/-- An earlier access awaits its reply of a die in warm reset. -/
def replyDue : State :=
  { paged 0xC000 with wales := (onCore fun c =>
      { (withS 4 0xC000 c) with base := { c.base with em := 1 }, hoff := some ⟨0, 0, 1, .sole, 0, false, false⟩ }).wales }
theorem wit_AtomicResults :
    (∀ i ∈ withResult, atomOf i ≠ none ∧ liesB i (paged 0x2000) (fun x ps =>
      decide ((x.notePlaces ps true).homeOffStrands ps = [])) = true) ∧
    lies atomAway (away (paged 0xC000)) (fun x ps => (x.notePlaces ps true).homeOffStrands ps ≠ [] ∧ x.core.hoff = none) ∧
    lies atomAway (away replyDue) (fun x ps => (x.notePlaces ps true).homeOffStrands ps ≠ [] ∧ x.core.hoff ≠ none) ∧
    (Sparse.wf State.reset.spad = true ∧ (2 ^ 19 - 8 + 8 : Nat) ≤ 2 ^ 19 ∧ (0 : Nat) < 8) :=
  ⟨by decide +kernel, lies_of (by decide +kernel), lies_of (by decide +kernel), by decide +kernel⟩

/-- The wale holds an addition to the cell at the start of page 1. -/
def heldCell (s : State) : State :=
  s.updWale 0 fun w => { w with cur := { w.cur with held := [.xadd false [(.glob 0xC000 0x2000 0 0 0 0, 5)] { at_ := 1, back := 0 }] } }
theorem wit_ExactCells :
    lies (.xrd (oM (.v 3) (.s 4) (.v 1) 2 0)) (paged 0x2000) (fun x ps => (x.notePlaces ps false).underOwn ps = false ∧
      (x.notePlaces ps false).homeOffStrands ps = []) ∧
    lies (.xrd (oM (.v 3) (.s 4) (.v 1) 2 0)) (heldCell (paged 0x2000)) (fun x ps => (x.notePlaces ps false).underOwn ps = true) ∧
    lies (.xrd (oM (.v 3) (.s 4) (.v 1) 2 0)) (away (paged 0xC000)) (fun x ps => (x.notePlaces ps false).underOwn ps = false ∧
      (x.notePlaces ps false).homeOffStrands ps ≠ [] ∧ x.core.hoff = none) ∧
    lies (.xrd (oM (.v 3) (.s 4) (.v 1) 2 0)) (away replyDue) (fun x ps => (x.notePlaces ps false).underOwn ps = false ∧
      (x.notePlaces ps false).homeOffStrands ps ≠ [] ∧ x.core.hoff ≠ none) ∧
    (∃ m e, unpack fp32 0x3F800000 = .fin false m e ∧ (unpack fp32 0x3F800000).toRat = 1) ∧
    (let z (c : BitVec 512) : ℚ := ((c.extractLsb' 0 504).toInt : ℚ) + 1 * 2 ^ 160
     (-2 ^ 503 ≤ z 0 ∧ z 0 < 2 ^ 503) ∧ 2 ^ 503 ≤ z (BitVec.ofNat 512 (2 ^ 503 - 1))) ∧
    unpack fp32 0x7F800000 = .inf false ∧ unpack fp32 0xFF800000 = .inf true ∧ ∃ b, unpack fp32 0x7FC00000 = .nan b := by
  refine ⟨lies_of (by decide +kernel), lies_of (by decide +kernel), lies_of (by decide +kernel), lies_of (by decide +kernel), ⟨2 ^ 23, -23, by decide +kernel, ?_⟩, ?_, by decide +kernel, by decide +kernel, false, by decide +kernel⟩
  · have h : unpack fp32 0x3F800000 = .fin false (2 ^ 23) (-23) := by decide +kernel
    rw [h]; norm_num [FV.toRat]
  · have h0 : ((0 : BitVec 512).extractLsb' 0 504).toInt = 0 := by decide +kernel
    have h1 : ((BitVec.ofNat 512 (2 ^ 503 - 1)).extractLsb' 0 504).toInt = 2 ^ 503 - 1 := by decide +kernel
    have h : (2 : ℚ) ^ 160 < 2 ^ 503 := pow_lt_pow_right₀ (by norm_num) (by norm_num)
    have h' : (1 : ℚ) ≤ 2 ^ 160 := one_le_pow₀ (by norm_num)
    simp only [h0, h1, Int.cast_zero, Int.cast_sub, Int.cast_pow, Int.cast_ofNat, Int.cast_one]
    generalize (2 : ℚ) ^ 160 = a at *
    generalize (2 : ℚ) ^ 503 = b at *
    exact ⟨⟨by linarith, by linarith⟩, by linarith⟩

/-- The bits of a cell that make it a NaN, an infinity of each sign; a count that rounds, and one beyond the largest number. -/
theorem wit_ExactCells_reads :
    (BitVec.twoPow 512 507).getLsbD 507 = true ∧ (BitVec.twoPow 512 505).getLsbD 505 = true ∧ (BitVec.twoPow 512 505).getLsbD 504 = false ∧
    (BitVec.twoPow 512 506).getLsbD 506 = true ∧ (BitVec.twoPow 512 506).getLsbD 505 = false ∧
    (let z (c : BitVec 512) : ℚ := ((c.extractLsb' 0 504).toInt : ℚ) / 2 ^ 160
     z 0 = 0 ∧ z 1 ≠ 0 ∧ |z 1| < 2 ^ 128 - 2 ^ 103 ∧ 2 ^ 128 - 2 ^ 103 ≤ |z (BitVec.twoPow 512 289)|) := by
  refine ⟨by decide +kernel, by decide +kernel, by decide +kernel, by decide +kernel, by decide +kernel, ?_⟩
  have h0 : ((0 : BitVec 512).extractLsb' 0 504).toInt = 0 := by decide +kernel
  have h1 : ((1 : BitVec 512).extractLsb' 0 504).toInt = 1 := by decide +kernel
  have h2 : ((BitVec.twoPow 512 289).extractLsb' 0 504).toInt = 2 ^ 289 := by decide +kernel
  have h3 : ((2 ^ 289 : Int) : ℚ) / 2 ^ 160 = 2 ^ 129 := by
    rw [Int.cast_pow, show 289 = 129 + 160 from rfl, pow_add, Int.cast_ofNat, mul_div_cancel_right₀ _ (by positivity)]
  simp only [h0, h1, h2, h3]
  norm_num

def wtg4 : Instr := .wtg (oA (.s 6) (.s 4) n_ 0 0 (.s 2) n_ 0)
def atGen (g : Word) : State :=
  (paged 0x2000).updWale 0 fun w => { w with core := withS 2 g w.core }
def wordHere (ps : List SAcc) : Bool := decide (∃ p, (ps.flatMap fun e => e.p.pcs).head? = some p ∧ p = (.sp 0 0x2000, 16))
theorem wit_SyncWords :
    lies wtg4 (atGen 0) (fun x ps => (ps.flatMap fun e => e.p.pcs).head? = some (.sp 0 0x2000, 16) ∧
      natLE (x.s.locRead (.sp 0 0x2000) 16) / 2 ^ 32 % 2 ^ 32 = (x.uni (.s 2)).toNat) ∧
    lies wtg4 (atGen 1) (fun x ps => (ps.flatMap fun e => e.p.pcs).head? = some (.sp 0 0x2000, 16) ∧
      natLE (x.s.locRead (.sp 0 0x2000) 16) / 2 ^ 32 % 2 ^ 32 ≠ (x.uni (.s 2)).toNat) ∧
    (let y : SyncW := ⟨2, 2, 2 ^ 32 - 1, 5, 5⟩
     y.exp < 2 ^ 16 ∧ y.arr < 2 ^ 16 ∧ y.gen < 2 ^ 32 ∧ y.tgt < 2 ^ 32 ∧ y.cnt < 2 ^ 32 ∧ y.exp ≤ y.arr ∧ y.tgt ≤ y.cnt) ∧
    (let y : SyncW := ⟨2, 1, 0, 0, 0⟩; y.arr < y.exp) :=
  ⟨lies_of (by decide +kernel), lies_of (by decide +kernel), by decide, by decide⟩

/-- The skein is held (01 R12). -/
def heldSkein : State := base.updSkein 0 fun k => { k with pkt := k.pkt ||| BitVec.ofNat 512 (2 ^ 8) }
theorem wit_Barriers :
    meets (.bar nil) base (fun _ => True) ∧ meets (.rbar nil) base (fun _ => True) ∧
    meets (.sbar nil) base (fun x => pkHeld x.st.skein.pkt = false) ∧ meets (.sbar nil) heldSkein (fun x => pkHeld x.st.skein.pkt = true) :=
  ⟨meets_of (by decide +kernel), meets_of (by decide +kernel), meets_of (by decide +kernel), meets_of (by decide +kernel)⟩

def fenceOf (sc : BitVec 3) : MOps := { oM n_ n_ n_ 0 0 with scope := sc }
/-- Line 768 was written by wale 0, and by its command of class 1 as well. -/
def written (cmd : Bool) : State :=
  let s := State.reset.locWrite (.wale 0) 0 { loc := .glob 0xC000 0 0 0 0 0, bytes := bytesLE 4 7 }
  if cmd then s.locWrite (.cmd 0 1 3 none) 0 { loc := .glob 0xC000 0 0 0 0 0, bytes := bytesLE 4 7 } else s
theorem wit_Fences :
    meets (.pref (oM n_ (.s 4) (.v 1) 2 0)) base (fun _ => True) ∧ meets (.fence (fenceOf 0)) base (fun _ => True) ∧
    meets (.fence (fenceOf 4)) (onWale fun w => { w with engFaults := [aEng] }) (fun x => x.st.wl.engFaults = [aEng]) ∧
    meets (.fence (fenceOf 4)) base (fun x => x.st.wl.engFaults = [] ∧ x.st.wl.drained = true) ∧
    meets (.fence (fenceOf 4)) (busyWale base) (fun x => x.st.wl.engFaults = [] ∧ x.st.wl.drained = false) ∧
    meets (.cpub (fenceOf 4)) base (fun x => x.st.wl.drained = true) ∧
    meets (.cpub (fenceOf 4)) (busyWale base) (fun x => x.st.wl.drained = false) ∧
    (∃ x, (paged 0).ctx? = some x ∧ isOk (x.xlat 0xA000 .r) = false ∧ isOk (x.xlat 0x2000 .r) = true ∧
      (match x.xlat 0x8000 .r with | .ok t => decide (t.mt ≠ 0) | .error _ => false) = true) ∧
    (Sparse.wf (written false).unpub = true ∧
      (∀ e ∈ Sparse.getD (written false).unpub [] (0xC000 / 64), e.2.getLsbD 0 = true → e.1 = .wale 0) ∧
      (written false).unpublished 0 0xC000 = true) ∧
    (Sparse.wf (written true).unpub = true ∧
      (∃ e ∈ Sparse.getD (written true).unpub [] (0xC000 / 64), e.1 = .cmd 0 1 3 none ∧ e.2.getLsbD 0 = true)) ∧
    ((BitVec.ofNat 384 1).getLsbD 0 = true ∧ (BitVec.ofNat 384 1).getLsbD 5 = false) :=
  ⟨meets_of (by decide +kernel), meets_of (by decide +kernel), meets_of (by decide +kernel), meets_of (by decide +kernel),
    meets_of (by decide +kernel), meets_of (by decide +kernel), meets_of (by decide +kernel), wit _ (by decide +kernel),
    by decide +kernel, by decide +kernel, by decide +kernel⟩

/-! ### Witnesses: engines, batches, slots -/

/-- The command passes its checks or not, is held up or not, and finds room or not. -/
def commands (x : Ctx) (i : Instr) (ok full room : Bool) : Bool :=
  (Rule.command x i).any fun r => r.1 == ok && room == x.room (.cmd r.2)
    && full == ((Rule.isMatrix i && decide (16 ≤ x.s.queuedMatrix x.st.hoop.core)) || x.counterFull r.2.classes)
def operands (c : WaleCore) (s5 s6 s8 : Word) : WaleCore := withS 5 s5 (withS 6 s6 (withS 8 s8 c))
def aCmd : Cmd :=
  { ops := ⟨.mfence nil, 0, 0, 0, 0, 0, [], 0, false, false⟩, wale := 0, hoop := 0, basket := 0, func := 0, part := 0, die := 0,
    cluster := 0, cls := 2, slots := [], stage := .queued, staged := ⟨[], [], none, []⟩, deps := [], followOn := false,
    burst := false, inBatch := true, seq := 0, inst := 0, refused := none, rgns := [] }
def mma4 : Instr := .mma (oX 2 (.s 4) (.s 5) (.s 6) (.s 7) 0 1 0 0)
def cpy4 : Instr := .cpy (oR (.s 4) (.s 6) (.s 8) n_ 5)
def spawn4 : Instr := .spawn (oR n_ (.s 4) n_ n_ 0)
def basketCtr (n : Nat) : State := base.updBasket 0 fun b => { b with ctr := n }
def mayIssue (s : State) (P : Ctx → Instr → Bool) (i : Instr) : Bool := (ready i s).any fun x => P x i
def mconv4 : Instr := .mconv (oX 2 (.s 4) (.s 5) (.s 6) (.s 7) 0 1 0 0)
/-- Copies with 16 bytes; matrix commands with K 32; a convolution with one channel. -/
theorem wit_EngineCommandsHeld :
    (∀ i ∈ engineSamples.take 8, mayIssue (onCore fun c => operands c 0 0 16) (fun x i => commands x i true false true) i = true) ∧
    (∀ i ∈ (engineSamples.drop 8).eraseIdx 2,
      mayIssue (onCore fun c => operands c 0x200000 32 0) (fun x i => commands x i true false true) i = true) ∧
    mayIssue (onCore fun c => operands c 0 0x10000 0) (fun x i => commands x i true false true) mconv4 = true ∧
    mayIssue { onCore (fun c => operands c 0 32 0) with cmds := (List.range 16).map fun k => (k, aCmd) }
      (fun x i => commands x i true true true) mma4 = true ∧
    mayIssue (onWale fun w => { w with cnt := Vector.ofFn fun _ => 255 }) (fun x i => commands x i true true true) cpy4 = true ∧
    mayIssue (fullBuffer base) (fun x i => commands x i true false false) cpy4 = true ∧
    mayIssue (onCore (withS 4 1)) (fun x i => commands x i false false true) cpy4 = true ∧
    meets spawn4 (onCore (withS 4 1)) (fun x => (x.uni64 (.s 4)).toNat % 64 ≠ 0) ∧
    meets spawn4 (onCore (withS 5 0x200000)) (fun x => (x.uni64 (.s 4)).toNat % 64 = 0 ∧ 2 ^ 53 ≤ (x.uni64 (.s 4)).toNat) ∧
    meets spawn4 (basketCtr 0xFFFFF) (fun x => x.spawnFull = true) ∧ meets spawn4 (basketCtr 0xFFFFE) (fun x => x.spawnFull = false) ∧
    meets spawn4 (fullBuffer base) (fun x => x.spawnFull = false ∧ x.st.wl.heldUse = 1024) := by
  refine ⟨?_, ?_, ?_, ?_, ?_, ?_, ?_, meets_of ?_, meets_of ?_, meets_of ?_, meets_of ?_, meets_of ?_⟩ <;> decide +kernel

def wtbOf (n : Word) : IOps := oI n_ n_ 0 n
def aBatch (f : Bool) (cmds : List Nat) : Batch := ⟨0, cmds, f⟩
/-- Batch 0 is sealed with command 5, whose stage is given. -/
def sealed (st : CStage) (fs : List EngFault) : State :=
  { onWale fun w => { w with sealed := [aBatch false [5]], engFaults := fs, core := { w.core with batch := 1 },
                             relSeq := Vector.ofFn fun _ => 1, cnt := Vector.ofFn fun _ => 1 } with
    cmds := [(5, { aCmd with stage := st })] }
def hwaitd4 : Instr := .hwaitd (oR (.s 4) (.s 5) (.s 6) n_ 0)
theorem wit_SealAndWaits :
    meets (.seal nil) { onWale (fun w => { w with sealed := List.replicate 64 (aBatch false [5]) }) with cmds := [(5, aCmd)] }
      (fun x => 64 ≤ x.sealCount ∧ Held.seal ∉ x.st.wl.heldAll) ∧
    meets (.seal nil) (fullBuffer base) (fun x => 64 ≤ x.sealCount ∧ Held.seal ∈ x.st.wl.heldAll) ∧
    meets (.seal nil) (onWale fun w => { w with due := List.replicate 1024 (.slot 0 .inv) })
      (fun x => x.sealCount < 64 ∧ x.room .seal = false) ∧
    meets (.seal nil) base (fun x => x.sealCount < 64 ∧ x.room .seal = true) ∧
    meets (.wtbVis (wtbOf 0)) (sealed .queued [aEng]) (fun x => x.batchFault 0 = some aEng ∧ 0 < (x.core.batch - (aBatch false [5]).num).toNat ∧ aEng.cmd ∈ (aBatch false [5]).cmds) ∧
    (∀ i ∈ [Instr.wtbSrc (wtbOf 0), .wtbVis (wtbOf 0)],
      mayIssue (sealed .done []) (fun x _ => x.batchFault 0 == none && x.st.wl.sealed == [aBatch false [5]]) i = true ∧
      mayIssue (sealed .queued []) (fun x _ => x.batchFault 0 == none && decide (0 < (x.core.batch - 0).toNat)) i = true) ∧
    meets (.wtc (wtbOf 0)) (sealed .queued [aEng]) (fun x => aEng ∈ x.st.wl.engFaults ∧ aEng.cls = some 0 ∧ 0 < vget x.st.wl.relSeq 0) ∧
    meets (.wtc (wtbOf 4)) (sealed .queued []) (fun x => x.st.wl.engFaults = [] ∧ vget x.st.wl.cnt 0 ≤ 1) ∧
    meets (.wtc (wtbOf 0)) (sealed .queued []) (fun x => x.st.wl.engFaults = [] ∧ 0 < vget x.st.wl.cnt 0) ∧
    meets hwaitd4 (onCore (withS 5 0x4000)) (fun x => 2 ^ 14 ≤ (x.uni (.s 5)).toNat) ∧
    meets hwaitd4 (onCore (withS 5 0x3FFF)) (fun x => (x.uni (.s 5)).toNat < 2 ^ 14) := by
  refine ⟨meets_of ?_, meets_of ?_, meets_of ?_, meets_of ?_, meets_of ?_, ?_, meets_of ?_, meets_of ?_, meets_of ?_, meets_of ?_,
    meets_of ?_⟩
    <;> decide +kernel

def tsdef4 : Instr := .tsdef (oX 0 n_ (.s 4) n_ n_ 0 0 0 0)
def tsset4 : Instr := .tsset (oX 0 n_ (.s 4) (.s 5) n_ 0 0 0 0)
def tsinv4 : Instr := .tsinv (oX 0 n_ n_ n_ n_ 0 0 0 0)
/-- A descriptor of FP32, rank 1, one element, at address 0 (10 R231). -/
def aDesc : BitVec 512 := BitVec.ofNat 512 (2 ^ 128 + 2 ^ 160 + 2 ^ 192 + 2 ^ 224 + 2 ^ 256 + 2 ^ 420)
def descRead (x : Ctx) (a : Nat) : BitVec 512 :=
  BitVec.ofNat 512 (natLE ((x.s.ownView x.st.w x.st.wl x.die).locRead (.sp x.st.wl.hoop a) 64))
def described (s : State) : State := s.locWrite .other 0 { loc := .sp 0 0, bytes := bytesLE 64 aDesc.toNat }
def aSlot (s : State) : State := s.updHoop 0 fun h => { h with slots := Sparse.put h.slots 0 ⟨true, aDesc⟩ }
theorem wit_TensorSlots :
    meets tsdef4 (onCore (withS 4 32)) (fun x => (x.uni (.s 4)).toNat % 64 ≠ 0) ∧
    meets tsdef4 (onCore (withS 4 0x60000)) (fun x => (x.uni (.s 4)).toNat % 64 = 0 ∧
      pkSp x.st.skein.pkt < (x.uni (.s 4)).toNat + 64) ∧
    meets tsdef4 base (fun x => x.st.wl.unsettled (.sp x.st.wl.hoop 0) 64 = false ∧ (x.uni (.s 4)).toNat + 64 ≤ pkSp x.st.skein.pkt ∧ (Desc.of (descRead x 0)).ok = false) ∧
    meets tsdef4 (described base) (fun x => (Desc.of (descRead x 0)).ok = true ∧ x.room (.slot 0 (.def (descRead x 0))) = true) ∧
    meets tsdef4 (fullBuffer (described base)) (fun x => (Desc.of (descRead x 0)).ok = true ∧ x.room (.slot 0 (.def (descRead x 0))) = false) ∧
    meets tsdef4 (onWale fun w => { w with cur := { w.cur with held := [.rmw 0 true 4 [(.sp 0 0, 1, 0)] { at_ := 1, back := 0 }] } })
      (fun x => (x.uni (.s 4)).toNat % 64 = 0 ∧ x.st.wl.unsettled (.sp x.st.wl.hoop 0) 64 = true) ∧
    meets tsset4 (onCore (withS 4 16)) (fun x => 15 < (x.uni (.s 4)).toNat) ∧
    meets tsset4 base (fun x => (x.uni (.s 4)).toNat ≤ 15 ∧ (x.st.wl.slotView x.st.hoop 0).valid = false) ∧
    meets tsset4 (aSlot base) (fun x => (x.st.wl.slotView x.st.hoop 0).valid = true ∧ wordOk 0 0 = true ∧ x.room (.slot 0 (.set 0 0)) = true) ∧
    meets tsset4 (fullBuffer (aSlot base)) (fun x => (x.st.wl.slotView x.st.hoop 0).valid = true ∧ wordOk 0 0 = true ∧
      x.room (.slot 0 (.set 0 0)) = false) ∧
    meets tsinv4 base (fun x => x.room (.slot 0 .inv) = true) ∧ meets tsinv4 (fullBuffer base) (fun x => x.room (.slot 0 .inv) = false) := by
  refine ⟨meets_of ?_, meets_of ?_, meets_of ?_, meets_of ?_, meets_of ?_, meets_of ?_, meets_of ?_, meets_of ?_, meets_of ?_,
    meets_of ?_, meets_of ?_, meets_of ?_⟩ <;> decide +kernel

def rsstatOf (n : BitVec 8) : Instr := .rsstat (oX 0 (.s 4) n_ n_ n_ 0 0 n 3)
/-- The basket is granted no reuse entry. -/
def noEntries : State := base.updBasket 0 fun b => { b with pkt := 0 }
theorem wit_ReuseStatus :
    meets (rsstatOf 255) base (fun x => 255 < pkRsCount x.st.basket.pkt) ∧ meets (rsstatOf 0) noEntries (fun x => pkRsCount x.st.basket.pkt ≤ 0) ∧
    meets (.mfence nil) base (fun _ => True) :=
  ⟨meets_of (by decide +kernel), meets_of (by decide +kernel), meets_of (by decide +kernel)⟩

/-! ### Witnesses: system instructions and exceptions -/

/-- The basket has a handler at line 1 of its code. -/
def handled (s : State) : State := s.updBasket 0 fun b => { b with pkt := b.pkt ||| BitVec.ofNat 512 (64 * 2 ^ 224) }
theorem wit_TrapsAndCalls :
    meets (.trap (oI n_ n_ 0 5)) base (fun _ => True) ∧ meets (.brkpt (oI n_ n_ 0 5)) (handled base) (fun x => pkHandler x.st.basket.pkt ≠ 0) ∧
    meets (.brkpt (oI n_ n_ 0 5)) base (fun x => pkHandler x.st.basket.pkt = 0) ∧ meets (.fwcall (oI (.s 4) (.s 5) 0 1)) base (fun _ => True) :=
  ⟨meets_of (by decide +kernel), meets_of (by decide +kernel), meets_of (by decide +kernel), meets_of (by decide +kernel)⟩
theorem wit_SpecialRegisters :
    (∀ i ∈ systemSamples, (ready i base).isSome = true) ∧ ((0x48 : Nat) % 64 ≠ 0 ∧ (0x48#32).getLsbD 6 = true ∧ (1#32).getLsbD 6 = false) ∧
    ((7 : Word) ≠ 0) := ⟨by decide +kernel, by decide, by decide⟩
/-- ARM1 has a fault pending. -/
def sibFault (f : FaultRec) (s : State) : State := s.updWale 0 fun w => { w with core := w.core.setPend .a1 (some f) }
def aHomeOff : FaultRec := { aFault with code := cHOMEOFF }
def inFrame (s : State) : State :=
  s.updWale 0 fun w => { w with core := { w.core with frame := some ⟨.sole, 0xFFFFFFFF, 12, 24, 0, false, none, false⟩ } }
theorem wit_FaultsAreTaken :
    (∃ st, (handled base).site? 0 = some st ∧ st.w = 0 ∧ st.wl.core.frame = none ∧ pkHandler st.basket.pkt ≠ 0) ∧
    (∀ f ∈ [aFault, aHomeOff], ∃ st, (sibFault f (handled twoArms)).site? 0 = some st ∧ st.w = 0 ∧ st.wl.core.frame = none ∧
      pkHandler st.basket.pkt ≠ 0 ∧ st.wl.core.stack ≠ [] ∧ (st.wl.core.frag .a1).live = true ∧ st.wl.core.pend .a1 = some f) ∧
    (aHomeOff.code = cHOMEOFF ∧ aHomeOff.eng = false ∧ aFault.code ≠ cHOMEOFF) ∧
    (∃ st, (handled (inFrame base)).site? 0 = some st ∧ st.wl.core.frame ≠ none ∧ Sparse.wf (handled (inFrame base)).baskets = true) ∧
    ∃ st, base.site? 0 = some st ∧ pkHandler st.basket.pkt = 0 ∧ Sparse.wf base.baskets = true := by
  refine ⟨wit _ ?_, ?_, ?_, wit _ ?_, wit _ ?_⟩
  · decide +kernel
  · intro f hf
    simp only [List.mem_cons, List.not_mem_nil, or_false] at hf
    rcases hf with rfl | rfl <;> exact wit _ (by decide +kernel)
  all_goals decide +kernel

def aFrame (fetch : Bool) (cmd : Option CmdOps) : TrapFrame := ⟨.sole, 0xFFFFFFFF, 12, 24, 0, fetch, cmd, false⟩
def inHandler (fetch : Bool) (cmd : Option CmdOps) : State := onCore fun c => { c with frame := some (aFrame fetch cmd) }
def blocked (s : State) : State := s.updWale 0 fun w => { w with old := some (aRegion w) }
def tretOps (m : BitVec 16) : ROps := oR n_ n_ n_ n_ m
def tretTo4 : Instr := .tretTo (oR n_ (.s 4) n_ n_ 0)
def codeTarget (f : WaleCore → WaleCore) : State :=
  { (placed wIadd).updWale 0 (fun w => { w with core := f { w.core with frame := some (aFrame false none) } }) with cur := some sole }
def aCopy : CmdOps := { aCmd.ops with ins := cpy4 }
theorem wit_ReturnsFromTraps :
    (∀ i ∈ [tretTo4, .tretRetry (tretOps 1), .tretSkip (tretOps 2)],
      mayIssue base (fun x _ => x.core.frame == none) i = true ∧
      mayIssue (blocked (inHandler false none)) (fun x _ => x.core.frame.isSome && x.core.stack.length == 0 && x.st.wl.old.isSome) i = true) ∧
    meets tretTo4 (codeTarget id) (fun x => x.core.frame = some (aFrame false none) ∧ x.core.stack.length = 0 ∧
      x.targetRejected (x.uni64 (.s 4)) = false ∧ x.st.wl.old = none) ∧
    meets tretTo4 (codeTarget (withS 4 7)) (fun x => x.core.frame = some (aFrame false none) ∧ x.targetRejected (x.uni64 (.s 4)) = true) ∧
    meets (.tretSkip (tretOps 2)) (inHandler true none) (fun x => x.core.frame = some (aFrame true none) ∧ x.st.wl.old = none) ∧
    meets (.tretRetry (tretOps 1)) (inHandler true none) (fun x => x.core.frame = some (aFrame true none)) ∧
    meets (.tretRetry (tretOps 1)) (inHandler false none) (fun x => x.core.frame = some (aFrame false none)) ∧
    meets (.tretRetry (tretOps 1)) (onCore fun c => { c with frame := some { aFrame false none with eng := true } })
      (fun x => x.core.frame = some { aFrame false none with eng := true } ∧ x.st.wl.old = none) ∧
    meets (.tretRetry (tretOps 1)) (inHandler false (some aCmd.ops)) (fun x => x.core.frame = some (aFrame false (some aCmd.ops)) ∧
      x.counterFull aCmd.ops.classes = false ∧ x.room (.cmd { aCmd.ops with again := true }) = true) ∧
    meets (.tretRetry (tretOps 1)) ((inHandler false (some aCopy)).updWale 0 fun w => { w with cnt := Vector.ofFn fun _ => 255 })
      (fun x => x.core.frame = some (aFrame false (some aCopy)) ∧ x.st.wl.old = none ∧ x.counterFull aCopy.classes = true) ∧
    meets (.tretRetry (tretOps 1)) (fullBuffer (inHandler false (some aCmd.ops)))
      (fun x => x.core.frame = some (aFrame false (some aCmd.ops)) ∧ x.st.wl.old = none ∧ x.counterFull aCmd.ops.classes = false ∧
        x.room (.cmd { aCmd.ops with again := true }) = false) ∧
    (core0.base.mem &&& ~~~core0.exited ≠ 0 ∧ core2.stack ≠ []) := by
  refine ⟨?_, meets_of ?_, meets_of ?_, meets_of ?_, meets_of ?_, meets_of ?_, meets_of ?_, meets_of ?_, meets_of ?_, meets_of ?_, ?_⟩ <;> decide +kernel

/-! ### Witnesses: operations of wales and engines -/

/-- The wale stands in its place, with the property. -/
def stands (s : State) (w : Nat) (P : Site → Prop) : Prop := ∃ st, s.site? w = some st ∧ P st
theorem stands_of {s : State} {w : Nat} {P : Site → Prop} [DecidablePred P]
    (h : ((s.site? w).any fun st => decide (P st)) = true) : stands s w P := wit P h
/-- The command is there, with the property. -/
def command (s : State) (c : Nat) (P : Cmd → Prop) : Prop := ∃ k, s.liveCmd c = some k ∧ P k
theorem command_of {s : State} {c : Nat} {P : Cmd → Prop} [DecidablePred P]
    (h : ((s.liveCmd c).any fun k => decide (P k)) = true) : command s c P := wit P h
def inState (w : WSt) : State := onWale fun x => { x with st := w }

def shadowOf (l : Bool) : Shadow := ⟨2, l, .sole, 0, [.s 4 7], 0, [.s 4], false, false⟩
/-- A second wale of the hoop, `x`. -/
def withWale (s : State) (x : Wale) : State := { s with wales := s.wales ++ [(1, { x with idx := 1, slot := 1 })], order := s.order ++ [1] }
def wale0 (s : State) : Wale := (s.wale? 0).getD (Wale.start placePkt 0 0 0 [] 0 0)
def left : State := inState .exited
theorem wit_WaleEvents :
    stands (onCore fun c => { c with shadows := [shadowOf true] ++ shadowOf false :: [shadowOf false] }) 0
      (fun st => st.wl.core.shadows = [shadowOf true] ++ shadowOf false :: [shadowOf false]) ∧
    (Sparse.wf base.wales = true ∧ (inState .woken).wale? 0 = some (wale0 (inState .woken)) ∧ (wale0 (inState .woken)).st = .woken ∧
      0 ∈ ((inState .woken).wakeList 0 0).take ((inState .woken).regF (rSlope 0 0) 8 0)) ∧
    (0 ∈ ((inState (.barrier .bar)).wakeList 0 0).take ((inState (.barrier .bar)).regF (rSlope 0 0) 8 0) ∧
      ((inState (.barrier .bar)).hoop? 0).isSome = true ∧ 0 ∉ ((inState (.barrier .bar)).wakeList 0 1)) ∧
    stands left 0 (fun st => st.wl.retirable = true ∧ left.ownbmWaits st = false ∧ Sparse.wf left.wales = true ∧
      Sparse.wf left.hoops = true ∧ ∀ e ∈ left.wales, e.2.hoop = st.wl.hoop → e.1 = 0) ∧
    (∃ e ∈ (withWale left (wale0 left)).wales, e.1 ≠ 0 ∧ e.2.hoop = 0) ∧
    stands (left.updSkein 0 fun k => { k with pkt := placePkt + BitVec.ofNat 512 (2 ^ 16) }) 0
      (fun st => st.basket.recov = none ∧ st.skein.doneHoops.length + 1 < pkHoops st.skein.pkt) ∧
    stands (onCore fun c => { c with yleft := 0 }) 0 (fun st => st.wl.pick (base.die st.hoop.die).cc = some .sole ∧ st.wl.core.yleft = 0) ∧
    Sparse.wf base.baskets = true ∧ stands (onCore fun c => { c with hoff := some ⟨0, 0, 1, .sole, 0, true, true⟩ }) 0 (fun st => st.wl.core.hoff ≠ none) := by
  refine ⟨stands_of ?_, ?_, ?_, stands_of ?_, ?_, stands_of ?_, stands_of ?_, ?_, stands_of ?_⟩ <;> decide +kernel

def lv1 : Level := { at_ := 1, back := 0 }
def aStore : Held := .store [{ loc := .sp 0 0, bytes := [1] }] lv1
/-- A store to a page of die 1, whose link is down. -/
def farStore : Held := .store [{ loc := .glob (2 ^ 37) 0xC000 0 0 0 0, bytes := [1] }] lv1
def drainedBy (s : State) : State := s.updWale 0 fun w => { w with cur := { w.cur with q := some 96 }, st := .drain false }
/-- A report that is applied within 24 cc. -/
theorem event_soon {s : State} {d : Fin 4} {r : CellReport} {n : Nat} (h : (s.die d).reports = [r]) (hn : r.at_ + 24 ≤ n) :
    s.eventBy d n = true := by
  have := (Config.cellDelay d r.cell).isLt
  simp [State.eventBy, h, CellReport.due]
  omega
def aReport : CellReport := { cell := 5, ty := 1, blind := false, at_ := 0 }
def reporting (s : State) : State := s.updDie 0 fun x => { x with reports := [aReport] }
def heldRegion : State := onWale fun w => { w with old := some { aRegion w with held := [aStore] } }
/-- A matrix command of the wale that has been released. -/
def oneMma : State := { base with cmds := [(5, { aCmd with ops := { aCmd.ops with ins := mma4 } })], nextId := 9 }
def heldKinds : List Held :=
  [aStore, .rmw 0 true 4 [(.sp 0 0, 1, 0)] lv1, .xadd false [(.sp 0 0, 1)] lv1, .sync .add (.sp 0 0) 1 0, .slot 0 .inv, .arrive .bar,
   .arrive .rbar, .arrive .sbar, .seal, .mfence, .cmd { aCmd.ops with ins := mma4 }]
theorem wit_RegionRelease :
    stands heldRegion 0 (fun st => st.wl.releasable = true ∧ st.wl.old ≠ none ∧ st.wl.due = [] ∧
      ∀ r, st.wl.old = some r → heldRegion.eventBy st.hoop.die (r.last + r.q.getD (heldRegion.window st.hoop.die)) = false) ∧
    (stands (reporting heldRegion) 0 (fun st => st.wl.releasable = true ∧ st.wl.due = [] ∧ st.hoop.die = 0 ∧
        ∀ r ∈ st.wl.old, r.last + r.q.getD ((reporting heldRegion).window st.hoop.die) = 96) ∧
      (reporting heldRegion).eventBy 0 96 = true) ∧
    stands (drainedBy base) 0 (fun st => st.wl.releasable = true ∧ st.wl.old = none ∧ st.wl.curClosed = true ∧
      st.wl.core.pend0 = none ∧ st.wl.core.pend1 = none ∧ st.wl.due ++ st.wl.cur.held = [] ∧
      (drainedBy base).eventBy st.hoop.die (st.wl.cur.last + st.wl.cur.q.getD ((drainedBy base).window st.hoop.die)) = false) ∧
    stands (onWale fun w => let c := { w.core with pend0 := some aFault }; { w with core := c, cur := { w.cur with ckpt := c } }) 0
      (fun st => st.wl.releasable = true ∧ st.wl.faultReady = true ∧ st.wl.dueFault = some (.sole, aFault)) ∧
    stands oneMma 0 (fun st => (∀ h ∈ heldKinds, oneMma.blocked st.hoop.die st.hoop.core h = false) ∧
      oneMma.blocked st.hoop.die st.hoop.core farStore = true ∧ Sparse.wf st.hoop.slots = true ∧
      2 ≤ (Held.arrive .rbar).uses.2.2 ∧ (Held.arrive .rbar).locs = []) ∧
    (cmdClasses mma4 = [2] ∧ ({ aCmd.ops with ins := mma4 } : CmdOps).moot = false ∧ Sparse.wf oneMma.cmds = true ∧
      ∃ x, Sparse.find? oneMma.cmds 5 = some x ∧ x.wale = 0 ∧ x.cls = 2) := by
  refine ⟨stands_of ?_, ⟨stands_of ?_, event_soon (r := aReport) rfl (by decide)⟩, stands_of ?_, stands_of ?_, stands_of ?_, ?_, ?_, ?_,
    wit _ ?_⟩ <;> decide +kernel

def aReq : PageReq := { func := 0, page := 2, kind := 0, die := 0, tag := 0, posted := true }
def askedPage : State := { inState (.page 0) with pageReqs := [aReq], cmds := [(5, { aCmd with stage := .page 0 })] }
def hwaitdOf (cc : BitVec 16) : Instr := .hwaitd (oR (.s 4) (.s 5) (.s 6) n_ cc)
/-- A hoop whose wales stand at `hwaitd` for signal `a`, value `b`; function 0 has one signal. -/
def atHwaitd (a b : Word) : State :=
  (onWale fun w => { w with st := .coll, collArg := some (hwaitdOf 0, a, b) }).setReg (rFuncB 0) (BitVec.ofNat 64 (2 ^ 16))
def twoAtHwaitd : State := withWale (atHwaitd 0 0) { wale0 (atHwaitd 0 0) with collArg := some (hwaitdOf 0, 0, 5) }
def collReady (s : State) : Bool :=
  let ws := (s.walesOf 0).filter fun e => !e.2.gone
  ws.all (fun e => e.2.atColl) && ws.any (fun e => e.2.st == .coll) && Sparse.wf s.wales && !ws.isEmpty
def aSpawn : CmdOps := { aCmd.ops with ins := spawn4, a := 0x4000 }
def spawnAsked : State := { onWale (fun w => { w with due := [.cmd aSpawn] }) with pageReqs := [aReq] }
def atSbar : State := onWale fun w => { w with st := .coll, collArg := some (.sbar nil, 0, 0) }
/-- The fragment has called the firmware. -/
def calling (n : Nat) : State := onWale fun w =>
  let c := { w.core with call := some ⟨.sole, n, 7, .s 4⟩ }
  { w with core := c, cur := { w.cur with ckpt := c } }
theorem wit_Replies :
    ((askedPage.pageReqs.find? fun q => q.func == 0 && q.tag == 0 && q.posted) = some aReq ∧ (∀ e ∈ askedPage.wales, e.2.due = [])) ∧
    stands askedPage 0 (fun st => st.basket.func = 0 ∧ st.wl.st = .page 0) ∧ command askedPage 5 (fun k => k.func = 0 ∧ k.stage = .page 0) ∧
    stands spawnAsked 0 (fun st => st.basket.func = 0 ∧ st.wl.st ≠ .page 0 ∧ st.wl.due = [.cmd aSpawn] ∧ aSpawn.a.toNat / 8192 = aReq.page) ∧
    (∀ n ∈ [0, 1, 2, 3, 4], stands (calling n) 0 (fun st => st.wl.core.call = some ⟨.sole, n, 7, .s 4⟩)) ∧
    (∃ x, (calling 1).ctx? = some x ∧ x.la = 0 ∧ x.core.call = some ⟨.sole, 1, 7, .s 4⟩ ∧ x.arm = .sole) ∧
    ((wale0 (calling 1)).core.call ≠ none ∧ (wale0 (calling 1)).cur.ckpt.call ≠ none ∧ (wale0 (calling 1)).drained = true ∧
      (wale0 heldRegion).old ≠ none) ∧ askedPage.owed = [] ∧
    (collReady atSbar = true ∧ ∀ e ∈ atSbar.wales, atSbar.sbarAlone e.2 = true) ∧
    (collReady twoAtHwaitd = true ∧ ∃ e ∈ twoAtHwaitd.wales, e.2.collKey ≠ (wale0 twoAtHwaitd).collKey) ∧
    (collReady (atHwaitd 1 0) = true ∧ (atHwaitd 1 0).sigCount 0 ≤ 1 ∧ (wale0 (atHwaitd 1 0)).collKey = some (true, 0, 1, 0)) ∧
    (collReady (atHwaitd 0 0) = true ∧ 0 < (atHwaitd 0 0).sigCount 0 ∧ (wale0 (atHwaitd 0 0)).collKey = some (true, 0, 0, 0) ∧
      (0 : Word).toNat ≤ ((atHwaitd 0 0).signal 0 ((atHwaitd 0 0).sigBase 0 + 0)).toNat) ∧
    ¬((1 : Word).toNat ≤ ((atHwaitd 0 1).signal 0 ((atHwaitd 0 1).sigBase 0 + 0)).toNat) := by
  refine ⟨?_, stands_of ?_, command_of ?_, stands_of ?_, ?_, wit _ ?_, ?_, ?_, ?_, ?_, ?_, ?_, ?_⟩
  case refine_5 => intro n h; apply stands_of; revert n; decide +kernel
  all_goals decide +kernel

def syncCopy : Instr := .cpy (oR (.s 4) (.s 6) (.s 8) (.s 10) 5)
def withCmd (c : Cmd) : State := { base with cmds := [(5, c)] }
def withTwo (c : Cmd) : State := { base with cmds := [(5, c), (6, { c with seq := 0 })] }
def doneCopy : Cmd := { aCmd with ops := { aCmd.ops with ins := syncCopy, c := 64 }, cls := 0, stage := .done, seq := 1 }
def queuedCopy : Cmd := { doneCopy with stage := .queued, ops := { doneCopy.ops with a := 32, b := 16, d := 48 } }
def movedCopy (l : Loc) : Cmd := { doneCopy with stage := .sourced, staged := { aCmd.staged with writes := [⟨l, [1]⟩] } }
def badSend : Cmd := { aCmd with cls := 3, stage := .faulted 5 0x40, seq := 1 }
/-- A copy from page 6, on a die whose link is down; a copy of a box by an invalid slot. -/
def farCopy : Cmd :=
  { queuedCopy with ops := { queuedCopy.ops with ins := .cpy (oR (.s 4) (.s 6) (.s 8) n_ 1), a := 0xC000, b := 16, d := 0 } }
def badBox : Cmd := { queuedCopy with ops := { queuedCopy.ops with ins := .cpyt (oX 0 n_ (.s 4) n_ n_ 0 1 0 0) }, cls := 1 }
/-- Copy-engine staging of the cluster is full. -/
def bigCopy : Cmd := { queuedCopy with stage := .staged, staged := { aCmd.staged with writes := [⟨.sp 0 0, List.replicate (2 ^ 18) 0⟩] } }
theorem noRoom : (withCmd bigCopy).room bigCopy = 0 := by
  have h : bigCopy.staging = some (0, 2 ^ 18) := rfl
  have hw : bigCopy.staged.writes = [⟨.sp 0 0, List.replicate (2 ^ 18) 0⟩] := rfl
  have hs : (bigCopy.stage != .done) = true := by decide
  simp only [State.room, h, withCmd, List.filter_cons, List.filter_nil, beq_self_eq_true, hs, Bool.and_self, Option.map_some, if_true,
    List.foldl_cons, List.foldl_nil, hw, List.length_replicate, Nat.zero_add, Nat.sub_self, Nat.zero_div]
/-- What the engine has read, or why it stops. -/
def sources (s : State) (c : Cmd) : Option (Except EErr (Moved × EngSt)) :=
  if s.room c = 0 then none else some ((sourceWork c (s.room c)).run { s := s, far := [], port := false })
def sourcesOk (s : State) (c : Cmd) : Bool :=
  match sources s c with | some (.ok (_, e)) => (farOf e).all fun p => !e.s.tagsFull p.1 60 | _ => false
def sourcesErr (s : State) (c : Cmd) (P : EErr → Bool) : Bool := match sources s c with | some (.error e) => P e | _ => false
def stoppedCopy : Cmd := { movedCopy (.sp 0 0) with stage := .stopped ⟨5, 0x40, 1⟩ }
def followOnOf (c : Cmd) : State := { base with cmds := [(5, c), (6, { aCmd with followOn := true, deps := [5], copy := some 5 })] }
def flitOf (n : Nat) : Flit := { src := 1, rgn := 60, ser := 0, cmd := n }
theorem wit_EngineEvents :
    (command (withTwo doneCopy) 5 (fun k => k.stage = .done ∧ (withTwo doneCopy).isOldest k = false) ∧
      command (withCmd doneCopy) 5 (fun k => k.stage = .done ∧ (withCmd doneCopy).isOldest k = true ∧ k.followOn = false ∧
        syncOf k.ops = some (64, false)) ∧ Sparse.wf (withTwo doneCopy).cmds = true ∧ Sparse.wf base.spad = true ∧ 64 + 16 ≤ 2 ^ 19) ∧
    ((withCmd bigCopy).room bigCopy = 0 ∧ sourcesOk (withCmd queuedCopy) queuedCopy = true ∧
      sourcesErr base badBox (fun e => match e with | .fault _ _ => true | _ => false) = true ∧
      sourcesErr (paged 0) farCopy (fun e => match e with | .wait => true | _ => false) = true) ∧
    command (withCmd queuedCopy) 5 (fun k => k.stage = .queued ∧ k.cls = 0 ∧ k.ops.ins = syncCopy ∧ k.ops.b = 16 ∧ k.ops.off = 0 ∧
      k.ops.a.toNat % 16 = 0 ∧ k.ops.d.toNat % 16 = 0 ∧ k.ops.a.toNat + 16 ≤ pkSp ((withCmd queuedCopy).cmdPkt k) ∧
      (withCmd queuedCopy).room k ≠ 0 ∧ k.rgns = []) ∧
    (command (withCmd { queuedCopy with stage := .staged }) 5 (fun k => k.cls ≠ 2 ∧ k.stage = .staged ∧
        (withCmd queuedCopy).uncleared 5 = false) ∧
      ({ withCmd queuedCopy with links := [.flit 0 (flitOf 5)] } : State).uncleared 5 = true) ∧
    command (withCmd (movedCopy (.sp 0 0))) 5 (fun k => k.stage = .sourced ∧ base.writesWait k.die k.staged.writes = false) ∧
    command (away (withCmd (movedCopy (.dsc 1 0)))) 5 (fun k => k.stage = .sourced ∧ (away base).writesWait k.die k.staged.writes = true) ∧
    command (withCmd stoppedCopy) 5 (fun k => k.stage = .stopped ⟨5, 0x40, 1⟩ ∧ k.cls ≠ 2 ∧ (withCmd stoppedCopy).uncleared 5 = false ∧
      base.writesWait k.die k.staged.writes = false) ∧
    (command (withTwo badSend) 5 (fun k => k.stage = .faulted 5 0x40 ∧ k.cls ≠ 0 ∧ (withTwo badSend).isOldest k = false) ∧
      command (withCmd badSend) 5 (fun k => (withCmd badSend).isOldest k = true) ∧ stands (withCmd badSend) 0 (fun st => st.wl.st ≠ .exited) ∧
      stands { left with cmds := [(5, badSend)] } 0 (fun st => st.wl.st = .exited)) ∧
    ((followOnOf queuedCopy).operandIn 5 = false ∧ (followOnOf doneCopy).operandIn 5 = true ∧
      command (followOnOf doneCopy) 6 (fun k => k.copy = some 5)) := by
  refine ⟨⟨command_of ?_, command_of ?_, ?_, ?_, ?_⟩, ⟨noRoom, ?_, ?_, ?_⟩, command_of ?_, ⟨command_of ?_, ?_⟩, command_of ?_, command_of ?_,
    command_of ?_, ⟨command_of ?_, command_of ?_, stands_of ?_, stands_of ?_⟩, ?_, ?_, command_of ?_⟩ <;> decide +kernel

/-- A descriptor of a slot in the core scratchpad, of one element at address 0; one of a block at 0, with its scale pair at 64. -/
def spDesc (fmt : Nat) : BitVec 512 :=
  BitVec.ofNat 512 (2 ^ 128 + 2 ^ 160 + 2 ^ 192 + 2 ^ 224 + 2 ^ 256 + fmt * 2 ^ 416 + 2 ^ 420 + 2 ^ 424)
def blockDesc : BitVec 512 := spDesc 7 + BitVec.ofNat 512 (31 * 2 ^ 128 + 64 * 2 ^ 64)
def boxOf (d : BitVec 512) : Cmd := { badBox with slots := [⟨true, d⟩, ⟨true, d⟩], ops := { badBox.ops with a := 0, b := 0 } }
def gthr4 : Instr := .gthr (oX 0 (.s 4) (.v 1) (.s 6) n_ 0 0 0 4)
def scat4 : Instr := .scat (oX 0 (.s 4) (.v 1) (.s 6) n_ 0 0 0 0x64)
def rowsOf (i : Instr) : Cmd :=
  { queuedCopy with cls := 1, ops := { queuedCopy.ops with ins := i, a := 0, b := 0x2000, d := 0, idx := [(3, 0)] } }
def coll4 : Instr := .coll (oX 0 (.s 4) (.s 6) (.s 8) (.s 9) 0 0 0 0)
def sends : Cmd := { queuedCopy with cls := 3, ops := { queuedCopy.ops with ins := coll4, a := 0x2000, b := 4, d := 0x2000, c := 0 } }
/-- Group 0 is function 0 alone. -/
def aGroup : State := (paged 0).setReg (rCollGrp 0) (BitVec.ofNat 64 (2 ^ 63 + 1))
def worksOn (s : State) (c : Cmd) : Bool := match sources s c with | some (.ok (r, _)) => r.stop.isNone | _ => false
def boxed (c : Cmd) : Bool :=
  match (boxWork c 10 0).run { s := withCmd c, far := [], port := false } with | .ok (r, _) => r.stop.isNone | _ => false
/-- Boxes of a number and of a block; rows in and out; a group of one; a group that there is not. A run in the scratchpad, and one that
leaves it. -/
theorem wit_EngineEvents_work :
    (boxed (boxOf (spDesc 0)) = true ∧ boxed (boxOf blockDesc) = true) ∧
    (worksOn (paged 0) (rowsOf gthr4) = true ∧ worksOn (paged 0) (rowsOf scat4) = true) ∧
    (worksOn aGroup sends = true ∧ aGroup.regF (rCollGrp 0) 63 63 = 1 ∧ aGroup.regF (rCollGrp 0) 39 32 = sends.func ∧
      aGroup.regF (rCollGrp 0) 26 16 < aGroup.regF (rCollGrp 0) 10 0) ∧ base.regF (rCollGrp 0) 63 63 ≠ 1 ∧
    (match (engWriteRun queuedCopy 1 0 2 8 (bytesLE 16 7)).run { s := base, far := [], port := false } with | .ok _ => true | _ => false) = true ∧
    (8 % 16 + (bytesLE 16 7).length ≤ 16 * 2 ∧ 8 % 16 + 16 ≤ 16 * 2) ∧ ([1, 2, 3] : List Nat) ≠ [] ∧ ([1, 2, 3] : List Nat).length ≤ 2 ^ 11 ∧
    ((reporting base).guardsWait [{ die := 0, rgn := 0, last := 0, opened := false }] = true) ∧
    (∃ a, ({ base with poisoned := [6] } : State).poisonedWrite [⟨.glob 0xC000 0x2000 0 0 0 0, [1]⟩] = some a) := by
  refine ⟨?_, ?_, ?_, ?_, ?_, ?_, ?_, ?_, ?_, ⟨_, rfl⟩⟩
  case refine_9 =>
    have h : (reporting base).eventBy 0 ((reporting base).window 0) = true := event_soon (r := aReport) rfl (by decide +kernel)
    simpa [State.guardsWait] using h
  all_goals decide +kernel

def mzero1 : Instr := .mzero (oX 0 n_ n_ n_ n_ 3 1 0 0)
def zeroing : Cmd := { aCmd with ops := { aCmd.ops with ins := mzero1 } }
def aHoop : Hoop := { skein := 0, idx := 0, die := 0, cluster := 0, coreNo := 0, st := .resident, slots := [], tiles := [] }
def mmadOf : Instr := .mmad (oX 2 (.s 4) (.s 5) (.s 6) (.s 7) 0 1 2 0)
def staged (e : Option (Fin 4 × Nat × ReuseEntry)) (i : Instr) : Cmd :=
  { aCmd with ops := { aCmd.ops with ins := i }, stage := .staged, staged := ⟨[], [(5, 0x3F800000)], e, []⟩ }
/-- What the array has read, or why it stops. -/
def arrayRun (s : State) (c : Cmd) : Except EErr (MRes × EngSt) :=
  (matrixWork c aHoop).run { s := s, far := [], port := false, front := s.frontOf c }
/-- A command that updates entry 2 of the unit of die 1, whose region has 32 tag windows open or not cleared. -/
def unitAway : State :=
  ((withCmd { staged none mmadOf with burst := true }).updBasket 0 fun b => { b with pkt := b.pkt ||| BitVec.ofNat 512 (2 ^ 96) }).updDie 0
    fun x => { x with tags := [(0, { serial := 32, wins := List.replicate 32 { ser := 0, opened := false, first := 0, last := 0, q := 0, counts := [] } })] }
theorem wit_ArrayEvents :
    ((withCmd zeroing).mayEnd zeroing = true ∧ (withCmd zeroing).canStart { zeroing with deps := [5] } aHoop = false ∧
      (match arrayRun (withCmd zeroing) zeroing with | .ok (_, e) => (farOf e).isEmpty | _ => false) = true ∧
      (match arrayRun (withCmd zeroing) { zeroing with ops := { zeroing.ops with ins := mma4 } } with | .error (.fault _ _) => true | _ => false) = true) ∧
    command unitAway 5 (fun k => k.burst = true ∧ unitAway.mayEnd k = false) ∧
    (withCmd { staged none mmadOf with burst := true }).mayEnd { staged none mmadOf with burst := true } = true ∧
    (command (withCmd zeroing) 5 (fun k => k.ops.ins = mzero1 ∧ (withCmd zeroing).canStart k aHoop = true) ∧
      (withCmd zeroing).hoop? 0 = some aHoop) ∧
    command (withCmd (staged none mzero1)) 5 (fun k => k.cls = 2 ∧ k.stage = .staged ∧ k.burst = false ∧
      (withCmd (staged none mzero1)).uncleared 5 = false ∧ base.writesWait k.die k.staged.writes = false ∧ k.upTo = none ∧
      (withCmd (staged none mzero1)).copyIn k = true ∧ k.stage.held = true ∧ k.staged.writes = [] ∧
      (5, 0x3F800000) ∈ k.staged.tiles ∧ (6, 0) ∉ k.staged.tiles ∧ cmdReuse k.ops = none ∧ Sparse.wf aHoop.tiles = true) ∧
    command (withCmd (staged (some (1, 2, ReuseEntry.reset)) mmadOf)) 5 (fun k => k.staged.entry = some (1, 2, ReuseEntry.reset) ∧
      k.ops.ins = mmadOf ∧ base.dieWaits k.die (base.entryOf k).2 = false ∧ Sparse.wf (base.die 1).reuse = true) ∧
    command (withCmd { staged none mmadOf with burst := true }) 5 (fun k => k.burst = true ∧ k.stage ≠ .queued ∧
      ∀ e ∈ (withCmd { staged none mmadOf with burst := true }).cmds, e.1 ≠ 5 → e.2.burst = false ∧ e.2.stage ≠ .queued) := by
  refine ⟨?_, command_of ?_, ?_, ⟨command_of ?_, ?_⟩, command_of ?_, command_of ?_, command_of ?_⟩ <;> decide +kernel
def arrayOf (i : Instr) (slots : List (BitVec 512)) (a b c : Dword) : Cmd :=
  { aCmd with slots := slots.map fun d => ⟨true, d⟩, ops := { aCmd.ops with ins := i, a := a, b := b, c := c, d := 1 } }
def arrayOk (s : State) (c : Cmd) : Bool := match arrayRun s c with | .ok (r, _) => r.stop.isNone | _ => false
/-- A tensor of one pixel and one channel, and the shape of its window. -/
def convDesc : BitVec 512 := spDesc 2 + BitVec.ofNat 512 (3 * 2 ^ 420 + 2 ^ 423 + 0x11 * 2 ^ 480)
def smallEntry : ReuseEntry := { ReuseEntry.reset with k := 0, valid := true }
def entryK0 : State := base.updDie 0 fun x => { x with reuse := [(2, smallEntry)] }
def tileDesc : BitVec 512 := BitVec.ofNat 512 (1 + 2 ^ 128 + 2 ^ 160 + 2 ^ 192 + 2 ^ 224 + 2 ^ 256 + 2 * 2 ^ 420 + 4 * 2 ^ 424)
theorem fits_one (fmt n : Nat) (h : Machine.isBfp (Desc.of (spDesc fmt)).fmt = false) (hd : (Desc.of (spDesc fmt)).dims = [1, 1, 1, 1, 1])
    (hb : (Desc.of (spDesc fmt)).base = 0) (hn : fmtWidth (Desc.of (spDesc fmt)).fmt / 8 ≤ n) : Rule.fits (Desc.of (spDesc fmt)) n := by
  intro i hi
  have h0 : ∀ k, k < 5 → i.getD k 0 = 0 := fun k hk => by
    have := hi k hk
    simp only [Desc.dim, hd] at this
    interval_cases k <;> simpa using this
  simp only [h, Rule.elemAt, hb, h0 0 (by decide), h0 1 (by decide), h0 2 (by decide), h0 3 (by decide), h0 4 (by decide)]
  simpa using hn
theorem wit_ArrayEvents_work :
    (∃ k ∈ ({ aCmd with deps := [5] } : Cmd).deps, Sparse.find? (withCmd aCmd).cmds k ≠ none) ∧
    ((match (mmaWork (arrayOf mma4 [spDesc 2, spDesc 2] 0 1 0) aHoop 2 1 0 true 0 0).run { s := base, far := [], port := false } with
        | .ok (r, _) => r.stop.isNone | _ => false) = true) ∧
    arrayOk base (arrayOf mconv4 [convDesc, spDesc 2] 0 0x10000 0) = true ∧ arrayOk entryK0 (arrayOf mmadOf [spDesc 2, spDesc 2 ^^^ BitVec.twoPow 512 424] 0 0 0) = true ∧
    arrayOk base (arrayOf (.mld (oX 0 (.s 4) (.s 5) n_ n_ 0 0 0 0)) [spDesc 0] 0 0 0) = true ∧
    arrayOk base (arrayOf (.mst (oX 0 (.s 4) (.s 5) n_ n_ 0 0 0 0)) [spDesc 0] 0 0 0) = true ∧
    followBad base (arrayOf (.cpymm (oX 0 n_ (.s 4) n_ (.s 6) 0 1 0 0)) [spDesc 2, spDesc 2] 0 0 (2 ^ 17)) = none ∧
    (∀ f ∈ [0, 1, 2], (Desc.of (spDesc f)).space = 1 ∧ (Desc.of (spDesc f)).fmt ≤ 2 ∧ Rule.fits (Desc.of (spDesc f)) 1024) ∧
    ((Desc.of tileDesc).space = 4 ∧ (Desc.of tileDesc).ok = true ∧ (Desc.of tileDesc).base < pkTiles (base.cmdPkt aCmd) ∧
      (base.hoop? aCmd.hoop).isSome = true) ∧
    (fp16.finite 0x3C00 ∧ (unpack bf16 0x3F80).isNaN = false) ∧
    (smallEntry.k % 32 = 0 ∧ smallEntry.k ≤ 1024 ∧ smallEntry.valid = true ∧ smallEntry.count < smallEntry.nlim) := by
  refine ⟨⟨5, by decide +kernel, by decide +kernel⟩, ?_, ?_, ?_, ?_, ?_, ?_, ?_, ?_, ⟨?_, ?_⟩, ?_⟩
  case refine_7 =>
    intro f hf
    simp only [List.mem_cons, List.not_mem_nil, or_false] at hf
    rcases hf with rfl | rfl | rfl
    · exact ⟨by decide +kernel, by decide +kernel, fits_one 0 1024 (by decide +kernel) (by decide +kernel) (by decide +kernel)
        (by decide +kernel)⟩
    · exact ⟨by decide +kernel, by decide +kernel, fits_one 1 1024 (by decide +kernel) (by decide +kernel) (by decide +kernel)
        (by decide +kernel)⟩
    · exact ⟨by decide +kernel, by decide +kernel, fits_one 2 1024 (by decide +kernel) (by decide +kernel) (by decide +kernel)
        (by decide +kernel)⟩
  case refine_9 => unfold Fmt.finite; decide +kernel
  all_goals decide +kernel
theorem wit_EngineEvents_fatal : ({ base with fatal := true } : State).fatal = true := rfl

/-! ### Witnesses: operations of units -/

/-- A packet of one hoop of one wale with 32 v registers and no other storage, in class 1. -/
def smallPkt (held : Bool) : BitVec 512 := BitVec.ofNat 512 (2 ^ 12 + 2 ^ 16 + 2 ^ 44 + 4095 * 2 ^ 48 + if held then 2 ^ 8 else 0)
/-- The skein has the packet, one rim that waits, and one whose pre-emption is pending. -/
def unit (pkt : BitVec 512) (waiting saved preempt : List Nat) (s : State) : State :=
  s.updSkein 0 fun k => { k with pkt := pkt, waiting := waiting, saved := saved, preempt := preempt }
/-- Admission is open: partition 0 has an allotment, cluster 0 of die 0, without a sensor in bin 15 of BAL, votes
0x28, where its rail stands. -/
def admitting (s : State) : State :=
  ((s.setReg (rAllot 0) 100).setReg (rClust 0 0) 0x2881).setReg (rVtab 0 1 1) (0x28 <<< 56)
/-- A context area of one unit; its pages, and those of 8 GiB, lie in the I/O range. -/
def contextArea (s : State) : State :=
  let s := ((s.setReg (rPtRoot 0) 0x2001).setReg (rCtxBase 0) 0).setReg (rCtxSize 0) 1
  (s.physWrite 0 0x2000 (placePte 0x4000 false)).physWrite 0 0x4000 (bytesLE 8 (0x3000_0000_0000 + 0x30F))
def waiting1 (s : State) : State := { s with hoops := [], wales := [], order := [] }
/-- The image of the unit of a wale at a `yield` can be written. -/
def yielding : State := contextArea (unit (smallPkt false) [] [] [0] (inState .yielded))

theorem feWriteRun_same {s : State} {f lim : Nat} (h : ∀ va bs, va < lim → s.feWrite f va bs = some s) :
    ∀ (n va : Nat) (bs : List Byte), bs.length < 16 * n → va + 16 * n ≤ lim → State.feWriteRun n s f va bs = (s, true)
  | 0, _, _, hb, _ => by omega
  | n + 1, va, bs, hb, hl => by
    unfold State.feWriteRun
    cases bs with
    | nil => rfl
    | cons b bs =>
      simp only [List.length_cons] at hb
      by_cases hn : n = 0
      · subst hn
        rw [h va _ (by omega)]
        rw [List.drop_eq_nil_of_le (by simp only [List.length_cons]; omega)]
        simp [State.feWriteRun]
      · rw [h va _ (by omega)]
        exact feWriteRun_same h n (va + 16) _ (by simp only [List.length_drop, List.length_cons]; omega) (by omega)

theorem yielding_feWrite (va : Nat) (bs : List Byte) (h : va < 2 ^ 17) : yielding.feWrite 0 va bs = some yielding := by
  have h3 : va / 2 ^ (13 + 10 * 3) % 1024 = 0 := by omega
  have h2 : va / 2 ^ (13 + 10 * 2) % 1024 = 0 := by omega
  obtain ⟨o, ho⟩ : ∃ o : State, o = yielding := ⟨_, rfl⟩
  have p1 : o.pte 0x2000 = 0x4101 := by rw [ho]; decide +kernel
  have p2 : o.pte 0x4000 = 0x3000_0000_0000 + 0x30F := by rw [ho]; decide +kernel
  have k1 : o.paOk 0x2000 0 = true := by rw [ho]; decide +kernel
  have k2 : o.paOk 0x4000 0 = true := by rw [ho]; decide +kernel
  have m : ∀ d, o.homeOff d = false := by intro d; rw [ho]; rfl
  have io : isIo (0x3000_0000_0000 + va) = true := by simp [isIo]; omega
  have k3 : o.paOk (0x3000_0000_0000 + va) 0 = true := by
    have e1 : o.poisoned = [] := by rw [ho]; decide +kernel
    have e2 : o.retired = [] := by rw [ho]; decide +kernel
    simp [State.paOk, State.keyGone, io, e1, e2]
  have g : ∀ a b, o.pageAway a b = false := by intro a b; rw [ho]; rfl
  have lp : ∀ d : Fin 4, (o.die d).l2 = [] ∧ (o.die d).dir = [] := by rw [ho]; decide +kernel
  have r0 : o.regF (rPtRoot 0) 0 0 = 1 := by rw [ho]; decide +kernel
  have r1 : o.regF (rPtRoot 0) 45 13 = 1 := by rw [ho]; decide +kernel
  have t : o.translate 0 (yielding.partOf 0) va .w = .ok ⟨0x3000_0000_0000 + va, 0, 0, [0x4000, 0x2000], 33⟩ := by
    have w : o.walk va .w 3 0x2000 [] = .ok ⟨0x3000_0000_0000 + va, 0, 0, [0x4000, 0x2000], 33⟩ := by
      rw [State.walk]
      simp only [h3, Nat.mul_zero, Nat.add_zero, k1, p1, m]
      rw [show nfld 0x4101 45 13 * 8192 = 0x4000 by decide, State.walk]
      simp only [h2, Nat.mul_zero, Nat.add_zero, k2, p2, m]
      have lf : ∀ ps, o.leafXl (0x3000_0000_0000 + 0x30F) va 33 .w ps = .ok ⟨0x3000_0000_0000 + va, 0, 0, ps, 33⟩ := by
        intro ps
        rw [State.leafXl]
        simp only [show nfld (0x3000_0000_0000 + 0x30F) 45 13 * 8192 = 0x3000_0000_0000 by decide,
          show nfld (0x3000_0000_0000 + 0x30F) 59 48 = 0 by decide, show nfld (0x3000_0000_0000 + 0x30F) 6 5 = 0 by decide,
          show leafPerm (0x3000_0000_0000 + 0x30F) .w = true by decide, show va % 2 ^ 33 = va by omega, k3, g]
        simp
      rw [show 13 + 10 * 2 = 33 by rfl, lf]
      simp [nfld]
    have rc : ∀ l, o.recorded l = none := by
      intro l
      simp [State.recorded, (lp _).1, (lp _).2]
    have lt : ¬2 ^ 53 ≤ va := by omega
    simp only [State.translate, State.walkOf, State.inPart, r0, r1, w, rc, lt, if_false]
    simp
  have a : yielding.setAD ⟨0x3000_0000_0000 + va, 0, 0, [0x4000, 0x2000], 33⟩ true = yielding := by
    have q1 : yielding.pte 0x2000 = 0x4101 := by decide +kernel
    have q2 : yielding.pte 0x4000 = 0x3000_0000_0000 + 0x30F := by decide +kernel
    simp [State.setAD, q1, q2]
  have b : yielding.feBusy 0 = false := by decide +kernel
  have pr : isPeer (0x3000_0000_0000 + va) = false := by simp [isPeer]; omega
  have hm : yielding.homeDie (0x3000_0000_0000 + va) = 0 := by
    have n1 : isNear (0x3000_0000_0000 + va) = false := by simp [isNear]; omega
    have n2 : isFar (0x3000_0000_0000 + va) = false := by simp [isFar]; omega
    have e : (0x3000_0000_0000 + va) / 2 ^ 28 = 4 * 49152 := by omega
    simp only [State.homeDie, n1, n2, pr, e, Bool.false_eq_true, if_false]
    rfl
  have dw : yielding.dieWaits 0 0 = false := by decide +kernel
  rw [ho] at t g
  simp only [State.feWrite, b, Bool.false_eq_true, if_false, State.fePut, t, Xl.loc, State.locWaits, State.locDie, hm, dw, g, State.contested,
    io, Bool.not_true, Bool.false_and, Bool.or_false, a, State.touch, State.takeGrant, pr, State.locWrite, State.ioStore]
  have no : ¬(134283264 ≤ (0x3000_0000_0000 + va) % 2 ^ 28 ∧ (0x3000_0000_0000 + va) % 2 ^ 28 < 134348800 ∧
      (0x3000_0000_0000 + va) % 2 ^ 28 % 256 = 0 ∧ bs.length = 16) := by omega
  simp only [if_true, if_neg no]
  split <;> rfl

theorem padTo_length (n : Nat) (bs : List Byte) : (padTo n bs).length = n := by simp [padTo, zeros]; omega
theorem waleRecord_length (c : WaleCore) (n : Nat) (q : Word) (a : Bool) : (waleRecord c n q a).length = 5120 + 128 * n := by
  simp [waleRecord, padTo_length, List.length_flatMap, bytesLE_length]
  omega
theorem flatMap_length {α : Type} {k : Nat} {f : α → List Byte} (h : ∀ a, (f a).length = k) (l : List α) :
    (l.flatMap f).length = l.length * k := by
  simp [List.length_flatMap, h]
theorem hoopImage_length (b m i : Nat) (pkt : BitVec 512) (sl : Nat → TSlot) (t sp pv : List Byte) (ws : List (Option (WaleCore × Word × Bool))) :
    (hoopImage b m i pkt sl t sp pv ws).length = 4352 + t.length + sp.length + pv.length + ws.length * (5120 + 128 * pkVregs pkt) := by
  simp only [hoopImage, List.length_append, bytesLE_length]
  rw [flatMap_length (k := 64) fun _ => bytesLE_length _ _, flatMap_length (k := 5120 + 128 * pkVregs pkt), zeros, List.length_replicate,
    List.length_range]
  · omega
  · rintro (_ | ⟨c, q, again⟩)
    · rw [padTo_length]
    · exact waleRecord_length _ _ _ _

def yieldHoop : Hoop := { skein := 0, idx := 0, die := 0, cluster := 0, coreNo := 0, st := .resident, slots := [], tiles := [] }
theorem yielding_image : (yielding.imageOf 0 yieldHoop fun w => w.unarrive.core).length = 13568 := by
  obtain ⟨k, hk, a, b, c, d, e⟩ := wit (o := yielding.skein? 0) (fun k => pkTiles k.pkt = 0 ∧ pkSp k.pkt = 0 ∧ pkPv k.pkt = 0 ∧
    pkWales k.pkt = 1 ∧ pkVregs k.pkt = 32) (by decide +kernel)
  have w : (yielding.waleAt 0 0).isSome = true := by decide +kernel
  have hs : yieldHoop.skein = 0 := rfl
  rw [State.imageOf, hs, hk]
  simp only [hoopImage_length, a, b, c, d, e]
  have hr : ∀ l, (yielding.locRead l 0).length = 0 := fun _ => rfl
  simp only [List.range_zero, List.flatMap_nil, List.length_nil, hr, Nat.mul_zero, List.range_one, List.flatMap_cons,
    List.length_append, List.map_cons, List.length_cons, List.map_nil]
  cases h : yielding.waleAt 0 0 with
  | none => rw [h] at w; simp at w
  | some x => simp only [hr]
theorem yielding_saves : ∃ u, State.saveHoops 0 [(0, yieldHoop)] yielding = some u := by
  have fr : yielding.freeRun 0 1 = some 0 := by decide +kernel
  have len := yielding_image
  obtain ⟨bs, hi⟩ : ∃ bs, (yielding.imageOf 0 yieldHoop fun w => w.unarrive.core) = bs := ⟨_, rfl⟩
  rw [hi] at len
  have w := feWriteRun_same (f := 0) (lim := 2 ^ 17) yielding_feWrite (bs.length / 16 + 1) 0 bs (by omega) (by omega)
  have sv : ∃ u, yielding.saveImage 0 bs = some u := by
    rw [State.saveImage]
    rw [len, show ctxUnits 13568 = 1 by decide, fr]
    simp only [len] at w ⊢
    rw [w]
    exact ⟨_, rfl⟩
  obtain ⟨⟨va, v⟩, h⟩ := sv
  rw [State.saveHoops, hi, h]
  exact ⟨_, rfl⟩
/-- A unit of class `cls` waits, is saved, or both, on a partition that is open. -/
def queued (held : Bool) (waiting saved : List Nat) : State := admitting (unit (smallPkt held) waiting saved [] (waiting1 base))
def theCand (held saved : Bool) : Cand := ⟨0, 0, held, saved, 0, 0, [0]⟩
/-- A basket with a recovery extension whose own bit of hoop 0 reads 1, in page 1. -/
def aRecov : Recov := ⟨1, 0, 1, 1, 0x2000, 0x2000, []⟩
def recovering : State :=
  let s := ((paged 0).physWrite 0 0xC000 [1]).updBasket 0 fun b => { b with recov := some aRecov }
  unit (smallPkt false) [0] [] [] s
theorem wit_UnitEvents :
    ((∃ x, yielding.skein? 0 = some x ∧ pkHeld x.pkt = false ∧ 0 ∈ x.preempt) ∧
      (yielding.unitHoops 0 0).filter (fun e => e.2.st == .resident) = [(0, yieldHoop)] ∧
      (∀ e ∈ yielding.wales, yielding.atPoint e.1 e.2 = true ∧ e.2.savable = true) ∧ yielding.skeinFunc 0 = 0 ∧
      ∃ u, State.saveHoops 0 [(0, yieldHoop)] yielding = some u) ∧
    (((queued false [] [0]).cands.find? fun c => c.skein == 0 && c.saved && (c.held || c.rim == 0)) = some (theCand false true) ∧
      (queued false [] [0]).headOn 0 = some (theCand false true) ∧ (queued false [] [0]).savedHoops 0 0 = [] ∧
      (queued false [] [0]).savedFits (smallPkt false) 0 [] = true ∧ ((queued false [] [0]).raiseVotes 0 []).2 = true ∧
      (match State.readImages 0 (smallPkt false) 0 [] (queued false [] [0]) with | .ok (some _, _) => true | _ => false) = true) ∧
    (core0.stack = [] ∧ core0.frame = none ∧ core0.lstack.length ≤ 3 ∧ core0.nBar < 2 ^ 32 ∧ core0.nSbar < 2 ^ 32 ∧ core0.nColl < 2 ^ 32) ∧
    ((queued false [0] []).headOn 0 = some (theCand false false) ∧
      (∃ k, (queued false [0] []).skein? 0 = some k ∧ (∃ b, (queued false [0] []).basket? k.basket = some b ∧
        (queued false [0] []).neverFits k 0 = false ∧
        (queued false [0] []).planRim false ((queued false [0] []).partOf b.func) 1 k.pkt
          ((theCand false false).dies.filter fun x => (queued false [0] []).headOn x == some (theCand false false)) = some (0, 0, [0]) ∧
        ((queued false [0] []).voteFor 0 [(0, 0)]).2 = true))) ∧
    (((queued true [0] []).cands.find? fun c => c.skein == 0 && c.held && !c.saved) = some (theCand true false) ∧
      (queued true [0] []).isHead (theCand true false) = true ∧
      (∃ k, (queued true [0] []).skein? 0 = some k ∧
        (State.planAll true 0 (fun _ => pkRim k.pkt) (rimDies k.pkt) k.pkt (fun s r d c ks => s.startRim 0 r k.pkt [] d c ks) (allRims k.pkt)
          (queued true [0] []).idle).isSome = true ∧
        ((State.planAll false 0 (fun _ => pkRim k.pkt) (rimDies k.pkt) k.pkt (fun s r d c ks => s.startRim 0 r k.pkt (List.replicate 16 0) d c ks)
          (allRims k.pkt) (queued true [0] [])).any fun e => ((queued true [0] []).raiseVotes 0 e.2).2) = true)) ∧
    ((∃ x, recovering.baskets = [(0, x)] ∧ x.recov = some aRecov ∧ ∀ e ∈ recovering.skeins, e.2.num = 0 ∧ e.2.waiting = [0] ∧
      (recovering.hoopReady e.2 x aRecov 0).toOption = some true)) ∧
    (let s := admitting (unit placePkt [0] [] [] (waiting1 base))
     s.headOn 0 = some (theCand false false) ∧ s.regF rPreempt 15 0 ≠ 0 ∧ s.hasRoom (theCand false false) = false) ∧
    (match ((placed wIadd).physWrite 0 0x8000 (bytesLE 8 0xA157)).xlat 0 (some 0) 0 0 0 .x with
      | .ok t => decide (t.mt ≠ 0) | _ => false) = true ∧
    stands (placed wIadd) 0 (fun st => (match (placed wIadd).xlat st.hoop.die (some st.hoop.core) st.basket.func ((placed wIadd).partOf st.basket.func) 0 .x with
      | .ok t => decide (t.mt = 0) && !(placed wIadd).homeOff ((placed wIadd).homeDie t.pa) && !(placed wIadd).unpublished st.hoop.core t.pa
      | _ => false) = true) := by
  refine ⟨⟨wit _ (by decide +kernel), by decide +kernel, by decide +kernel, by decide +kernel, yielding_saves⟩, by decide +kernel,
    by decide +kernel, ⟨by decide +kernel, ?_⟩, ⟨by decide +kernel, by decide +kernel, wit _ (by decide +kernel)⟩, ?_, by decide +kernel,
    by decide +kernel, stands_of (by decide +kernel)⟩
  · exact ⟨_, rfl, _, rfl, by decide +kernel, by decide +kernel, by decide +kernel⟩
  · exact ⟨_, rfl, by decide +kernel, by decide +kernel⟩

/-! ### Witnesses: sensors, tags -/

/-- A state whose BOOTSTAT is at its reset value is not in recovery; one with STAGE 0xF is. -/
theorem running_of {s : State} (h : Sparse.find? s.regs rBootStat = none) : s.recovering = false := by
  have e : s.reg rBootStat = (Config.fusedSvn 0).setWidth 64 <<< 32 := by
    rw [State.reg, Sparse.getD, h]
    rfl
  have z : s.regF rBootStat 3 0 = 0 := by
    rw [State.regF, e]
    generalize BitVec.setWidth 64 (Config.fusedSvn 0) = y
    simp only [getFld, nfld, BitVec.toNat_shiftLeft, Nat.shiftLeft_eq]
    omega
  simp [State.recovering, z]
def recoveryMode : State := base.setReg rBootStat 0xF
theorem wit_recoveryMode : recoveryMode.recovering = true := by decide +kernel
def onDie (f : Die → Die) : State := base.updDie 0 f
def reported : State := (onDie fun x => { x with reports := [aReport] }).setReg (rQsmCell 0 5) 1
def working (s : State) : State := s.updWale 0 fun w => { w with core := { w.core with icount := 3 } }
theorem cell_hits : (reported.cellMask 0 5).getLsbD 0 = true := by
  have h : (reported.reg (rQsmCell (0 : Fin 4).val (5 : Fin 256).val)).getLsbD 0 = true := by decide +kernel
  simp only [State.cellMask, BitVec.getLsbD_or, h, Bool.true_or]
theorem wit_GuardEvents :
    ((5, 1) ∈ ((onDie fun x => { x with blind := [(5, 1)] }).die 0).blind) ∧ ((5, 1) ∉ (base.die 0).blind) ∧
    (reported.injectFirst 0 aReport = false ∧ Sparse.wf reported.cmds = true ∧
      (∀ e ∈ reported.wales, e.2.releasable = false) ∧ (∃ h, reported.hoop? 0 = some h ∧ h.die = 0 ∧ h.st = .resident ∧ h.region = 0) ∧
      (∀ e ∈ reported.wales, e.2.unreleased = false) ∧ (∀ e ∈ (working reported).wales, e.2.unreleased = true ∧ e.2.releasable = false)) ∧
    (getFld 80 9 0 = 80 ∧ getFld 512 9 0 = 512 ∧ getFld 79 9 0 < 80 ∧ 512 < getFld 513 9 0) ∧
    (getFld 3 31 16 = 0 ∧ getFld 0x400003 31 16 = base.regF (rQsmCtl 0) 31 16 ∧ getFld 0x410003 31 16 ≠ 0 ∧
      getFld 0x410003 31 16 ≠ base.regF (rQsmCtl 0) 31 16 ∧ (base.die 0).cc < (base.die 0).stormStart + base.stormLen 0) ∧
    ((0x800 : BitVec 64).getLsbD 11 = true ∧ (0 : BitVec 64).getLsbD 11 = false ∧ base.regF (rQsmCtl 0) 0 0 = 0 ∧
      (base.setReg (rQsmCtl 0) 1).regF (rQsmCtl 0) 0 0 ≠ 0 ∧ getFld 0x800 1 0 ≠ 3 ∧ getFld 0x803 1 0 = 3) ∧
    ((onDie fun x => { x with injArmed := true }).injectAt 0 = some 1 ∧ (∀ e ∈ base.wales, e.2.releasable = false) ∧
      max (base.die 0).cc 1 < (base.die 0).stormStart + base.stormLen 0) ∧
    (((onDie fun x => { x with cc := 65536 }).die 0).stormStart + base.stormLen 0 ≤ 65536) ∧
    (∀ k ∈ base.skeins, pkHeld k.2.pkt = false) ∧ (∀ r ∈ (base.die 0).reports, r.cell = 5 → r.at_ ≠ (base.die 0).cc) ∧
    ([aReport].filter fun r => r.cell == 5 && r.at_ == 0).length ≤ 1 ∧
    ((onWale fun w => { w with core := { w.core with pend0 := some aFault } }).wale? 0).any (fun w => w.curClosed) = true ∧
    (Sparse.wf (base.die 0).degRun = true ∧ base.regF rFatal 9 9 = 0) := by
  refine ⟨?_, ?_, ⟨?_, ?_, ?_, wit _ ?_, ?_, ?_⟩, ?_, ?_, ?_, ?_, ?_, ?_, ?_, ?_, ?_, ?_⟩ <;> decide +kernel
theorem wit_GuardEvents_armed : (base.setReg (rQsmCtl 0) 1).recovering = false := running_of (by decide +kernel)
theorem wit_GuardEvents_first : firstReport 0 (reported.die 0).reports = some aReport := rfl
/-- The event is applied before the interval ends, whatever the delay of its cell. -/
theorem wit_GuardEvents_due : max (reported.die 0).cc (aReport.due 0) < (reported.die 0).stormStart + reported.stormLen 0 := by
  have h := (Config.cellDelay 0 aReport.cell).isLt
  have e : aReport.due 0 = (Config.cellDelay 0 aReport.cell).val + 1 := by simp [CellReport.due, aReport]
  have c : (reported.die 0).cc = 0 := by decide +kernel
  have n : (reported.die 0).stormStart + reported.stormLen 0 = 65536 := by decide +kernel
  rw [c, n, e]; omega
theorem wit_GuardEvents_counts : ∀ g, Sparse.getD (base.die 0).degRun 0 g < 15 := by
  intro g
  rw [show (base.die 0).degRun = [] from by decide +kernel]
  exact (by decide : (0 : Nat) < 15)

def aWin (o : Bool) : TagWin := ⟨7, o, 0, 0, 96, [(1, 2)]⟩
def tagged (w : List TagWin) : State := onDie fun x => { x with tags := [(3, { serial := 7, wins := w })] }
def aFlit : Flit := ⟨1, 3, 7, 5⟩
def aMark : SquashMark := ⟨1, 3, 6, 9, 0⟩
/-- Die 0 has a message from die 1, over the link between them, which is ACTIVE. -/
def received (m : LinkMsg) (f : Die → Die) : State := { (onDie f).setReg (rDlStat 0) 2 with links := [m] }
theorem wit_TagEvents_event : (reporting (tagged [aWin false, aWin true])).eventBy 0 ((aWin true).first + 31) = true ∧
    (reporting (tagged [aWin false])).eventBy 0 ((aWin false).last + (aWin false).q) = true ∧
    (tagged [aWin false, aWin true]).eventBy 0 ((aWin true).first + 31) = false ∧
    (tagged [aWin false]).eventBy 0 ((aWin false).last + (aWin false).q) = false :=
  ⟨event_soon (r := aReport) rfl (by decide), event_soon (r := aReport) rfl (by decide), by decide +kernel, by decide +kernel⟩
theorem wit_TagEvents :
    (((tagged [aWin false, aWin true]).tagsOf 0 3).wins = [aWin false] ++ [aWin true] ∧ (aWin true).opened = true ∧
      ∀ v ∈ [aWin false], v.opened = false) ∧
    (((tagged [aWin false]).tagsOf 0 3).wins = aWin false :: [] ∧ Sparse.wf ((tagged [aWin false]).die 0).tags = true) ∧
    (let s := received (.flit 0 aFlit) fun x => { x with squashes := [aMark] }
     s.nextOn (.flit 0 aFlit) = true ∧ s.linkUp 0 1 = true ∧ ((s.die 0).flits.filter fun q => q.src == 1).length < 16384 ∧
      (s.die 0).clears = [] ∧ ∃ q ∈ (s.die 0).squashes, q.holds aFlit = true) ∧
    (let s := received (.flit 0 aFlit) id
     s.nextOn (.flit 0 aFlit) = true ∧ ∀ q ∈ (s.die 0).squashes, q.holds aFlit = false) ∧
    ((0x100000 : BitVec 24).extractLsb' 20 4 ≠ 0 ∧ (0x3F000 : BitVec 24).extractLsb' 12 6 = 63) ∧
    (let s := received (.clear 0 1 3 7 1) fun x => { x with flits := [aFlit] }
     s.nextOn (.clear 0 1 3 7 1) = true ∧ s.linkUp 0 1 = true ∧ (s.die 0).clears = [] ∧
      1 ≤ ((s.die 0).flits.filter fun f => f.src == 1 && f.rgn == 3 && f.ser == 7).length) ∧
    (let s := received (.clear 0 1 3 7 1) id
     s.nextOn (.clear 0 1 3 7 1) = true ∧ ((s.die 0).flits.filter fun f => f.src == 1 && f.rgn == 3 && f.ser == 7).length < 1) ∧
    (let s := received (.squash 0 1 3 6 9) fun x => { x with flits := [aFlit] }
     s.nextOn (.squash 0 1 3 6 9) = true ∧ s.linkUp 0 1 = true) := by decide +kernel

/-! ### Witnesses: queues -/

/-- The state that lists the entries at `a`, below everything else it lists. -/
def lists (a : Nat) (es : List Nat) (s : State) : State := { s with mem := (es.flatMap (bytesLE 64)).zipIdx.map (fun b => (a + b.2, b.1)) ++ s.mem }
/-- Queue 0 of function 0: a ring of 16 entries in page 1, uncached, which holds `es` from entry 0 on. Function 0 has eight nodes, of which
node 1 is declared, one signal, and room for baskets. -/
def ring (es : List Nat) : State :=
  let s := lists 0 es (entryAt 1 0x32F (paged 0))
  let s := ((s.setReg (rQBase 0 0) 0x2000).setReg (rQCtl 0 0) 0x401).setReg (rQStat 0 0) (BitVec.ofNat 64 (es.length * 2 ^ 16))
  let s := (s.setReg (rFuncA 0) 8).setReg (rFuncB 0) (BitVec.ofNat 64 (2 ^ 16 + 8 * 2 ^ 32))
  { s with nodes := [(1, { preds := 1, succ := [], empty := true, launch := none, running := false })] }
/-- The entry at HEAD, at `o` of page 1, is due: it is `bs`, and reading it leaves the state as it is, since every entry walked bears A. -/
def ringXl (o : Nat) : Xl := ⟨o, 0, 1, [0x8008, 0x6000, 0x4000, 0x2000], 13⟩
def ringOkAt (o : Nat) (s : State) (bs : List Byte) : Bool :=
  s.takeable 0 0 && decide (s.regF (rQBase 0 0) 52 6 * 64 + 64 * s.qHead 0 0 = 0x2000 + o)
  && (match s.translate 0 (s.partOf 0) (0x2000 + o) .r with | .ok t => decide (t = ringXl o) | .error _ => false)
  && !s.dieWaits 0 (s.homeDie (o)) && ((ringXl o).ptes.all fun a => s.pte a ||| 0x100 == s.pte a)
  && decide (s.physRead 0 (o) 64 = bs) && !isIo (o) && !isPeer (o)
abbrev ringOk : State → List Byte → Bool := ringOkAt 0
theorem setAD_marked {s : State} {x : Xl} (h : ∀ a ∈ x.ptes, s.pte a ||| 0x100 = s.pte a) : s.setAD x false = s := by
  have up : ∀ l : List Nat, (∀ a ∈ l, s.pte a ||| 0x100 = s.pte a) → l.foldl (fun (s : State) a =>
      if s.pte a ||| 0x100 = s.pte a then s else s.physWrite 0 a (bytesLE 8 (s.pte a ||| 0x100))) s = s := by
    intro l
    induction l with
    | nil => intro _; rfl
    | cons a l ih => intro h; rw [List.foldl_cons, if_pos (h a (List.mem_cons_self ..))]; exact ih fun b hb => h b (List.mem_cons_of_mem _ hb)
  unfold State.setAD
  cases hp : x.ptes with
  | nil => rfl
  | cons a l =>
    rw [hp] at h
    simp only [Bool.false_eq_true, if_false, if_pos (h a (List.mem_cons_self ..))]
    exact up l fun b hb => h b (List.mem_cons_of_mem _ hb)
theorem entryDue_ring {o : Nat} {s : State} {bs : List Byte} (h : ringOkAt o s bs = true) : s.entryDue 0 0 = some (bs, s) := by
  simp only [ringOkAt, Bool.and_eq_true, decide_eq_true_eq, List.all_eq_true, beq_iff_eq, Bool.not_eq_true'] at h
  obtain ⟨⟨⟨⟨⟨⟨⟨h1, h2⟩, h3⟩, h4⟩, h5⟩, h6⟩, h7⟩, h8⟩ := h
  have ht : s.translate 0 (s.partOf 0) (0x2000 + o) .r = .ok (ringXl o) := by
    split at h3
    · rename_i t ht; rw [ht, of_decide_eq_true h3]
    · simp at h3
  have hf : s.feRead 0 (0x2000 + o) 64 = .ok (bs, s) := by
    unfold State.feRead
    simp only [ht, setAD_marked h5]
    simp [ringXl, h4, h7, h6, State.takeGrant, State.touch, Xl.loc, h8]
  simp only [State.entryDue, h1, if_true, State.entryAt, h2, hf]
/-- The entry at HEAD of a ring is due, with the property. -/
def due (s : State) (P : List Byte → State → Prop) : Prop := ∃ bs u, s.entryDue 0 0 = some (bs, u) ∧ P bs u
theorem due_at (o : Nat) {s : State} (n : Nat) {P : List Byte → State → Prop} (h : ringOkAt o s (bytesLE 64 n) = true) (hp : P (bytesLE 64 n) s) : due s P :=
  ⟨_, _, entryDue_ring h, hp⟩
theorem due_of {s : State} (n : Nat) {P : List Byte → State → Prop} (h : ringOk s (bytesLE 64 n) = true) (hp : P (bytesLE 64 n) s) : due s P :=
  due_at 0 n h hp
def launchEntry (p : BitVec 512) : Nat := p.toNat
def pktOf (bs : List Byte) : BitVec 512 := BitVec.ofNat 512 (natLE bs)
/-- A launch that the checks let through: its basket can be made. -/
def launchable (s u : State) (p : BitVec 512) : Prop :=
  pkGnode p = false ∧ u.launchBad 0 p = false ∧ (∀ e ∈ s.baskets, rsOverlap p e.2.pkt = false) ∧ s.freeBasket = some 1 ∧
    (s.baskets.filter fun e => e.2.func == 0).length < s.regF (rFuncB 0) 43 32
theorem wit_QueueEvents :
    ((0 : Fin 129).val ∈ ({ base with flr := [0] } : State).flr ∧ base.qEn 0 0 = false ∧ (ring []).qEn 0 0 = true ∧
      (ring []).qLog 0 0 = 4 ∧ getFld 15 15 0 < 2 ^ 4 ∧ 2 ^ 4 ≤ getFld 16 15 0 ∧ getFld 1 0 0 = 1 ∧ getFld 0 0 0 = 0) ∧
    (((ring []).setReg (rQStat 0 0) (BitVec.ofNat 64 (2 ^ 40))).qStopped 0 0 = true ∧ getFld 3 1 1 = 1) := by decide +kernel
theorem mute_of {s : State} (h : Sparse.find? s.regs rBootStat = none) (f : Fin 129) : s.mute f = false := by
  simp only [State.mute, running_of h, Bool.and_false]
theorem wit_QueueEvents_mute :
    recoveryMode.mute 0 = true ∧ ({ base with flr := [0] } : State).mute 0 = false ∧ base.mute 0 = false ∧ (ring []).mute 0 = false ∧
      ((ring []).setReg (rQStat 0 0) (BitVec.ofNat 64 (2 ^ 40))).mute 0 = false :=
  ⟨by decide +kernel, mute_of (by decide +kernel) _, mute_of (by decide +kernel) _, mute_of (by decide +kernel) _, mute_of (by decide +kernel) _⟩
theorem wit_QueueEvents_plain :
    due (ring [0]) (fun bs _ => entF bs 0 1 = 0) ∧ due (ring [6]) (fun bs _ => 6 ≤ entF bs 0 1) ∧
    due (ring [5]) (fun bs _ => entF bs 0 1 = 5) ∧ due (ring [2 + 2 ^ 16]) (fun bs u => entF bs 0 1 = 2 ∧ u.sigEntry 0 bs 1 3 = none) ∧
    due (ring [3 + 2 ^ 16]) (fun bs u => entF bs 0 1 = 3 ∧ u.sigEntry 0 bs 2 2 = none) :=
  ⟨due_of 0 (by decide +kernel) (by decide +kernel),
    due_of 6 (by decide +kernel) (by decide +kernel),
    due_of 5 (by decide +kernel) (by decide +kernel),
    due_of (2 + 2 ^ 16) (by decide +kernel) (by decide +kernel),
    due_of (3 + 2 ^ 16) (by decide +kernel) (by decide +kernel)⟩
theorem wit_QueueEvents_signals :
    due (ring [2]) (fun bs u => entF bs 0 1 = 2 ∧ u.sigEntry 0 bs 1 3 = some (0, 0) ∧ (0 : Word).toNat ≤ (u.signal 0 0).toNat ∧
      u.dieWaits 0 0 = false) ∧
    due (ring [2 + 5 * 2 ^ 64]) (fun bs u => u.sigEntry 0 bs 1 3 = some (0, 0) ∧ entF bs 4 1 = 0 ∧ entF bs 8 4 = 5 ∧ (u.signal 0 0).toNat < 5) ∧
    due (ring [3]) (fun bs u => entF bs 0 1 = 3 ∧ u.sigEntry 0 bs 2 2 = some (0, 0) ∧ entF bs 1 1 ≠ 1 ∧ u.dieWaits 0 0 = false ∧
      u.sigWaits = [] ∧ Sparse.wf (u.die 0).signals = true) :=
  ⟨due_of 2 (by decide +kernel) (by decide +kernel),
    due_of (2 + 5 * 2 ^ 64) (by decide +kernel) (by decide +kernel),
    due_of 3 (by decide +kernel) (by decide +kernel)⟩
/-- Where the entry at HEAD cannot be read. -/
def unreadable (f : Nat) (s : State) : Option XErr := match s.entryAt f 0 (s.qHead f 0) with | .error e => some e | .ok _ => none
theorem wit_QueueEvents_takes :
    base.takeable 0 0 = false ∧
    (let s := (ring [0]).setReg (rQBase 0 0) 0xA000; s.takeable 0 0 = true ∧ unreadable 0 s = some .xlate ∧ XErr.waits .xlate = false) ∧
    (let s := (ring [0]).setReg (rQBase 0 0) 0xC000; s.takeable 0 0 = true ∧ unreadable 0 s = some .wait ∧ XErr.waits .wait = true) := by decide +kernel
/-- Die 1, whose signal the entry names, is in warm reset. -/
theorem wit_QueueEvents_home_off :
    due { ring [2 + 2 ^ 28] with warm := some ⟨1, 2, []⟩ } (fun bs u => entF bs 0 1 = 2 ∧ u.sigEntry 0 bs 1 3 = some (1, 0) ∧ u.dieWaits 0 1 = true) ∧
    due { ring [3 + 2 ^ 28] with warm := some ⟨1, 2, []⟩ } (fun bs u => entF bs 0 1 = 3 ∧ u.sigEntry 0 bs 2 2 = some (1, 0) ∧ u.dieWaits 0 1 = true) :=
  ⟨due_of (2 + 2 ^ 28) (by decide +kernel) (by decide +kernel), due_of (3 + 2 ^ 28) (by decide +kernel) (by decide +kernel)⟩
/-- A write that waits until its queue has drained: base's basket 0 is of this queue, and one of another does not count. -/
theorem wit_QueueEvents_drain :
    due (ring [3 + 2 ^ 8]) (fun bs u => entF bs 0 1 = 3 ∧ u.sigEntry 0 bs 2 2 = some (0, 0) ∧ u.dieWaits 0 0 = false ∧
      entF bs 1 1 = 1 ∧ u.queueDrained 0 0 = false) ∧
    due { ring [3 + 2 ^ 8 + 2 ^ 32] with baskets := [] } (fun bs u => entF bs 0 1 = 3 ∧ u.sigEntry 0 bs 2 2 = some (0, 0) ∧
      u.dieWaits 0 0 = false ∧ entF bs 1 1 = 1 ∧ entF bs 4 1 = 1 ∧ u.queueDrained 0 0 = true) :=
  ⟨due_of (3 + 2 ^ 8) (by decide +kernel) (by decide +kernel), due_of (3 + 2 ^ 8 + 2 ^ 32) (by decide +kernel) (by decide +kernel)⟩
/-- Node 0 with one predecessor and the successor node 1. -/
def nodeEntry : Nat := 4 + 2 ^ 32 + 2 ^ 48 + 2 ^ 64
theorem wit_QueueEvents_nodes :
    due (ring [nodeEntry]) (fun bs u => entF bs 0 1 = 4 ∧ entF bs 1 1 = 0 ∧ zeroAt bs 7 8 = true ∧ zeroAt bs 56 64 = true ∧
      entF bs 6 1 = 1 ∧ zeroAt bs 10 56 = true ∧ entF bs 8 2 = 1 ∧ entF bs 2 2 = 0 ∧ 1 < u.nodeCount 0 ∧
      u.nodeBase 0 = 0 ∧ Sparse.find? u.nodes 0 = none ∧ (Sparse.find? u.nodes 1).isSome = true) :=
  due_of nodeEntry (by decide +kernel) (by decide +kernel)
theorem wit_QueueEvents_nodes_rest :
    due (ring [nodeEntry + 2 ^ 9]) (fun bs _ => entF bs 0 1 = 4 ∧ 2 ≤ entF bs 1 1) ∧
    due (ring [nodeEntry + 2 ^ 56]) (fun bs _ => entF bs 0 1 = 4 ∧ zeroAt bs 7 8 = false) ∧
    due (ring [nodeEntry + 24 * 2 ^ 48]) (fun bs _ => entF bs 0 1 = 4 ∧ entF bs 1 1 < 2 ∧ zeroAt bs 7 8 = true ∧ zeroAt bs 56 64 = true ∧
      24 < entF bs 6 1) ∧
    due (ring [4 + 8 * 2 ^ 16]) (fun bs u => entF bs 0 1 = 4 ∧ zeroAt bs 7 8 = true ∧ zeroAt bs 56 64 = true ∧ ¬entF bs 2 2 < u.nodeCount 0) ∧
    due (ring [4 + 2 ^ 16]) (fun bs u => entF bs 0 1 = 4 ∧ zeroAt bs 7 8 = true ∧ zeroAt bs 56 64 = true ∧
      Sparse.find? u.nodes (u.nodeBase 0 + entF bs 2 2) ≠ none) ∧
    due (ring [4 + 2 ^ 8]) (fun bs u => entF bs 0 1 = 4 ∧ entF bs 1 1 = 1 ∧ entF bs 4 2 = 0 ∧ zeroAt bs 7 8 = true ∧ zeroAt bs 56 64 = true ∧
      entF bs 6 1 = 0 ∧ entF bs 2 2 < u.nodeCount 0 ∧ Sparse.find? u.nodes (u.nodeBase 0) = none ∧ Sparse.wf u.nodes = true) := by
  refine ⟨due_of (nodeEntry + 2 ^ 9) ?_ ?_, due_of (nodeEntry + 2 ^ 56) ?_ ?_, due_of (nodeEntry + 24 * 2 ^ 48) ?_ ?_,
    due_of (4 + 8 * 2 ^ 16) ?_ ?_, due_of (4 + 2 ^ 16) ?_ ?_, due_of (4 + 2 ^ 8) ?_ ?_⟩ <;> decide +kernel
def oneLaunch : State := ring [launchEntry (smallPkt false) + 1]
def recoverable : State := ring [launchEntry (smallPkt false) + 1 + 2 ^ 14, 5]
theorem wit_QueueEvents_launches :
    due (ring [1]) (fun bs u => entF bs 0 1 = 1 ∧ pkRecov (pktOf bs) = false ∧ pkGnode (pktOf bs) = false ∧ u.launchBad 0 (pktOf bs) = true) ∧
    due oneLaunch (fun bs u => entF bs 0 1 = 1 ∧ pkRecov (pktOf bs) = false ∧
      launchable oneLaunch u (pktOf bs)) ∧
    due recoverable (fun bs u => entF bs 0 1 = 1 ∧
      u.extOf 0 0 (pktOf bs) = .ext (some ⟨0, 0, 0, 0, 0, 0, []⟩) ∧
      launchable recoverable u (pktOf bs)) ∧
    due (ring [2]) (fun bs _ => entF bs 0 1 = 2) ∧ ((ring [2]).setWaiting 0 0 true).qWaiting 0 0 = true ∧
    (base.pageReqs = [] ∧ getFld 0 63 59 < 4 ∧ 12 < getFld (BitVec.ofNat 64 (13 * 2 ^ 59)) 63 59 ∧
      4 ≤ getFld (BitVec.ofNat 64 (4 * 2 ^ 59)) 63 59 ∧ getFld (BitVec.ofNat 64 (12 * 2 ^ 59)) 63 59 ≤ 12) := by
  unfold launchable
  refine ⟨due_of 1 ?_ ?_, due_of (launchEntry (smallPkt false) + 1) ?_ ?_, due_of (launchEntry (smallPkt false) + 1 + 2 ^ 14) ?_ ?_,
    due_of 2 ?_ ?_, ?_, ?_⟩ <;> decide +kernel

/-- A launch with RECOV, alone or before an entry. -/
def recLaunch : Nat := launchEntry (smallPkt false) + 1 + 2 ^ 14
/-- A launch of the node `n`. -/
def nodeLaunch (n : Nat) : Nat := launchEntry (smallPkt false) + 1 + 2 ^ 15 + n * 2 ^ 448
/-- A launch at the last entry of page 1, in a ring of 256, where page 2 is not mapped. -/
def lastOfPage : State :=
  let s := (((ring []).setReg (rQBase 0 0) 0x2000).setReg (rQCtl 0 0) 0x801).setReg (rQStat 0 0) (BitVec.ofNat 64 (127 + 130 * 2 ^ 16))
  entryAt 2 0 (lists (64 * 127) [recLaunch] s)
/-- The ring, with node 1 free for a launch, with `n` predecessors. -/
def withNode (n : Nat) (es : List Nat) : State :=
  { ring es with nodes := [(1, { preds := n, succ := [], empty := false, launch := none, running := false })] }
/-- A launch that grants reuse entry 0, and one that does so and is resident. -/
def rsPkt : BitVec 512 := BitVec.ofNat 512 (launchEntry (smallPkt false) + 1) ||| BitVec.twoPow 512 106
theorem lastOfPage_due : due lastOfPage fun bs u => entF bs 0 1 = 1 ∧ u.extOf 0 0 (pktOf bs) = .unread .xlate :=
  due_at 0x1FC0 recLaunch (by decide +kernel) (by decide +kernel)
theorem wit_QueueEvents_extension_waits :
    due (ring [recLaunch]) (fun bs u => entF bs 0 1 = 1 ∧ u.extOf 0 0 (pktOf bs) = .wait) ∧
    due lastOfPage (fun bs u => entF bs 0 1 = 1 ∧ u.extOf 0 0 (pktOf bs) = .unread .xlate) ∧
    due (ring [nodeLaunch 0]) (fun bs u => entF bs 0 1 = 1 ∧ u.extOf 0 0 (pktOf bs) = .none ∧ u.nodeBad 0 (pktOf bs) = true) :=
  ⟨due_of recLaunch (by decide +kernel) (by decide +kernel), lastOfPage_due, due_of (nodeLaunch 0) (by decide +kernel) (by decide +kernel)⟩
theorem wit_QueueEvents_extension :
    due (ring [recLaunch, 5 + 2 ^ 8]) (fun bs u => entF bs 0 1 = 1 ∧ u.extOf 0 0 (pktOf bs) = .reserved ∧ u.nodeBad 0 (pktOf bs) = false ∧ u.sigWaits = []) ∧
    due (ring [recLaunch, 0]) (fun bs u => entF bs 0 1 = 1 ∧ u.extOf 0 0 (pktOf bs) = .missing ∧ pkGnode (pktOf bs) = false ∧ u.sigWaits = []) ∧
    due (ring [recLaunch, 5 + 32 * 2 ^ 64]) (fun bs u => entF bs 0 1 = 1 ∧ u.extOf 0 0 (pktOf bs) = .ext none ∧ pkGnode (pktOf bs) = false) ∧
    due (ring [recLaunch + 2 ^ 15, 0]) (fun bs u => entF bs 0 1 = 1 ∧ u.extOf 0 0 (pktOf bs) = .missing ∧ u.nodeBad 0 (pktOf bs) = true) ∧
    due (ring [recLaunch + 2 ^ 15, 5 + 2 ^ 8]) (fun bs u => entF bs 0 1 = 1 ∧ u.extOf 0 0 (pktOf bs) = .reserved ∧ u.nodeBad 0 (pktOf bs) = true) := by
  refine ⟨due_of recLaunch ?_ ?_, due_of recLaunch ?_ ?_, due_of recLaunch ?_ ?_, due_of (recLaunch + 2 ^ 15) ?_ ?_,
    due_of (recLaunch + 2 ^ 15) ?_ ?_⟩ <;> decide +kernel
/-- The launch at HEAD passes the checks, with the property. -/
def passes (s : State) (P : BitVec 512 → State → Prop) : Prop :=
  due s fun bs u => entF bs 0 1 = 1 ∧ u.extOf 0 0 (pktOf bs) = .none ∧ u.nodeBad 0 (pktOf bs) = false ∧ u.launchBad 0 (pktOf bs) = false ∧
    (∀ e ∈ u.baskets, rsOverlap (pktOf bs) e.2.pkt = false) ∧ P (pktOf bs) u
def slotFor (u : State) : Bool :=
  u.freeBasket == some 1 && decide ((u.baskets.filter fun e => e.2.func == 0).length < u.regF (rFuncB 0) 43 32)
theorem wit_QueueEvents_accept :
    passes ((ring [launchEntry (smallPkt false) + 1]).setReg (rFuncB 0) (2 ^ 16)) (fun _ u =>
      u.regF (rFuncB 0) 43 32 ≤ (u.baskets.filter fun e => e.2.func == (0 : Fin 129).val).length) ∧
    passes (withNode 0 [nodeLaunch 1]) (fun p u => slotFor u = true ∧ pkGnode p = true ∧
      Sparse.find? u.nodes (u.nodeBase 0 + pkNode p) = some { preds := 0, succ := [], empty := false, launch := none, running := false }) ∧
    passes (withNode 2 [nodeLaunch 1]) (fun p u => slotFor u = true ∧ pkGnode p = true ∧
      Sparse.find? u.nodes (u.nodeBase 0 + pkNode p) = some { preds := 2, succ := [], empty := false, launch := none, running := false }) ∧
    due { ring [rsPkt.toNat] with baskets := (base.baskets.map fun e => (e.1, { e.2 with pkt := rsPkt })) } (fun bs u =>
      entF bs 0 1 = 1 ∧ u.extOf 0 0 (pktOf bs) = .none ∧ pkGnode (pktOf bs) = false ∧ (∃ e ∈ u.baskets, rsOverlap (pktOf bs) e.2.pkt = true)) := by
  unfold passes
  refine ⟨due_of (launchEntry (smallPkt false) + 1) ?_ ?_, due_of (nodeLaunch 1) ?_ ?_, due_of (nodeLaunch 1) ?_ ?_,
    due_of rsPkt.toNat ?_ ?_⟩ <;> decide +kernel
/-- A wait to cancel: what the entry at HEAD is, where it can be read. -/
def headType (s : State) : Option Nat :=
  let s0 := (s.setRegF rQCancel 5 0 0).setRegF rQCancel 15 8 0
  match s0.entryAt 0 0 (s0.qHead 0 0) with
  | .ok (bs, u) => if entF bs 0 1 = 2 ∧ u.sigEntry 0 bs 1 3 = none then none else some (entF bs 0 1)
  | .error _ => none
def waitingRing (e : Nat) : State := (ring [e]).setWaiting 0 0 true
theorem wit_QueueEvents_cancel :
    (recoveryMode.recovering = true ∧ base.recovering = false ∧ base.qWaiting 0 0 = false) ∧
    ((waitingRing 2).recovering = false ∧ (waitingRing 2).qWaiting 0 0 = true ∧ (waitingRing 2).sigWaits = [] ∧ headType (waitingRing 2) = some 2) ∧
    ((waitingRing recLaunch).recovering = false ∧ (waitingRing recLaunch).qWaiting 0 0 = true ∧ headType (waitingRing recLaunch) = some 1) ∧
    (let s := (waitingRing 2).setReg (rQBase 0 0) 0xA000;
      s.recovering = false ∧ s.qWaiting 0 0 = true ∧ s.sigWaits = [] ∧ headType s = none) ∧
    (let s : State := { waitingRing 2 with sigWaits := [⟨0, 0, 0, 0, 0, 1⟩] };
      s.recovering = false ∧ s.qWaiting 0 0 = true ∧ ∃ w ∈ s.sigWaits, w.func = 0 ∧ w.queue = 0) :=
  ⟨⟨wit_recoveryMode, running_of (by decide +kernel), by decide +kernel⟩, ⟨running_of (by decide +kernel), by decide +kernel⟩,
    ⟨running_of (by decide +kernel), by decide +kernel⟩, ⟨running_of (by decide +kernel), by decide +kernel⟩,
    ⟨running_of (by decide +kernel), by decide +kernel⟩⟩

/-! ### Witnesses: resets, worlds -/

def inPhase (p : Nat) : State := { base with warm := some ⟨0, p, []⟩ }
def alone (s : State) : State := { s with hoops := [], wales := [] }
/-- Every link is ACTIVE. -/
def linked (s : State) : State := (List.range 6).foldl (fun (s : State) k => s.setReg (rDlStat k) 2) s
theorem wit_ResetEvents :
    (Sparse.wf base.baskets = true ∧ Sparse.wf base.regs = true ∧ (1 : Fin 129) ≠ 0 ∧ (1 : Fin 129).val ∉ base.flr ∧ 0 ∉ base.flr ∧
      ({ base with fatal := true, flr := [0] } : State).fatal = true ∧ (0 : Fin 129).val ∈ ({ base with fatal := true, flr := [0] } : State).flr ∧
      (0 : Fin 129).val ∈ ({ base with flr := [0] } : State).flr ∧ base.fatal = false) ∧
    ((4 : BitVec 64).getLsbD 2 = true ∧ base.warm = none ∧ base.fatal = false ∧ Fin.ofNat 4 (getFld 4 1 0) = 0 ∧ Fin.ofNat 4 (getFld 5 1 0) ≠ 0 ∧
      getFld (5 : BitVec 64) 31 16 = 0 ∧ getFld (0x10005 : BitVec 64) 31 16 ≠ 0 ∧ base.unitsOn 0 ≠ [] ∧ Fin.ofNat 4 (getFld (5 : BitVec 64) 1 0) = 1) ∧
    ((inPhase 1).warm = some ⟨0, 1, []⟩ ∧ (inPhase 1).unitsOn 0 ≠ [] ∧ (alone (inPhase 1)).unitsOn 0 = [] ∧ (inPhase 1).fatal = false ∧ Sparse.wf (inPhase 1).baskets = true ∧
      (inPhase 2).warm = some ⟨0, 2, []⟩ ∧ (inPhase 3).warm = some ⟨0, 3, []⟩ ∧ (inPhase 3).fatal = false) ∧
    (∀ e ∈ (linked (inPhase 4)).wales, e.2.due = []) ∧ ∀ k : Fin 6, (linked (inPhase 4)).linkState k = 2 := by decide +kernel

/-- A world switch of function 1: `op` 0 save, 1 restore. -/
def switching (op : Nat) : State := { base.setReg rWsCtl (BitVec.ofNat 64 (1 + op * 2 ^ 8 + 2 ^ 17)) with wsOp := some (1, op) }
/-- The image of a world of function 1 with nothing in it: its length, its function, its check word. -/
def emptyImage : List Byte := bytesLE 1856 (0x741 + 0x740 * 2 ^ 32 + 2 ^ 64)
def emptyWorld : World := { name := 0, func := 1, baskets := [], skeins := [], hoops := [], wales := [], nodes := [], entries := [] }
def restoring : State := { switching 1 with mem := putBytes [] 0 emptyImage, worlds := [emptyWorld] }
theorem physRead_placed (s : State) (bs : List Byte) (n : Nat) (hn : bs.length = n) (h1 : s.lines = []) (h2 : s.mem = putBytes [] 0 bs) :
    s.physRead 0 0 n = bs := by
  apply List.ext_getElem
  · rw [State.physRead_length, hn]
  · intro i _ hi
    rw [State.physRead_getElem, State.physByte, h1, h2]
    simp only [Sparse.find?]
    rw [find?_putBytes_in [] 0 bs hi]
    rfl
theorem restoring_image : restoring.physRead 0 0 1856 = emptyImage :=
  physRead_placed restoring emptyImage 1856 (by simp only [emptyImage, bytesLE_length]) (by decide +kernel) (by simp only [restoring])
theorem wit_WorldEvents :
    ((0 : Fin 129) = 0 ∧ base.wsBusy = false ∧ base.fatal = false ∧ (1 : Fin 129).val ∈ ({ base with flr := [1] } : State).flr ∧
      (1 : Fin 129).val ∉ base.flr) ∧
    ((switching 0).wsIs 1 0 = true ∧ (switching 0).warm = none ∧ 1 ∉ (switching 0).closed ∧ 1 ∈ ({ switching 0 with closed := [1] } : State).closed ∧
      (switching 0).unitsOf 1 = []) ∧
    (restoring.wsIs 1 1 = true ∧ restoring.wsKey = 0 ∧ restoring.wsAddr = 0 ∧ restoring.physRead 0 0 1856 = emptyImage ∧
      imgReg emptyImage 1832 = 0 ∧ imgReg emptyImage 1840 = 0 ∧ at_ emptyImage 10 2 = 0 ∧ at_ emptyImage 12 2 = 0 ∧
      at_ emptyImage 4 4 = 1856 ∧ at_ emptyImage 8 1 = 1 ∧ xorWords (emptyImage.drop 4) = BitVec.ofNat 32 (at_ emptyImage 0 4) ∧
      restoring.worlds = [emptyWorld] ∧ restoring.rangeBusy 1 0 0 emptyWorld = false) ∧
    ¬(at_ (emptyImage.take 4 ++ emptyImage.drop 5) 4 4 = 1856) ∧
    (base.partPending = none ∧ base.flr = [] ∧
      ({ base with partPending := some (List.replicate 32 0) } : State).affectedUnits = []) ∧
    ((∃ e ∈ base.baskets, e.2.func = (0 : Fin 129).val ∧ e.2.moved = false) ∧ ∀ e ∈ base.baskets, e.2.func = (1 : Fin 129).val → e.2.moved = true) := by
  refine ⟨by decide +kernel, by decide +kernel, ⟨?_, ?_, ?_, restoring_image, ?_, ?_, ?_, ?_, ?_, ?_, ?_, rfl, ?_⟩, ?_, ?_, ?_⟩ <;> decide +kernel

/-- The front end of function 1 has a write that waits for a die. -/
def owing : State := { base with owed := [.fe 1 .post], flr := [1] }
theorem wit_ResetEvents_busy :
    (owing.feBusy 1 = true ∧ (1 : Fin 129).val ∈ owing.flr ∧ (∃ g, g < 129 ∧ owing.feBusy g = true) ∧ base.feBusy 1 = false ∧
      ¬∃ g, g < 129 ∧ base.feBusy g = true) ∧
    (recoveryMode.recovering = true ∧ base.recovering = false) ∧ (linked (inPhase 4)).owed = [] ∧
    (({ base with dumping := true } : State).dumping = true ∧ base.dumping = false ∧ (1 : BitVec 64).getLsbD 0 = true ∧
      (0 : BitVec 64).getLsbD 0 = false) :=
  ⟨by decide +kernel, ⟨wit_recoveryMode, running_of (by decide +kernel)⟩, by decide +kernel⟩

/-- A migration of function 1 whose queue 0 waits for a signal that a peer writes. -/
def migrating : State :=
  { ((switching 2).setWaiting 1 0 true).setReg (rPeerSig 0) (BitVec.ofNat 64 (2 ^ 63 + 2 ^ 16)) with sigWaits := [⟨1, 0, 0, (switching 2).sigBase 1, 0, 1⟩] }
theorem wit_WorldEvents_peer :
    migrating.wsIs 1 2 = true ∧ migrating.warm = none ∧ migrating.fatal = false ∧ (1 : Fin 129).val ∉ migrating.closed ∧
      migrating.regF rWsCtl 10 10 = 0 ∧ (∃ q, q < 64 ∧ migrating.headWaits 1 q (migrating.isPeerSignal 1) = true) := by
  refine ⟨?_, ?_, ?_, ?_, ?_, 0, ?_, ?_⟩ <;> decide +kernel
theorem wit_WorldEvents_recovery :
    recoveryMode.wsBusy = false ∧ recoveryMode.fatal = false ∧ recoveryMode.recovering = true ∧ base.recovering = false ∧
      ({ base with flr := [1] } : State).recovering = false ∧ ({ base with partPending := some (List.replicate 32 0) } : State).recovering = false :=
  ⟨by decide +kernel, by decide +kernel, wit_recoveryMode, running_of (by decide +kernel), running_of (by decide +kernel), running_of (by decide +kernel)⟩

/-! ### Witnesses: links, peers, memory system, power, host -/

def linkAt (n : Word) : State := base.setReg (rDlStat 0) (n.setWidth 64)
def granted (r : Bool) : State := { base with grants := [(3, ⟨[1], true, r⟩)] }
theorem wit_LinkAndPeerEvents :
    ((linkAt 2).linkState 0 = 2 ∧ (linkAt 0).linkState 0 ≠ 2 ∧ base.fatal = false ∧ base.regF rFatal 9 9 = 0 ∧
      (linkAt 1).linkState 0 = 1 ∧ (linkAt 3).linkState 0 = 3 ∧ (linkAt 3).fatal = false ∧ (linkAt 3).regF rFatal 9 9 = 0 ∧
      (linkAt 0).linkState 0 = 0 ∧ (0 : Fin 3).val ≤ (linkAt 0).regF (rDlCtl 0) 25 24 ∧ (1 : Fin 5) ≠ 0) ∧
    (let s := (base.setReg (rPeerSig 4) (2 ^ 63 + 7)).setReg (rFuncB 0) (2 ^ 16)
     let r := s.reg (rPeerSig 4)
     getFld r 63 63 = 1 ∧ getFld r 9 0 = (7 : BitVec 10).toNat ∧ getFld r 35 24 < s.sigCount (getFld r 23 16) ∧
      Sparse.wf (s.die (Fin.ofNat 4 (getFld r 37 36))).signals = true ∧ getFld r 9 0 ≠ (8 : BitVec 10).toNat) ∧
    (isPeer (8192 * 3) = false ∧ isPeer (8192 * 0x8000_0000) = true) ∧
    (Sparse.find? (granted false).grants 3 = some ⟨[1], true, false⟩ ∧ (1 : BitVec 10) ∈ [(1 : BitVec 10)] ∧
      (∀ e ∈ (granted false).wales, e.2.due = []) ∧ Sparse.wf (granted false).grants = true ∧ (3 * 128 + 127) / 128 = 3 ∧
      Sparse.find? (granted true).grants 3 = some ⟨[1], true, true⟩ ∧ (∀ e ∈ (granted true).wales, e.2.due = []) ∧
      Sparse.wf (granted true).grants = true) ∧
    (isNear 0x6000 = true ∧ isFar 0x100_0000_0000 = true ∧ 0x6000 / 8192 ∉ base.poisoned ∧
      base.homeOff (base.homeDie 0x6000) = false ∧ [(1 : BitVec 10)] ≠ [2] ∧ Sparse.find? base.grants (0x6000 / 8192) = none ∧
      0x6000 / 8192 = 3 ∧ 3 ∉ (granted false).poisoned ∧ (granted false).homeOff ((granted false).homeDie 0x6000) = false ∧
      grantFor none 1 false = some ⟨[1], false, false⟩ ∧ grantFor none 1 true = some ⟨[1], true, false⟩ ∧
      grantFor (some ⟨[1], false, false⟩) 2 false = some ⟨[1, 2], false, false⟩) ∧
    (Sparse.find? base.grants 3 = none ∧ Sparse.wf base.peerGrants = true) ∧
    ((granted false).owed = [] ∧ (granted true).owed = [] ∧ ({ base with fatal := true } : State).fatal = true ∧ (linkAt 1).regF rDumpCtl 23 0 = 0 ∧
      (base.setReg rDumpCtl 1).regF rDumpCtl 23 0 ≠ 0 ∧ base.layerRuns .monitor = true ∧ ({ base with prot := [] } : State).layerRuns .monitor = false) ∧
    (∃ s : State, ∃ box : Mbox, Sparse.find? (s.die 0).mbox (248 + (0 : Fin 8).val) = some box ∧
      ∃ m, (box.msgs.find? fun m => m.extractLsb' 96 8 != 0xFF) = some m) := by
  refine ⟨?_, ?_, ?_, ?_, ?_, ?_, ?_, onDie fun x => { x with mbox := [(248, ⟨[0], false⟩)] }, ⟨[0], false⟩, ?_, 0, ?_⟩ <;> decide +kernel

def aNote (k : NoteKind) : Note := ⟨3, 5, k, 0, 0, 0, false⟩
/-- A notification stands first, and core 4 holds its line, or none does. -/
def noted (k : NoteKind) (shared : Bool) : State :=
  onDie fun x => { x with notes := [aNote k], l1 := if shared then [(l1Key 4 5, .s)] else [] }
/-- A notification is asked for, and none is under way. -/
def asked : State := onDie fun x => { x with asks := [aNote .own] }
theorem wit_MemoryEvents_notes :
    (base.die 0).pending = [] ∧ ((noted .own true).die 0).injected.notes = [aNote .own] ∧ 5 < 2 ^ 52 ∧
    ((noted .read true).die 0).injected.notes = [aNote .read] ∧ ((noted .back false).die 0).injected.notes = [aNote .back] ∧
    ((noted .read false).die 0).injected.notes = [aNote .read] ∧ ((asked.die 0).injected.notes.map fun n => (n.core, n.line)) = [(3, 5)] ∧
    (∀ e ∈ (noted .own true).wales, e.2.due = []) ∧ (noted .own true).owed = [] ∧ (aNote .own).back = false ∧
    (∃ b, ∃ e ∈ ((noted .read true).die b).l1, e.1 % 2 ^ 52 = 5 ∧ e.1 / 2 ^ 52 ≠ 3) ∧
    ((∀ b, ((noted .read false).die b).l1 = []) ∧ Sparse.find? ((noted .read false).die ((noted .read false).lineHome 5)).dir 5 = none) := by
  decide +kernel
/-- An invalidation waits for an effect that a host's write left behind, and for a large page that holds the address. -/
def leaving : State :=
  { onDie (fun x => { x with tlbInv := some (0, 0, 0) }) with owed := [.held 0 0 0 0 0 0 (.store [⟨.glob 0x40 0x40 0 0 0 0, [1]⟩] ⟨1, 0⟩)] }
theorem wit_MemoryEvents_left :
    (leaving.die 0).tlbInv = some (0, 0, 0) ∧
    (∃ o ∈ leaving.owed, ∃ w hp b c pt g h, o = .held w hp b c pt g h ∧ ∃ l ∈ h.locs, inRange 0 0 0 l = true) ∧
    (∀ e ∈ (onDie fun x => { x with tlbInv := some (0, 0, 0) }).wales, e.2.heldAll = []) ∧
    (onDie fun x => { x with tlbInv := some (0, 0, 0) }).owed = [] ∧
    (⟨none, 0, 0, 23, 0⟩ : TlbE).dropped 0 0 0x400000 = true ∧ (⟨none, 0, 1, 23, 0⟩ : TlbE).dropped 0 0 0x400000 = false ∧
    (⟨none, 0, 0, 23, 0⟩ : TlbE).holds (.glob 0x6040 0x40 0 0 0 0) = true := by
  refine ⟨by decide +kernel, ⟨_, List.mem_singleton.2 rfl, 0, 0, 0, 0, 0, 0, _, rfl, _, List.mem_singleton.2 rfl, ?_⟩, ?_, ?_, ?_, ?_, ?_⟩ <;> decide +kernel
theorem wit_MemoryEvents_recovery :
    recoveryMode.recovering = true ∧ base.recovering = false ∧ (base.setReg (rDscWin 0 1) (2 ^ 16 + 2 ^ 9)).recovering = false ∧
      (base.setReg (rBwShare 0 0) 1).recovering = false ∧ (base.setReg (rBwShare 0 0) 2).recovering = false :=
  ⟨wit_recoveryMode, running_of (by decide +kernel), running_of (by decide +kernel), running_of (by decide +kernel), running_of (by decide +kernel)⟩
theorem wit_MemoryEvents :
    ((∃ e ∈ base.hoops, e.2.die = 0 ∧ e.2.st = .resident ∧ 12 * e.2.cluster.val + e.2.coreNo.val = (0 : Fin 96).val) ∧
      (95 : Fin 96) ∈ ((onDie fun x => { x with l1gated := [95] }).die 0).l1gated ∧ (95 : Fin 96) ∉ (base.die 0).l1gated ∧
      (base.die 0).cc < Sparse.getD (base.die 0).coreIdle 0 95 + 65536 ∧
      (∀ e ∈ base.hoops, 12 * e.2.cluster.val + e.2.coreNo.val ≠ (95 : Fin 96).val) ∧
      Sparse.getD ((onDie fun x => { x with cc := 65536 }).die 0).coreIdle 0 95 + 65536 ≤ ((onDie fun x => { x with cc := 65536 }).die 0).cc) ∧
    (base.regF (rWayGate 0) 6 6 = 0 ∧ (base.setReg (rWayGate 0) 0x42).regF (rWayGate 0) 6 6 ≠ 0) ∧
    ((base.die 0).keyRet = none ∧ getFld 0x1005 12 12 = 1 ∧ getFld 0x1005 11 0 ≠ 0 ∧ getFld 0x1000 11 0 = 0 ∧
      ((onDie fun x => { x with keyRet := some 5 }).die 0).keyRet = some 5 ∧
      (∀ e ∈ (onDie fun x => { x with keyRet := some 5 }).cmds, e.2.stage = .sourced → ∀ a ∈ e.2.staged.writes, a.underKey 5 = false) ∧
      Sparse.find? (base.physWrite 5 0x6000 [1]).lines (0x6000 / 64) = some ⟨5, base.free⟩) ∧
    ((base.die 0).tlbInv = none ∧ getFld 0x480 10 10 = 1 ∧ getFld 0x480 7 0 ≤ 128 ∧
      ((onDie fun x => { x with tlbInv := some (0, 0, 0) }).die 0).tlbInv = some (0, 0, 0) ∧ base.cmds = [] ∧
      inRange 0 0 0x40 (.glob 0x6040 0x40 0 0 0 0) = true) ∧
    (base.dscRefused 0 2 (2 ^ 16 + 2 ^ 8 + 0x36) = true ∧ base.dscRefused 0 0 0 = true) ∧
    ((base.setReg (rDscWin 0 1) (2 ^ 17 + 2 ^ 9)).regF (rDscWin 0 1) 17 17 = 1 ∧ Sparse.wf (base.die 0).dsc = true) ∧
    (256 < ((List.range 129).map fun g => if g = (1 : Fin 129).val then getFld 255 7 0
        else (base.setReg (rBwShare 0 0) 2).regF (rBwShare 0 g) 7 0).sum ∧
      ((List.range 129).map fun g => if g = (1 : Fin 129).val then getFld 255 7 0
        else (base.setReg (rBwShare 0 0) 1).regF (rBwShare 0 g) 7 0).sum ≤ 256) := by
  refine ⟨?_, ?_, ?_, ?_, ?_, ?_, ?_⟩ <;> decide +kernel
/-- A window of 1 MiB next to another partition's, and one of no length, are not refused; one that overlaps is. -/
theorem wit_MemoryEvents_windows :
    let w : State := base.setReg (rDscWin 0 1) (2 ^ 16 + 2 ^ 9)
    w.dscRefused 0 2 (2 ^ 16 + 2 ^ 8 + 1) = true ∧ w.dscRefused 0 2 (2 ^ 16 + 2 ^ 8 + 2) = false ∧ w.dscRefused 0 2 2 = false := by
  unfold State.dscRefused
  generalize Config.stacked (0 : Fin 4).val = b
  cases b <;> decide +kernel

def waitingBurst : Cmd := { aCmd with ops := { aCmd.ops with ins := mma4 } }
theorem wit_PowerEvents_recovery : recoveryMode.recovering = true ∧ base.recovering = false ∧ base.clusterWales 0 0 ≠ 0 :=
  ⟨wit_recoveryMode, running_of (by decide +kernel), by decide +kernel⟩
theorem wit_PowerEvents :
    (base.cmds = [] ∧ (base.die 0).tokens.length ≤ base.regF (rTokens 0) 3 0) ∧
    (let s := { onDie fun x => { x with tokens := [⟨7, false, 0⟩] } with cmds := [(5, waitingBurst)] }
     (s.die 0).tokens = [⟨7, false, 0⟩] ∧ 1 ≤ s.regF (rTokens 0) 3 0 ∧ (5, waitingBurst) ∈ s.cmds ∧ waitingBurst.die = 0 ∧
      waitingBurst.cluster = 7 + 1 ∧ waitingBurst.cls = 2 ∧ waitingBurst.isBurst = true ∧ waitingBurst.stage = .queued) ∧
    (let s := onDie fun x => { x with tokens := [⟨2, true, 0⟩] }
     let u : State := { s with cmds := [(5, { waitingBurst with cluster := 2, burst := true })] }
     ((s.die 0).tokens.find? fun t => t.at_ == 2 && t.held) = some ⟨2, true, 0⟩ ∧ s.burstsOf 0 2 true = false ∧
      u.burstsOf 0 2 true = true) ∧
    (base.clusterWales 0 0 ≠ 0 ∧ base.clusterWales 3 7 = 0 ∧
      Sparse.find? ((onDie fun x => { x with classPend := [(0, 2)] }).die 0).classPend 0 = some 2 ∧
      Sparse.wf ((onDie fun x => { x with classPend := [(0, 2)] }).die 0).classPend = true) ∧
    ((∀ d : Fin 4, base.regF (rHoldPt d) 4 0 ≤ 16) ∧
      base.regF rBudget 11 0 < ((List.range 32).map fun q => if q = (0 : Fin 32).val then getFld 0xFFF 11 0 else base.regF (rAllot q) 11 0).sum ∧
      ((List.range 32).map fun q => if q = (0 : Fin 32).val then getFld 0 11 0 else base.regF (rAllot q) 11 0).sum ≤ base.regF rBudget 11 0) ∧
    ((0 : Nat) < 64 ∧ [((0 : BitVec 16), true)][0]? = some (0, true)) ∧
    ((base.die 0).noSensor = true ∧ ((onDie fun x => { x with noSensor := false }).die 0).noSensor = false) := by
  refine ⟨?_, ?_, ?_, ?_, ?_, ?_, ?_⟩ <;> decide +kernel
/-- 0x730 sixteenths of a degree is THROT, 0x7D0 is CRIT. -/
def hotAs (n : BitVec 64) : State := (onDie fun x => { x with noSensor := false }).setReg (rThmMax 0) n
theorem wit_PowerEvents_temperature :
    ((hotAs 0x730).tempAt (rThmMax 0) ≤ (hotAs 0x730).tempAt (rThmTrip 0) ∧
      (hotAs 0x730).tempAt (rThmTrip 0) - 32 < (hotAs 0x730).tempAt (rThmMax 0)) ∧
    ((hotAs 0x710).die 0).noSensor = false ∧ (hotAs 0x710).tempAt (rThmMax 0) ≤ (hotAs 0x710).tempAt (rThmTrip 0) - 32 ∧
    (hotAs 0x731).tempAt (rThmTrip 0) < (hotAs 0x731).tempAt (rThmMax 0) ∧ ((hotAs 0x731).die 0).noSensor = false ∧
    (((hotAs 0x7D1).reg (rThmTrip 0)).extractLsb' 16 16).toInt < (hotAs 0x7D1).tempAt (rThmMax 0) ∧
    ¬(((hotAs 0x7D0).reg (rThmTrip 0)).extractLsb' 16 16).toInt < (hotAs 0x7D0).tempAt (rThmMax 0) := by
  refine ⟨?_, ?_, ?_, ?_, ?_, ?_, ?_⟩ <;> decide +kernel

/-- Function 0's window is on, at its address 0. -/
def windowed : State := (paged 0).setReg (rHwin 0) 1
theorem wit_HostEvents :
    (base.regF (rHwin 0) 0 0 = 0 ∧ windowed.regF (rHwin 0) 0 0 = 1 ∧ windowed.regF (rHwin 0) 52 30 = 0) ∧
    ((0 < (64 : Fin 65).val ∧ 0x3FC0 % 8192 + (64 : Fin 65).val ≤ 8192) ∧ (0 < (1 : Fin 65).val ∧ 0x3FFF % 8192 + (1 : Fin 65).val ≤ 8192)) ∧
    (∃ r, (windowed.feRead 0 0x2000 64).toOption = some r ∧ True) ∧
    ((match windowed.feRead 0 0xA000 64 with | .ok _ => false | .error e => !e.waits) = true ∧
      (match windowed.feRead 0 0xC000 64 with | .ok _ => false | .error e => e.waits) = true) ∧
    (∃ u, windowed.feWrite 0 0x2000 [1, 2] = some u ∧ True) ∧ windowed.feWrite 0 0xA000 [1, 2] = none ∧
    ([(1 : Byte), 2] ≠ [] ∧ 0x203E % 64 + [(1 : Byte), 2].length ≤ 64) ∧
    ((0x1001 % 8 ≠ 0) ∧ (0x10000 ≤ 0x10000 ∧ 0x10000 < 0x100000) ∧ (0x2000000 ≤ 0x2000000) ∧ (1 : Fin 129) ≠ 0 ∧ 0xFFF8 < 0x10000) ∧
    ((∀ f, f < 129 → base.regF (rTelem f) 0 0 = 0) ∧ (base.setReg (rTelem 128) 1).regF (rTelem 128) 0 0 = 1) := by
  refine ⟨?_, ?_, wit _ ?_, ?_, wit _ ?_, ?_, ?_, ?_, ?_⟩ <;> decide +kernel

theorem wit_HostEvents_layers :
    base.layerRuns .scheduler = true ∧ base.layerRuns (.plugin 3) = true ∧ base.layerRuns .monitor = true ∧ recoveryMode.layerRuns .scheduler = false ∧
      ({ base with pluginStopped := [3] } : State).layerRuns (.plugin 3) = false ∧ Sparse.wf base.telem = true := by
  have h : base.recovering = false := running_of (by decide +kernel)
  refine ⟨?_, ?_, by decide +kernel, ?_, ?_, by decide +kernel⟩
  · simp only [State.layerRuns, h, Bool.not_false]
  · simp only [State.layerRuns, h, Bool.not_false, Bool.true_and]; decide +kernel
  · simp only [State.layerRuns, wit_recoveryMode, Bool.not_true]
  · simp only [State.layerRuns, List.contains_cons, List.contains_nil]; simp
theorem wit_HostEvents_firmware :
    (base.mayWrite 0 .scheduler 0x80000008 = false ∧ base.mayWrite 0 (.plugin 3) 0x80000008 = false ∧ base.mayWrite 0 .monitor 0x80000008 = true ∧
      base.mayWrite 3 .monitor 0x80C00018 = true ∧ FwLayer.monitor ≠ .plugin 3) ∧
    (base.mayWrite 0 .monitor 0x80000001 = true ∧ 0x80000001 % 8 ≠ 0) ∧
    (base.regF (rQsmCtl 0) 0 0 = 0) ∧
    ((base.setReg rBootStat 3).regF rBootStat 3 0 ≠ 0xF ∧ (base.setReg rBootStat 0xF).regF rBootStat 3 0 = 0xF) := by decide +kernel

def next? (o : Host.Outcome State Fault Refusal) : Bool := match o with | .next _ => true | _ => false
theorem next_of {o : Host.Outcome State Fault Refusal} (h : next? o = true) : ∃ t, o = .next t := by
  cases o with
  | next t => exact ⟨t, rfl⟩
  | _ => cases h
theorem wit_StepKeepsMemoryForm : Memory.wf State.reset.mem ∧ ∃ t, step State.reset = .next t :=
  ⟨by decide, next_of (by decide +kernel)⟩

/-! ### Ill-formed terms: one for each check -/

/-- Headers: a guard without a predicate, on an instruction that takes none, on a uniform form; LA on a short instruction. -/
def illOfHeaders : List Instr :=
  [.iadd { vvv with h := ⟨0, true, 0⟩ }, .bra { oB 0 n_ 4 with h := ⟨1, false, 0⟩ },
   .iadd { oR (.s 3) (.s 1) (.s 2) n_ 0 with h := ⟨1, false, 0⟩ }, .iadd { vvv with h := ⟨0, false, 1⟩ }]
/-- Formats R and I: each class, MOD, a v source of a uniform result, the immediate. -/
def illOfFormats : List Instr :=
  [.iadd (oR (.p 1) (.v 1) (.v 2) n_ 0), .iadd (oR (.v 3) .em (.v 2) n_ 0), .iadd (oR (.v 3) (.v 1) n_ n_ 0),
   .iadd (oR (.v 3) (.v 1) (.v 2) (.v 5) 0), .iadd (oR (.v 3) (.v 1) (.v 2) n_ 1), .iadd (oR (.s 3) (.s 1) (.v 2) n_ 0),
   .iaddI (oI n_ (.v 1) 0 7), .iaddI (oI (.v 3) n_ 0 7), .iaddI (oI (.v 3) (.v 1) 1 7), .iaddI (oI (.s 3) (.v 1) 0 7),
   .bfeI (oI (.v 3) (.v 1) 0 0x10000), .iadd64 (oR (.v 3) (.v 6) (.v 8) n_ 0), .icmp (oR (.p 1) (.v 1) (.v 2) n_ 6),
   .mov (oR (.v 3) (.v 6) n_ n_ 1)]
/-- Lanes, predicates. -/
def illOfLanes : List Instr :=
  [.shfl (oR (.v 3) (.v 1) (.v 2) n_ 20), .shflI (oI (.v 3) (.v 1) 0 32), .lred (oR (.v 3) (.v 1) n_ n_ 6),
   .lred (oR (.v 3) (.v 1) n_ n_ 19), .vote (oR (.v 3) (.v 1) n_ n_ 0), .rdlnI (oI (.s 4) (.v 1) 1 0),
   .pmov (oR (.s 4) (.s 5) n_ n_ 0), .lscan (oR (.v 3) (.v 1) n_ n_ 64)]
/-- Conversions. -/
def illOfConversions : List Instr :=
  [.cvt (oR (.v 3) (.v 1) n_ n_ 0x1C), .cvt (oR (.v 3) (.v 1) n_ n_ 0x400), .cvtb (oR (.v 3) (.v 1) n_ n_ 6)]
/-- Control flow. -/
def illOfFlow : List Instr :=
  [.bra (oB 1 n_ 4), .brcZ (oB 0 (.s 4) 4), .brd (oB 0 n_ 4), .brk (oB 64 (.p 1) 0), .brk (oB 0 (.p 1) 1), .loop (oB 3 (.s 4) 4),
   .loop (oB 0 (.s 4) 0), .loop (oB 0 (.s 4) 0xFFFFFFFF), .yield (oI n_ n_ 0 0x1000), .yield (oI n_ n_ 0 (1 + 257 * 2 ^ 12)),
   .yield (oI n_ n_ 0 (1 + 2 ^ 21)), .call (oB 0 (.s 5) 4)]
/-- Memory: base, index, data, width, policy, ordering and scope, variant, uniform forms. -/
def illOfMemory : List Instr :=
  [.ld (oM (.v 3) (.s 5) (.v 1) 2 0), .ld (oM (.v 3) n_ (.v 1) 2 0), .ld { oM (.v 3) n_ (.v 2) 2 0 with xs := 1 },
   .ldsp (oM (.v 3) (.s 4) (.s 1) 2 0), .ld (oM (.v 3) (.s 4) (.v 1) 3 0), .ld (oM (.v 6) (.s 4) (.v 1) 4 0),
   .ld (oM (.v 3) (.s 4) (.v 1) 5 0), .ld { oM (.v 3) (.s 4) (.v 1) 2 0 with cp := 3 },
   .ld { oM (.v 3) (.s 4) (.v 1) 2 0 with hd := 1 }, .ldsp { oM (.v 3) (.s 4) (.v 1) 2 0 with cp := 1 },
   .ld { oM (.v 3) (.s 4) (.v 1) 2 0 with scope := 1 }, .ld { oM (.v 3) (.s 4) (.v 1) 2 0 with ord := 1 },
   .ld { oM (.v 3) (.s 4) (.v 1) 2 0 with ord := 2, scope := 1 }, .ldsp { oM (.v 3) (.s 4) (.v 1) 2 0 with ord := 1, scope := 2 },
   .ld { oM (.v 3) (.s 4) (.v 1) 2 0 with var := 1 }, .ld (oM (.s 6) (.s 4) (.v 1) 2 0),
   .ld { oM (.s 6) (.s 4) n_ 2 0 with h := ⟨1, false, 0⟩ }, .st { oM (.v 3) (.s 4) (.v 1) 2 0 with ord := 1, scope := 1 },
   .st { oM (.v 3) (.s 4) (.v 1) 2 0 with var := 1 }, .st { oM (.s 6) (.s 4) n_ 2 0 with h := ⟨1, false, 0⟩ },
   .st { oM (.v 3) (.s 4) (.v 1) 2 0 with h := ⟨0, false, 1⟩ }, .pref { oM n_ (.s 4) (.v 1) 2 0 with cp := 2 },
   .fence ⟨h0, n_, n_, n_, 0, 6, 0, 0, 0, 0, 0, 0⟩, .cpub ⟨h0, n_, n_, n_, 0, 0, 0, 0, 0, 0, 0, 0⟩]
/-- Atomics, exact cells, sync words. -/
def illOfAtomics : List Instr :=
  [.atom (oA (.s 6) (.s 4) (.v 1) 2 0 (.v 2) n_ 0), .atom (oA n_ (.s 4) (.v 1) 1 0 (.v 2) n_ 0),
   .atom (oA n_ (.s 4) (.v 1) 2 8 (.v 2) n_ 0), .atom (oA n_ (.s 4) (.v 1) 2 7 (.v 2) n_ 0),
   .atom (oA n_ (.s 4) (.v 1) 2 0 (.v 2) (.v 5) 0), .red (oA (.v 3) (.s 4) (.v 1) 2 0 (.v 2) n_ 0),
   .red (oA n_ (.s 4) (.v 1) 2 6 (.v 2) n_ 0), .atomsp (oA n_ (.s 4) (.v 1) 2 0 (.v 2) n_ 6), .atom (oA n_ (.s 4) (.v 1) 2 0 n_ n_ 0),
   .xadd (oA n_ (.s 4) (.v 1) 3 0 (.v 2) n_ 0), .xrd (oM (.v 3) (.s 4) (.v 1) 3 0), .xclr (oM (.v 3) (.s 4) (.v 1) 2 0),
   .swinit (oA n_ (.s 4) (.v 1) 0 0 (.s 2) n_ 0), .arv (oA n_ (.s 4) n_ 0 0 n_ n_ 2), .wtg (oA (.v 6) (.s 4) n_ 0 0 (.s 2) n_ 0)]
/-- Engines. -/
def illOfEngines : List Instr :=
  [.cpy (oR (.s 4) (.s 6) (.s 8) n_ 4), .cpy (oR (.s 4) (.s 6) (.s 8) n_ 0x11), .cpyst (oR (.s 4) (.s 6) (.s 8) n_ 0x61),
   .cpyst (oR (.s 4) (.s 6) (.s 8) n_ 0x24), .wtbVis (oI n_ n_ 0 16), .wtc (oI n_ n_ 0 1024), .cpyt (oX 0 n_ (.s 4) n_ n_ 64 1 0 0),
   .cpyt (oX 0 n_ (.s 4) n_ n_ 0 1 1 0), .gthr (oX 0 (.s 4) (.v 1) (.s 6) n_ 0 0 0 1), .gthr (oX 0 (.s 4) (.v 1) (.s 6) n_ 0 0 0 0x62),
   .scat (oX 0 (.s 4) (.v 1) (.s 6) n_ 0 0 0 2), .coll (oX 0 (.s 4) (.s 6) (.s 8) (.s 9) 1 0 0 0),
   .coll (oX 0 (.s 4) (.s 6) (.s 8) (.s 9) 0 0 0 8), .mma (oX 0 (.s 4) (.s 5) (.s 6) (.s 7) 0 1 0 0),
   .mmad (oX 1 (.s 4) (.s 5) (.s 6) (.s 7) 0 1 0 0), .mma (oX 2 (.s 4) (.s 5) (.s 6) (.s 7) 0 1 0 2),
   .mst (oX 0 (.s 4) (.s 5) n_ n_ 0 0 0 1), .rsdef (oX 0 n_ (.s 4) (.s 5) n_ 0 64 0 0), .rsstat (oX 0 (.s 4) n_ n_ n_ 0 0 0 4),
   .hwaitd (oR (.s 4) (.s 5) (.s 6) n_ 3), .tsdef (oX 0 n_ (.s 4) n_ n_ 0 0 0 1)]
/-- System. -/
def illOfSystem : List Instr :=
  [.trap (oI n_ n_ 0 0x10000), .fwcall (oI (.s 4) (.s 5) 0 0x1000), .srd (oI (.s 4) n_ 0 0x1C), .srd (oI (.s 4) n_ 0 0),
   .srd (oI (.s 4) n_ 0 0x41), .swr (oI n_ (.s 4) 0 0x01), .srd (oI (.v 3) n_ 0 0x0E),
   .srd { oI (.s 4) n_ 0 1 with h := ⟨0, false, 1⟩ }, .tretTo (oR n_ (.s 5) n_ n_ 0), .tretSkip (oR n_ n_ n_ n_ 1)]
theorem test_wf_refuses_headers : ∀ i ∈ illOfHeaders, i.wf = false := by decide +kernel
theorem test_wf_refuses_formats : ∀ i ∈ illOfFormats, i.wf = false := by decide +kernel
theorem test_wf_refuses_lanes : ∀ i ∈ illOfLanes, i.wf = false := by decide +kernel
theorem test_wf_refuses_conversions : ∀ i ∈ illOfConversions, i.wf = false := by decide +kernel
theorem test_wf_refuses_flow : ∀ i ∈ illOfFlow, i.wf = false := by decide +kernel
theorem test_wf_refuses_memory : ∀ i ∈ illOfMemory, i.wf = false := by decide +kernel
theorem test_wf_refuses_atomics : ∀ i ∈ illOfAtomics, i.wf = false := by decide +kernel
theorem test_wf_refuses_engines : ∀ i ∈ illOfEngines, i.wf = false := by decide +kernel
theorem test_wf_refuses_system : ∀ i ∈ illOfSystem, i.wf = false := by decide +kernel
/-! ### Words written out in the spec -/

/-- 04 R97 to R106 and the worked encodings of 04 to 12 and 19 to 21. -/
def wordsA : List (BitVec 96 × Instr) :=
  [(0x01000000_C0300BFF_00000000, .iadd (oR (.v 3) (.v 3) (.v 2) n_ 0)),
   (0x02008041_50500000_00000001, .isubI (oI (.s 5) (.s 5) 0 1)),
   (0x71000041_40000000_FFFFFFFE, .brcNz (oB 0 (.s 5) 0xFFFFFFFE)),
   (0x24008001_00500B00_00000001, .shflI (oI (.v 4) (.v 5) 0xB 1)),
   (0x61000001_007FFFFF_00070000, .cvtb (oR (.v 4) (.v 7) n_ n_ 7))]
def wordsB : List (BitVec 96 × Instr) :=
  [(0x48210001_80640FFF_00010000, .fdiv { oR (.v 6) (.v 6) (.s 3) n_ 1 with h := ⟨1, false, 2⟩ }),
   (0x72000050_C0000000_00000004, .brd (oB 0 (.p 3) 4)),
   (0x7A000141_80000000_00000002, .loop (oB 1 (.s 6) 2)),
   (0x81000102_50400A22_00000010, .st { oM (.v 9) (.s 4) (.v 2) 2 16 with scope := 4, ord := 2, xs := 1 }),
   (0xA0000100_D0400802_002FFF00, .atom { oA (.v 3) (.s 4) (.v 2) 2 0 (.v 11) n_ 0 with xs := 1 })]
def wordsC : List (BitVec 96 × Instr) :=
  [(0xB0000042_10A4310E_00010000, .cpy (oR (.s 8) (.s 10) (.s 12) (.s 14) 1)),
   (0xB30001FF_FFF00000_00000000, .wtbVis (oI n_ n_ 0 0)),
   (0xC3000240_90341105_01020001, .mma (oX 2 (.s 2) (.s 3) (.s 4) (.s 5) 1 2 0 1)),
   (0xE1000045_3FF00000_0000000E, .srd (oI (.s 20) n_ 0 14)),
   (0xE20000FF_D0500000_0000000E, .swr (oI n_ (.s 5) 0 14))]
def wordsD : List (BitVec 96 × Instr) :=
  [(0x8B0000FF_FFFFFC20_00000000, .fence ⟨h0, n_, n_, n_, 0, 4, 0, 0, 0, 0, 0, 0⟩),
   (0xAC0000FF_FFFFFFFF_00000000, .sbar nil),
   (0xE00000FF_FFF00000_00000009, .trap (oI n_ n_ 0 9)),
   (0x7B0000FF_FFFFFFFF_00000000, .exit nil),
   (0x730000FF_C0000000_00000005, .tok (oB 0 n_ 5))]
def wordsE : List (BitVec 96 × Instr) :=
  [(0x75000250_00000000_00000000, .brk (oB 2 (.p 0) 0)),
   (0x29000042_807FFFFF_00100000, .lred (oR (.s 10) (.v 7) n_ n_ 0x10)),
   (0xA30000FF_D0EFFC02_042BFF00, .xadd (oA n_ (.s 14) n_ 2 0 (.s 10) n_ 0)),
   (0x80000044_104FFC02_00000000, .ld (oM (.s 16) (.s 4) n_ 2 0)),
   (0xE30000FF_FFFFFFFF_00010000, .tretRetry (oR n_ n_ n_ n_ 1))]
theorem test_words_a : ∀ e ∈ wordsA, decode e.1 = some e.2 ∧ encode e.2 = some e.1 := by decide +kernel
theorem test_words_b : ∀ e ∈ wordsB, decode e.1 = some e.2 ∧ encode e.2 = some e.1 := by decide +kernel
theorem test_words_c : ∀ e ∈ wordsC, decode e.1 = some e.2 ∧ encode e.2 = some e.1 := by decide +kernel
theorem test_words_d : ∀ e ∈ wordsD, decode e.1 = some e.2 ∧ encode e.2 = some e.1 := by decide +kernel
theorem test_words_e : ∀ e ∈ wordsE, decode e.1 = some e.2 ∧ encode e.2 = some e.1 := by decide +kernel
/-- 12: `fence` with SCOPE 6 or 7; 10: `mma` with LA. -/
def refusedWords : List (BitVec 96) := [0x8B0000FF_FFFFFC30_00000000, 0x8B0000FF_FFFFFC38_00000000, 0xC3010240_90341105_01020001]
theorem test_words_refused : (refusedWords.all fun w => (decode w).isNone) = true := by decide +kernel
/-! ### Single steps -/

/-- What the wale's core is after the instruction, where it takes a next state. -/
def after {α : Type} (i : Instr) (c : WaleCore → WaleCore) (f : WaleCore → α) : Option α :=
  match exec i (onCore c) with
  | .next t => (t.wale? 0).map fun w => f w.core
  | _ => none
def both (a b : Word) (c : WaleCore) : WaleCore := withS 1 a (withS 2 b c)
def three (a b d : Word) (c : WaleCore) : WaleCore := withS 4 d (both a b c)
/-- Register s3 and the sticky flags. -/
def s3f (c : WaleCore) : Word × Word := (vget c.s 3, c.fflags)
def sss (m : BitVec 16) : ROps := oR (.s 3) (.s 1) (.s 2) n_ m
def ss (m : BitVec 16) : ROps := oR (.s 3) (.s 1) n_ n_ m

/-- 05 R112: the examples of saturation. SAT is bit 5 (02 R46). -/
theorem test_saturation :
    after (.iadds (sss 0)) (both 0x7FFFFFF0 0x20) s3f = some (0x7FFFFFFF, 0x20) ∧
    after (.iadds (sss 1)) (both 0xFFFFFFF0 0x20) s3f = some (0xFFFFFFFF, 0x20) ∧
    after (.isubs (sss 1)) (both 5 7) s3f = some (0, 0x20) := by decide +kernel
/-- 05: the example of `lea`. -/
theorem test_lea : after (.lea (oR (.s 6) (.s 4) (.s 2) n_ 0xA)) (fun c => withS 4 0x1000 (withS 5 2 (withS 2 0xFFFFFFFF c)))
    (fun c => (vget c.s 6, vget c.s 7)) = some (0x00000FFC, 2) := by decide +kernel
/-- 06: `fma` rounds once; `fmul` rounds 1 + 2^-22 + 2^-46, inexact. NX is bit 0. -/
theorem test_fma_rounds_once :
    after (.fma (oR (.s 3) (.s 1) (.s 2) (.s 4) 0)) (three 0x3F800001 0x3F800001 0xBF800002) s3f = some (0x28800000, 0) ∧
    after (.fmul (sss 0)) (both 0x3F800001 0x3F800001) s3f = some (0x3F800002, 1) := by decide +kernel
/-- 06: packed elements in their own format. -/
theorem test_hadd2 :
    after (.hadd2 (sss 0)) (both 0x7BFF3C00 0x7BFF1000) s3f = some (0x7C003C00, 5) ∧
    after (.hadd2 (sss 4)) (both 0x7BFF3C00 0x7BFF1000) s3f = some (0x7C7F3C00, 1) := by decide +kernel
/-- 03 R69: worked conversions of FP32 to BF16, to FP16 and to INT32. -/
theorem test_cvt :
    after (.cvt (ss 0x080)) (both 0x3F808000 0) s3f = some (0x3F80, 1) ∧ after (.cvt (ss 0x083)) (both 0x3F808000 0) s3f = some (0x3F81, 1) ∧
    after (.cvt (ss 0x040)) (both 0x33000000 0) s3f = some (0, 3) ∧ after (.cvt (ss 0x040)) (both 0x33800000 0) s3f = some (1, 0) ∧
    after (.cvt (ss 0x0C0)) (both 0xC0200000 0) s3f = some (0xFFFFFFFE, 1) := by decide +kernel
/-- 03 R69: the worked row of an FP32 that RTZ brings to the largest FP16: OF and NX. -/
theorem test_cvt_overflow_toward_zero : after (.cvt (ss 0x041)) (both 0x477FF000 0) s3f = some (0x7BFF, 5) := by decide +kernel
/-- 06 R149: terms of opposite infinities beside a quiet NaN raise NV (bit 4). -/
theorem test_fdp2_infinities :
    (after (.fdp2 (oR (.s 3) (.s 1) (.s 2) (.s 4) 0)) (three 0x7C00FC00 0x3C003C00 0x7FC00000) s3f).map (fun e => (e.1, e.2 &&& 0x10)) =
      some (0x7FC00000, 0x10) := by decide +kernel
/-- 06 R151: `cvt.f32.f16` with DSEL 1 keeps the other half; `cvt.i32.i8` saturates. -/
theorem test_cvt_places :
    after (.cvt (ss 0x1040)) (fun c => withS 3 0x1234 (both 0x47800000 0 c)) s3f = some (0x7C001234, 5) ∧
    after (.cvt (ss 0x14C)) (both 300 0) s3f = some (0x7F, 0x20) := by decide +kernel
/-- 03: the first worked block: strands 0 to 5. UF is bit 1. -/
def blockIn (k : Fin 32) : Word := [0x40400000, 0xBEC00000, 0x3D4CCCCD, 0x40220000, 0xBA800000, 0x39800000].getD k.val 0
theorem test_cvtb :
    after (.cvtb (oR (.v 4) (.v 7) n_ n_ 7))
      (fun c => { c with v := [(7, Vector.ofFn blockIn)], base := { c.base with em := 0xFFFFFFFF } })
      (fun c => ([0, 1, 2, 3, 4, 5].map (vget (c.getV 4) ·), c.fflags)) =
      some ([0x7A800030, 0x7A800046, 0x7A8000B3, 0x7A800028, 0x7A8000C1, 0x7A800080], 3) := by decide +kernel
/-- 03: 1.0, 2^-149 and -1.0 reach a cleared cell: VAL is 2^11, and reads as 2^-149 exactly; -2^-149 alone wraps in VAL. -/
theorem test_exact_cell :
    ([0x3F800000, 1, 0xBF800000].foldl cellAdd (0 : BitVec 512)) = 0x800 ∧ (cellRead 0x800).val = 1 ∧ (cellRead 0x800).fl = 0 ∧
    cellAdd 0 0x80000001 = 2 ^ 504 - 2 ^ 11 := by decide +kernel
/-- 03 R78: the placement of the third pair decides the sum. -/
def pairsOf (k : Nat) (i : Nat) : FV × FV :=
  if i = 0 then (unpack bf16 0x3F80, unpack bf16 0x3F80) else if i = 1 then (unpack bf16 0x3800, unpack bf16 0x3800)
  else if i = k then (unpack bf16 0xBF80, unpack bf16 0x3F80) else (unpack bf16 0, unpack bf16 0)
theorem test_group_sum :
    groupSum 2 16 0 ((List.range 32).map (pairsOf 2)) = 0x30800000 ∧ groupSum 2 16 0 ((List.range 32).map (pairsOf 16)) = 0 := by
  decide +kernel
/-- 04: `isub s5, s5, 1` placed where the step fetches: s5 wraps, and the PC advances by a slot. -/
theorem test_step_runs_placed :
    (match step (State.reset.withFetchWord 96 0x02008041_50500000_00000001) with
      | .next t => (t.wale? 0).map fun w => (vget w.core.s 5, w.core.base.pc)
      | _ => none) = some (0xFFFFFFFF, 12) := by decide +kernel
/-- 04: the worked line: PAR 0x011E, PAIR bit 23, BTM bit 27; the same line with a bit of slot 1 flipped is refused. -/
def workedLine : BitVec 512 := (0x0880011E#32 : BitVec 32) ++ (0 : BitVec 192) ++ (0x71000041_40000000_FFFFFFFE#96 : BitVec 96)
  ++ (0x02008041_50500000_00000001#96 : BitVec 96) ++ (0x01000000_C0300BFF_00000000#96 : BitVec 96)
theorem test_line_word :
    lineOk workedLine = true ∧ lineOk (workedLine ^^^ BitVec.twoPow 512 130) = false ∧ lineBtm workedLine 0 = true ∧
    lineBtm workedLine 3 = false ∧ lineSlot workedLine 2 = 0x71000041_40000000_FFFFFFFE := by decide +kernel
/-- 14 R308: the slice of the worked translation. -/
theorem test_slice : sliceOf (0x4000124468 / 64) = 11 := by decide

end Sys2Proof.Tests
end

section
/-! Proofs about the scope of the model (00 R9, 01 R34): what decodes, what the checks before an instruction stop, and what the
watchdog's end of a basket leaves. -/

namespace Sys2Proof

theorem Sparse.mem_of_find? {β : Type} {m : Sparse β} {n : Nat} {v : β} (h : Sparse.find? m n = some v) : (n, v) ∈ m := by
  induction m with
  | nil => simp at h
  | cons e m ih =>
    obtain ⟨k, u⟩ := e
    simp only [Sparse.find?] at h
    split at h
    · simp_all
    · split at h
      · simp at h
      · exact List.mem_cons_of_mem _ (ih h)

end Sys2Proof

namespace Sys2Proof.Machine

/-! ### What decodes (00 R9, 04 R108) -/

/-- A reading of a word that names no instruction but one that a wale issues (04 R108). -/
structure OnlyIssued (r : Option Instr) : Prop where
  of_eq_some : ∀ i, r = some i → issued i

theorem OnlyIssued.none : OnlyIssued none := ⟨fun _ h => nomatch h⟩
theorem OnlyIssued.some {i : Instr} (h : issued i) : OnlyIssued (some i) := ⟨fun _ e => Option.some.inj e ▸ h⟩
theorem OnlyIssued.ite {p : Prop} [Decidable p] {a b : Option Instr} (ha : OnlyIssued a) (hb : OnlyIssued b) :
    OnlyIssued (if p then a else b) := by
  split
  · exact ha
  · exact hb
theorem OnlyIssued.bind {α : Type} {f : α → Option Instr} (r : Option α) (h : ∀ o, OnlyIssued (f o)) :
    OnlyIssued (r.bind f) := by
  cases r with
  | none => exact .none
  | some o => exact h o
theorem OnlyIssued.map {α : Type} {f : α → Instr} (r : Option α) (h : ∀ o, issued (f o)) : OnlyIssued (r.map f) := by
  cases r with
  | none => exact .none
  | some o => exact .some (h o)

/-- Each row of the opcode map reads its fields into an instruction of a wale (04 R108). -/
theorem decodeRaw_onlyIssued (w : BitVec 96) : OnlyIssued (decodeRaw w) := by
  unfold decodeRaw
  dsimp only
  split
  all_goals apply_rules [OnlyIssued.ite, OnlyIssued.map, OnlyIssued.bind, OnlyIssued.some, OnlyIssued.none]
  -- the returns from a trap, which MOD tells apart
  intro o
  split
  all_goals apply_rules [OnlyIssued.some, OnlyIssued.none]

theorem decode_eq_filter (w : BitVec 96) : decode w = (decodeRaw w).filter Instr.wf := by
  unfold decode
  cases decodeRaw w <;> rfl

/-- Settles O2: a row of the opcode map names only instructions of a wale, and `decode` adds the check of `Instr.wf`. -/
theorem decodedIsWellFormed : Obligations.DecodedIsWellFormed := by
  intro w i h
  rw [decode_eq_filter] at h
  obtain ⟨raw, wf⟩ := Option.filter_eq_some_iff.mp h
  exact ⟨(decodeRaw_onlyIssued w).of_eq_some i raw, wf⟩

/-! ### The checks stand before every instruction (11 R262) -/

/-- What follows the checks of an issue: their outcome where they stop it, else the meaning `m` in the context they give. -/
def Gate.run (g : Gate) (m : Ctx → Out) : Out :=
  match g with
  | .stop o => o
  | .go x => m x

/-! Each form of a meaning begins with `gate`, and reads no state but through the context that it gives. -/

theorem issueReg_gated (i : Instr) (f : Ctx → Except Flt Res) :
    ∃ m : Ctx → Out, ∀ s, issueReg i s f = (gate i s).run m :=
  ⟨fun x => match f x with
    | .error e => .next (x.raise e)
    | .ok r => .next (x.finish (match infoOf i with | some g => g.held | none => false) r),
   fun s => by unfold issueReg Gate.run; cases gate i s <;> rfl⟩
theorem issueWith_gated (i : Instr) (f : Ctx → State) : ∃ m : Ctx → Out, ∀ s, issueWith i s f = (gate i s).run m :=
  ⟨fun x => .next (f x), fun s => by unfold issueWith Gate.run; cases gate i s <;> rfl⟩
theorem laneRead_gated (i : Instr) (lane : Ctx → Fin 32) (a : Opnd) (out : Ctx → Word → Except Flt Res) :
    ∃ m : Ctx → Out, ∀ s, laneRead i s lane a out = (gate i s).run m :=
  issueWith_gated i _

/-- Every instruction that a wale issues is checked first, as `gate` says; what it then does depends on the state only through
the context that the checks give. -/
theorem exec_gated {i : Instr} (hi : issued i) : ∃ m : Ctx → Out, ∀ s, exec i s = (gate i s).run m := by
  cases i with
  | nop | iadd | iaddI | isub | isubI | iadds | iaddsI | isubs | isubsI | imul | imulI | imulh | imulhI | imad
  | imadw | idiv | idivI | irem | iremI | imin | iminI | imax | imaxI | iabs | iadd64 | iadd64I | isub64 | isub64I
  | lea | leaI | iand | iandI | ior | iorI | ixor | ixorI | iandn | iandnI | inot | shl | shlI | shr | shrI | sar
  | sarI | rotl | rotlI | bfe | bfeI | bfi | popc | clz | brev | icmp | icmpI | sel | mov | movi | idp4 | shfl
  | shflI | vote | rdfl | lred | lscan | lmatch | elect | pand | por | pxor | pnot | pmov | emget | fadd | faddI
  | fsub | fsubI | fmul | fmulI | fma | fmin | fminI | fmax | fmaxI | fcmp | fcmpI | fclass | fdiv | fdivI | frcp
  | fsqrt | frsq | fpow2 | flog2 | frnd | hadd2 | hmul2 | hfma2 | fdp2 | cvt | cvtb | cvtbx | rsstat | srd =>
    dsimp only [exec]; exact issueReg_gated _ _
  | rdln | rdlnI | bcast | bcastI =>
    dsimp only [exec]; exact laneRead_gated _ _ _ _
  | fwcallReply | resultLand | regionRelease | wakeWave | hwaitdWake | wdog | homeoffReply | pageReplyMapped
  | pageReplyRefused | waleRetire | engineCommandComplete | sourcePoint | engineFault | stagingClear | cpymmFollowOn
  | matrixBurstStart | matrixResultClear | unitPreempt | unitResume | lineFill | sensorReport | guardEvent
  | tagWindowClose | clearSend | taggedFlitReceive | clearReceive | squashReceive | vfQnotify | queueEnable
  | queueDisable | queueResume | nopEntry | launch | signalWait | signalWrite | graphNodeDeclaration
  | recoveryExtension | unknownEntry | rimAdmit | heldSkeinAdmit | prodbmPoll | priorityPreempt | vfEvbaseWrite
  | vfEvptrWrite | functionLevelReset | purge | wsSave | wsMsave | wsRestore | qcancel | partitionChange
  | funcpartWrite | dieResetGo | quiesceTimeout | flush | dieReset | retrain | readmit | attestationRequest
  | flitCrcRetry | protocolError | linkRetrain | retryThreshold | laneFailure | trainingTimeout | sigadd | revoke
  | grantRelease | grantTimeout | notificationDelivery | hotLineCool | l1Gate | waygateWrite | keyRetire
  | keyRetireDone | tlbInvalidate | tlbInvalidateDone | dscWinWrite | windowZeroingDone | bwshareWrite
  | hbmModeChange | qsmWindowWrite | qsmCtlWrite | qsmInjectArm | qsmInjectDisarm | injectionFire | stormIntervalEnd
  | sensorSelfTest | tokenHop | tokenHoldLimit | pwrTokensWrite | classWrite | classChangeApply | railStep
  | railHoldExpiry | allotmentThrottle | pwrAllotWrite | thermalSensorUpdate | thermalThrottleStep | thermalTrip
  | noValidSensorTimeout | packageReset | fwPkgrstGo | pluginTimeout | pluginViolation | telemetryRecord
  | hostWindowRead | hostWindowWrite | registerWrite | trainingComplete | burstEnd | wayGatingDone | regionUnfence
  | peerRequest =>
    exact absurd hi Bool.false_ne_true
  | _ => dsimp only [exec]; exact issueWith_gated _ _

theorem issued_of_info {i : Instr} {f : Info} (h : infoOf i = some f) : issued i := Option.isSome_of_eq_some h

theorem exec_of_gate_stop {i : Instr} {s : State} {o : Out} (hi : issued i) (h : gate i s = .stop o) : exec i s = o := by
  obtain ⟨m, hm⟩ := exec_gated hi
  rw [hm, h]; rfl

/-- With no instruction left before the yield deadline the watchdog ends the basket, whatever the instruction (07 R175). -/
theorem gate_overdue {i : Instr} {f : Info} {s : State} {y : Ctx} (hf : infoOf i = some f) (hy : s.ctx? = some y)
    (h : y.core.yleft = 0) : gate i s = .stop (.next (s.wdog y.st y.arm)) := by
  unfold gate; rw [hf, hy]; exact if_pos h

/-- An encoding or a place that is illegal raises ILL before any other check of the instruction (00 R9, 02 R42, 04 R95). -/
theorem gate_illegal {i : Instr} {f : Info} {s : State} {y : Ctx} (hf : infoOf i = some f) (hy : s.ctx? = some y)
    (h0 : y.core.yleft ≠ 0)
    (h : i.wf = false ∨ vregsOk y.st.wl.vregs f.regs = false ∨ shadowIll y.core y.arm f = true) :
    gate i s = .stop (.next (y.raiseEm cILL)) := by
  have hc : (!i.wf || !vregsOk y.st.wl.vregs f.regs || shadowIll y.core y.arm f) = true := by
    obtain h | h | h := h <;> simp [h]
  unfold gate; rw [hf, hy]; exact (if_neg h0).trans (if_pos hc)

/-! ### Operations that leave wales and baskets alone -/

/-- `t` has the wales and the basket entries of `s`. -/
structure SameWork (s t : State) : Prop where
  wales : t.wales = s.wales
  baskets : t.baskets = s.baskets

theorem SameWork.refl (s : State) : SameWork s s := ⟨rfl, rfl⟩
theorem SameWork.trans {a b c : State} (h : SameWork a b) (k : SameWork b c) : SameWork a c :=
  ⟨k.wales.trans h.wales, k.baskets.trans h.baskets⟩
theorem SameWork.foldl {α : Type} {f : State → α → State} (h : ∀ s a, SameWork s (f s a)) (l : List α) (s : State) :
    SameWork s (l.foldl f s) := by
  induction l generalizing s with
  | nil => exact .refl s
  | cons a l ih => exact (h s a).trans (ih _)
theorem SameWork.ite {s t u : State} {p : Prop} [Decidable p] (ht : SameWork s t) (hu : SameWork s u) :
    SameWork s (if p then t else u) := by
  split
  · exact ht
  · exact hu

theorem State.sameWork_updDie (s : State) (d : Fin 4) (f : Die → Die) : SameWork s (s.updDie d f) := ⟨rfl, rfl⟩
theorem State.sameWork_setRegF (s : State) (k hi lo x : Nat) : SameWork s (s.setRegF k hi lo x) := ⟨rfl, rfl⟩
theorem State.sameWork_owe (s : State) (f : Nat) (x : FeFx) : SameWork s (s.owe f x) := ⟨rfl, rfl⟩

theorem State.sameWork_recall (s : State) (l : Nat) (b : Option Nat) : SameWork s (s.recall l b) := ⟨rfl, rfl⟩
/-- The front end writes at level 3, where every cached copy of the line is recalled. -/
theorem State.sameWork_touch_write (s : State) (d : Fin 4) (l : Loc) : SameWork s (s.touch d 0 3 .write l) := by
  unfold State.touch
  split
  · exact .ite (.refl s) (s.sameWork_recall _ none)
  · exact .refl s
theorem State.sameWork_takeGrant (s : State) (pa : Nat) (wr : Bool) : SameWork s (s.takeGrant pa wr) :=
  .ite ⟨rfl, rfl⟩ (.refl s)
theorem State.sameWork_callBack (s : State) (p : Nat) : SameWork s (s.callBack p) := by
  unfold State.callBack
  split
  · exact .ite (.refl s) ⟨rfl, rfl⟩
  · exact .refl s
theorem State.sameWork_failed (s : State) (e : XErr) : SameWork s (s.failed e) := by
  unfold State.failed
  split
  · exact ⟨rfl, rfl⟩
  · exact s.sameWork_callBack _
  · exact .refl s

/-! ### Writes -/

theorem State.sameWork_physWrite (s : State) (key pa : Nat) (bs : List Byte) : SameWork s (s.physWrite key pa bs) := by
  rw [State.physWrite_rest]; exact ⟨rfl, rfl⟩
theorem State.sameWork_physWriteRun (n : Nat) (s : State) (key pa : Nat) (bs : List Byte) :
    SameWork s (State.physWriteRun n s key pa bs) := by
  rw [State.physWriteRun_rest]; exact ⟨rfl, rfl⟩
theorem State.sameWork_setAD (s : State) (x : Xl) (wr : Bool) : SameWork s (s.setAD x wr) := by
  unfold State.setAD
  split
  · exact .refl s
  · have mark (s : State) (a m : Nat) :
        SameWork s (if s.pte a ||| m = s.pte a then s else s.physWrite 0 a (bytesLE 8 (s.pte a ||| m))) :=
      .ite (.refl s) (s.sameWork_physWrite _ _ _)
    exact (mark s _ _).trans (.foldl (fun s a => mark s a _) _ _)
theorem State.sameWork_ioStore (s : State) (pa f : Nat) (d : Fin 4) (bs : List Byte) : SameWork s (s.ioStore pa f d bs) :=
  .ite (s.sameWork_updDie _ _) (.refl s)
theorem State.sameWork_ring (s : State) (pa : Nat) (bs : List Byte) : SameWork s (s.ring pa bs) :=
  .ite ⟨rfl, rfl⟩ (.refl s)
theorem State.sameWork_locWrite (s : State) (g : Agent) (sd : Fin 4) (a : Acc) : SameWork s (s.locWrite g sd a) := by
  unfold State.locWrite
  split
  case h_1 pa va key f _ mt _ =>
    have bytes : SameWork s ((State.physWriteRun 8 (s.watch f va a.bytes.length) key pa a.bytes).unpublish g pa) :=
      ((⟨rfl, rfl⟩ : SameWork s (s.watch f va a.bytes.length)).trans (State.sameWork_physWriteRun _ _ _ _ _)).trans ⟨rfl, rfl⟩
    exact .ite (.refl s) (.ite (s.sameWork_ioStore _ _ _ _) (.ite (s.sameWork_ring _ _) bytes))
  all_goals exact ⟨rfl, rfl⟩

/-! ### The front end -/

/-- The state that comes of a write by the front end has the wales and basket entries of `s`. -/
def FeOut.SameWork (s : State) : FeOut → Prop
  | .done t | .waits t => Machine.SameWork s t
  | .refused _ => True

theorem State.sameWork_fePut (s : State) (f va : Nat) (bs : List Byte) : (s.fePut f va bs).SameWork s := by
  unfold State.fePut
  split
  · split
    · exact s.sameWork_failed _
    · trivial
  · dsimp only
    split
    · exact SameWork.refl s
    · exact (((s.sameWork_setAD _ true).trans (State.sameWork_takeGrant _ _ true)).trans
        (State.sameWork_touch_write _ _ _)).trans (State.sameWork_locWrite _ _ _ _)
theorem State.sameWork_feWrite {s t : State} {f va : Nat} {bs : List Byte} (h : s.feWrite f va bs = some t) :
    SameWork s t := by
  have put := s.sameWork_fePut f va bs
  unfold State.feWrite at h
  split at h
  · cases h; exact s.sameWork_owe _ _
  · split at h
    all_goals (rename_i e; rw [e] at put)
    · cases h; exact put
    · cases h; exact put.trans (State.sameWork_owe _ _ _)
    · cases h
theorem State.sameWork_feTry (s : State) (f va : Nat) (bs : List Byte) : SameWork s (s.feTry f va bs) := by
  unfold State.feTry
  split
  · exact State.sameWork_feWrite ‹_›
  · split
    · exact s.sameWork_failed _
    · exact .refl s
theorem State.sameWork_pass (s : State) (f q n : Nat) : SameWork s (s.pass f q n) := ⟨rfl, rfl⟩
theorem State.sameWork_testWaits (s : State) (d : Fin 4) (i : Nat) (v : Word) : SameWork s (s.testWaits d i v) := by
  unfold State.testWaits
  split
  · exact .refl s
  · exact SameWork.foldl (f := fun (s : State) (w : SigWait) => s.pass w.func w.queue 1)
      (fun s w => s.sameWork_pass w.func w.queue 1) _ s
theorem State.sameWork_sigOp (s : State) (d : Fin 4) (i : Nat) (add : Bool) (x : Word) : SameWork s (s.sigOp d i add x) :=
  (s.sameWork_updDie d _).trans (State.sameWork_testWaits _ _ _ _)
theorem State.sameWork_feSig (s : State) (f : Nat) (d : Fin 4) (i : Nat) (add : Bool) (x : Word) :
    SameWork s (s.feSig f d i add x) :=
  .ite (s.sameWork_owe _ _) (s.sameWork_sigOp _ _ _ _)
theorem State.sameWork_withdraw (s : State) (d : Fin 4) (c : Fin 8) : SameWork s (s.withdraw d c) := by
  unfold State.withdraw
  split
  · exact .refl s
  · extract_lets s1 k t falls s2
    have h1 : SameWork s s1 := ⟨rfl, rfl⟩
    have h2 : SameWork s1 s2 := s1.sameWork_setRegF _ _ _ _
    exact (h1.trans h2).trans (.ite (s2.sameWork_setRegF _ _ _ _) (.refl s2))
theorem State.sameWork_withdrawAll (s : State) : SameWork s s.withdrawAll :=
  .foldl (fun s d => .foldl (fun s c => s.sameWork_withdraw d c) _ s) _ s

/-! ### Completion -/

/-- `t` has the wales of `s`, and basket entries in the canonical form when those of `s` are. -/
structure KeepsWales (s t : State) : Prop where
  wales : t.wales = s.wales
  baskets : Sparse.wf s.baskets = true → Sparse.wf t.baskets = true

theorem SameWork.keepsWales {s t : State} (h : SameWork s t) : KeepsWales s t := ⟨h.wales, fun w => h.baskets ▸ w⟩
theorem KeepsWales.refl (s : State) : KeepsWales s s := ⟨rfl, id⟩
theorem KeepsWales.trans {a b c : State} (h : KeepsWales a b) (k : KeepsWales b c) : KeepsWales a c :=
  ⟨k.wales.trans h.wales, fun w => k.baskets (h.baskets w)⟩

theorem State.keepsWales_nodes (s : State) (ns : Sparse GNode) : KeepsWales s { s with nodes := ns } := ⟨rfl, id⟩
theorem State.keepsWales_startBasket (s : State) (b : Nat) : KeepsWales s (s.startBasket b) := by
  unfold State.startBasket
  split
  · exact .refl s
  · exact ⟨rfl, Sparse.wf_upd b _⟩
theorem State.keepsWales_decNode (a : State × List Nat) (n : Nat) : KeepsWales a.1 (State.decNode a n).1 := by
  obtain ⟨s, e⟩ := a
  unfold State.decNode
  dsimp only
  split
  · exact .refl s
  · split
    · exact ⟨rfl, id⟩
    · split
      · exact ⟨rfl, id⟩
      · split
        · exact (s.keepsWales_nodes _).trans (State.keepsWales_startBasket _ _)
        · exact ⟨rfl, id⟩
theorem State.keepsWales_decNodes (ns : List Nat) (a : State × List Nat) :
    KeepsWales a.1 (ns.foldl State.decNode a).1 := by
  induction ns generalizing a with
  | nil => exact .refl a.1
  | cons n ns ih => exact (State.keepsWales_decNode a n).trans (ih _)
theorem State.keepsWales_completeNodes (fuel : Nat) (s : State) (ns : List Nat) :
    KeepsWales s (State.completeNodes fuel s ns) := by
  induction fuel generalizing s ns with
  | zero => exact .refl s
  | succ fuel ih =>
    unfold State.completeNodes
    split
    · exact .refl s
    · split
      · exact ih s _
      · rename_i n rest _ g _
        have dec := State.keepsWales_decNodes (sortNat g.succ) ({ s with nodes := Sparse.del s.nodes n }, rest)
        exact ((s.keepsWales_nodes _).trans dec).trans (ih _ _)
theorem State.keepsWales_feNode (s : State) (f n : Nat) : KeepsWales s (s.feNode f n) := by
  unfold State.feNode
  split
  · exact (s.sameWork_owe _ _).keepsWales
  · exact s.keepsWales_completeNodes _ _
/-- The completion word, the signal and the successors of 15 R336 touch no wale. -/
theorem State.keepsWales_complete (s : State) (f : Nat) (pkt : BitVec 512) (status : Nat) (rej : Bool) :
    KeepsWales s (s.complete f pkt status rej) := by
  unfold State.complete
  extract_lets s1 s2
  have h1 : SameWork s s1 := .ite (.refl s) (s.sameWork_feTry _ _ _)
  have h2 : SameWork s1 s2 := .ite (s1.sameWork_feSig _ _ _ _ _) (.refl s1)
  refine (h1.trans h2).keepsWales.trans ?_
  split
  · exact s2.keepsWales_feNode _ _
  · exact .refl s2

/-! ### The end of a basket -/

theorem State.sameWork_markIdle (s : State) (hs : List (Nat × Hoop)) :
    SameWork s (hs.foldl (fun s e => s.markIdle e.2) s) :=
  .foldl (f := fun s (e : Nat × Hoop) => s.markIdle e.2) (fun s _ => s.sameWork_updDie _ _) hs s
theorem State.dropBasket_baskets (s : State) (b : Nat) : (s.dropBasket b).baskets = s.baskets :=
  (s.sameWork_markIdle _).baskets
/-- The wales that stay are those in no hoop of the basket's skeins. -/
theorem State.dropBasket_wales (s : State) (b : Nat) :
    (s.dropBasket b).wales = s.wales.filter fun e =>
      !((s.hoops.filter fun h => ((s.skeinsOf b).map (·.1)).contains h.2.skein).map (·.1)).contains e.2.hoop := by
  unfold State.dropBasket
  extract_lets ks gone hs t
  have idle : SameWork s t := s.sameWork_markIdle _
  rw [← idle.wales]

/-- A wale that is left when a basket's units are gone stood in `s`, in no hoop of the basket's skeins. -/
theorem State.mem_wales_dropBasket {s : State} {b : Nat} {e : Nat × Wale} (he : e ∈ (s.dropBasket b).wales) :
    e ∈ s.wales ∧ ∀ h k, s.hoop? e.2.hoop = some h → s.skein? h.skein = some k → k.basket ≠ b := by
  rw [State.dropBasket_wales] at he
  obtain ⟨he, out⟩ := List.mem_filter.mp he
  refine ⟨he, fun h k hh hk hb => ?_⟩
  have skein : (h.skein, k) ∈ s.skeinsOf b := List.mem_filter.mpr ⟨Sparse.mem_of_find? hk, by simp [hb]⟩
  have hoop : (e.2.hoop, h) ∈ s.hoops := Sparse.mem_of_find? hh
  simp only [Bool.not_eq_true', List.contains_eq_mem, decide_eq_false_iff_not, List.mem_map, List.mem_filter,
    decide_eq_true_eq] at out
  exact out ⟨_, ⟨hoop, _, skein, rfl⟩, rfl⟩

/-- The report of a fault is written before the basket's completion (11 R267). -/
def State.writeReport (s : State) (x : Basket) : Option Report → State
  | none => s
  | some r =>
    if pkFaultRep x.pkt == 0 then s
    else match s.feWrite x.func (pkFaultRep x.pkt).toNat (r.bytes.take 16) with
      | none => s.feTry x.func (pkFaultRep x.pkt).toNat (r.bytes.take 16)
      | some t => t.feTry x.func ((pkFaultRep x.pkt).toNat + 16) (r.bytes.drop 16)
/-- The entry of a basket is free. -/
def State.freeEntry (s : State) (b : Nat) : State := { s with baskets := Sparse.del s.baskets b }

theorem State.endBasket_eq {s : State} {b : Nat} {x : Basket} (h : s.basket? b = some x) (status : Nat) (rej : Bool)
    (rep : Option Report) : s.endBasket b status rej rep =
      ((((s.dropBasket b).writeReport x rep).complete x.func x.pkt status rej).freeEntry b).withdrawAll := by
  unfold State.endBasket
  rw [h]
  cases rep <;> rfl
theorem State.sameWork_writeReport (s : State) (x : Basket) (rep : Option Report) : SameWork s (s.writeReport x rep) := by
  unfold State.writeReport
  split
  · exact .refl s
  · split
    · exact .refl s
    · split
      · exact s.sameWork_feTry _ _ _
      · exact (State.sameWork_feWrite ‹_›).trans (State.sameWork_feTry _ _ _ _)

/-- A basket that is ended leaves its entry free and no wale but those of other baskets, as they were (11 R267). -/
theorem State.endBasket_spec {s : State} {b : Nat} {x : Basket} (hx : s.basket? b = some x)
    (hw : Sparse.wf s.baskets = true) (status : Nat) (rej : Bool) (rep : Option Report) :
    (s.endBasket b status rej rep).basket? b = none ∧ (s.endBasket b status rej rep).wales = (s.dropBasket b).wales := by
  rw [State.endBasket_eq hx]
  have report := (s.dropBasket b).sameWork_writeReport x rep
  have ended := report.keepsWales.trans (State.keepsWales_complete _ x.func x.pkt status rej)
  generalize ((s.dropBasket b).writeReport x rep).complete x.func x.pkt status rej = u at ended
  have rails := (u.freeEntry b).sameWork_withdrawAll
  have wf : Sparse.wf u.baskets = true := ended.baskets (s.dropBasket_baskets b ▸ hw)
  refine ⟨?_, rails.wales.trans ended.wales⟩
  calc (u.freeEntry b).withdrawAll.basket? b
    _ = Sparse.find? (Sparse.del u.baskets b) b := congrArg (Sparse.find? · b) rails.baskets
    _ = none := (Sparse.find?_del b b wf).trans (if_pos rfl)

theorem State.site?_basket {s : State} {w : Nat} {st : Site} (h : s.site? w = some st) :
    s.basket? st.skein.basket = some st.basket := by
  unfold State.site? at h
  repeat' split at h
  all_goals cases h
  assumption

theorem State.wdog_spec {s : State} {w : Nat} {st : Site} (hs : s.site? w = some st) (hw : Sparse.wf s.baskets = true)
    (a : ArmId) :
    (s.wdog st a).basket? st.skein.basket = none ∧ (s.wdog st a).wales = (s.dropBasket st.skein.basket).wales := by
  unfold State.wdog
  exact State.endBasket_spec (State.site?_basket hs) hw _ _ _

/-! ### Illegal and overdue instructions -/

theorem raised_of_illegal {i : Instr} {f : Info} {s : State} {y : Ctx} (hf : infoOf i = some f) (hy : s.ctx? = some y)
    (h0 : y.core.yleft ≠ 0)
    (h : i.wf = false ∨ vregsOk y.st.wl.vregs f.regs = false ∨ shadowIll y.core y.arm f = true) :
    ∃ t, exec i s = .next t ∧ Raised y (y.record ⟨cILL, 0, y.fr.em⟩) t :=
  ⟨_, exec_of_gate_stop (issued_of_info hf) (gate_illegal hf hy h0 h), raised_raise y ⟨cILL, 0, y.fr.em⟩⟩

theorem basket_ended_of_overdue {i : Instr} {f : Info} {s : State} {y : Ctx} (hf : infoOf i = some f)
    (hy : s.ctx? = some y) (h0 : y.core.yleft = 0) (hw : Sparse.wf s.baskets = true) :
    ∃ t, exec i s = .next t ∧ t.basket? y.st.skein.basket = none ∧
      ∀ e ∈ t.wales, e ∈ s.wales ∧ ∀ h k, s.hoop? e.2.hoop = some h → s.skein? h.skein = some k →
        k.basket ≠ y.st.skein.basket := by
  obtain ⟨-, site, -⟩ := State.ctx?_spec hy
  obtain ⟨gone, left⟩ := State.wdog_spec site hw y.arm
  exact ⟨_, exec_of_gate_stop (issued_of_info hf) (gate_overdue hf hy h0), gone,
    fun e he => State.mem_wales_dropBasket (left ▸ he)⟩

/-- Settles O5: the checks of `gate` stop the instruction with ILL, or with the end of its basket, before anything else. -/
theorem illegalAndOverdueInstructions : Obligations.IllegalAndOverdueInstructions :=
  fun _ _ _ _ hf hy => ⟨raised_of_illegal hf hy, basket_ended_of_overdue hf hy⟩

end Sys2Proof.Machine
end

section
/-! Proofs about a wale's regions and registers (02 R45 to R54): the head made before an instruction, and what waits for it. -/

namespace Sys2Proof.Machine

/-! ### The region checks of an issue (02 R52, R53) -/

/-- The last of the checks before an instruction: a single region is drained, and an implicit head is made. -/
def regionGate (f : Info) (x : Ctx) : Gate :=
  if f.single then
    if x.st.wl.drained then .go x else .stop (.next x.drainWait)
  else if x.headDue then
    if x.st.wl.old.isSome then .stop (.next x.drainWait) else .go x.withHead
  else .go x

theorem regionGate_undrained {f : Info} {x : Ctx} (single : f.single = true) (h : x.st.wl.drained = false) :
    regionGate f x = .stop (.next x.drainWait) := by simp [regionGate, single, h]
theorem regionGate_older {f : Info} {x : Ctx} (plain : f.single = false) (due : x.headDue = true) (h : x.st.wl.old ≠ none) :
    regionGate f x = .stop (.next x.drainWait) := by simp [regionGate, plain, due, Option.isSome_iff_ne_none.mpr h]
theorem regionGate_head {f : Info} {x : Ctx} (plain : f.single = false) (due : x.headDue = true) (h : x.st.wl.old = none) :
    regionGate f x = .go x.withHead := by simp [regionGate, plain, due, h]

/-- The fragment of context `y` passes the checks of `i` up to its region. -/
structure Passes (i : Instr) (f : Info) (y : Ctx) : Prop where
  left : y.core.yleft ≠ 0
  wf : i.wf = true
  regs : vregsOk y.st.wl.vregs f.regs = true
  shadow : shadowIll y.core y.arm f = false
  point : atPoint i f (y.header f) = false ∨ judge y.core y.arm (splits i y.core y.fr) = .go

theorem passes_of_checked {i : Instr} {f : Info} {s : State} {x : Ctx} (hf : infoOf i = some f) (h : checked i s = some x) :
    ∃ y, s.ctx? = some y ∧ x = y.header f ∧ Passes i f y := by
  cases hy : s.ctx? with
  | none => simp [checked, legal, hy] at h
  | some y =>
    simp only [checked, legal, hf, hy] at h
    by_cases legal : (y.core.yleft != 0 && i.wf && vregsOk y.st.wl.vregs f.regs && !shadowIll y.core y.arm f) = true
    · simp only [legal, if_true, Option.ite_none_right_eq_some, Option.some.injEq, Bool.or_eq_true, Bool.not_eq_true',
        beq_iff_eq] at h
      simp only [Bool.and_eq_true, bne_iff_ne, Bool.not_eq_true'] at legal
      obtain ⟨⟨⟨left, wf⟩, regs⟩, shadow⟩ := legal
      obtain ⟨point, rfl⟩ := h
      exact ⟨y, rfl, rfl, left, wf, regs, shadow, point⟩
    · simp only [legal, Bool.false_eq_true, if_false] at h
      cases h

/-- Where the fragment passes the other checks, the region's decides. -/
theorem gate_of_passes {i : Instr} {f : Info} {s : State} {y : Ctx} (hf : infoOf i = some f) (hy : s.ctx? = some y)
    (p : Passes i f y) : gate i s = regionGate f (y.header f) := by
  obtain ⟨hs, site, hfr, -⟩ := State.ctx?_spec hy
  subst hs
  obtain ⟨left, wf, regs, shadow, point⟩ := p
  have same : (y.header f).withCore (y.header f).core = y.header f := Ctx.withCore_self (State.site?_wale site) hfr
  unfold gate
  rw [hf, hy]
  simp only [left, if_false, wf, regs, shadow, Bool.not_true, Bool.or_self, Bool.false_eq_true]
  generalize hx : y.header f = x at point same
  have goes : (if (splits i x.core x.fr || f.sfp || f.dst.isS || atLoopEnd x.core x.fr.pc) = true
      then judge x.core x.arm (splits i x.core x.fr) else Sfp.go) = .go := by
    subst hx
    obtain apart | free := point
    · exact if_neg (by simpa [atPoint] using apart)
    · exact ite_eq_right_iff.mpr fun _ => free
  rw [goes, show applyJudge x.core x.arm (splits i x.core x.fr) .go = x.core from rfl, same]
  rfl

/-! ### The head before an instruction (02 R52) -/

/-- Where a wale stands: its hoop, that hoop's skein, that skein's basket. -/
theorem State.site?_eq_some_iff {s : State} {w : Nat} {st : Site} :
    s.site? w = some st ↔ st.w = w ∧ s.wale? w = some st.wl ∧ s.hoop? st.wl.hoop = some st.hoop ∧
      s.skein? st.hoop.skein = some st.skein ∧ s.basket? st.skein.basket = some st.basket := by
  obtain ⟨k, wl, hoop, skein, basket⟩ := st
  unfold State.site?
  constructor
  · intro h
    repeat' split at h
    all_goals simp_all
  · rintro ⟨rfl, hw, hh, hk, hb⟩
    simp only at hw hh hk hb
    simp only [hw, hh, hk, hb]

/-- The site of a wale that has changed, where it stays in its hoop. -/
theorem State.site?_setWale {s : State} {w : Nat} {st : Site} (h : s.site? w = some st) {wl : Wale}
    (hoop : wl.hoop = st.wl.hoop) : (s.setWale w wl).site? w = some { st with wl := wl } := by
  obtain ⟨hw, -, hh, hk, hb⟩ := State.site?_eq_some_iff.mp h
  exact State.site?_eq_some_iff.mpr ⟨hw, by simp, by simpa [hoop] using hh, hk, hb⟩

/-- The context of an issue is that of the fragment `s.cur` names, with no header yet. -/
theorem State.ctx?_eq_some_iff {s : State} {y : Ctx} :
    s.ctx? = some y ↔ s.cur = some ⟨y.st.w, y.arm⟩ ∧ s.site? y.st.w = some y.st ∧
      y = { s := s, st := y.st, arm := y.arm, fr := y.core.frag y.arm, la := 0, vis := (y.core.frag y.arm).em } := by
  constructor
  · intro h
    obtain ⟨-, site, -, cur⟩ := State.ctx?_spec h
    refine ⟨cur, site, ?_⟩
    simp only [State.ctx?, cur, site] at h
    exact (Option.some.inj h).symm
  · rintro ⟨cur, site, whole⟩
    simp only [State.ctx?, cur, site]
    exact congrArg some whole.symm

/-- After a region head made for it, the wale issues in the context after the head. -/
theorem State.ctx?_withHead {s : State} {y : Ctx} (h : s.ctx? = some y) : y.withHead.s.ctx? = some y.withHead := by
  obtain ⟨cur, site, whole⟩ := State.ctx?_eq_some_iff.mp h
  have hs : y.s = s := congrArg Ctx.s whole
  refine State.ctx?_eq_some_iff.mpr ⟨(congrArg State.cur hs).trans cur, State.site?_setWale (hs ▸ site) rfl, ?_⟩
  exact congrArg (fun z : Ctx => ({ z with s := y.withHead.s, st := y.withHead.st } : Ctx)) whole

/-- A head changes nothing of what the checks before the region look at. -/
theorem Passes.withHead {i : Instr} {f : Info} {y : Ctx} (p : Passes i f y) : Passes i f y.withHead where
  left := p.left
  wf := p.wf
  regs := p.regs
  shadow := by
    have same : shadowIll y.withHead.core y.arm f = shadowIll y.core y.arm f := by
      simp [shadowIll, WaleCore.inShadow, Ctx.withHead, Ctx.core, Wale.head, WaleCore.age, List.any_map, Function.comp_def]
    exact same.trans p.shadow
  point := p.point

/-- What issues after the head issues as before it: the counts start again, and no second head is due (02 R52). -/
theorem gate_withHead {i : Instr} {f : Info} {s : State} {y : Ctx} (hf : infoOf i = some f) (hy : s.ctx? = some y)
    (p : Passes i f y) (plain : f.single = false) : gate i y.withHead.s = .go (y.header f).withHead := by
  rw [gate_of_passes hf (State.ctx?_withHead hy) p.withHead]
  simp only [regionGate, plain, Bool.false_eq_true, if_false]
  rfl

theorem exec_of_gate_eq {i : Instr} {s t : State} (hi : issued i) (h : gate i s = gate i t) : exec i s = exec i t := by
  obtain ⟨m, run⟩ := exec_gated hi
  rw [run, run, h]

/-- Settles O6: the last check of `gate` makes the head, or lets the wale drain first. -/
theorem headsBeforeInstructions : Obligations.HeadsBeforeInstructions := by
  intro i f s x hf hx
  obtain ⟨y, hy, rfl, passes⟩ := passes_of_checked hf hx
  have checks := gate_of_passes hf hy passes
  have issue := issued_of_info hf
  have drains : regionGate f (y.header f) = .stop (.next (y.header f).drainWait) →
      ∃ t, exec i s = .next t ∧ Drains (y.header f) t :=
    fun waits => ⟨_, exec_of_gate_stop issue (checks.trans waits), drains_drainWait _⟩
  refine ⟨fun plain full => ?_, fun single open_ => drains (regionGate_undrained single open_)⟩
  have due : (y.header f).headDue = true := by simp only [Ctx.headDue, Bool.or_eq_true, decide_eq_true_eq]; exact full
  refine ⟨fun alone => exec_of_gate_eq issue ?_, fun older => drains (regionGate_older plain due older)⟩
  obtain rfl := (State.ctx?_spec hy).1
  exact (checks.trans (regionGate_head plain due alone)).trans (gate_withHead hf hy passes plain).symm

end Sys2Proof.Machine
end

section
/-! Proofs about the special registers (02 R45, 07 R172, 11 R257, R258). -/

namespace Sys2Proof.Machine

/-! ### Fields and pairs -/

theorem ofNat_pair (a b : Nat) :
    pair (BitVec.ofNat 32 a) (BitVec.ofNat 32 b) = BitVec.ofNat 64 (a % 2 ^ 32 + b % 2 ^ 32 * 2 ^ 32) := by
  apply BitVec.eq_of_toNat_eq
  simp only [pair, BitVec.toNat_append, BitVec.toNat_ofNat]
  rw [← Nat.shiftLeft_add_eq_or_of_lt (by omega), Nat.shiftLeft_eq]
  omega
theorem ofNat_toNat_lo32 (a : Dword) : lo32 a = BitVec.ofNat 32 a.toNat := by
  apply BitVec.eq_of_toNat_eq; simp [lo32]
theorem ofNat_toNat_hi32 (a : Dword) : hi32 a = BitVec.ofNat 32 (a.toNat / 2 ^ 32) := by
  apply BitVec.eq_of_toNat_eq; simp [hi32, Nat.shiftRight_eq_div_pow]
theorem toNat_fld_low {n : Nat} (x : BitVec n) (hi : Nat) : fld x hi 0 = x.toNat % 2 ^ (hi + 1) := by
  simp [fld]
theorem fld_eq_one_iff {n : Nat} (x : BitVec n) (i : Nat) : fld x i i = 1 ↔ x.getLsbD i = true := by
  simp [fld, BitVec.getLsbD, Nat.testBit, Nat.shiftRight_eq_div_pow, Nat.and_comm 1]

/-! ### Reading (11 R257) -/

theorem Wale.rgn_eq (w : Wale) : w.rgn =
    BitVec.ofNat 32 ((w.core.icount + w.core.wcount * 2 ^ 10) % 2 ^ 32 ||| if w.old.isSome then 2 ^ 17 else 0) := by
  have counts : BitVec.ofNat 32 ((w.core.icount + w.core.wcount * 2 ^ 10) % 2 ^ 32) =
      BitVec.ofNat 32 (w.core.icount + w.core.wcount * 2 ^ 10) := BitVec.eq_of_toNat_eq (by simp)
  rw [BitVec.ofNat_or, counts, Wale.rgn, flagIf]
  split <;> rfl

/-- Each index of the model's table reads as the rules say. -/
theorem srVal_eq_special (x : Ctx) (i : Nat) : x.srVal i = BitVec.ofNat 32 (Rule.special x i) := by
  unfold Ctx.srVal Rule.special
  split
  case h_27 => exact Wale.rgn_eq x.st.wl
  all_goals simp [ofNat_toNat_lo32, ofNat_toNat_hi32, Wale.occ, rimOf]

/-- The result of `srd` by its index and W (11 R257). -/
def srdRes (o : IOps) (x : Ctx) : Except Flt Res :=
  let i := fld o.imm 5 0
  if i = 0 then x.out o.d fun j => ⟨BitVec.ofNat 32 j.val, 0⟩
  else if fld o.imm 6 6 = 1 then x.out64 o.d fun _ => pair (x.srVal i) (x.srVal (i + 1))
  else x.out o.d fun _ => ⟨x.srVal i, 0⟩

theorem ran_srd {o : IOps} {s : State} {x : Ctx} {r : Res} (h : ready (.srd o) s = some x) (hr : srdRes o x = .ok r) :
    ∃ t, exec (.srd o) s = .next t ∧ RanOn x false r t :=
  issueReg_ok h rfl rfl hr

theorem out_eq_wordRes (x : Ctx) (d : Opnd) (f : Fin 32 → FRes Word) : x.out d f = .ok (x.wordRes d f) := rfl
theorem out64_eq_pairRes (x : Ctx) (d : Opnd) (f : Fin 32 → Dword) : x.out64 d f = .ok (x.pairRes d f) := by
  have lo (a : Dword) : BitVec.ofNat 32 a.toNat = lo32 a := (ofNat_toNat_lo32 a).symm
  have hi (a : Dword) : BitVec.ofNat 32 (a.toNat / 2 ^ 32) = hi32 a := (ofNat_toNat_hi32 a).symm
  simp only [Ctx.pairRes, lo, hi]
  rfl

theorem readsSpecial (s : State) (x : Ctx) (o : IOps) (h : ready (.srd o) s = some x) :
    let i := o.imm.toNat % 64
    (i = 0 → ∃ t, exec (.srd o) s = .next t ∧
      RanOn x false (x.wordRes o.d fun j => Rule.val (BitVec.ofNat 32 j.val)) t) ∧
    (i ≠ 0 → o.imm.getLsbD 6 = false → ∃ t, exec (.srd o) s = .next t ∧
      RanOn x false (x.wordRes o.d fun _ => Rule.val (BitVec.ofNat 32 (Rule.special x i))) t) ∧
    (i ≠ 0 → o.imm.getLsbD 6 = true → ∃ t, exec (.srd o) s = .next t ∧
      RanOn x false (x.pairRes o.d fun _ =>
        BitVec.ofNat 64 (Rule.special x i % 2 ^ 32 + Rule.special x (i + 1) % 2 ^ 32 * 2 ^ 32)) t) := by
  have index : fld o.imm 5 0 = o.imm.toNat % 64 := toNat_fld_low o.imm 5
  have wide := fld_eq_one_iff o.imm 6
  refine ⟨fun zero => ran_srd h ?_, fun other narrow => ran_srd h ?_, fun other pairs => ran_srd h ?_⟩
  · simp only [srdRes, index, zero, if_true, out_eq_wordRes]
    rfl
  · simp only [srdRes, index, other, wide, narrow, Bool.false_eq_true, if_false, out_eq_wordRes, srVal_eq_special]
    rfl
  · simp only [srdRes, index, other, wide, pairs, if_true, if_false, out64_eq_pairRes, srVal_eq_special, ofNat_pair]

/-! ### Writing (11 R258) -/

/-- What a write of a special register leaves alone of what decides which fragment may issue. -/
structure SameFragments (c d : WaleCore) : Prop where
  stack : d.stack = c.stack
  issuable : ∀ a, d.issuable a = c.issuable a

theorem WaleCore.setLc_sameFragments (c : WaleCore) (n : Fin 3) (v : Word) : SameFragments c (c.setLc n v) := by
  unfold WaleCore.setLc
  split <;> exact ⟨rfl, fun a => rfl⟩
theorem WaleCore.setSr_sameFragments (c : WaleCore) (i : Nat) (v : Word) : SameFragments c (c.setSr i v) := by
  unfold WaleCore.setSr
  split
  case h_8 | h_9 | h_10 => exact c.setLc_sameFragments _ v
  all_goals exact ⟨rfl, fun a => rfl⟩
theorem SameFragments.trans {a b c : WaleCore} (h : SameFragments a b) (k : SameFragments b c) : SameFragments a c :=
  ⟨k.stack.trans h.stack, fun i => (k.issuable i).trans (h.issuable i)⟩

theorem Ctx.commit_under {x : Ctx} {c : WaleCore} (h : SameFragments x.core c) (g : WaleCore) (held : List Held) :
    (x.under c).commit g held = x.commit g held := by
  have ready1 : (x.under c).ready1 g = x.ready1 g := by
    unfold Ctx.ready1
    simp only [show (x.under c).core = c from rfl, h.issuable, h.stack]
    rfl
  unfold Ctx.commit
  rw [ready1]
  rfl

theorem writesSpecial (s : State) (x : Ctx) (o : IOps) (h : ready (.swr o) s = some x) :
    let i := o.imm.toNat % 64
    let c := if o.imm.getLsbD 6 then (x.core.setSr i (lo32 (x.uni64 o.a))).setSr (i + 1) (hi32 (x.uni64 o.a))
      else x.core.setSr i (x.uni o.a)
    ∃ t, exec (.swr o) s = .next t ∧ RanOn (x.under c) false {} t := by
  intro i c
  have index : fld o.imm 5 0 = i := toNat_fld_low o.imm 5
  have kept : SameFragments x.core c := by
    unfold c
    split
    · exact (x.core.setSr_sameFragments _ _).trans (WaleCore.setSr_sameFragments _ _ _)
    · exact x.core.setSr_sameFragments _ _
  refine ⟨(x.under c).finish false {}, ?_, ran_finish _ false {}⟩
  calc exec (.swr o) s
    _ = .next (x.commit (((c.effect x.arm x.la x.lld {}).counted false).advance x.arm) []) := by
      refine (issueWith_ready h).trans ?_
      simp only [index, fld_eq_one_iff]
      rfl
    _ = .next ((x.under c).finish false {}) := congrArg Host.Outcome.next (Ctx.commit_under kept _ []).symm

/-- A counter written as zero ends its loop (07 R172). -/
theorem WaleCore.setLc_spec (c : WaleCore) (n : Fin 3) (v : Word) :
    (∀ m, vget (c.setLc n v).lc m = if m = n then v else vget c.lc m) ∧
    (v ≠ 0 → c.setLc n v = { c with lc := (c.setLc n v).lc }) ∧
    (v = 0 → c.setLc n v = { c with lc := (c.setLc n v).lc, lstack := c.lstack.filter (fun m => decide (m ≠ n))
                                    loops := (c.setLc n v).loops } ∧
      ∀ m, vget (c.setLc n v).loops m = if m = n then { vget c.loops n with lact := false } else vget c.loops m) := by
  by_cases zero : v = 0
  · have e : c.setLc n v =
        { c with lc := vset c.lc n v, lstack := c.lstack.filter (fun m => m != n)
                 loops := vset c.loops n { vget c.loops n with lact := false } } := if_pos zero
    have others : (fun m => m != n) = fun m => decide (m ≠ n) := funext fun m => by rw [bne, beq_eq_decide, decide_not]
    rw [e, others]
    exact ⟨fun m => vget_vset .., fun h => absurd zero h, fun _ => ⟨rfl, fun m => vget_vset ..⟩⟩
  · have e : c.setLc n v = { c with lc := vset c.lc n v } := if_neg zero
    rw [e]
    exact ⟨fun m => vget_vset .., fun _ => rfl, fun h => absurd h zero⟩

/-- Settles O40: `srd` by the table of R45, `swr` by the commit of the core that the write leaves. -/
theorem specialRegisters : Obligations.SpecialRegisters := by
  refine ⟨readsSpecial, writesSpecial, fun c v => ⟨rfl, rfl, rfl, rfl, rfl, rfl, rfl, fun n => ?_⟩⟩
  have counter : c.setSr (0x18 + n.val) v = c.setLc n v := by fin_cases n <;> rfl
  dsimp only
  rw [counter]
  exact c.setLc_spec n v

end Sys2Proof.Machine
end

section
/-! Proofs about storing instructions at issue (02 R49, R54): the effect that each puts into the hold buffer. -/

namespace Sys2Proof.Machine

/-! ### A held effect, or a wait for room -/

theorem held_or_drains {i : Instr} {s : State} {y : Ctx} {h : Held} (e : exec i s = .next (y.holdEffect h)) :
    (y.room h = true → ∃ t, exec i s = .next t ∧ RanOn y true { held := [h] } t) ∧
    (y.room h = false → ∃ t, exec i s = .next t ∧ Drains y t) := by
  refine ⟨fun fits => ⟨_, e, ?_⟩, fun full => ⟨_, e, ?_⟩⟩
  · rw [Ctx.holdEffect, if_pos fits]
    exact ran_finish y true _
  · rw [Ctx.holdEffect, if_neg (by simp [full])]
    exact drains_drainWait y

theorem exec_of_ready {i : Instr} {s : State} {x : Ctx} {f : Ctx → State} {t : State} (run : exec i s = issueWith i s f)
    (h : ready i s = some x) (e : f x = t) : exec i s = .next t :=
  run.trans ((issueWith_ready h).trans (congrArg Host.Outcome.next e))

/-! ### Placed accesses of each kind -/

theorem storeWith_placed {x : Ctx} {spc : Sp} {scalar : Bool} {addr : Fin 32 → Dword} {n : Nat} {lv : Level}
    {bytes : Fin 32 → List Byte} {ps : List SAcc}
    (placed : x.placeAll spc (x.sites scalar addr) n n .w false scalar = .ok ps) :
    x.storeWith spc scalar addr n lv bytes = (x.notePlaces ps true).holdEffect (storeHeld ps lv bytes) := by
  rw [Ctx.storeWith, show x.strandsOf scalar addr = x.sites scalar addr from rfl, placed]
  rfl

theorem store_placed {x : Ctx} {spc : Sp} {o : MOps} {ps : List SAcc} (placed : (x.storeAcc spc o).placed x = .ok ps) :
    x.store spc o = (x.notePlaces ps true).holdEffect (storeHeld ps (mLevel o) (x.dataBytes o.d o.w.toNat)) :=
  storeWith_placed placed

theorem atomic_placed {x : Ctx} {spc : Sp} {o : AOps} {lv : Level} {ps : List SAcc} (result : o.d = .none)
    (placed : (x.atomAcc spc o).placed x = .ok ps) :
    x.atomic spc o lv = (x.notePlaces ps true).holdEffect
      (.rmw o.aop (mbit o.var 0) (2 ^ o.w.toNat) ((x.notePlaces ps true).atomOps o ps) lv) := by
  change x.placeAll spc (x.strandsOf o.scalar (x.aAddr spc o)) (2 ^ o.w.toNat) (2 ^ o.w.toNat) (if o.d = .none then .w else .rw)
    true o.scalar = .ok ps at placed
  simp only [result, if_true] at placed
  simp only [Ctx.atomic, placed, result, if_true]

/-! ### Sync words lie in scratchpads: nothing is translated (08 R201) -/

/-- A place in a scratchpad or in the scratchpads of a cluster comes from no translation. -/
theorem place_local {x : Ctx} {spc : Sp} {i : Fin 32} {a : Dword} {n al : Nat} {need : Need} {atomic : Bool} {p : Place}
    (near : spc = .sp ∨ spc = .cl) (h : x.place spc i a n al need atomic = .ok p) : p.xl = none := by
  unfold Ctx.place at h
  obtain rfl | rfl := near
  · dsimp only at h
    split_ifs at h
    cases h
    rfl
  · dsimp only at h
    split_ifs at h
    split at h
    · cases h
      rfl
    · cases h

theorem placeAll_local {x : Ctx} {spc : Sp} {ss : List (Fin 32 × Dword)} {n al : Nat} {need : Need} {atomic scalar : Bool}
    {ps : List SAcc} (near : spc = .sp ∨ spc = .cl) (h : x.placeAll spc ss n al need atomic scalar = .ok ps) :
    ∀ e ∈ ps, e.p.xl = none := by
  unfold Ctx.placeAll at h
  dsimp only at h
  split at h
  · cases h
    intro e he
    simp only [List.mem_filterMap, List.mem_map] at he
    obtain ⟨_, ⟨q, _, rfl⟩, found⟩ := he
    dsimp only at found
    split at found
    · cases found
      exact place_local near ‹_›
    · cases found
  · cases h

theorem notePlaces_of_untranslated {x : Ctx} {ps : List SAcc} {wr : Bool} (h : ∀ e ∈ ps, e.p.xl = none) :
    x.notePlaces ps wr = x := by
  have same : ∀ (qs : List SAcc) (s : State), (∀ e ∈ qs, e.p.xl = none) →
      qs.foldl (fun (s : State) e => match e.p.xl with
        | some t => s.noteXl x.die (some x.st.hoop.core) x.func e.a.toNat t wr
        | none => s) s = s := by
    intro qs
    induction qs with
    | nil => intro _ _; rfl
    | cons q qs ih =>
      intro s none
      rw [List.foldl_cons, none q List.mem_cons_self]
      exact ih s fun e he => none e (List.mem_cons_of_mem _ he)
  exact congrArg (fun s => { x with s := s }) (same ps x.s h)

theorem syncHeld_placed {x : Ctx} {o : AOps} {op : SyncOp} {a b : Word} {ps : List SAcc} {p : Loc × Nat} {kind : Nat}
    (placed : (x.syncAcc o kind).placed x = .ok ps) (first : (ps.flatMap fun e => e.p.pcs).head? = some p) :
    x.syncHeld o op a b = (x.notePlaces ps true).holdEffect (.sync op p.1 a b) := by
  change x.syncPlace o = .ok ps at placed
  have near : syncSpace o = .sp ∨ syncSpace o = .cl := by unfold syncSpace; split <;> simp
  obtain ⟨rest, pieces⟩ := List.head?_eq_some_iff.mp first
  rw [notePlaces_of_untranslated (placeAll_local near placed)]
  simp only [Ctx.syncHeld, placed, pieces]

/-- Settles O28: each storing instruction is `holdEffect` of its effect after its access is placed. -/
theorem storesAreHeld : Obligations.StoresAreHeld := by
  intro i s x A ps h ready access placed y held
  apply held_or_drains
  unfold heldOf at held
  split at held
  -- `st`, `stsp`, `stcl`, `stdie`, `stpv`
  case h_1 o | h_2 o | h_3 o | h_4 o | h_5 o =>
    cases access; cases held
    exact exec_of_ready rfl ready (store_placed placed)
  -- `xclr`
  case h_6 o =>
    cases access; cases held
    change x.cellAcc (x.mAddr .glob o) false .w = .ok ps at placed
    exact exec_of_ready rfl ready (by rw [placed]; rfl)
  -- `xadd`
  case h_7 o =>
    cases access; cases held
    change x.cellAcc (x.aAddr .glob o) (!o.x.isV && o.idx == .none) .w = .ok ps at placed
    exact exec_of_ready rfl ready (by dsimp only; rw [placed]; rfl)
  -- `red`, `atom`, `atomsp`
  case h_8 o | h_9 o | h_10 o =>
    split at held
    · cases access; cases held
      exact exec_of_ready rfl ready (atomic_placed ‹_› placed)
    · cases held
  -- `swinit`, `swexp`, `arv`
  case h_11 o | h_12 o | h_13 o =>
    obtain ⟨p, first, rfl⟩ := Option.map_eq_some_iff.mp held
    cases access
    exact exec_of_ready rfl ready (syncHeld_placed placed first)
  -- no other instruction holds the effect of an access
  case h_14 => cases held

end Sys2Proof.Machine
end

section
/-! Proofs about the state that reset leaves (02 R48) and the step taken from it. -/

namespace Sys2Proof.Machine

/-! ### Register reset values by place -/

theorem reset_reg (k : Nat) : State.reset.reg k = regReset k := rfl

theorem reset_die (d : Fin 4) : State.reset.die d = Die.reset := by
  simp [State.die, State.reset, vget]

/-- A register of a die resets as `dieRegReset` says of its offset. -/
theorem regReset_die {d o : Nat} (hd : d < 4) (ho : o < 0x400000) : regReset (dieBase d + o) = dieRegReset d o := by
  have func : (dieBase d + o) / 2 ^ 26 = 0 := by simp only [dieBase]; omega
  have off : (dieBase d + o) % 2 ^ 26 = 0x1000000 + 0x400000 * d + o := by simp only [dieBase]; omega
  have die : (0x1000000 + 0x400000 * d + o - 0x1000000) / 0x400000 = d := by omega
  have place : (0x1000000 + 0x400000 * d + o - 0x1000000) % 0x400000 = o := by omega
  unfold regReset
  simp only [func, off, die, place]
  rw [if_neg (by omega), if_neg (by omega), if_neg (by simp [rPreempt, cfe]; omega), if_neg (by simp [rDieRst, fw]; omega),
    if_neg (by simp [fw]; omega), if_neg (by simp [rBootStat, fw]; omega), if_pos (by omega)]

/-- A die register of a known offset, as `ResetState` and the step after reset look at it. -/
theorem reset_dieReg (d : Fin 4) (o : Nat) {v : BitVec 64} (ho : o < 0x400000) (value : dieRegReset d o = v) :
    State.reset.reg (dieBase d + o) = v := by
  rw [reset_reg, regReset_die d.isLt ho, value]

theorem reset_qsmWindow (d : Fin 4) : State.reset.reg (rQsmWindow d) = 0x60 := reset_dieReg d 0x8 (by decide) rfl
theorem reset_qsmCtl (d : Fin 4) : State.reset.reg (rQsmCtl d) = 0x400022 := reset_dieReg d 0x10 (by decide) rfl
theorem reset_wayGate (d : Fin 4) : State.reset.reg (rWayGate d) = 0 := reset_dieReg d 0x20008 (by decide) rfl
theorem reset_keyRet (d : Fin 4) : State.reset.reg (rKeyRet d) = 0 := reset_dieReg d 0x30040 (by decide) rfl
theorem reset_tlbCtl (d : Fin 4) : State.reset.reg (rTlbCtl d) = 0 := reset_dieReg d 0x30050 (by decide) rfl
theorem reset_tokens (d : Fin 4) : State.reset.reg (rTokens d) = 0x1006 := reset_dieReg d 0x40000 (by decide) rfl
theorem reset_thmTrip (d : Fin 4) : State.reset.reg (rThmTrip d) = 0x7D00730 := reset_dieReg d 0x50008 (by decide) rfl
theorem reset_rail (d k : Fin 4) : State.reset.reg (rRail d k) = 0x282828 :=
  (congrArg State.reset.reg (Nat.add_assoc ..)).trans <| reset_dieReg d (0x40000 + (0x100 + 8 * k)) (by omega) (by fin_cases k <;> rfl)
theorem reset_dscWin (d : Fin 4) (p : Fin 32) : State.reset.reg (rDscWin d p) = 0 :=
  (congrArg State.reset.reg (Nat.add_assoc ..)).trans <| reset_dieReg d (0x10000 + (0x100 + 8 * p)) (by omega) (by fin_cases p <;> rfl)

/-- A register of a function below the control blocks resets by its offset alone. -/
theorem regReset_vf {f o : Nat} (ho : o < 0x100000) : regReset (vfKey f o) =
    if 0x400 ≤ o ∧ o < 0xC00 ∧ o % 32 = 8 then 0x400 else if o = 0x1008 then 0x2000_0000_0000_0000
    else if 0x3000 ≤ o ∧ o < 0x3100 ∧ o % 16 = 8 then 0x1_0000_0000 else 0 := by
  have off : vfKey f o % 2 ^ 26 = o := by simp only [vfKey]; omega
  unfold regReset
  simp only [off, ho, if_true]
theorem reset_qCtl (f : Nat) (q : Fin 64) : State.reset.reg (rQCtl f q) = 0x400 := by
  rw [reset_reg, rQCtl, regReset_vf (by omega), if_pos (by omega)]
theorem reset_qStat (f : Nat) (q : Fin 64) : State.reset.reg (rQStat f q) = 0 := by
  rw [reset_reg, rQStat, regReset_vf (by omega), if_neg (by omega), if_neg (by omega), if_neg (by omega)]
theorem reset_ptRoot (f : Fin 129) : State.reset.reg (rPtRoot f) = 0 :=
  (congrArg State.reset.reg (Nat.add_assoc ..)).trans <| reset_dieReg 0 (0x30000 + (0x200 + 8 * f)) (by omega) (by
    unfold dieRegReset
    repeat rw [if_neg (by omega)])

/-! ### Nothing but the first link moves at reset (log entry 31) -/

theorem reset_dieOps (d : Fin 4) : State.reset.dieOps d = [] := by
  have rails (k : Fin 4) : State.reset.regF (rRail d k) 7 0 = State.reset.regF (rRail d k) 15 8 := by
    rw [State.regF, State.regF, reset_rail]; rfl
  have windows (p : Fin 32) : State.reset.regF (rDscWin d p) 17 17 = 0 := by rw [State.regF, reset_dscWin]; rfl
  have storm : State.reset.regF (rQsmCtl d) 31 16 = 64 := by rw [State.regF, reset_qsmCtl]; rfl
  have gate : State.reset.regF (rWayGate d) 6 6 = 0 := by rw [State.regF, reset_wayGate]; rfl
  have key : State.reset.regF (rKeyRet d) 13 13 = 0 := by rw [State.regF, reset_keyRet]; rfl
  have tlb : State.reset.regF (rTlbCtl d) 11 11 = 0 := by rw [State.regF, reset_tlbCtl]; rfl
  unfold State.dieOps
  simp only [reset_die, rails, windows, storm, gate, key, tlb]
  simp [opIf, Die.reset, State.reset, Die.pending]

theorem reset_frontEnd : State.reset.moved execFrontEnd = none := by
  simp [State.moved, execFrontEnd, State.roundQueues, State.reset]

/-- With no wale nothing waits for a retry. -/
theorem retry_idle {s : State} (wales : s.wales = []) (owed : s.owed = []) : s.retryAllDue.wakeAll = s := by
  cases s
  dsimp only at wales owed
  subst wales owed
  rfl

/-- The state with link 0 trained at the highest rate on four modules. -/
def linkTrained (s : State) : State := ((s.setLink 0 2).setRegF (rDlStat 0) 4 3 0).setRegF (rDlStat 0) 10 8 4

theorem reset_dlStat : State.reset.reg (rDlStat 0) = 0 := by decide
theorem reset_dlCtl : State.reset.regF (rDlCtl 0) 25 24 = 2 := by decide
theorem reset_linkState : State.reset.linkState 0 = 0 := by rw [State.linkState, State.regF, reset_dlStat]; rfl

theorem reset_training : State.reset.moved (execTrainingComplete 0 0 4) = some (linkTrained State.reset) := by
  have trains : execTrainingComplete 0 0 4 State.reset = .next (linkTrained State.reset) := by
    have state : State.reset.linkState ((0 : Fin 6) : Nat) = 0 := reset_linkState
    have slowest : State.reset.regF (rDlCtl ((0 : Fin 6) : Nat)) 25 24 = 2 := reset_dlCtl
    unfold execTrainingComplete
    dsimp only
    rw [if_neg]
    · exact congrArg Host.Outcome.next (retry_idle rfl rfl)
    · rw [state, slowest]
      decide
  have changed : linkTrained State.reset ≠ State.reset := fun h => by
    exact absurd (congrArg State.regs h) (List.cons_ne_nil _ _)
  simp only [State.moved, trains, changed, if_false]

theorem reset_ops : ∃ rest, State.reset.ops = execFrontEnd :: execTrainingComplete 0 0 4 :: rest := by
  have dies : (List.finRange 4).flatMap State.reset.dieOps = [] := List.flatMap_eq_nil_iff.mpr fun d _ => reset_dieOps d
  have trains : State.reset.trainOps = execTrainingComplete 0 0 4 :: State.reset.trainOps.tail := by
    have first (o : Op) : opIf (State.reset.linkState ((0 : Fin 6) : Nat) == 1 || State.reset.linkState ((0 : Fin 6) : Nat) == 3 ||
        (State.reset.linkState ((0 : Fin 6) : Nat) == 0 && !State.reset.fatal)) o = [o] := by
      rw [show State.reset.linkState ((0 : Fin 6) : Nat) = 0 from reset_linkState]; rfl
    rw [State.trainOps, List.finRange_succ, List.flatMap_cons, first]
    rfl
  unfold State.ops
  rw [dies, trains]
  exact ⟨_, rfl⟩

theorem reset_internal : State.reset.internal = some (linkTrained State.reset) := by
  obtain ⟨rest, ops⟩ := reset_ops
  have guards : State.reset.guards = [] := by simp [State.guards, reset_die, Die.reset, firstReport]
  have turn : State.reset.free % max 1 State.reset.ops.length = 0 := Nat.zero_mod _
  unfold State.internal
  rw [if_neg (by decide), guards]
  dsimp only [State.firstOf, List.findSome?_nil]
  rw [turn, List.drop_zero, ops, List.cons_append, List.findSome?_cons, reset_frontEnd, List.cons_append, List.findSome?_cons,
    reset_training]

theorem step_reset : step State.reset = .next { linkTrained State.reset with free := 1 } := by
  have notes (d : Fin 4) : State.reset.noteDue d = false := by rw [State.noteDue, reset_die]; rfl
  have injections (d : Fin 4) : State.reset.injectAt d = none := by simp [State.injectAt, reset_die, Die.reset]
  have note : State.reset.noteNow = none := by
    have none : (List.finRange 4).find? State.reset.noteDue = none := by simp [notes]
    rw [State.noteNow, none]; rfl
  have injection : State.reset.injectNow = none := by simp [State.injectNow, injections]
  have event : State.reset.guardNow = none := by simp [State.guardNow, reset_die, Die.reset, firstReport]
  have due : State.reset.due = .done { linkTrained State.reset with free := 1 } := by
    unfold State.due
    rw [note, injection, event]
    dsimp only
    rw [show { State.reset with cur := none } = State.reset from rfl, reset_internal]
    rfl
  rw [step, due]

theorem linkTrained_linkState (s : State) : (linkTrained s).linkState 0 = 2 := by
  rw [State.linkState, linkTrained, State.regF_setRegF_fld _ _ _ (by decide), State.regF_setRegF_fld _ _ _ (by decide)]
  exact State.regF_setRegF_self _ _ _ (by decide)
theorem linkTrained_reg (s : State) {k : Nat} (other : k ≠ rDlStat 0) : (linkTrained s).reg k = s.reg k := by
  simp only [linkTrained, State.setLink, State.reg_setRegF, other, if_false]

/-- Settles O58: what reset leaves, register by register, and the one operation that then moves. -/
theorem resetState : Obligations.ResetState := by
  have dies (d : Fin 4) : State.reset.window d = 0x60 ∧ State.reset.reg (rQsmCtl d) = 0x400022 ∧
      State.reset.reg (rTokens d) = 0x1006 ∧ State.reset.reg (rThmTrip d) = 0x7D00730 ∧
      ∀ n, (State.reset.reuseEntry d n).valid = false ∧ State.reset.signal d n = 0 := by
    refine ⟨?_, reset_qsmCtl d, reset_tokens d, reset_thmTrip d, fun n => ?_⟩
    · rw [State.window, State.regF, reset_qsmWindow]; rfl
    · rw [State.reuseEntry, State.signal, reset_die]; exact ⟨rfl, rfl⟩
  have queues (f : Fin 129) (q : Fin 64) :
      State.reset.qEn f q = false ∧ State.reset.qLog f q = 4 ∧ State.reset.qHead f q = 0 := by
    simp only [State.qEn, State.qLog, State.qHead, State.regF, reset_qCtl, reset_qStat]
    decide
  have roots (f : Fin 129) : State.reset.regF (rPtRoot f) 0 0 = 0 := by rw [State.regF, reset_ptRoot]; rfl
  exact ⟨rfl, rfl, rfl, rfl, rfl, rfl, rfl, rfl, dies, queues, roots, rfl, _, step_reset,
    linkTrained_linkState State.reset, fun _ other => linkTrained_reg State.reset other, rfl⟩

end Sys2Proof.Machine
end

section
/-! Proofs about the release of a region (02 R51) and what each held effect then does. -/

namespace Sys2Proof.Machine

/-! ### A wale changed in place -/

theorem State.wale?_updWale_self (s : State) (w : Nat) (f : Wale → Wale) : (s.updWale w f).wale? w = (s.wale? w).map f :=
  Sparse.find?_upd_self s.wales w f
theorem State.wale?_updWale_ne (s : State) {w k : Nat} (f : Wale → Wale) (h : k ≠ w) : (s.updWale w f).wale? k = s.wale? k :=
  Sparse.find?_upd_ne s.wales f h

theorem State.updWale_same (s : State) (w : Nat) {f : Wale → Wale} (h : ∀ x, f x = x) : s.updWale w f = s := by
  have same : Sparse.upd s.wales w f = s.wales := by
    unfold Sparse.upd
    split
    · next x found => rw [h x, Sparse.put_find? found]
    · rfl
  rw [State.updWale, same]

/-- The cycle that a wale of a resident hoop counts by. -/
theorem State.ccOf_hoop {s : State} {x : Wale} {h : Hoop} (hoop : s.hoop? x.hoop = some h) : s.ccOf x = (s.die h.die).cc := by
  simp only [State.ccOf, hoop]
theorem State.ccOf_site {s : State} {w : Nat} {st : Site} (h : s.site? w = some st) :
    s.ccOf st.wl = (s.die st.hoop.die).cc := by
  obtain ⟨-, -, hoop, -⟩ := State.site?_eq_some_iff.mp h
  exact State.ccOf_hoop hoop

theorem State.cc_waitPast (s : State) (d : Fin 4) (n : Nat) : ((s.waitPast d n).die d).cc = max (s.die d).cc (n + 1) := by
  rw [State.waitPast, State.die_updDie, if_pos rfl]

/-- After the cycle `n` of a die has passed, a wale changes. -/
theorem onlyWaleDie_waitPast {s u : State} {w : Nat} {x : Wale} {f : Wale → Wale} {d : Fin 4} {n : Nat}
    (hx : s.wale? w = some x) (wale : u.wale? w = some (f x)) (others : ∀ k, k ≠ w → u.wale? k = s.wale? k)
    (rest : u = { s.waitPast d n with wales := u.wales }) :
    OnlyWaleDie s w f d { s.die d with cc := max (s.die d).cc (n + 1) } u := by
  have dies (e : Fin 4) : u.die e = (s.waitPast d n).die e := by rw [rest]; rfl
  refine ⟨by rw [wale, hx]; rfl, others, ?_, fun e other => ?_, ?_⟩
  · rw [dies, State.waitPast, State.die_updDie, if_pos rfl]
  · rw [dies, State.waitPast, State.die_updDie, if_neg other]
  · have : u.dies = (s.waitPast d n).dies := by rw [rest]
    rw [this]; exact rest

/-! ### The operation by the region to be released -/

theorem exec_release {s : State} {w : Nat} {st : Site} (site : s.site? w = some st) (due : st.wl.releasable = true)
    (clear : s.clearToRelease st = true) : exec (.regionRelease w) s = .next (s.releaseRegion st) := by
  change execRegionRelease w s = _
  simp only [execRegionRelease, site, due, clear, Bool.and_self, if_true]

/-- A release that an event precedes performs the next effect of what is released already. -/
theorem exec_release_waits {s : State} {w : Nat} {st : Site} (site : s.site? w = some st)
    (clear : s.clearToRelease st = false) : exec (.regionRelease w) s = .next (s.performDue w) := by
  change execRegionRelease w s = _
  simp only [execRegionRelease, site, clear, Bool.and_false, Bool.false_eq_true, if_false]

theorem performDue_nothing {s : State} {w : Nat} {x : Wale} (hx : s.wale? w = some x) (none : x.due = []) :
    s.performDue w = s := by
  simp only [State.performDue, hx, none]

/-- Effects that leave together: all now, or the first, after a free choice. -/
theorem performSome_split (s : State) (w : Nat) (rest l : List Held) : ∃ now k, (now = l.length ∨ now = 1 ∧ 2 ≤ l.length) ∧
    s.performSome w rest l = (State.performAll w (l.drop now ++ rest) (l.take now) { s with free := s.free + k }).updWale w
      fun x => { x with due := x.due ++ l.drop now } := by
  by_cases few : l.length < 2
  · exact ⟨l.length, 0, .inl rfl, by simp only [State.performSome, few, if_true]; rfl⟩
  · refine ⟨if Config.freeBool s.free then l.length else 1, 1, ?_, by simp only [State.performSome, few, if_false]; rfl⟩
    split
    · exact .inl rfl
    · exact .inr ⟨rfl, by omega⟩

theorem performSome_nil (s : State) (w : Nat) (rest : List Held) : s.performSome w rest [] = s := by
  change s.updWale w (fun x => { x with due := x.due ++ [] }) = s
  exact State.updWale_same s w fun x => by rw [List.append_nil]

theorem deliver_none {s : State} {w : Nat} {x : Wale} (hx : s.wale? w = some x) (p0 : x.core.pend0 = none)
    (p1 : x.core.pend1 = none) : s.deliver w = s := by
  unfold State.deliver
  split
  · rfl
  · next st site =>
    obtain rfl : x = st.wl := Option.some.inj (hx.symm.trans (State.site?_wale site))
    simp only [Wale.dueFault, p0, p1]

/-! ### An older region -/

theorem release_older (s : State) (w : Nat) (st : Site) (r : Region) (site : s.site? w = some st) (due : st.wl.releasable = true)
    (older : st.wl.old = some r) :
    let d := st.hoop.die
    let dl := r.last + r.q.getD (s.window d)
    let n := max (s.die d).cc (dl + 1)
    let hs := st.wl.due ++ r.held
    (s.eventBy d dl = true → st.wl.due = [] → exec (.regionRelease w) s = .next s) ∧
    (s.eventBy d dl = false → ∃ u now k, (now = hs.length ∨ now = 1 ∧ 2 ≤ hs.length) ∧
      OnlyWaleDie s w (fun v => { ({ v with old := none } : Wale).tryAgain true s.turn n with due := [] }) d
        { s.die d with cc := n } u ∧
      let v := (State.performAll w (hs.drop now ++ st.wl.cur.held) (hs.take now) { u with free := u.free + k }).updWale w
        fun x => { x with due := x.due ++ hs.drop now }
      exec (.regionRelease w) s = .next
        (if (v.wale? w).any (fun x => x.faultReady) = true then v.deliver w else v)) := by
  intro d dl n hs
  have clear : s.clearToRelease st = !s.eventBy d dl := by simp only [State.clearToRelease, older]; rfl
  have wale := State.site?_wale site
  refine ⟨fun event none => ?_, fun calm => ?_⟩
  · rw [exec_release_waits site (by rw [clear, event]; rfl), performDue_nothing wale none]
  · have run := exec_release site due (by rw [clear, calm]; rfl)
    let a := s.waitPast d dl
    let b := a.updWale w fun x => ({ x with old := none } : Wale).tryAgain true a.turn (a.ccOf x)
    let u := b.updWale w fun x => { x with due := [] }
    obtain ⟨now, k, which, some_⟩ := performSome_split u w st.wl.cur.held hs
    refine ⟨u, now, k, which, onlyWaleDie_waitPast wale ?_ (fun j other => ?_) rfl, ?_⟩
    · have site_a : a.site? w = some st := site
      have cc : a.ccOf st.wl = n := by
        rw [State.ccOf_site site_a, State.cc_waitPast]
      have wale_a : a.wale? w = some st.wl := wale
      rw [State.wale?_updWale_self, State.wale?_updWale_self, wale_a, Option.map_some, Option.map_some, cc]
      rfl
    · rw [State.wale?_updWale_ne _ _ other, State.wale?_updWale_ne _ _ other]; rfl
    · rw [run]
      have released : s.releaseRegion st = match (u.performSome w st.wl.cur.held hs).wale? w with
          | some x => if x.faultReady then (u.performSome w st.wl.cur.held hs).deliver w
            else u.performSome w st.wl.cur.held hs
          | none => u.performSome w st.wl.cur.held hs := by
        obtain ⟨rfl, -⟩ := State.site?_eq_some_iff.mp site
        simp only [State.releaseRegion, older]
        rfl
      rw [released, some_]
      congr 1
      split
      · next x found => simp only [found, Option.any_some]
      · next gone => simp [gone]

/-! ### The current region -/

theorem Wale.tryAgain_pend (x : Wale) (b : Bool) (turn cc : Nat) :
    (x.tryAgain b turn cc).core.pend0 = x.core.pend0 ∧ (x.tryAgain b turn cc).core.pend1 = x.core.pend1 := by
  unfold Wale.tryAgain
  split
  · exact ⟨rfl, rfl⟩
  · split <;> exact ⟨rfl, rfl⟩
  · split <;> exact ⟨rfl, rfl⟩
  · exact ⟨rfl, rfl⟩

theorem release_current (s : State) (w : Nat) (st : Site) (site : s.site? w = some st) (due : st.wl.releasable = true)
    (alone : st.wl.old = none) (p0 : st.wl.core.pend0 = none) (p1 : st.wl.core.pend1 = none)
    (nothing : st.wl.due ++ st.wl.cur.held = []) :
    let d := st.hoop.die
    s.eventBy d (st.wl.cur.last + st.wl.cur.q.getD (s.window d)) = false →
    let n := max (s.die d).cc (st.wl.cur.last + st.wl.cur.q.getD (s.window d) + 1)
    ∃ t, exec (.regionRelease w) s = .next t ∧
      OnlyWaleDie s w (fun v => (v.reopen n).tryAgain true s.turn n) d { s.die d with cc := n } t := by
  intro d calm n
  have wale := State.site?_wale site
  have faultless : st.wl.faultReady = false := by simp [Wale.faultReady, p0, p1]
  have clear : s.clearToRelease st = true := by
    simp only [State.clearToRelease, alone, faultless, Bool.false_or]
    exact congrArg (!·) calm
  have empty : st.wl.due = [] := (List.append_eq_nil_iff.mp nothing).1
  let a := s.waitPast d (s.deadline d st.wl.cur)
  let b := a.updWale w fun x => { x with cur := { x.cur with held := [], q := none } }
  let c := b.updWale w fun x => { x with due := [] }
  let e := c.updWale w fun x => (x.reopen (c.die d).cc).tryAgain true c.turn (c.ccOf x)
  have cc : (c.die d).cc = n := State.cc_waitPast s d _
  have wale_c : c.wale? w = some { st.wl with cur := { st.wl.cur with held := [], q := none } } := by
    rw [State.wale?_updWale_self, State.wale?_updWale_self, show a.wale? w = some st.wl from wale, Option.map_some,
      Option.map_some, ← empty]
  have wale_e : e.wale? w = some ((st.wl.reopen n).tryAgain true s.turn n) := by
    have turns : c.ccOf { st.wl with cur := { st.wl.cur with held := [], q := none } } = n := by
      obtain ⟨-, -, hoop, -⟩ := State.site?_eq_some_iff.mp site
      rw [← cc]; exact State.ccOf_hoop (s := c) hoop
    rw [State.wale?_updWale_self, wale_c, Option.map_some, turns, cc]
    rfl
  have released : s.releaseRegion st = e := by
    obtain ⟨rfl, -⟩ := State.site?_eq_some_iff.mp site
    have some_ := performSome_nil c st.w []
    have kept := deliver_none wale_e ((Wale.tryAgain_pend ..).1.trans p0) ((Wale.tryAgain_pend ..).2.trans p1)
    simp only [State.releaseRegion, alone, faultless, nothing, Bool.false_eq_true, if_false]
    calc _ = e.deliver st.w := by rw [some_]
      _ = e := kept
  refine ⟨e, (exec_release site due clear).trans (congrArg _ released),
    onlyWaleDie_waitPast wale wale_e (fun j other => ?_) rfl⟩
  rw [State.wale?_updWale_ne _ _ other, State.wale?_updWale_ne _ _ other, State.wale?_updWale_ne _ _ other]; rfl

/-- A fault of a region that is released is taken (11 R264). -/
theorem release_fault (s : State) (w : Nat) (st : Site) (a : ArmId) (f : FaultRec) (site : s.site? w = some st)
    (due : st.wl.releasable = true) (ready : st.wl.faultReady = true) (first : st.wl.dueFault = some (a, f)) :
    exec (.regionRelease w) s = .next (s.takeFault st a f) := by
  have alone : st.wl.old = none := by
    simp only [Wale.faultReady, Bool.and_eq_true, Option.isNone_iff_eq_none] at ready
    exact ready.1
  have clear : s.clearToRelease st = true := by simp only [State.clearToRelease, alone, ready, Bool.true_or]
  obtain ⟨rfl, -⟩ := State.site?_eq_some_iff.mp site
  rw [exec_release site due clear]
  simp only [State.releaseRegion, alone, ready, if_true, State.deliver, site, first]

end Sys2Proof.Machine
end

section
/-! Proofs about the caches (14 R308 to R315): what an access to them leaves as it was. -/

namespace Sys2Proof.Machine

/-- Of `s` and `t` only caches, notifications and grants differ: no byte of memory, no work. -/
structure CachesOnly (s t : State) : Prop where
  rest : t = { s with dies := t.dies, grants := t.grants, peerGrants := t.peerGrants, peerOut := t.peerOut }
  dsc : ∀ d, (t.die d).dsc = (s.die d).dsc

namespace CachesOnly

theorem refl (s : State) : CachesOnly s s := ⟨rfl, fun _ => rfl⟩
theorem trans {a b c : State} (h : CachesOnly a b) (k : CachesOnly b c) : CachesOnly a c :=
  ⟨k.rest.trans (by rw [h.rest]), fun d => (k.dsc d).trans (h.dsc d)⟩
theorem ite {s t u : State} {p : Prop} [Decidable p] (ht : CachesOnly s t) (hu : CachesOnly s u) :
    CachesOnly s (if p then t else u) := by
  split <;> assumption
theorem foldl {α : Type} {f : State → α → State} (h : ∀ s a, CachesOnly s (f s a)) (l : List α) (s : State) :
    CachesOnly s (l.foldl f s) := by
  induction l generalizing s with
  | nil => exact refl s
  | cons a l ih => exact (h s a).trans (ih _)
theorem updDie (s : State) (d : Fin 4) {f : Die → Die} (same : ∀ x, (f x).dsc = x.dsc) : CachesOnly s (s.updDie d f) := by
  refine ⟨rfl, fun e => ?_⟩
  rw [State.die_updDie]
  split
  · next h => rw [h, same]
  · rfl
theorem mapDies (s : State) {f : Fin 4 → Die → Die} (same : ∀ d x, (f d x).dsc = x.dsc) : CachesOnly s (s.mapDies f) :=
  ⟨rfl, fun e => (congrArg Die.dsc (vget_ofFn _ e)).trans (same e _)⟩

theorem bytes {s t : State} (h : CachesOnly s t) (l : Loc) (i : Nat) : t.locByte l i = s.locByte l i := by
  have rest := h.rest
  cases l with
  | dsc d o => exact congrArg (Sparse.getD · 0 (o + i)) (h.dsc _)
  | _ => rw [rest]; rfl

end CachesOnly

/-! ### Each access -/

theorem State.cachesOnly_allocate (s : State) (d : Fin 4) (l part func : Nat) : CachesOnly s (s.allocate d l part func) := by
  unfold State.allocate
  refine .ite (.refl s) ?_
  split
  · exact .refl s
  · exact .updDie s d fun _ => rfl
theorem State.cachesOnly_recall (s : State) (l : Nat) (but : Option Nat) : CachesOnly s (s.recall l but) := by
  unfold State.recall
  exact .mapDies s fun _ _ => rfl
theorem State.cachesOnly_share (s : State) (l : Nat) : CachesOnly s (s.share l) := by
  unfold State.share
  exact .mapDies s fun _ _ => rfl
theorem State.cachesOnly_heat (s : State) (l : Nat) : CachesOnly s (s.heat l) := .updDie s _ (f := fun _ => _) fun _ => rfl
theorem State.cachesOnly_notify (s : State) (d : Fin 4) (core line : Nat) (kind : NoteKind) (part func : Nat) :
    CachesOnly s (s.notify d core line kind part func) := .updDie s d (f := fun _ => _) fun _ => rfl
theorem State.cachesOnly_inject (s : State) (d : Fin 4) (core line : Nat) (own : Bool) (part func : Nat) :
    CachesOnly s (s.inject d core line own part func) := by
  unfold State.inject
  dsimp only
  split
  · exact .refl s
  · exact .refl s
  · exact .updDie s d (f := fun x => { x with l1 := Sparse.put x.l1 (l1Key core line) .m }) fun _ => rfl
  · refine .ite ?_ (s.cachesOnly_notify ..)
    exact .updDie s d (f := fun x => x.mapNotes _) fun _ => rfl
theorem State.cachesOnly_clean (s : State) (d : Fin 4) (core line part func : Nat) :
    CachesOnly s (s.clean d core line part func) := by
  refine .trans ?_ (State.cachesOnly_notify ..)
  exact .updDie s d fun _ => rfl
theorem State.cachesOnly_writeBack (s : State) (d : Fin 4) (core part func : Nat) :
    CachesOnly s (s.writeBack d core part func) := by
  unfold State.writeBack
  extract_lets dirty
  refine .trans (.foldl (f := fun (s : State) (e : Nat × L1St) => s.clean d core (e.1 % 2 ^ 52) part func)
    (fun s e => s.cachesOnly_clean d core _ part func) dirty s) ?_
  exact .updDie _ d (f := fun x => x.mapNotes _) fun _ => rfl
theorem State.cachesOnly_writeBackTo (s : State) (lv : Nat) (d : Fin 4) (core part func : Nat) :
    CachesOnly s (s.writeBackTo lv d core part func) := by
  unfold State.writeBackTo
  exact .ite (.refl s) (s.cachesOnly_writeBack d core part func)
theorem State.cachesOnly_touchLine (s : State) (d : Fin 4) (core lv : Nat) (u : Use) (k part func : Nat) :
    CachesOnly s (s.touchLine d core lv u k part func) := by
  have all := s.cachesOnly_recall k none
  have home := all.trans (State.cachesOnly_allocate _ (s.lineHome k) k part func)
  have ask (own : Bool) := s.cachesOnly_inject d core k own part func
  have heated {t : State} (h : CachesOnly s t) : CachesOnly s (t.heat k) := h.trans (t.cachesOnly_heat k)
  unfold State.touchLine
  split
  · exact ask false
  · exact s.cachesOnly_allocate ..
  · exact s.cachesOnly_share k
  · exact ask true
  · exact home
  · exact all
  · exact .ite (heated home) (heated (ask true))
  · exact heated home
  · exact heated all
theorem State.cachesOnly_touch (s : State) (d : Fin 4) (core lv : Nat) (u : Use) (l : Loc) :
    CachesOnly s (s.touch d core lv u l) := by
  unfold State.touch
  split
  · exact .ite (.refl s) (s.cachesOnly_touchLine ..)
  · exact .refl s
theorem State.cachesOnly_touchAll (s : State) (d : Fin 4) (core lv : Nat) (u : Use) (ls : List Loc) :
    CachesOnly s (s.touchAll d core lv u ls) := .foldl (fun s l => s.cachesOnly_touch d core lv u l) ls s
theorem State.cachesOnly_takeGrant (s : State) (pa : Nat) (wr : Bool) : CachesOnly s (s.takeGrant pa wr) :=
  .ite ⟨rfl, fun _ => rfl⟩ (.refl s)
theorem State.cachesOnly_callBack (s : State) (page : Nat) : CachesOnly s (s.callBack page) := by
  unfold State.callBack
  split
  · exact .ite (.refl s) ⟨rfl, fun _ => rfl⟩
  · exact .refl s
theorem State.cachesOnly_takeGrants (s : State) (ls : List Loc) : CachesOnly s (s.takeGrants ls) := by
  refine .foldl (fun s l => ?_) ls s
  split
  · exact s.cachesOnly_takeGrant ..
  · exact .refl s
theorem State.cachesOnly_callBackFor (s : State) (ls : List Loc) : CachesOnly s (s.callBackFor ls) := by
  refine .foldl (fun s l => ?_) ls s
  split
  · exact .ite (s.cachesOnly_callBack _) (.refl s)
  · exact .refl s
/-- What the caches do before a held effect is performed. -/
theorem State.cachesOnly_prepare (s : State) (st : Site) (h : Held) : CachesOnly s (s.prepare st h) :=
  ((s.cachesOnly_writeBackTo ..).trans (State.cachesOnly_touchAll ..)).trans (State.cachesOnly_takeGrants ..)

/-! ### After a write-back no line is modified (14 R311) -/

theorem clean_l1 (s : State) (d : Fin 4) (core line part func k : Nat) :
    Sparse.find? ((s.clean d core line part func).die d).l1 k =
      if k = l1Key core line then some .e else Sparse.find? (s.die d).l1 k := by
  simp only [State.clean, State.notify, State.die_updDie, if_true, Sparse.find?_put]

/-- The L1 of a core after the lines in `es` are written back. -/
theorem cleaned_l1 (es : List (Nat × L1St)) (s : State) (d : Fin 4) (core part func k : Nat) :
    Sparse.find? ((es.foldl (fun s e => s.clean d core (e.1 % 2 ^ 52) part func) s).die d).l1 k =
      if ∃ e ∈ es, k = l1Key core (e.1 % 2 ^ 52) then some .e else Sparse.find? (s.die d).l1 k := by
  induction es generalizing s with
  | nil => simp
  | cons e es ih =>
    rw [List.foldl_cons, ih, clean_l1]
    simp only [List.exists_mem_cons_iff]
    by_cases later : ∃ e ∈ es, k = l1Key core (e.1 % 2 ^ 52)
    · rw [if_pos later, if_pos (.inr later)]
    · simp only [later, if_false, or_false]

theorem writeBack_clean (s : State) (d : Fin 4) (core part func line : Nat) (low : line < 2 ^ 52) :
    Sparse.find? ((s.writeBack d core part func).die d).l1 (l1Key core line) ≠ some .m := by
  have key : l1Key core line / 2 ^ 52 = core ∧ l1Key core line % 2 ^ 52 = line := by unfold l1Key; omega
  simp only [State.writeBack, State.die_updDie, if_true, Die.mapNotes]
  rw [cleaned_l1]
  split
  · simp
  · next kept =>
    intro modified
    refine kept ⟨_, List.mem_filter.mpr ⟨Sparse.mem_of_find? modified, ?_⟩, ?_⟩
    · simp only [l1At, key.1, beq_self_eq_true, Bool.and_self]
    · simp only [key.2]

end Sys2Proof.Machine
end

section
/-! Proofs about a held effect that is performed (02 R51, 09 R208, 10 R239): what each leaves, and the order of a matrix command. -/

namespace Sys2Proof

theorem Sparse.find?_of_mem {β : Type} {m : Sparse β} {a n : Nat} {v : β} (w : Sparse.wfFrom a m = true) (h : (n, v) ∈ m) :
    Sparse.find? m n = some v := by
  induction m generalizing a with
  | nil => simp at h
  | cons e m ih =>
    obtain ⟨k, u⟩ := e
    simp only [Sparse.wfFrom, Bool.and_eq_true, decide_eq_true_eq] at w
    rcases List.mem_cons.mp h with now | later
    · cases now; simp [Sparse.find?]
    · have found := ih w.2 later
      have above : k < n := by
        by_contra low
        rw [Sparse.find?_of_lt w.2 (by omega)] at found
        cases found
      rw [Sparse.find?, if_neg (by omega), if_neg (by omega), found]

namespace Machine

/-! ### Performing one effect -/

theorem performAll_one {s : State} {w : Nat} {st : Site} {rest : List Held} {h : Held} (site : s.site? w = some st) :
    State.performAll w rest [h] s = if (s.performHeld st rest h).2 then (s.performHeld st rest h).1
      else (s.performHeld st rest h).1.updWale w fun x => { x with due := [h] } := by
  simp only [State.performAll, site, List.nil_append]

theorem performAll_blocked {s : State} {w : Nat} {st : Site} {rest : List Held} {h : Held} (site : s.site? w = some st)
    (waits : s.blocked st.hoop.die st.hoop.core h = true) :
    State.performAll w rest [h] s = (s.callBackFor h.locs).updWale w fun x => { x with due := [h] } := by
  have held : s.performHeld st rest h = (s.callBackFor h.locs, false) := by rw [State.performHeld, if_pos waits]
  rw [performAll_one site, held]
  rfl

/-- An effect that nothing holds up and that is performed as `t`. -/
theorem performAll_done {s t : State} {w : Nat} {st : Site} {rest : List Held} {h : Held} (site : s.site? w = some st)
    (done : s.performHeld st rest h = (t, true)) : State.performAll w rest [h] s = t := by
  rw [performAll_one site, done]
  rfl

theorem CachesOnly.wale? {s t : State} (h : CachesOnly s t) (w : Nat) : t.wale? w = s.wale? w := by rw [h.rest]; rfl
theorem CachesOnly.hoop? {s t : State} (h : CachesOnly s t) (k : Nat) : t.hoop? k = s.hoop? k := by rw [h.rest]; rfl
theorem CachesOnly.cmds {s t : State} (h : CachesOnly s t) : t.cmds = s.cmds := by rw [h.rest]
theorem CachesOnly.nextId {s t : State} (h : CachesOnly s t) : t.nextId = s.nextId := by rw [h.rest]

/-- Of two effects behind which a wale's lines are written back first: those of wider arrivals and of commands touch nothing else. -/
theorem writes_back_first {h : Held} (k : h = .arrive .rbar ∨ h = .arrive .sbar ∨ ∃ o, h = .cmd o) :
    2 ≤ h.uses.2.2 ∧ h.locs = [] := by
  obtain rfl | rfl | ⟨o, rfl⟩ := k
  · exact ⟨le_refl 2, rfl⟩
  · exact ⟨by decide, rfl⟩
  · refine ⟨?_, rfl⟩
    simp only [Held.uses]
    split <;> decide

theorem prepare_clean (s : State) (st : Site) {h : Held} (back : 2 ≤ h.uses.2.2) (none : h.locs = []) (line : Nat)
    (low : line < 2 ^ 52) :
    Sparse.find? ((s.prepare st h).die st.hoop.die).l1 (l1Key st.hoop.core line) ≠ some .m := by
  have only : s.prepare st h = s.writeBack st.hoop.die st.hoop.core (s.partOf st.basket.func) st.basket.func := by
    rw [State.prepare, State.prepareAt, none, State.writeBackTo, if_neg (by omega)]
    rfl
  rw [only]
  exact writeBack_clean s _ _ _ _ line low

/-! ### Commands (09 R208) -/

/-- The order of a matrix command: which of the wale's commands it is behind (10 R239, R240, R251). -/
theorem mem_matrixDeps {s : State} {w : Nat} {wl : Wale} {o : CmdOps} {slots : List TSlot} {id : Nat} {x : Cmd}
    (wf : Sparse.wf s.cmds = true) (found : Sparse.find? s.cmds id = some x) (mine : x.wale = w) (matrix : x.cls = 2) :
    id ∈ s.matrixDeps w wl o slots ↔ x.seq < wl.mfenceAt ∨
      keysMeet (orderKey o slots) (orderKey x.ops x.slots) = true ∨ (cmdReuse o ≠ none ∧ cmdReuse x.ops = cmdReuse o) := by
  have only (e : Nat × Cmd) (he : e ∈ s.cmds) (h : e.1 = id) : e.2 = x :=
    Option.some.inj ((Sparse.find?_of_mem wf he).symm.trans (h ▸ found))
  simp only [State.matrixDeps, State.cmdsOf, List.mem_map, List.mem_filter, Bool.and_eq_true, Bool.or_eq_true, beq_iff_eq,
    decide_eq_true_eq, Option.isSome_iff_ne_none, or_assoc]
  constructor
  · rintro ⟨e, ⟨⟨he, -⟩, -, ordered⟩, rfl⟩
    rwa [only e he rfl] at ordered
  · intro ordered
    exact ⟨(id, x), ⟨⟨Sparse.mem_of_find? found, mine⟩, matrix, ordered⟩, rfl⟩

/-- The command that enters its queue for the operands `o` of the wale at `st`. -/
structure Queued (s : State) (st : Site) (o : CmdOps) (c : Fin 4) (k : Cmd) : Prop where
  ops : k.ops = { o with fo := false }
  wale : k.wale = st.w
  cls : k.cls = c
  stage : k.stage = .queued
  seq : k.seq = vget st.wl.relSeq c
  deps : c = 2 → k.deps = s.matrixDeps st.w st.wl k.ops k.slots

/-- What the command counts at its wale. -/
def Wale.counts (c : Fin 4) (o : CmdOps) (id : Nat) (x : Wale) : Wale :=
  { x with
    cnt := vset x.cnt c (vget x.cnt c + 1)
    relSeq := vset x.relSeq c (vget x.relSeq c + 1)
    opn := if c = 0 ∧ o.again = false then x.opn ++ [id] else x.opn }

theorem vget_incremented {n : Nat} (x : Vector Nat n) (c j : Fin n) :
    vget (vset x c (vget x c + 1)) j = if j = c then vget x j + 1 else vget x j := by
  rw [vget_vset]
  split
  · next h => rw [h]
  · rfl

theorem pushCmd_queued {s : State} {st : Site} {o : CmdOps} {c : Fin 4} (wale : s.wale? st.w = some st.wl)
    (moves : o.moot = false) : ∃ k u, s.pushCmd st o c false [] = (s.nextId, u) ∧ Queued s st o c k ∧
      Sparse.find? u.cmds s.nextId = some k ∧ u.wale? st.w = some (st.wl.counts c o s.nextId) := by
  refine ⟨_, _, rfl, ?queued, Sparse.find?_put_self .., ?counted⟩
  case queued =>
    constructor
    case stage => simp only [moves, Bool.false_eq_true, if_false]
    case seq => simp only [wale, Option.getD_some]
    case deps =>
      intro matrix
      simp only [matrix, if_true, List.nil_append, wale, Option.getD_some]
    all_goals rfl
  case counted =>
    refine (Sparse.find?_upd_self ..).trans ?_
    change (s.wale? st.w).map _ = _
    rw [wale]
    simp only [Option.map_some, Wale.counts, Bool.and_eq_true, beq_iff_eq, Bool.not_eq_true']

theorem releaseCmd_queued {s : State} {st : Site} {o : CmdOps} {c : Fin 4} (wale : s.wale? st.w = some st.wl)
    (moves : o.moot = false) (single : cmdClasses o.ins = [c]) : ∃ t k, s.releaseCmd st o = (t, true) ∧ Queued s st o c k ∧
      Sparse.find? t.cmds s.nextId = some k ∧ t.wale? st.w = some (st.wl.counts c o s.nextId) := by
  obtain ⟨k, u, push, queued, found, counted⟩ := pushCmd_queued wale moves (c := c)
  unfold State.releaseCmd
  split
  · next e => rw [e] at single; cases single
  · next e => rw [e] at single; cases single
  · next e =>
    rw [e] at single
    obtain rfl : (3 : Fin 4) = c := (List.cons.inj single).1
    rw [push]
    refine ⟨_, { k with inst := Sparse.getD s.collInst 0 o.c.toNat }, rfl,
      ⟨queued.ops, queued.wale, queued.cls, queued.stage, queued.seq, fun h => absurd h (by decide)⟩, ?_, counted⟩
    exact (Sparse.find?_upd_self ..).trans (by rw [found]; rfl)
  · next e => rw [e] at single; cases single
  · simp only [single, push, found, moves, Bool.false_and, Bool.false_eq_true, if_false]
    exact ⟨u, k, rfl, queued, found, counted⟩

/-- What an effect that is held up leaves, and what each effect does when it is performed. -/
theorem heldEffects (s : State) (w : Nat) (st : Site) (rest : List Held) (h : Held) (site : s.site? w = some st) :
    let t := State.performAll w rest [h] s
    let y := s.prepare st h
    let d := st.hoop.die
    let g := Agent.wale w
    (s.blocked d st.hoop.core h = true → (∀ (l : Loc) (i : Nat), t.locByte l i = s.locByte l i) ∧
      t.wale? w = some { st.wl with due := [h] }) ∧
    (s.blocked d st.hoop.core h = false →
      (∀ ws lv, h = .store ws lv → t = y.locWrites g d ws) ∧
      (∀ a u n xs lv, h = .rmw a u n xs lv → t = (y.rmwAll g d a.toNat u n xs).2) ∧
      (∀ b xs lv, h = .xadd b xs lv → t = y.combineAll g d 64 (xaddStep b) xs) ∧
      (∀ op l a b, h = .sync op l a b → t = y.syncUpdate g d op l a.toNat b.toNat) ∧
      (∀ n op, h = .slot n op → Sparse.wf st.hoop.slots = true → ∃ hp, t.hoop? st.wl.hoop = some hp ∧
        hp.slotAt n.val = op.apply (st.hoop.slotAt n.val)) ∧
      (∀ k, h = .arrive k → t.wale? w = some (match k with
        | .bar => { st.wl with rBar := st.wl.rBar + 1 }
        | .rbar => { st.wl with rRbar := st.wl.rRbar + 1 }
        | .sbar => { st.wl with rSbar := st.wl.rSbar + 1 })) ∧
      (h = .seal → t.wale? w = some (st.wl.seal (rest.filter fun e => e == .seal).length)) ∧
      (h = .mfence → t.wale? w = some { st.wl with mfenceAt := vget st.wl.relSeq 2 }) ∧
      (∀ o c, h = .cmd o → cmdClasses o.ins = [c] → o.moot = false → Sparse.wf s.cmds = true → ∃ k v,
        Sparse.find? t.cmds s.nextId = some k ∧ k.ops = { o with fo := false } ∧ k.wale = w ∧ k.cls = c ∧ k.stage = .queued ∧
        k.seq = vget st.wl.relSeq c ∧ t.wale? w = some v ∧ v = { st.wl with cnt := v.cnt, relSeq := v.relSeq, opn := v.opn } ∧
        (∀ j, vget v.cnt j = if j = c then vget st.wl.cnt j + 1 else vget st.wl.cnt j) ∧
        (∀ j, vget v.relSeq j = if j = c then vget st.wl.relSeq j + 1 else vget st.wl.relSeq j) ∧
        (v.opn = if c = 0 ∧ o.again = false then st.wl.opn ++ [s.nextId] else st.wl.opn) ∧
        (c = 2 → ∀ id x, Sparse.find? s.cmds id = some x → x.wale = w → x.cls = 2 → (id ∈ k.deps ↔
          x.seq < st.wl.mfenceAt ∨ keysMeet (orderKey k.ops k.slots) (orderKey x.ops x.slots) = true ∨
            (cmdReuse o ≠ none ∧ cmdReuse x.ops = cmdReuse o))))) := by
  intro t y d g
  have caches : CachesOnly s y := s.cachesOnly_prepare st h
  obtain ⟨rfl, wale, hoop, -, -⟩ := State.site?_eq_some_iff.mp site
  refine ⟨fun waits => ?_, fun free => ?_⟩
  · have back := s.cachesOnly_callBackFor h.locs
    have e : t = (s.callBackFor h.locs).updWale st.w fun x => { x with due := [h] } := performAll_blocked site waits
    refine ⟨fun l i => by rw [e]; exact back.bytes l i, ?_⟩
    rw [e, State.wale?_updWale_self, back.wale?, wale]
    rfl
  · have done {u : State} (h' : s.performHeld st rest h = (u, true)) : t = u := performAll_done site h'
    have wale_y : y.wale? st.w = some st.wl := (caches.wale? _).trans wale
    have free : ¬s.blocked st.hoop.die st.hoop.core h = true := by rw [free]; decide
    refine ⟨?_, ?_, ?_, ?_, ?_, ?_, ?_, ?_, ?_⟩
    · rintro ws lv rfl
      exact done (if_neg free)
    · rintro a u n xs lv rfl
      exact done (if_neg free)
    · rintro b xs lv rfl
      exact done (if_neg free)
    · rintro op l a b rfl
      exact done (if_neg free)
    · rintro n op rfl wf
      have e : t = y.updHoop st.wl.hoop fun hp => hp.setSlot n.val (op.apply (hp.slotAt n.val)) := done (if_neg free)
      refine ⟨st.hoop.setSlot n.val (op.apply (st.hoop.slotAt n.val)), ?_, (Sparse.getD_setD _ _ _ _ wf).trans (if_pos rfl)⟩
      rw [e]
      refine (Sparse.find?_upd_self ..).trans ?_
      rw [show Sparse.find? y.hoops st.wl.hoop = some st.hoop from (caches.hoop? _).trans hoop]
      rfl
    · rintro k rfl
      rw [done (if_neg free), State.wale?_updWale_self]
      change (y.wale? st.w).map _ = _
      rw [wale_y]
      cases k <;> rfl
    · rintro rfl
      rw [done (if_neg free), State.wale?_updWale_self]
      change (y.wale? st.w).map _ = _
      rw [wale_y]
      rfl
    · rintro rfl
      rw [done (if_neg free), State.wale?_updWale_self]
      change (y.wale? st.w).map _ = _
      rw [wale_y]
      rfl
    · rintro o c rfl single moves wf
      obtain ⟨u, k, released, queued, found, counted⟩ := releaseCmd_queued wale_y moves single
      have e : t = u := done ((if_neg free).trans released)
      rw [caches.nextId] at found counted
      rw [e]
      refine ⟨k, _, found, queued.ops, queued.wale, queued.cls, queued.stage, queued.seq, counted, rfl,
        fun j => vget_incremented .., fun j => vget_incremented .., rfl, fun matrix id x hx mine other => ?_⟩
      rw [queued.deps matrix]
      rw [← caches.cmds] at wf hx
      have order := mem_matrixDeps (wl := st.wl) (o := k.ops) (slots := k.slots) wf hx mine other
      rwa [show cmdReuse k.ops = cmdReuse o by rw [queued.ops]; rfl] at order

/-- Settles O44: the release by the region that is due, and each held effect by its case of `performHeld`. -/
theorem regionRelease : Obligations.RegionRelease := by
  refine ⟨release_older, ?current, release_fault, fun s w st rest h site => ?effect⟩
  case current =>
    intro s w st site due alone _ p0 p1 nothing
    exact release_current s w st site due alone p0 p1 nothing
  case effect =>
    obtain ⟨waits, performs⟩ := heldEffects s w st rest h site
    exact ⟨(s.cachesOnly_prepare st h).bytes, fun back none => prepare_clean s st back none, writes_back_first, waits, performs⟩

end Machine
end Sys2Proof
end

section
/-! Proofs about sensor reports (13 R287, R288) and the registers of the quarantine block that no event writes (13 R299, R301). -/

namespace Sys2Proof

/-- Listed values changed in place, each key keeping its own. -/
theorem Sparse.find?_map {β γ : Type} (m : Sparse β) {f : Nat × β → Nat × γ} (keys : ∀ e, (f e).1 = e.1) (n : Nat) :
    Sparse.find? (m.map f : Sparse γ) n = (Sparse.find? m n).map fun v => (f (n, v)).2 := by
  induction m with
  | nil => rfl
  | cons e m ih =>
    obtain ⟨k, v⟩ := e
    rcases hf : f (k, v) with ⟨j, u⟩
    obtain rfl : j = k := by have := keys (k, v); rwa [hf] at this
    rw [List.map_cons, hf]
    simp only [Sparse.find?]
    by_cases here : n = j
    · subst here; simp [hf]
    · simp only [here, if_false]
      split
      · rfl
      · exact ih

namespace Machine

/-! ### A report of a cell (R287) -/

/-- Where the cell has not reported in this cycle, its report comes last. -/
theorem addReport_new {n : Nat} {l : List CellReport} {cell : Fin 256} {ty : Fin 3} {b : Bool}
    (new : ∀ r ∈ l, r.cell = cell → r.at_ ≠ n) : addReport n l cell ty b = l ++ [⟨cell, ty, b, n⟩] := by
  induction l with
  | nil => rfl
  | cons r l ih =>
    have other : ¬(r.cell = cell ∧ r.at_ = n) := fun h => new r List.mem_cons_self h.1 h.2
    rw [addReport, if_neg other, ih fun q hq => new q (List.mem_cons_of_mem _ hq)]
    rfl

/-- The report that a cell has made in this cycle: of the lowest type that fired, blind when one of them was. -/
theorem addReport_mem (n : Nat) (l : List CellReport) (cell : Fin 256) (ty : Fin 3) (b : Bool) :
    ∃ r ∈ addReport n l cell ty b, r.cell = cell ∧ r.at_ = n ∧ r.ty ≤ ty ∧
      (r.ty = ty ∨ ∃ q ∈ l, q.cell = cell ∧ q.at_ = n ∧ q.ty = r.ty) ∧
      (r.blind = true → b = true ∨ ∃ q ∈ l, q.cell = cell ∧ q.at_ = n ∧ q.blind = true) := by
  induction l with
  | nil => exact ⟨_, List.mem_singleton_self _, rfl, rfl, le_refl _, .inl rfl, .inl⟩
  | cons q l ih =>
    rw [addReport]
    split
    · next same =>
      refine ⟨_, List.mem_cons_self, same.1, same.2, ?_, ?_, ?_⟩
      · dsimp only; split <;> omega
      · dsimp only
        split
        · exact .inl rfl
        · exact .inr ⟨q, List.mem_cons_self, same.1, same.2, rfl⟩
      · intro either
        rcases (Bool.or_eq_true _ _).mp either with h | h
        · exact .inr ⟨q, List.mem_cons_self, same.1, same.2, h⟩
        · exact .inl h
    · obtain ⟨r, hr, cell_, at_, low, type_, blind⟩ := ih
      refine ⟨r, List.mem_cons_of_mem _ hr, cell_, at_, low, type_.imp_right ?_, fun h => (blind h).imp_right ?_⟩ <;>
      · rintro ⟨p, hp, rest⟩
        exact ⟨p, List.mem_cons_of_mem _ hp, rest⟩

/-- Reports of other cells, and of other cycles, stay. -/
theorem addReport_others {n : Nat} {l : List CellReport} {cell : Fin 256} {ty : Fin 3} {b : Bool} {r : CellReport}
    (other : r.cell ≠ cell ∨ r.at_ ≠ n) : r ∈ addReport n l cell ty b ↔ r ∈ l := by
  have differs {q : CellReport} (h : q.cell = cell ∧ q.at_ = n) : r ≠ q := by
    rintro rfl
    rcases other with h' | h'
    · exact h' h.1
    · exact h' h.2
  induction l with
  | nil => simpa [addReport] using differs (q := ⟨cell, ty, b, n⟩) ⟨rfl, rfl⟩
  | cons q l ih =>
    rw [addReport]
    split
    · next same =>
      rw [List.mem_cons, List.mem_cons]
      simp only [differs same, false_or, or_iff_right_iff_imp]
      exact fun h => absurd h (differs ⟨same.1, same.2⟩)
    · simp only [List.mem_cons, ih]

/-- One report of a cell in a cycle. -/
theorem addReport_one (n : Nat) (l : List CellReport) (cell : Fin 256) (ty : Fin 3) (b : Bool)
    (one : (l.filter fun r => r.cell == cell && r.at_ == n).length ≤ 1) :
    ((addReport n l cell ty b).filter fun r => r.cell == cell && r.at_ == n).length = 1 := by
  induction l with
  | nil => simp [addReport]
  | cons q l ih =>
    rw [addReport]
    by_cases same : q.cell = cell ∧ q.at_ = n
    · have mine : (q.cell == cell && q.at_ == n) = true := by simp [same]
      rw [if_pos same]
      simp only [List.filter_cons, mine, if_true, List.length_cons] at one ⊢
      omega
    · have other : ¬(q.cell == cell && q.at_ == n) = true := by simpa using same
      simp only [List.filter_cons, other] at one
      simp only [if_neg same, List.filter_cons, other]
      exact ih one

/-- The report applied first has the earliest apply cycle (R288). -/
theorem firstReport_first {d : Fin 4} {l : List CellReport} {r : CellReport} (h : firstReport d l = some r) :
    r ∈ l ∧ ∀ q ∈ l, r.due d ≤ q.due d := by
  induction l generalizing r with
  | nil => cases h
  | cons p l ih =>
    rw [firstReport] at h
    split at h
    · next q first =>
      obtain ⟨inside, least⟩ := ih first
      split at h
      · next earlier =>
        cases h
        exact ⟨List.mem_cons_of_mem _ inside, List.forall_mem_cons.mpr ⟨by omega, least⟩⟩
      · next later =>
        cases h
        exact ⟨List.mem_cons_self, List.forall_mem_cons.mpr ⟨le_refl _, fun q hq => by have := least q hq; omega⟩⟩
    · next none =>
      cases h
      cases l with
      | nil => simp
      | cons q l =>
        rw [firstReport] at none
        split at none
        · split at none <;> cases none
        · cases none

theorem sensorReport_adds (s : State) (d : Fin 4) (cell : Fin 256) (ty : Fin 3) :
    ((cell, ty) ∈ (s.die d).blind → exec (.sensorReport d cell ty) s = .next s) ∧
    ((cell, ty) ∉ (s.die d).blind → ∃ t, exec (.sensorReport d cell ty) s = .next t ∧
      OnlyDie s d { s.die d with reports := (t.die d).reports } t ∧
      (∃ r ∈ (t.die d).reports, r.cell = cell ∧ r.at_ = (s.die d).cc ∧ r.ty ≤ ty ∧
        (r.ty = ty ∨ ∃ q ∈ (s.die d).reports, q.cell = cell ∧ q.at_ = (s.die d).cc ∧ q.ty = r.ty) ∧
        (r.blind = true → ∃ q ∈ (s.die d).reports, q.cell = cell ∧ q.at_ = (s.die d).cc ∧ q.blind = true)) ∧
      ∀ r : CellReport, r.cell ≠ cell ∨ r.at_ ≠ (s.die d).cc → (r ∈ (t.die d).reports ↔ r ∈ (s.die d).reports)) := by
  refine ⟨fun blind => ?_, fun sees => ?_⟩
  · exact congrArg Host.Outcome.next (if_pos (List.contains_iff_mem.mpr blind))
  · have run : exec (.sensorReport d cell ty) s = .next (s.updDie d fun x =>
        { x with reports := addReport x.cc x.reports cell ty false }) :=
      congrArg Host.Outcome.next (if_neg fun h => sees (List.contains_iff_mem.mp h))
    refine ⟨_, run, ?_⟩
    simp only [State.die_updDie, if_true]
    obtain ⟨r, hr, cell_, at_, low, type_, blind⟩ := addReport_mem (s.die d).cc (s.die d).reports cell ty false
    refine ⟨onlyDie_setDie s d _, ⟨r, hr, cell_, at_, low, type_, fun h => (blind h).resolve_left (by decide)⟩, fun _ other => ?_⟩
    exact addReport_others other

end Machine
end Sys2Proof
end

section
/-! Proofs about the window, injection and fence registers of the quarantine block (13 R292, R299, R301). -/

namespace Sys2Proof.Machine

theorem getFld_lt (r : BitVec 64) (hi lo : Nat) : getFld r hi lo < 2 ^ (hi + 1 - lo) := by
  unfold getFld nfld
  exact Nat.mod_lt _ (by positivity)

theorem getFld_bit (r : BitVec 64) (i : Nat) : getFld r i i = 1 ↔ r.getLsbD i = true := by
  have bit := testBit_getFld r i i 0
  have small : getFld r i i < 2 := by simpa using getFld_lt r i i
  rw [Nat.testBit_zero, Nat.mod_eq_of_lt small] at bit
  simpa using congrArg (· = true) bit

/-! ### QSM_WINDOW (R292) -/

theorem tagsOf_closeOld (s : State) (d : Fin 4) (cc q g : Nat) :
    Sparse.getD ((s.die d).tags.map fun e => (e.1, e.2.closeOld cc q)) TagRgn.empty g = (s.tagsOf d g).closeOld cc q := by
  unfold Sparse.getD State.tagsOf Sparse.getD
  rw [Sparse.find?_map _ (f := fun e => (e.1, TagRgn.closeOld e.2 cc q)) fun e => rfl]
  cases Sparse.find? (s.die d).tags g <;> rfl

theorem windowWrite_sets (s : State) (d : Fin 4) (x : BitVec 64) :
    let q := getFld x 9 0
    (80 ≤ q → q ≤ 512 → ∃ u v t, exec (.qsmWindowWrite d x) s = .next t ∧
      OnlyDie s d { s.die d with tags := (u.die d).tags } u ∧
      (∀ g, u.tagsOf d g = (s.tagsOf d g).closeOld (s.die d).cc (s.window d)) ∧ v = { u with wales := v.wales } ∧
      (∀ w, v.wale? w = (s.wale? w).map fun y =>
        if (s.hoop? y.hoop).any (fun h => h.die == d) = true ∧ y.curClosed = true then { y with cur := y.cur.close (s.window d) }
        else y) ∧ OnlyFld v (rQsmWindow d) 9 0 q t) ∧
    (q < 80 ∨ 512 < q → ∃ t, exec (.qsmWindowWrite d x) s = .next t ∧ OnlyFld s (rQsmStatus d) 0 0 1 t) := by
  intro q
  refine ⟨fun low high => ?_, fun bad => ⟨_, congrArg Host.Outcome.next (if_pos bad), onlyFld_setRegF ..⟩⟩
  let u := s.updDie d fun y => { y with tags := y.tags.map fun e => (e.1, e.2.closeOld y.cc (s.window d)) }
  refine ⟨u, _, _, congrArg Host.Outcome.next (if_neg (by omega)), ?_, fun g => ?_, rfl, fun w => ?_, onlyFld_setRegF ..⟩
  · have die : (u.die d).tags = (s.die d).tags.map fun e => (e.1, e.2.closeOld (s.die d).cc (s.window d)) := by
      simp only [u, State.die_updDie, if_true]
    rw [die]
    exact onlyDie_setDie s d _
  · rw [State.tagsOf]
    simp only [u, State.die_updDie, if_true]
    exact tagsOf_closeOld s d _ _ g
  · refine (Sparse.find?_map s.wales (f := _) ?_ w).trans ?_
    · intro e; dsimp only; split <;> rfl
    · congr 1
      funext y
      simp only [State.hoop?, State.updDie, State.setDie_hoops]
      rcases Option.eq_none_or_eq_some (Sparse.find? s.hoops y.hoop) with gone | ⟨h, found⟩
      · simp [gone]
      · simp only [found, Option.any_some, ← Bool.and_eq_true]
        split <;> rfl

/-! ### QSM_INJECT (R301) -/

theorem injectWrite_run (s : State) (d : Fin 4) (x : BitVec 64) (i : Instr) (b : Bool)
    (op : i = .qsmInjectArm d x ∧ b = true ∨ i = .qsmInjectDisarm d x ∧ b = false) (bit : x.getLsbD 11 = b) :
    exec i s = .next (if s.recovering then s else s.injectWrite d x) := by
  have arm : getFld x 11 11 = 1 ↔ b = true := by rw [getFld_bit, bit]
  rcases op with ⟨rfl, rfl⟩ | ⟨rfl, rfl⟩
  · have arms : getFld x 11 11 = 1 := arm.mpr rfl
    change execQsmInjectArm d x s = _
    cases up : s.recovering <;> simp [execQsmInjectArm, arms, up]
  · have disarms : getFld x 11 11 = 0 := by
      have small : getFld x 11 11 < 2 := getFld_lt x 11 11
      have := mt arm.mp (by decide)
      omega
    change execQsmInjectDisarm d x s = _
    cases up : s.recovering <;> simp [execQsmInjectDisarm, disarms, up]

theorem injectWrite_arms (s : State) (d : Fin 4) (x : BitVec 64) (i : Instr) (b : Bool)
    (op : i = .qsmInjectArm d x ∧ b = true ∨ i = .qsmInjectDisarm d x ∧ b = false) (bit : x.getLsbD 11 = b) :
    (s.recovering = true ∨ s.regF (rQsmCtl d) 0 0 = 0 ∨ getFld x 1 0 = 3 → exec i s = .next s) ∧
    (s.recovering = false → s.regF (rQsmCtl d) 0 0 ≠ 0 → getFld x 1 0 ≠ 3 → ∃ u t, exec i s = .next t ∧
      OnlyFld s (rQsmInject d) 31 0 (getFld x 31 0) u ∧
      OnlyDie u d { s.die d with injArmed := b, injStart := (s.die d).cc } t) := by
  have run := injectWrite_run s d x i b op bit
  have arm : (getFld x 11 11 == 1) = b := by
    rw [← bit, Bool.eq_iff_iff, beq_iff_eq]
    exact getFld_bit x 11
  refine ⟨fun ignored => ?_, fun up enabled type_ => ?_⟩
  · rw [run]
    congr 1
    rcases ignored with h | h
    · rw [if_pos h]
    · rw [State.injectWrite, if_pos h, ite_self]
  · let u := s.setRegF (rQsmInject d) 31 0 (getFld x 31 0)
    refine ⟨u, u.setDie d { s.die d with injArmed := b, injStart := (s.die d).cc }, ?_, onlyFld_setRegF .., onlyDie_setDie ..⟩
    rw [run, up, if_neg (by decide), State.injectWrite, if_neg (by tauto), ← arm]
    rfl

/-! ### REGION_UNFENCE -/

theorem regionUnfence_clears (s : State) (d : Fin 4) (g : Fin 63) (wf : Sparse.wf (s.die d).degRun = true) :
    ∃ u t, exec (.regionUnfence d g) s = .next t ∧ OnlyFld s (rQsmRgn d g) 1 1 0 u ∧
      OnlyDie u d { s.die d with degRun := (t.die d).degRun } t ∧
      ∀ k, Sparse.find? (t.die d).degRun k = if k = g.val then none else Sparse.find? (s.die d).degRun k := by
  refine ⟨_, _, rfl, onlyFld_setRegF .., ?_, fun k => ?_⟩
  · simp only [State.die_updDie, if_true]
    exact onlyDie_setDie _ d _
  · simp only [State.die_updDie, if_true]
    exact Sparse.find?_del g.val k wf

end Sys2Proof.Machine
end

section
/-! Proofs about a guard event (13 R288, R289, R300): what its messages, counts and log leave as it was. -/

namespace Sys2Proof.Machine

/-! ### What counting, logging and the messages of an event leave -/

/-- Two states of a die with one cycle counter and the same events to come. -/
structure SameClock (x y : Die) : Prop where
  cc : y.cc = x.cc
  storm : y.stormStart = x.stormStart
  reports : y.reports = x.reports
  armed : y.injArmed = x.injArmed

/-- Of `s` and `t` no wale, hoop or command differs, nor a die's clock, nor the settings and counts of die `d`: below the log pointer only
the status, of which the injection's bit stays. -/
structure Beside (d : Fin 4) (s t : State) : Prop where
  wales : t.wales = s.wales
  hoops : t.hoops = s.hoops
  cmds : t.cmds = s.cmds
  die : ∀ e, SameClock (s.die e) (t.die e)
  reg : ∀ o, o < 0x60 → o ≠ 0x18 → t.reg (qsm d o) = s.reg (qsm d o)
  fired : (t.reg (rQsmStatus d)).getLsbD 3 = (s.reg (rQsmStatus d)).getLsbD 3

namespace Beside
variable {d : Fin 4}

theorem refl (s : State) : Beside d s s := ⟨rfl, rfl, rfl, fun _ => ⟨rfl, rfl, rfl, rfl⟩, fun _ _ _ => rfl, rfl⟩
theorem trans {a b c : State} (h : Beside d a b) (k : Beside d b c) : Beside d a c where
  wales := k.wales.trans h.wales
  hoops := k.hoops.trans h.hoops
  cmds := k.cmds.trans h.cmds
  die e := ⟨(k.die e).cc.trans (h.die e).cc, (k.die e).storm.trans (h.die e).storm, (k.die e).reports.trans (h.die e).reports,
    (k.die e).armed.trans (h.die e).armed⟩
  reg o low other := (k.reg o low other).trans (h.reg o low other)
  fired := k.fired.trans h.fired
theorem ite {s t u : State} {p : Prop} [Decidable p] (ht : Beside d s t) (hu : Beside d s u) :
    Beside d s (if p then t else u) := by
  split <;> assumption
theorem foldl {α : Type} {f : State → α → State} (h : ∀ s a, Beside d s (f s a)) (l : List α) (s : State) :
    Beside d s (l.foldl f s) := by
  induction l generalizing s with
  | nil => exact refl s
  | cons a l ih => exact (h s a).trans (ih _)
theorem updDie (s : State) (c : Fin 4) {f : Die → Die} (same : ∀ x, SameClock x (f x)) : Beside d s (s.updDie c f) := by
  refine ⟨rfl, rfl, rfl, fun e => ?_, fun _ _ _ => rfl, rfl⟩
  rw [State.die_updDie]
  split
  · next h => subst h; exact same _
  · exact ⟨rfl, rfl, rfl, rfl⟩
/-- A register from the log pointer on. -/
theorem setReg (s : State) {k : Nat} (v : BitVec 64) (high : dieBase d + 0x60 ≤ k) : Beside d s (s.setReg k v) := by
  have apart {o : Nat} (low : o < 0x60) : qsm d o ≠ k := by unfold qsm; omega
  refine ⟨rfl, rfl, rfl, fun _ => ⟨rfl, rfl, rfl, rfl⟩, fun o low _ => ?_, ?_⟩
  · rw [State.reg_setReg, if_neg (apart low)]
  · rw [State.reg_setReg, rQsmStatus, if_neg (apart (by decide))]
theorem setRegF (s : State) {k : Nat} (hi lo x : Nat) (high : dieBase d + 0x60 ≤ k) : Beside d s (s.setRegF k hi lo x) :=
  setReg s _ high

end Beside

theorem rQsmRgn_high (d : Fin 4) (g : Nat) : dieBase d + 0x60 ≤ rQsmRgn d g := by unfold rQsmRgn qsm; omega
theorem rQsmLogPtr_high (d : Fin 4) : dieBase d + 0x60 ≤ rQsmLogPtr d := le_refl _
theorem rClust_high (d : Fin 4) (c : Nat) : dieBase d + 0x60 ≤ rClust d c := by unfold rClust pwr; omega
theorem rRail_high (d : Fin 4) (k : Nat) : dieBase d + 0x60 ≤ rRail d k := by unfold rRail pwr; omega

section
variable (s : State) (d : Fin 4)

theorem State.beside_setTags (g : Nat) (t : TagRgn) : Beside d s (s.setTags d g t) := .updDie s d fun _ => ⟨rfl, rfl, rfl, rfl⟩
theorem State.beside_sendClear (g : Nat) (w : TagWin) : Beside d s (s.sendClear d g w) :=
  ⟨rfl, rfl, rfl, fun _ => ⟨rfl, rfl, rfl, rfl⟩, fun _ _ _ => rfl, rfl⟩
theorem State.beside_sendDue (g cc n : Nat) : Beside d s (State.sendDue d g cc n s) := by
  induction n generalizing s with
  | zero => exact .refl s
  | succ n ih =>
    unfold State.sendDue
    dsimp only
    split
    · exact .ite (.refl s) (((s.beside_setTags d g _).trans (State.beside_sendClear _ d g _)).trans (ih _))
    · exact .refl s
theorem State.beside_squashTags (g : Nat) : Beside d s (s.squashTags d g).1 := by
  unfold State.squashTags
  dsimp only
  split
  · exact .refl s
  · exact (s.beside_setTags d g _).trans ⟨rfl, rfl, rfl, fun _ => ⟨rfl, rfl, rfl, rfl⟩, fun _ _ _ => rfl, rfl⟩
theorem State.beside_revote (k : Nat) : Beside d s (s.revote d k) := by
  have votes (s : State) (c : Fin 8) : Beside d s (if c.val / 2 = k ∧ s.regF (rClust d c) 15 8 ≠ 0 then
      s.setRegF (rClust d c) 15 8 (s.voteOf d c) else s) := .ite (.setRegF s _ _ _ (rClust_high d c)) (.refl s)
  have rail (s : State) (hi lo x : Nat) : Beside d s (s.setRegF (rRail d k) hi lo x) := .setRegF s _ _ _ (rRail_high d k)
  unfold State.revote
  extract_lets one s1 t was s2
  have h1 : Beside d s s1 := .foldl votes _ s
  have h2 : Beside d s s2 := h1.trans (rail s1 _ _ _)
  exact .ite (h2.trans (rail s2 _ _ _)) (.ite (h2.trans (rail s2 _ _ _)) h2)
theorem State.beside_countEvent (g : Nat) : Beside d s (s.countEvent d g) := by
  have rgn (s : State) (hi lo x : Nat) : Beside d s (s.setRegF (rQsmRgn d g) hi lo x) := .setRegF s _ _ _ (rQsmRgn_high d g)
  unfold State.countEvent
  extract_lets n s1 s2
  have h1 : Beside d s s1 := (rgn s _ _ _).trans (rgn _ _ _ _)
  have h2 : Beside d s s2 := h1.trans (rgn s1 _ _ _)
  refine .ite ?_ h1
  split
  · exact h2.trans (s2.beside_revote d _)
  · exact h2
/-- Logging sets at most the overflow bit of the status. -/
theorem State.beside_qlogPut (r : BitVec 256) : Beside d s (s.qlogPut d r) := by
  have pointer (s : State) (hi lo x : Nat) : Beside d s (s.setRegF (rQsmLogPtr d) hi lo x) :=
    .setRegF s _ _ _ (rQsmLogPtr_high d)
  have status : Beside d s (s.setRegF (rQsmStatus d) 1 1 1) := by
    refine ⟨rfl, rfl, rfl, fun _ => ⟨rfl, rfl, rfl, rfl⟩, fun o _ other => ?_, ?_⟩
    · rw [State.reg_setRegF, if_neg (by unfold rQsmStatus qsm; omega)]
    · rw [State.reg_setRegF, if_pos rfl, getLsbD_setFld, if_neg (by omega)]
  unfold State.qlogPut
  refine .ite (pointer s _ _ _) ?_
  extract_lets h s1
  have h1 : Beside d s s1 := .ite status (.refl s)
  refine .trans (.trans h1 ?_) (pointer _ _ _ _)
  exact .updDie s1 d fun _ => ⟨rfl, rfl, rfl, rfl⟩
theorem State.beside_telemEvent (f n : Nat) : Beside d s (s.telemEvent f n) :=
  ⟨rfl, rfl, rfl, fun _ => ⟨rfl, rfl, rfl, rfl⟩, fun _ _ _ => rfl, rfl⟩

end

end Sys2Proof.Machine
end

section
/-! Proofs about a guard event as it is applied (02 R55, R56, 13 R288, R289): the wales that restart, the commands performed again. -/

namespace Sys2Proof.Machine

/-! ### The event -/

/-- A wale on a core of the regions `gs` of die `d` (02 R55). -/
def State.masked (s : State) (d : Fin 4) (gs : List Nat) (x : Wale) : Bool :=
  (s.hoop? x.hoop).any fun h => h.die == d && h.st == .resident && gs.contains h.region

theorem releaseDue_calm {s : State} (calm : ∀ e ∈ s.wales, e.2.releasable = false) (w cc n : Nat) :
    State.releaseDue w cc n s = s := by
  cases n with
  | zero => rfl
  | succ n =>
    rw [State.releaseDue]
    split
    · rfl
    · next st site =>
      have waits : st.wl.releasable = false := calm _ (Sparse.mem_of_find? (State.site?_wale site))
      simp only [waits, Bool.false_and, Bool.false_eq_true, if_false]

/-- Before the storm interval is over, none ends. -/
theorem endIntervals_within {s : State} {d : Fin 4} (within : (s.die d).cc < (s.die d).stormStart + s.stormLen d) :
    s.endIntervals d = s := by
  rw [State.endIntervals]
  exact if_pos (Nat.div_eq_of_lt (by omega))

theorem beside_squashAll (d : Fin 4) (gs : List Nat) (a : State × Nat) :
    Beside d a.1 (gs.foldl (fun (a : State × Nat) g => let (s, n) := a.1.squashTags d g; (s, a.2 + n)) a).1 := by
  induction gs generalizing a with
  | nil => exact .refl a.1
  | cons g gs ih =>
    rw [List.foldl_cons]
    exact (a.1.beside_squashTags d g).trans (ih ((a.1.squashTags d g).1, a.2 + (a.1.squashTags d g).2))

theorem SameClock.trans {x y z : Die} (h : SameClock x y) (k : SameClock y z) : SameClock x z :=
  ⟨k.cc.trans h.cc, k.storm.trans h.storm, k.reports.trans h.reports, k.armed.trans h.armed⟩

/-! ### Commands performed again (02 R56) -/

theorem redoAll_sameClock (s : State) (ids : List Nat) (e : Fin 4) : SameClock (s.die e) ((s.redoAll ids).die e) := by
  unfold State.redoAll
  split
  · exact ⟨rfl, rfl, rfl, rfl⟩
  · simp only [State.die, vget_vmap]
    exact ⟨rfl, rfl, rfl, rfl⟩
theorem redoAll_rest (s : State) (ids : List Nat) : (s.redoAll ids).wales = s.wales ∧ (s.redoAll ids).hoops = s.hoops ∧
    ∀ k, (s.redoAll ids).reg k = s.reg k := by
  unfold State.redoAll
  split <;> exact ⟨rfl, rfl, fun _ => rfl⟩
/-- A command that is no follow-on is performed again when it is one of those. -/
theorem find?_redoAll {s : State} {ids : List Nat} {id : Nat} {c : Cmd} (found : Sparse.find? s.cmds id = some c)
    (single : c.copy = none) : Sparse.find? (s.redoAll ids).cmds id = some (if ids.contains id then c.redo else c) := by
  unfold State.redoAll
  split
  · next none =>
    rw [List.isEmpty_iff.mp none, found]
    rfl
  · refine (Sparse.find?_map s.cmds (f := _) ?_ id).trans ?_
    · intro e; dsimp only; split
      · rfl
      · split <;> rfl
    · rw [found, Option.map_some]
      simp only [single, Bool.false_eq_true, if_false]
      split <;> rfl

theorem hit_contains {s : State} {p : Cmd → Bool} {id : Nat} {c : Cmd} (wf : Sparse.wf s.cmds = true)
    (found : Sparse.find? s.cmds id = some c) : ((s.cmds.filter fun e => p e.2).map (·.1)).contains id = p c := by
  rw [Bool.eq_iff_iff, List.contains_iff_mem, List.mem_map]
  constructor
  · rintro ⟨e, he, rfl⟩
    obtain ⟨he, hit⟩ := List.mem_filter.mp he
    rwa [← Option.some.inj (found.symm.trans (Sparse.find?_of_mem wf he))] at hit
  · intro hit
    exact ⟨(id, c), List.mem_filter.mpr ⟨Sparse.mem_of_find? found, hit⟩, rfl⟩

/-- An event has been applied on die `d` to the regions `gs` (02 R55, R56). -/
structure Applied (s : State) (d : Fin 4) (ty : Fin 3) (gs : List Nat) (t : State) : Prop where
  clock : ∀ e, SameClock (s.die e) (t.die e)
  reg : ∀ o, o < 0x60 → o ≠ 0x18 → o ≠ 0x40 + 8 * ty.val → t.reg (qsm d o) = s.reg (qsm d o)
  count : t.reg (rQsmEvCnt d ty) = s.reg (rQsmEvCnt d ty) + 1
  fired : (t.reg (rQsmStatus d)).getLsbD 3 = (s.reg (rQsmStatus d)).getLsbD 3
  wale : ∀ w x, s.wale? w = some x → ∃ turn cc, t.wale? w = some (if s.masked d gs x then x.struck turn cc else x)
  cmd : ∀ id c, Sparse.wf s.cmds = true → Sparse.find? s.cmds id = some c → c.copy = none →
    Sparse.find? t.cmds id = some (if c.hit d gs (s.die d).cc (s.window d) = true then c.redo else c)

theorem applyEvent_applied (s : State) (d : Fin 4) (cell : Fin 256) (ty : Fin 3) (inj blind : Bool) (gs : List Nat)
    (calm : ∀ e ∈ s.wales, e.2.releasable = false)
    (within : (s.die d).cc < (s.die d).stormStart + s.stormLen d) :
    Applied s d ty gs (s.applyEvent d cell ty inj blind gs) := by
  unfold State.applyEvent
  extract_lets mask cc onMask s1 s2 back funcs s3 s4 s5
  have unreleased : s1 = s := List.foldl_fixed' (fun w => releaseDue_calm calm w cc 2) _
  have sent : Beside d s s2 := by
    unfold s2
    rw [unreleased, endIntervals_within within]
    exact .foldl (fun s g => s.beside_sendDue d g cc 40) gs s
  obtain ⟨wales5, -, regs5⟩ := redoAll_rest s4 ((s4.cmds.filter fun e => e.2.hit d gs cc (s4.window d)).map (·.1))
  have clock5 (e : Fin 4) : SameClock (s2.die e) (s5.die e) := redoAll_sameClock s4 _ e
  have squash := beside_squashAll d gs (s5, 0)
  split
  next s6 wins squashed =>
  rw [squashed] at squash
  extract_lets s7 s8 s9
  have counted : Beside d s5 s7 := squash.trans (.foldl (fun s g => s.beside_countEvent d g) gs s6)
  have logged := (s8.beside_qlogPut d (qlogRecord cc cell ty inj blind back.length wins mask)).trans
    (.foldl (fun s f => s.beside_telemEvent d f (funcs.filter fun g => g == f).length) funcs.eraseDups s9)
  have before {o : Nat} (low : o < 0x60) (other : o ≠ 0x18) : s7.reg (qsm d o) = s.reg (qsm d o) :=
    (counted.reg o low other).trans ((regs5 _).trans (sent.reg o low other))
  have cnt : rQsmEvCnt d ty = qsm d (0x40 + 8 * ty.val) := rfl
  constructor
  case clock => exact fun e => (sent.die e).trans ((clock5 e).trans ((counted.die e).trans (logged.die e)))
  case reg =>
    intro o low other apart
    rw [logged.reg o low other, State.reg_setReg, if_neg (by unfold rQsmEvCnt qsm; omega), before low other]
  case count =>
    rw [cnt, logged.reg _ (by omega) (by omega), State.reg_setReg, cnt, if_pos rfl, before (by omega) (by omega)]
  case fired =>
    rw [logged.fired, State.reg_setReg, if_neg (by unfold rQsmStatus rQsmEvCnt qsm; omega), counted.fired, regs5]
    exact sent.fired
  case wale =>
    intro w x found
    refine ⟨s2.turn, s2.ccOf x, (congrArg (Sparse.find? · w) (logged.wales.trans (counted.wales.trans wales5))).trans ?_⟩
    have same : onMask s2 x = s.masked d gs x := by
      simp only [onMask, State.masked, State.hoop?, sent.hoops]
      cases Sparse.find? s.hoops x.hoop <;> rfl
    refine (Sparse.find?_map s2.wales (f := _) ?_ w).trans ?_
    · intro e; split <;> rfl
    · rw [sent.wales, show Sparse.find? s.wales w = some x from found, Option.map_some, ← same]
      split <;> rfl
  case cmd =>
    intro id c wf found single
    have cmds : s4.cmds = s.cmds := sent.cmds
    have window : s4.window d = s.window d := congrArg (getFld · 9 0) (sent.reg 8 (by decide) (by decide))
    rw [logged.cmds]
    refine (congrArg (Sparse.find? · id) counted.cmds).trans ?_
    rw [← cmds] at wf found
    rw [find?_redoAll found single, hit_contains (p := fun c => c.hit d gs cc (s4.window d)) wf found, window]

/-! ### GUARD_EVENT -/

theorem masked_iff {s : State} {d : Fin 4} {m : BitVec 64} {x : Wale} : s.masked d (regionsOf m) x = true ↔
    ∃ h, s.hoop? x.hoop = some h ∧ h.die = d ∧ h.st = .resident ∧ m.getLsbD h.region = true := by
  have region (h : Hoop) : (regionsOf m).contains h.region = m.getLsbD h.region := by
    have low : h.region < 63 := by unfold Hoop.region; omega
    rw [Bool.eq_iff_iff, List.contains_iff_mem]
    simp [regionsOf, low]
  simp only [State.masked, Option.any_eq_true, region, Bool.and_eq_true, beq_iff_eq, and_assoc]

theorem Wale.struck_released {x : Wale} (none : x.unreleased = false) (turn cc : Nat) :
    x.struck turn cc = { x with qev := x.qev + 1 } := by
  simp only [Wale.struck, none, Bool.false_eq_true, if_false]

/-- A wale with unreleased results that is struck is at the head of its oldest unreleased region, nothing of it held. -/
theorem Wale.struck_unreleased {x : Wale} (some_ : x.unreleased = true) (turn cc : Nat) :
    let y := x.struck turn cc
    y.qev = x.qev + 1 ∧ y.old = none ∧ y.cur.held = [] ∧
      y.cur.ckpt = (match x.old with | some r => r.ckpt | none => x.cur.ckpt) ∧ y.core = y.cur.ckpt.unstall ∧ y.st = .ready ∧
      y.due = x.due ∧ y.cnt = x.cnt ∧ y.hoop = x.hoop := by
  have e : x.struck turn cc = { x.restart turn cc with qev := x.qev + 1 } := by
    simp only [Wale.struck, some_, if_true]
    rfl
  rw [e]
  refine ⟨rfl, rfl, rfl, ?_, rfl, rfl, rfl, rfl, rfl⟩
  unfold Wale.restart
  cases x.old <;> rfl

theorem guardEvent_applies (s : State) (d : Fin 4) (cell : Fin 256) (ty : Fin 3) (r : CellReport)
    (first : firstReport d (s.die d).reports = some r) (cell_ : r.cell = cell) (type_ : r.ty = ty)
    (alone : s.injectFirst d r = false) (calm : ∀ e ∈ s.wales, e.2.releasable = false) (wf : Sparse.wf s.cmds = true) :
    let cc := max (s.die d).cc (r.due d)
    let gs := regionsOf (s.cellMask d cell)
    cc < (s.die d).stormStart + s.stormLen d →
    ∃ t, exec (.guardEvent d cell ty) s = .next t ∧ (t.die d).cc = cc ∧
      t.reg (rQsmEvCnt d ty) = s.reg (rQsmEvCnt d ty) + 1 ∧ (t.die d).reports = (s.die d).reports.erase r ∧
      (∀ id c, Sparse.find? s.cmds id = some c → c.copy = none →
        Sparse.find? t.cmds id = some (if c.hit d gs cc (s.window d) = true then c.redo else c)) ∧
      ∀ w x, s.wale? w = some x →
        let hit := ∃ h, s.hoop? x.hoop = some h ∧ h.die = d ∧ h.st = .resident ∧ (s.cellMask d cell).getLsbD h.region = true
        (¬hit → t.wale? w = some x) ∧
        (hit → x.unreleased = false → t.wale? w = some { x with qev := x.qev + 1 }) ∧
        (hit → x.unreleased = true → ∃ y, t.wale? w = some y ∧ y.qev = x.qev + 1 ∧ y.old = none ∧ y.cur.held = [] ∧
          y.cur.ckpt = (match x.old with | some r => r.ckpt | none => x.cur.ckpt) ∧ y.core = y.cur.ckpt.unstall ∧ y.st = .ready ∧
          y.due = x.due ∧ y.cnt = x.cnt ∧ y.hoop = x.hoop) := by
  intro cc gs within
  let u := (s.waitPast d (r.due d - 1)).updDie d fun x => { x with reports := x.reports.erase r }
  have run : exec (.guardEvent d cell ty) s = .next (u.applyEvent d cell ty false r.blind gs) := by
    change execGuardEvent d cell ty s = _
    simp only [execGuardEvent, first, cell_, type_, alone, beq_self_eq_true, Bool.and_self, Bool.not_true, Bool.or_self,
      Bool.false_eq_true, if_false]
    rfl
  have die : u.die d = { s.die d with cc := cc, reports := (s.die d).reports.erase r } := by
    have later : r.due d - 1 + 1 = r.due d := by unfold CellReport.due; omega
    simp only [u, State.waitPast, State.die_updDie, if_true, later]
    rfl
  have applied := applyEvent_applied u d cell ty false r.blind gs calm (by rw [die]; exact within)
  refine ⟨_, run, ?_, applied.count, ?_, fun id c found single => ?_, fun w x found => ?_⟩
  · rw [(applied.clock d).cc, die]
  · rw [(applied.clock d).reports, die]
  · have := applied.cmd id c wf found single
    rwa [die] at this
  · obtain ⟨turn, n, now⟩ := applied.wale w x found
    have struck : u.masked d gs x = true ↔ _ := masked_iff
    refine ⟨fun missed => ?_, fun hit released => ?_, fun hit unreleased => ?_⟩
    · rw [now, if_neg (mt struck.mp missed)]
    · rw [now, if_pos (struck.mpr hit), Wale.struck_released released]
    · rw [if_pos (struck.mpr hit)] at now
      exact ⟨_, now, Wale.struck_unreleased unreleased turn n⟩

end Sys2Proof.Machine
end

section
/-! Proofs about injections and storm intervals (13 R301, R303). -/

namespace Sys2Proof.Machine

/-! ### INJECTION_FIRE (R301) -/

theorem injectionFire_applies (s : State) (d : Fin 4) (n : Nat) (at_ : s.injectAt d = some n)
    (calm : ∀ e ∈ s.wales, e.2.releasable = false) (within : max (s.die d).cc n < (s.die d).stormStart + s.stormLen d) :
    ∃ t, exec (.injectionFire d) s = .next t ∧
      let ty : Fin 3 := Fin.ofNat 3 (s.regF (rQsmInject d) 1 0)
      (t.die d).injArmed = false ∧ (t.reg (rQsmInject d)).getLsbD 11 = false ∧ (t.reg (rQsmStatus d)).getLsbD 3 = true ∧
      (t.die d).cc = max (s.die d).cc n ∧ t.reg (rQsmEvCnt d ty) = s.reg (rQsmEvCnt d ty) + 1 := by
  let a := s.updDie d fun x => { x with injArmed := false, cc := max x.cc n }
  let u := (a.setRegF (rQsmInject d) 11 11 0).setRegF (rQsmStatus d) 3 3 1
  have die : u.die d = { s.die d with injArmed := false, cc := max (s.die d).cc n } := by
    change a.die d = _
    rw [State.die_updDie, if_pos rfl]
  have other {o : Nat} (h : o ≠ 0x18) (k : o ≠ 0x20) : u.reg (qsm d o) = s.reg (qsm d o) := by
    rw [State.reg_setRegF, if_neg (by unfold rQsmStatus qsm; omega), State.reg_setRegF,
      if_neg (by unfold rQsmInject qsm; omega)]
    rfl
  have storm : u.stormLen d = s.stormLen d :=
    congrArg (fun r => 1024 * getFld r 31 16) (other (o := 0x10) (by decide) (by decide))
  let r := s.reg (rQsmInject d)
  let ty := Fin.ofNat 3 (getFld r 1 0)
  let cell := Fin.ofNat 256 (getFld r 9 2)
  let gs := if getFld r 10 10 = 1 ∧ (u.cellMask d cell).getLsbD (getFld r 17 12) = false then []
    else regionsOf (u.cellMask d cell)
  let t := u.applyEvent d cell ty true false gs
  have run : exec (.injectionFire d) s = .next t := by
    change execInjectionFire d s = _
    simp only [execInjectionFire, at_]
    rfl
  have event : Applied u d ty gs t := applyEvent_applied u d cell ty true false gs calm (by rw [die, storm]; exact within)
  have disarmed : t.reg (rQsmInject d) = u.reg (rQsmInject d) := event.reg 0x20 (by decide) (by decide) (by omega)
  have apart : rQsmInject d ≠ rQsmStatus d := by unfold rQsmStatus rQsmInject qsm; omega
  refine ⟨t, run, ?_, ?_, ?_, ?_, ?_⟩
  · rw [(event.clock d).armed, die]
  · rw [disarmed, State.reg_setRegF, if_neg apart, State.reg_setRegF, if_pos rfl, getLsbD_setFld, if_pos (by omega)]
    rfl
  · rw [event.fired, State.reg_setRegF, if_pos rfl, getLsbD_setFld, if_pos (by omega)]
    rfl
  · rw [(event.clock d).cc, die]
  · exact event.count.trans (congrArg (· + 1) (other (o := 0x40 + 8 * ty.val) (by omega) (by omega)))

/-! ### Votes of a rail touch no region (17 R381) -/

/-- Of `s` and `t` only registers of the power block of die `d` differ. -/
structure PowerOnly (d : Fin 4) (s t : State) : Prop where
  dies : t.dies = s.dies
  reg : ∀ k, k < dieBase d + 0x40000 → t.reg k = s.reg k

theorem PowerOnly.setRegF {d : Fin 4} {s t : State} (h : PowerOnly d s t) {k : Nat} (hi lo x : Nat)
    (high : dieBase d + 0x40000 ≤ k) : PowerOnly d s (t.setRegF k hi lo x) := by
  refine ⟨h.dies, fun j low => ?_⟩
  rw [State.reg_setRegF, if_neg (by omega), h.reg j low]

theorem State.powerOnly_revote (s : State) (d : Fin 4) (k : Nat) : PowerOnly d s (s.revote d k) := by
  have rail : dieBase d + 0x40000 ≤ rRail d k := by unfold rRail pwr; omega
  have votes (cs : List (Fin 8)) (u : State) (h : PowerOnly d s u) : PowerOnly d s (cs.foldl (fun (s : State) (c : Fin 8) =>
      if c.val / 2 = k ∧ s.regF (rClust d c) 15 8 ≠ 0 then s.setRegF (rClust d c) 15 8 (s.voteOf d c) else s) u) := by
    induction cs generalizing u with
    | nil => exact h
    | cons c cs ih =>
      refine ih _ ?_
      dsimp only
      split
      · exact h.setRegF _ _ _ (by unfold rClust pwr; omega)
      · exact h
  unfold State.revote
  extract_lets one s1 t was s2
  have h2 : PowerOnly d s s2 := (votes _ s ⟨rfl, fun _ _ => rfl⟩).setRegF _ _ _ rail
  split
  · exact h2.setRegF _ _ _ rail
  · split
    · exact h2.setRegF _ _ _ rail
    · exact h2

/-! ### The end of an interval (R303) -/

theorem rQsmRgn_power {d : Fin 4} {g : Nat} (low : g < 63) : rQsmRgn d g < dieBase d + 0x40000 := by
  unfold rQsmRgn qsm; omega
theorem rQsmRgn_ne {d : Fin 4} {g h : Nat} (other : h ≠ g) : rQsmRgn d h ≠ rQsmRgn d g := by unfold rQsmRgn qsm; omega

/-- Only what region `g` of die `d` counts differs, and what the rail makes of it. -/
structure AtRegion (d : Fin 4) (g : Nat) (s t : State) : Prop where
  beside : Beside d s t
  others : ∀ h, h < 63 → h ≠ g → t.reg (rQsmRgn d h) = s.reg (rQsmRgn d h)
  runs : Sparse.wf (s.die d).degRun = true → ∀ h, h ≠ g →
    Sparse.getD (t.die d).degRun 0 h = Sparse.getD (s.die d).degRun 0 h
  wf : Sparse.wf (s.die d).degRun = true → Sparse.wf (t.die d).degRun = true

namespace AtRegion
variable {d : Fin 4} {g : Nat}

theorem refl (s : State) : AtRegion d g s s := ⟨.refl s, fun _ _ _ => rfl, fun _ _ _ => rfl, id⟩
theorem trans {a b c : State} (h : AtRegion d g a b) (k : AtRegion d g b c) : AtRegion d g a c where
  beside := h.beside.trans k.beside
  others j low other := (k.others j low other).trans (h.others j low other)
  runs wf j other := (k.runs (h.wf wf) j other).trans (h.runs wf j other)
  wf w := k.wf (h.wf w)
theorem setRgn (s : State) (hi lo x : Nat) : AtRegion d g s (s.setRegF (rQsmRgn d g) hi lo x) where
  beside := .setRegF s hi lo x (rQsmRgn_high d g)
  others h _ other := by rw [State.reg_setRegF, if_neg (rQsmRgn_ne other)]
  runs _ _ _ := rfl
  wf := id
theorem runDeleted (s : State) : AtRegion d g s (s.updDie d fun x => { x with degRun := Sparse.del x.degRun g }) where
  beside := .updDie s d fun _ => ⟨rfl, rfl, rfl, rfl⟩
  others _ _ _ := rfl
  runs wf h other := by
    simp only [State.die_updDie, if_true, Sparse.getD]
    rw [Sparse.find?_del g h wf, if_neg other]
  wf w := by simp only [State.die_updDie, if_true]; exact Sparse.wf_del g w
theorem runPut (s : State) (k : Nat) : AtRegion d g s (s.updDie d fun x => { x with degRun := Sparse.put x.degRun g k }) where
  beside := .updDie s d fun _ => ⟨rfl, rfl, rfl, rfl⟩
  others _ _ _ := rfl
  runs _ h other := by
    simp only [State.die_updDie, if_true]
    rw [Sparse.getD_put, if_neg other]
  wf w := by simp only [State.die_updDie, if_true]; exact Sparse.wf_put g k w
theorem revote (s : State) (k : Nat) : AtRegion d g s (s.revote d k) := by
  have power := s.powerOnly_revote d k
  have die : (s.revote d k).die d = s.die d := congrArg (vget · d) power.dies
  refine ⟨s.beside_revote d k, fun h low _ => power.reg _ (rQsmRgn_power low), fun _ _ _ => by rw [die], fun w => by rwa [die]⟩

end AtRegion

/-- An interval has ended at region `g` (R303): it counts again, and is calmed below half the threshold. -/
def Calmed (d : Fin 4) (g : Nat) (s t : State) : Prop :=
  t.regF (rQsmRgn d g) 31 16 = 0 ∧ t.regF (rQsmRgn d g) 0 0 =
    if s.regF (rQsmRgn d g) 0 0 = 1 ∧ 2 * s.regF (rQsmRgn d g) 31 16 < s.regF (rQsmCtl d) 9 2 then 0
    else s.regF (rQsmRgn d g) 0 0

/-- It is a fact about the region's register before and after, and the threshold. -/
theorem Calmed.congr {d : Fin 4} {g : Nat} {s s' t t' : State} (h : Calmed d g s t)
    (before : s'.reg (rQsmRgn d g) = s.reg (rQsmRgn d g)) (threshold : s'.reg (rQsmCtl d) = s.reg (rQsmCtl d))
    (after : t'.reg (rQsmRgn d g) = t.reg (rQsmRgn d g)) : Calmed d g s' t' := by
  unfold Calmed State.regF at *
  rw [before, threshold, after]
  exact h

theorem intervalRegion_ends {s : State} {d : Fin 4} {g : Nat} (low : g < 63) (run : Sparse.getD (s.die d).degRun 0 g < 15) :
    AtRegion d g s (s.intervalRegion d g) ∧ Calmed d g s (s.intervalRegion d g) := by
  unfold State.intervalRegion
  extract_lets n was s1 s2 k s3
  have at1 : AtRegion d g s s1 := by
    unfold s1
    split
    · exact .refl s
    · exact .setRgn s 31 16 0
  have zero : s1.regF (rQsmRgn d g) 31 16 = 0 := by
    unfold s1
    split
    · assumption
    · exact State.regF_setRegF_self _ _ _ (by decide)
  have same : s1.regF (rQsmRgn d g) 0 0 = was := by
    unfold s1
    split
    · rfl
    · exact State.regF_setRegF_fld _ _ _ (by decide)
  have threshold : s1.regF (rQsmCtl d) 9 2 = s.regF (rQsmCtl d) 9 2 :=
    congrArg (getFld · 9 2) (at1.beside.reg 0x10 (by decide) (by decide))
  have die : s1.die d = s.die d := by unfold s1; split <;> rfl
  have bit : was < 2 := getFld_lt _ 0 0
  by_cases fine : was = 0
  · rw [if_pos fine]
    exact ⟨at1, zero, by rw [same, if_neg (by omega)]⟩
  rw [if_neg fine]
  by_cases calm : 2 * n < s1.regF (rQsmCtl d) 9 2
  · rw [if_pos calm]
    have at2 : AtRegion d g s s2 := (at1.trans (.setRgn s1 0 0 0)).trans (.runDeleted _)
    have calmed : Calmed d g s s2 := by
      have zero2 : s2.regF (rQsmRgn d g) 31 16 = 0 := (State.regF_setRegF_fld _ _ _ (by decide)).trans zero
      have calm2 : s2.regF (rQsmRgn d g) 0 0 = 0 := State.regF_setRegF_self _ _ _ (by decide)
      exact ⟨zero2, by rw [calm2, if_pos ⟨by omega, threshold ▸ calm⟩]⟩
    split
    · next j _ =>
      have kept : (s2.revote d j).reg (rQsmRgn d g) = s2.reg (rQsmRgn d g) :=
        (s2.powerOnly_revote d j).reg _ (rQsmRgn_power low)
      exact ⟨at2.trans (.revote s2 j), calmed.congr rfl rfl kept⟩
    · exact ⟨at2, calmed⟩
  · have short : ¬16 ≤ k := by unfold k; rw [die]; omega
    rw [if_neg calm, if_neg short]
    refine ⟨at1.trans (.runPut s1 k), zero, ?_⟩
    rw [if_neg fun h => calm (threshold.symm ▸ h.2)]
    exact same

/-- An interval has ended at each region of a list, once at each. -/
theorem intervals_end {d : Fin 4} {gs : List Nat} {s : State} (once : gs.Nodup) (low : ∀ g ∈ gs, g < 63)
    (wf : Sparse.wf (s.die d).degRun = true) (runs : ∀ g ∈ gs, Sparse.getD (s.die d).degRun 0 g < 15) :
    let t := gs.foldl (fun (s : State) g => s.intervalRegion d g) s
    Beside d s t ∧ (∀ h, h < 63 → h ∉ gs → t.reg (rQsmRgn d h) = s.reg (rQsmRgn d h)) ∧ ∀ g ∈ gs, Calmed d g s t := by
  induction gs generalizing s with
  | nil => exact ⟨.refl s, fun _ _ _ => rfl, fun g hg => absurd hg (List.not_mem_nil)⟩
  | cons g gs ih =>
    obtain ⟨new, once⟩ := List.nodup_cons.mp once
    obtain ⟨low_g, low⟩ := List.forall_mem_cons.mp low
    obtain ⟨run_g, runs⟩ := List.forall_mem_cons.mp runs
    obtain ⟨here, calmed⟩ := intervalRegion_ends low_g run_g
    have apart {h : Nat} (mem : h ∈ gs) : h ≠ g := fun e => new (e ▸ mem)
    obtain ⟨beside, others, ends⟩ := ih once low (here.wf wf) fun h mem => by rw [here.runs wf h (apart mem)]; exact runs h mem
    refine ⟨here.beside.trans beside, fun h low_h out => ?_, List.forall_mem_cons.mpr ⟨?_, fun h mem => ?_⟩⟩
    · obtain ⟨other, out⟩ := not_or.mp (mt List.mem_cons.mpr out)
      exact (others h low_h out).trans (here.others h low_h other)
    · exact calmed.congr rfl rfl (others g low_g new)
    · exact (ends h mem).congr (here.others h (low h mem) (apart mem)).symm (here.beside.reg 0x10 (by decide) (by decide)).symm rfl

theorem intervalEnd_ends {s : State} {d : Fin 4} (next : Nat) (wf : Sparse.wf (s.die d).degRun = true)
    (runs : ∀ g, Sparse.getD (s.die d).degRun 0 g < 15) :
    ((s.intervalEnd d next).die d).stormStart = next ∧ (∀ g, g < 63 → Calmed d g s (s.intervalEnd d next)) ∧
      (s.intervalEnd d next).reg (rQsmCtl d) = s.reg (rQsmCtl d) := by
  let a := s.updDie d fun x => { x with stormStart := next }
  have die : a.die d = { s.die d with stormStart := next } := by rw [State.die_updDie, if_pos rfl]
  obtain ⟨beside, -, ends⟩ := intervals_end (s := a) (d := d) List.nodup_range (fun g mem => List.mem_range.mp mem)
    (by rw [die]; exact wf) (fun g _ => by rw [die]; exact runs g)
  refine ⟨?_, fun g low => ends g (List.mem_range.mpr low), beside.reg 0x10 (by decide) (by decide)⟩
  exact (beside.die d).storm.trans (by rw [die])

theorem stormIntervalEnd_calms (s : State) (d : Fin 4) (wf : Sparse.wf (s.die d).degRun = true)
    (runs : ∀ g, Sparse.getD (s.die d).degRun 0 g < 15) (past : (s.die d).stormStart + s.stormLen d ≤ (s.die d).cc) :
    ∃ t, exec (.stormIntervalEnd d) s = .next t ∧ (t.die d).stormStart = (s.die d).stormStart + s.stormLen d ∧
      ∀ g, g < 63 →
        let n := s.regF (rQsmRgn d g) 31 16
        t.regF (rQsmRgn d g) 31 16 = 0 ∧
        t.regF (rQsmRgn d g) 0 0 =
          if s.regF (rQsmRgn d g) 0 0 = 1 ∧ 2 * n < s.regF (rQsmCtl d) 9 2 then 0 else s.regF (rQsmRgn d g) 0 0 := by
  obtain ⟨start, ends, -⟩ := intervalEnd_ends ((s.die d).stormStart + s.stormLen d) wf runs
  exact ⟨_, congrArg Host.Outcome.next (if_neg (by omega)), start, ends⟩

/-! ### QSM_CTL (R299) -/

/-- QSM_CTL as a write of `x` leaves it: a field of zeros stays, but for the two enables. -/
def State.ctlWritten (s : State) (d : Fin 4) (x : BitVec 64) : State :=
  let s := s.setRegF (rQsmCtl d) 1 0 (getFld x 1 0)
  let s := if getFld x 9 2 = 0 then s else s.setRegF (rQsmCtl d) 9 2 (getFld x 9 2)
  if getFld x 31 16 = 0 then s else s.setRegF (rQsmCtl d) 31 16 (getFld x 31 16)

/-- A field of a register is replaced, or stays where `x` has zero in it. -/
theorem regF_written (s : State) (k : Nat) (x : BitVec 64) {hi lo : Nat} (h : hi < 64) :
    (if getFld x hi lo = 0 then s else s.setRegF k hi lo (getFld x hi lo)).regF k hi lo =
      if getFld x hi lo = 0 then s.regF k hi lo else getFld x hi lo := by
  split
  · rfl
  · rw [State.regF_setRegF_self _ _ _ h, Nat.mod_eq_of_lt (getFld_lt x hi lo)]
theorem regF_written_fld (s : State) (k : Nat) (x : BitVec 64) {hi lo hi' lo' : Nat} (h : hi' < lo ∨ hi < lo') :
    (if getFld x hi lo = 0 then s else s.setRegF k hi lo (getFld x hi lo)).regF k hi' lo' = s.regF k hi' lo' := by
  split
  · rfl
  · exact State.regF_setRegF_fld _ _ _ h

theorem ctlWritten_fields (s : State) (d : Fin 4) (x : BitVec 64) :
    (s.ctlWritten d x).regF (rQsmCtl d) 1 0 = getFld x 1 0 ∧
    (s.ctlWritten d x).regF (rQsmCtl d) 9 2 = (if getFld x 9 2 = 0 then s.regF (rQsmCtl d) 9 2 else getFld x 9 2) ∧
    (s.ctlWritten d x).regF (rQsmCtl d) 31 16 = (if getFld x 31 16 = 0 then s.regF (rQsmCtl d) 31 16 else getFld x 31 16) := by
  refine ⟨?_, ?_, ?_⟩
  · rw [State.ctlWritten, regF_written_fld _ _ _ (by decide), regF_written_fld _ _ _ (by decide),
      State.regF_setRegF_self _ _ _ (by decide), Nat.mod_eq_of_lt (getFld_lt x 1 0)]
  · rw [State.ctlWritten, regF_written_fld _ _ _ (by decide), regF_written _ _ _ (by decide),
      State.regF_setRegF_fld _ _ _ (by decide)]
  · rw [State.ctlWritten, regF_written _ _ _ (by decide), regF_written_fld _ _ _ (by decide),
      State.regF_setRegF_fld _ _ _ (by decide)]
theorem ctlWritten_rest (s : State) (d : Fin 4) (x : BitVec 64) :
    (∀ k, k ≠ rQsmCtl d → (s.ctlWritten d x).reg k = s.reg k) ∧
      s.ctlWritten d x = { s with regs := (s.ctlWritten d x).regs } := by
  unfold State.ctlWritten
  dsimp only
  split <;> split <;> exact ⟨fun k other => by simp only [State.reg_setRegF, other, if_false], rfl⟩

theorem ctlWrite_run {s : State} {d : Fin 4} (x : BitVec 64) (within : (s.die d).cc < (s.die d).stormStart + s.stormLen d) :
    exec (.qsmCtlWrite d x) s = .next
      (if (s.ctlWritten d x).regF (rQsmCtl d) 31 16 = s.regF (rQsmCtl d) 31 16 then s.ctlWritten d x
        else (s.ctlWritten d x).intervalEnd d (((s.ctlWritten d x).die d).cc + 1)) := by
  change execQsmCtlWrite d x s = _
  rw [execQsmCtlWrite, endIntervals_within within]
  rfl

theorem ctlWrite_sets (s : State) (d : Fin 4) (x : BitVec 64) (within : (s.die d).cc < (s.die d).stormStart + s.stormLen d) :
    (getFld x 31 16 = 0 ∨ getFld x 31 16 = s.regF (rQsmCtl d) 31 16 → ∃ t, exec (.qsmCtlWrite d x) s = .next t ∧
      t.regF (rQsmCtl d) 1 0 = getFld x 1 0 ∧
      t.regF (rQsmCtl d) 9 2 = (if getFld x 9 2 = 0 then s.regF (rQsmCtl d) 9 2 else getFld x 9 2) ∧
      t.regF (rQsmCtl d) 31 16 = s.regF (rQsmCtl d) 31 16 ∧ (∀ k, k ≠ rQsmCtl d → t.reg k = s.reg k) ∧
      t = { s with regs := t.regs }) ∧
    (getFld x 31 16 ≠ 0 → getFld x 31 16 ≠ s.regF (rQsmCtl d) 31 16 → Sparse.wf (s.die d).degRun = true →
      (∀ g, Sparse.getD (s.die d).degRun 0 g < 15) → ∃ t, exec (.qsmCtlWrite d x) s = .next t ∧
        t.regF (rQsmCtl d) 31 16 = getFld x 31 16 ∧ (t.die d).stormStart = (s.die d).cc + 1) := by
  obtain ⟨enables, threshold, length⟩ := ctlWritten_fields s d x
  obtain ⟨others, rest⟩ := ctlWritten_rest s d x
  have die : (s.ctlWritten d x).die d = s.die d := by rw [rest]; rfl
  refine ⟨fun stays => ?_, fun given changes wf runs => ?_⟩
  · have same : (s.ctlWritten d x).regF (rQsmCtl d) 31 16 = s.regF (rQsmCtl d) 31 16 := by
      rw [length]
      split
      · rfl
      · next given => exact stays.resolve_left given
    exact ⟨_, (ctlWrite_run x within).trans (congrArg _ (if_pos same)), enables, threshold, same, others, rest⟩
  · rw [if_neg given] at length
    obtain ⟨start, -, kept⟩ := intervalEnd_ends (((s.ctlWritten d x).die d).cc + 1) (by rw [die]; exact wf)
      (by rw [die]; exact runs)
    refine ⟨_, (ctlWrite_run x within).trans (congrArg _ (if_neg (by rw [length]; exact changes))), ?_, by rw [start, die]⟩
    rw [State.regF, kept]
    exact length

end Sys2Proof.Machine
end

section
/-! Proofs about blind cells and fences (13 R304, R305), and the assembly of the statement on guard events. -/

namespace Sys2Proof.Machine

/-! ### A region that is blind no longer (R299) -/

/-- The step of `unblind` at one region. -/
def State.unblindAt (d : Fin 4) (s : State) (g : Nat) : State :=
  if s.regF (rQsmRgn d g) 2 2 = 1 ∧ ((s.die d).blind.any fun e => (s.cellMask d e.1).getLsbD g) = false then
    s.setRegF (rQsmRgn d g) 2 2 0 else s

theorem unblindAt_rest (d : Fin 4) (s : State) (g : Nat) :
    (s.unblindAt d g).dies = s.dies ∧ ∀ k, k ≠ rQsmRgn d g → (s.unblindAt d g).reg k = s.reg k := by
  unfold State.unblindAt
  split
  · exact ⟨rfl, fun k other => by rw [State.reg_setRegF, if_neg other]⟩
  · exact ⟨rfl, fun _ _ => rfl⟩
theorem unblindAt_bit (d : Fin 4) (s : State) (g : Nat) : (s.unblindAt d g).regF (rQsmRgn d g) 2 2 =
    if ((s.die d).blind.any fun e => (s.cellMask d e.1).getLsbD g) = true then s.regF (rQsmRgn d g) 2 2 else 0 := by
  have bit : s.regF (rQsmRgn d g) 2 2 < 2 := getFld_lt _ 2 2
  unfold State.unblindAt
  split
  · next h => rw [State.regF_setRegF_self _ _ _ (by decide), if_neg (by rw [h.2]; decide), Nat.zero_mod]
  · next h =>
    split
    · rfl
    · next none =>
      have unmarked : s.regF (rQsmRgn d g) 2 2 ≠ 1 := fun marked => h ⟨marked, Bool.not_eq_true _ ▸ none⟩
      omega

theorem cellMask_congr {d : Fin 4} {s t : State}
    (h : ∀ o, o < 0x1400 → o ≠ 0x18 → t.reg (qsm d o) = s.reg (qsm d o)) (c : Fin 256) : t.cellMask d c = s.cellMask d c := by
  unfold State.cellMask
  rw [show rQsmCell d c = qsm d (0x800 + 8 * c.val) from rfl, h _ (by omega) (by omega)]

theorem unblind_each {d : Fin 4} {gs : List Nat} {s : State} (once : gs.Nodup) :
    let t := gs.foldl (fun (s : State) g => s.unblindAt d g) s
    (∀ k, (∀ g ∈ gs, k ≠ rQsmRgn d g) → t.reg k = s.reg k) ∧
    ∀ g ∈ gs, t.regF (rQsmRgn d g) 2 2 =
      if ((s.die d).blind.any fun e => (s.cellMask d e.1).getLsbD g) = true then s.regF (rQsmRgn d g) 2 2 else 0 := by
  induction gs generalizing s with
  | nil => exact ⟨fun _ _ => rfl, fun g hg => absurd hg List.not_mem_nil⟩
  | cons g gs ih =>
    obtain ⟨new, once⟩ := List.nodup_cons.mp once
    obtain ⟨dies, regs⟩ := unblindAt_rest d s g
    obtain ⟨others, bits⟩ := ih (s := s.unblindAt d g) once
    have die : (s.unblindAt d g).die d = s.die d := congrArg (vget · d) dies
    have mask (c : Fin 256) : (s.unblindAt d g).cellMask d c = s.cellMask d c :=
      cellMask_congr (fun o low _ => regs _ (by unfold rQsmRgn qsm; omega)) c
    refine ⟨fun k out => ?_, List.forall_mem_cons.mpr ⟨?_, fun h mem => ?_⟩⟩
    · obtain ⟨other, out⟩ := List.forall_mem_cons.mp out
      exact (others k out).trans (regs k other)
    · have kept := others (rQsmRgn d g) fun h mem => rQsmRgn_ne fun e => new (e ▸ mem)
      exact (congrArg (getFld · 2 2) kept).trans (unblindAt_bit d s g)
    · have rgn := regs (rQsmRgn d h) (rQsmRgn_ne fun e => new (e ▸ mem))
      refine (bits h mem).trans ?_
      simp only [die, mask, State.regF, rgn]

theorem unblind_bit (s : State) (d : Fin 4) (g : Nat) (low : g < 63) : (s.unblind d).regF (rQsmRgn d g) 2 2 =
    if ∃ e ∈ (s.die d).blind, (s.cellMask d e.1).getLsbD g = true then s.regF (rQsmRgn d g) 2 2 else 0 := by
  refine ((unblind_each List.nodup_range).2 g (List.mem_range.mpr low)).trans ?_
  simp only [List.any_eq_true]

/-! ### A fence (R304) -/

/-- No resident skein is held. -/
def State.noneHeld (s : State) : Prop := ∀ id k, s.skein? id = some k → pkHeld k.pkt = false

theorem noneHeld_requestPreempt {s : State} (none : s.noneHeld) (k r : Nat) : (s.requestPreempt k r).noneHeld := by
  intro id x found
  change Sparse.find? (Sparse.upd s.skeins k _) id = some x at found
  by_cases here : id = k
  · subst here
    rw [Sparse.find?_upd_self] at found
    obtain ⟨y, hy, rfl⟩ := Option.map_eq_some_iff.mp found
    have unheld := none id y hy
    dsimp only
    simp only [unheld, Bool.false_eq_true, if_false]
    split <;> exact unheld
  · rw [Sparse.find?_upd_ne _ _ here] at found
    exact none id x found

theorem requestAll_rest (s : State) (us : List (Nat × Nat)) : (s.requestAll us).dies = s.dies ∧
    (s.requestAll us).regs = s.regs ∧ (s.noneHeld → (s.requestAll us).noneHeld) := by
  induction us generalizing s with
  | nil => exact ⟨rfl, rfl, id⟩
  | cons u us ih =>
    obtain ⟨dies, regs, none⟩ := ih (s.requestPreempt u.1 u.2)
    exact ⟨dies, regs, fun h => none (noneHeld_requestPreempt h _ _)⟩

theorem refitAll_none {s : State} (none : s.noneHeld) : s.refitAll = s := by
  refine List.foldl_fixed' (fun id => ?_) _
  unfold State.refit
  split
  · rfl
  · next k found => rw [none id k found]; rfl

/-- Of `s` and `t` no die differs, and of the registers of die `d` only that of region `g`, which is fenced. -/
structure FencedAt (d : Fin 4) (g : Nat) (s t : State) : Prop where
  dies : t.dies = s.dies
  none : t.noneHeld
  others : ∀ k, dieBase d ≤ k → k ≠ rQsmRgn d g → t.reg k = s.reg k
  fence : (t.reg (rQsmRgn d g)).getLsbD 1 = true
  kept : (t.reg (rQsmRgn d g)).getLsbD 2 = (s.reg (rQsmRgn d g)).getLsbD 2

theorem fatalError_rest (s : State) (cause d : Nat) : (s.fatalError cause d).dies = s.dies ∧
    (s.fatalError cause d).skeins = s.skeins ∧ ∀ k, k ≠ rFatal → (s.fatalError cause d).reg k = s.reg k := by
  unfold State.fatalError
  split
  · exact ⟨rfl, rfl, fun _ _ => rfl⟩
  · extract_lets a b none_
    refine ⟨rfl, rfl, fun k other => ?_⟩
    change b.reg k = s.reg k
    simp only [b, State.reg_setRegF, other, if_false]
    rfl

theorem fence_fences {s : State} {d : Fin 4} {g : Nat} (none : s.noneHeld) : FencedAt d g s (s.fence d g) := by
  unfold State.fence
  split
  · next already =>
    exact ⟨rfl, none, fun _ _ _ => rfl, (getFld_bit _ 1).mp (beq_iff_eq.mp already), rfl⟩
  extract_lets t here
  have fenced : FencedAt d g s t := by
    refine ⟨rfl, none, fun k _ other => by rw [State.reg_setRegF, if_neg other], ?_, ?_⟩
    · rw [State.reg_setRegF, if_pos rfl, getLsbD_setFld, if_pos (by omega)]; rfl
    · rw [State.reg_setRegF, if_pos rfl, getLsbD_setFld, if_neg (by omega)]
  split
  · obtain ⟨dies, skeins, regs⟩ := fatalError_rest t 1 d
    have below {k : Nat} (high : dieBase d ≤ k) : k ≠ rFatal := by unfold dieBase at high; unfold rFatal fw; omega
    have rgn : (t.fatalError 1 d).reg (rQsmRgn d g) = t.reg (rQsmRgn d g) :=
      regs _ (below (le_trans (Nat.le_add_right _ _) (rQsmRgn_high d g)))
    refine ⟨dies.trans fenced.dies, ?_, fun k high other => (regs k (below high)).trans (fenced.others k high other), ?_, ?_⟩
    · intro id k found
      exact fenced.none id k (by rwa [State.skein?, skeins] at found)
    · rw [rgn]; exact fenced.fence
    · rw [rgn]; exact fenced.kept
  · obtain ⟨dies, regs, unheld⟩ := requestAll_rest t
      (t.units.filter fun u => (t.unitHoops u.1 u.2).any fun e => here e.2)
    have reg (k : Nat) : (t.requestAll _).reg k = t.reg k := congrArg (fun m => Sparse.getD m (regReset k) k) regs
    rw [refitAll_none (unheld fenced.none)]
    refine ⟨dies.trans fenced.dies, unheld fenced.none, fun k high other => (reg k).trans (fenced.others k high other), ?_, ?_⟩
    · rw [reg]; exact fenced.fence
    · rw [reg]; exact fenced.kept

/-- Blind regions are marked and fenced; of each that is not among them the register stays. -/
theorem blindRegions_each {d : Fin 4} {gs : List Nat} {s : State} (none : s.noneHeld) :
    (s.blindRegions d gs).dies = s.dies ∧
    (∀ k, dieBase d ≤ k → (∀ g ∈ gs, k ≠ rQsmRgn d g) → (s.blindRegions d gs).reg k = s.reg k) ∧
    ∀ g ∈ gs, ((s.blindRegions d gs).reg (rQsmRgn d g)).getLsbD 1 = true ∧
      ((s.blindRegions d gs).reg (rQsmRgn d g)).getLsbD 2 = true := by
  induction gs generalizing s with
  | nil => exact ⟨rfl, fun _ _ _ => rfl, fun g hg => absurd hg List.not_mem_nil⟩
  | cons g gs ih =>
    let a := s.setRegF (rQsmRgn d g) 2 2 1
    let b := a.fence d g
    have fenced : FencedAt d g a b := fence_fences none
    have high (g : Nat) : dieBase d ≤ rQsmRgn d g := le_trans (Nat.le_add_right _ _) (rQsmRgn_high d g)
    have marked : (b.reg (rQsmRgn d g)).getLsbD 2 = true := by
      rw [fenced.kept, State.reg_setRegF, if_pos rfl, getLsbD_setFld, if_pos (by omega)]
      rfl
    obtain ⟨dies, others, bits⟩ := ih (s := b) fenced.none
    refine ⟨dies.trans fenced.dies, fun k above out => ?_, List.forall_mem_cons.mpr ⟨?_, bits⟩⟩
    · obtain ⟨other, out⟩ := List.forall_mem_cons.mp out
      refine (others k above out).trans ((fenced.others k above other).trans ?_)
      rw [State.reg_setRegF, if_neg other]
    · by_cases again : g ∈ gs
      · exact bits g again
      · have kept : (b.blindRegions d gs).reg (rQsmRgn d g) = b.reg (rQsmRgn d g) :=
          others _ (high g) fun h mem => rQsmRgn_ne fun e => again (e ▸ mem)
        exact ⟨(congrArg (·.getLsbD 1) kept).trans fenced.fence, (congrArg (·.getLsbD 2) kept).trans marked⟩

theorem selfTest_blinds (s : State) (d : Fin 4) (e : Fin 256 × Fin 3) :
    (e ∈ (s.die d).blind → exec (.sensorSelfTest d [e] []) s = .next s) ∧
    (e ∉ (s.die d).blind → (∀ r ∈ (s.die d).reports, r.cell = e.1 → r.at_ ≠ (s.die d).cc) →
      (∀ k ∈ s.skeins, pkHeld k.2.pkt = false) →
      ∃ t, exec (.sensorSelfTest d [e] []) s = .next t ∧
      (t.die d).blind = (s.die d).blind ++ [e] ∧
      (t.die d).reports = (s.die d).reports ++ [{ cell := e.1, ty := e.2, blind := true, at_ := (s.die d).cc }] ∧
      (t.reg (rQsmStatus d)).getLsbD 2 = true ∧
      ∀ g, g < 63 → (s.cellMask d e.1).getLsbD g = true →
        (t.reg (rQsmRgn d g)).getLsbD 1 = true ∧ (t.reg (rQsmRgn d g)).getLsbD 2 = true) := by
  have run : exec (.sensorSelfTest d [e] []) s = .next (s.goBlind d e) := rfl
  refine ⟨fun blind => ?_, fun sees new unheld => ?_⟩
  · rw [run, State.goBlind, if_pos (List.contains_iff_mem.mpr blind)]
  · let a := s.updDie d fun x => { x with blind := x.blind ++ [e], reports := addReport x.cc x.reports e.1 e.2 true }
    let b := a.setRegF (rQsmStatus d) 2 2 1
    let t := b.blindRegions d (regionsOf (b.cellMask d e.1))
    have went : s.goBlind d e = t := by
      unfold State.goBlind
      rw [if_neg fun h => sees (List.contains_iff_mem.mp h)]
    have none : b.noneHeld := fun id k found => unheld (id, k) (Sparse.mem_of_find? (m := s.skeins) found)
    obtain ⟨dies, others, bits⟩ := blindRegions_each (d := d) (gs := regionsOf (b.cellMask d e.1)) none
    have die : t.die d = { s.die d with blind := (s.die d).blind ++ [e],
                                        reports := addReport (s.die d).cc (s.die d).reports e.1 e.2 true } := by
      refine (congrArg (vget · d) dies).trans ?_
      change a.die d = _
      rw [State.die_updDie, if_pos rfl]
    have mask : b.cellMask d e.1 = s.cellMask d e.1 :=
      cellMask_congr (fun o _ other => by rw [State.reg_setRegF, if_neg (by unfold rQsmStatus qsm; omega)]; rfl) e.1
    refine ⟨t, run.trans (congrArg _ went), by rw [die], by rw [die]; exact addReport_new new, ?_, fun g low masked => ?_⟩
    · have status : t.reg (rQsmStatus d) = b.reg (rQsmStatus d) :=
        others _ (Nat.le_add_right _ _) fun g _ => by unfold rQsmStatus rQsmRgn qsm; omega
      rw [status, State.reg_setRegF, if_pos rfl, getLsbD_setFld, if_pos (by omega)]
      rfl
    · exact bits g (List.mem_filter.mpr ⟨List.mem_range.mpr low, by rw [mask]; exact masked⟩)

/-- Settles O49: the reports of a cell, the event that is applied, and the registers, each by its own lemma. -/
theorem guardEvents : Obligations.GuardEvents := by
  exact ⟨sensorReport_adds, fun n l cell ty b => addReport_one n l cell ty b, fun _ _ _ => firstReport_first, guardEvent_applies,
    windowWrite_sets, ctlWrite_sets, injectWrite_arms, injectionFire_applies,
    fun s d within => congrArg Host.Outcome.next (if_pos within), stormIntervalEnd_calms, selfTest_blinds, unblind_bit,
    regionUnfence_clears⟩

end Sys2Proof.Machine
end

section
/-! Proofs about the values of the bit patterns of a binary format (03 R60, R61). -/

namespace Sys2Proof.Machine

/-! ### Magnitudes in units of the smallest subnormal -/

/-- The magnitude of the exponent and fraction bits `p` in units of the smallest subnormal, were the exponents without end. -/
def Fmt.mag (f : Fmt) (p : Nat) : Nat :=
  if p < 2 ^ f.fb then p else (p % 2 ^ f.fb + 2 ^ f.fb) * 2 ^ (p / 2 ^ f.fb - 1)

/-- `n` at the place `j` above the smallest: the bits are a sum, also where `n` has one bit more than the fraction. -/
theorem Fmt.mag_add {f : Fmt} {j n : Nat} (top : n ≤ 2 * 2 ^ f.fb) (normal : j = 0 ∨ 2 ^ f.fb ≤ n) :
    f.mag (j * 2 ^ f.fb + n) = n * 2 ^ j := by
  have pos : 0 < 2 ^ f.fb := Nat.two_pow_pos _
  unfold Fmt.mag
  generalize 2 ^ f.fb = B at *
  rcases lt_or_ge n B with low | high
  · obtain rfl : j = 0 := normal.resolve_right (not_le.2 low)
    simp [low]
  · have big : ¬j * B + n < B := by omega
    rcases top.lt_or_eq with within | rfl
    · obtain ⟨c, rfl⟩ := Nat.exists_eq_add_of_le high
      have less : c < B := by omega
      have split : j * B + (B + c) = B * (j + 1) + c := by ring
      rw [if_neg big, split, Nat.mul_add_mod, Nat.mod_eq_of_lt less, Nat.mul_add_div pos, Nat.div_eq_of_lt less]
      simp [add_comm]
    · have split : j * B + 2 * B = B * (j + 2) := by ring
      rw [if_neg big, split, Nat.mul_mod_right, Nat.mul_div_cancel_left _ pos, Nat.add_sub_assoc (by decide), pow_add]
      ring

theorem Fmt.mag_lt_succ (f : Fmt) (p : Nat) : f.mag p < f.mag (p + 1) := by
  have pos : 0 < 2 ^ f.fb := Nat.two_pow_pos _
  obtain ⟨j, n, rfl, top, normal⟩ : ∃ j n, p = j * 2 ^ f.fb + n ∧ n + 1 ≤ 2 * 2 ^ f.fb ∧ (j = 0 ∨ 2 ^ f.fb ≤ n) := by
    rcases lt_or_ge p (2 ^ f.fb) with low | high
    · exact ⟨0, p, by simp, by omega, .inl rfl⟩
    · obtain ⟨c, hc⟩ := Nat.exists_eq_add_of_le ((Nat.one_le_div_iff pos).2 high)
      have parts := Nat.div_add_mod p (2 ^ f.fb)
      have less := Nat.mod_lt p pos
      refine ⟨c, 2 ^ f.fb + p % 2 ^ f.fb, ?_, by omega, .inr (by omega)⟩
      rw [hc] at parts
      linarith
  rw [add_assoc, Fmt.mag_add (by omega) normal, Fmt.mag_add top (normal.imp_right Nat.le_succ_of_le)]
  exact Nat.mul_lt_mul_of_pos_right (Nat.lt_succ_self n) (Nat.two_pow_pos j)

theorem Fmt.mag_strictMono (f : Fmt) : StrictMono f.mag := strictMono_nat_of_lt_succ f.mag_lt_succ

@[simp] theorem Fmt.mag_zero (f : Fmt) : f.mag 0 = 0 := by simp [Fmt.mag]

/-! ### Patterns -/

/-- The sign bit alone. -/
def Fmt.signBit (f : Fmt) (s : Bool) : Nat := if s then 2 ^ (f.eb + f.fb) else 0
/-- The unit of the smallest subnormal. -/
noncomputable def Fmt.unit (f : Fmt) : ℝ := 2 ^ f.qmin
theorem Fmt.unit_pos (f : Fmt) : 0 < f.unit := by unfold Fmt.unit; positivity
/-- The bits of the smallest magnitude beyond every finite one. -/
def Fmt.limit (f : Fmt) : Nat := f.emax * 2 ^ f.fb
/-- 1 with a sign. -/
def signed (s : Bool) : ℝ := if s then -1 else 1
@[simp] theorem signed_true : signed true = -1 := rfl
@[simp] theorem signed_false : signed false = 1 := rfl
@[simp] theorem abs_signed (s : Bool) : |signed s| = 1 := by cases s <;> simp
@[simp] theorem signed_mul_self (s : Bool) : signed s * signed s = 1 := by cases s <;> simp

theorem FV.toRat_fin (s : Bool) (m : Nat) (e : Int) : (((FV.fin s m e).toRat : ℚ) : ℝ) = signed s * (m * 2 ^ e) := by
  cases s <;> simp [FV.toRat]

theorem Fmt.limit_lt (f : Fmt) : f.limit < 2 ^ (f.eb + f.fb) := by
  have pos : 0 < 2 ^ f.eb := Nat.two_pow_pos _
  rw [pow_add]
  exact Nat.mul_lt_mul_of_pos_right (by unfold Fmt.emax; omega) (Nat.two_pow_pos _)

/-- A pattern with its sign and the bits below it. -/
theorem Fmt.finite_iff {f : Fmt} {b : Nat} : f.finite b ↔ ∃ s p, b = f.signBit s + p ∧ p < f.limit := by
  have posE : 0 < 2 ^ f.eb := Nat.two_pow_pos _
  have posF : 0 < 2 ^ f.fb := Nat.two_pow_pos _
  have width : 2 ^ f.width = 2 * (2 ^ f.fb * 2 ^ f.eb) := by unfold Fmt.width; ring
  have emax : f.emax + 1 = 2 ^ f.eb := by unfold Fmt.emax; omega
  unfold Fmt.finite
  rw [width, ← Nat.mod_mul_right_div_self]
  constructor
  · rintro ⟨within, exponent⟩
    refine ⟨decide (2 ^ f.fb * 2 ^ f.eb ≤ b), b % (2 ^ f.fb * 2 ^ f.eb), ?_, ?_⟩
    · unfold Fmt.signBit
      rw [add_comm f.eb, pow_add]
      have parts := Nat.div_add_mod b (2 ^ f.fb * 2 ^ f.eb)
      rcases lt_or_ge b (2 ^ f.fb * 2 ^ f.eb) with low | high
      · simp [not_le.2 low, Nat.mod_eq_of_lt low]
      · rw [Nat.mod_eq_sub_mod high, Nat.mod_eq_of_lt (by omega)]
        simp [high]
    · have less : b % (2 ^ f.fb * 2 ^ f.eb) / 2 ^ f.fb < 2 ^ f.eb :=
        Nat.div_lt_of_lt_mul (Nat.mod_lt _ (by positivity))
      exact (Nat.div_lt_iff_lt_mul posF).1 (by omega)
  · rintro ⟨s, p, rfl, small⟩
    have below := f.limit_lt
    rw [add_comm f.eb, pow_add] at below
    have sign : f.signBit s = 2 ^ f.fb * 2 ^ f.eb * s.toNat := by
      unfold Fmt.signBit; rw [add_comm f.eb, pow_add]; cases s <;> simp
    rw [sign, Nat.mul_add_mod, Nat.mod_eq_of_lt (small.trans below)]
    refine ⟨?_, ((Nat.div_lt_iff_lt_mul posF).2 small).ne⟩
    have := s.toNat_lt
    nlinarith

/-- The number that a finite pattern holds. -/
theorem Fmt.unpack_signBit {f : Fmt} {s : Bool} {p : Nat} (small : p < f.limit) :
    ∃ m e, unpack f (f.signBit s + p) = .fin s m e ∧ (m : ℝ) * 2 ^ e = f.mag p * f.unit := by
  have posE : 0 < 2 ^ f.eb := Nat.two_pow_pos _
  have posF : 0 < 2 ^ f.fb := Nat.two_pow_pos _
  have below := f.limit_lt
  rw [add_comm f.eb, pow_add] at below
  have sign : f.signBit s = 2 ^ f.fb * 2 ^ f.eb * s.toNat := by
    unfold Fmt.signBit; rw [add_comm f.eb, pow_add]; cases s <;> simp
  have hs : (f.signBit s + p) / 2 ^ (f.fb + f.eb) % 2 = s.toNat := by
    rw [sign, pow_add, Nat.mul_add_div (by positivity), Nat.div_eq_of_lt (small.trans below)]
    cases s <;> rfl
  have hp : (f.signBit s + p) % (2 ^ f.fb * 2 ^ f.eb) = p := by
    rw [sign, Nat.mul_add_mod, Nat.mod_eq_of_lt (small.trans below)]
  have he : (f.signBit s + p) / 2 ^ f.fb % 2 ^ f.eb = p / 2 ^ f.fb := by rw [← Nat.mod_mul_right_div_self, hp]
  have hf : (f.signBit s + p) % 2 ^ f.fb = p % 2 ^ f.fb := by
    conv_rhs => rw [← hp]
    rw [Nat.mod_mul_right_mod]
  have hm : p / 2 ^ f.fb ≠ f.emax := ((Nat.div_lt_iff_lt_mul posF).2 small).ne
  have bit : (s.toNat == 1) = s := by cases s <;> rfl
  simp only [unpack, hs, he, hf, hm, if_false, bit]
  by_cases zero : p / 2 ^ f.fb = 0
  · have low : p < 2 ^ f.fb := (Nat.div_eq_zero_iff_lt posF).1 zero
    exact ⟨_, _, if_pos zero, by simp [Fmt.mag, low, Nat.mod_eq_of_lt low, Fmt.unit]⟩
  · have high : ¬p < 2 ^ f.fb := fun h => zero (Nat.div_eq_of_lt h)
    refine ⟨_, _, if_neg zero, ?_⟩
    have place : f.qmin + (p / 2 ^ f.fb : Nat) - 1 = f.qmin + ((p / 2 ^ f.fb - 1 : Nat) : Int) := by omega
    rw [place, zpow_add₀ two_ne_zero, zpow_natCast]
    simp only [Fmt.mag, high, if_false, Fmt.unit]
    push_cast
    ring

theorem Fmt.toRat_signBit {f : Fmt} {s : Bool} {p : Nat} (small : p < f.limit) :
    ((unpack f (f.signBit s + p)).toRat : ℝ) = signed s * (f.mag p * f.unit) := by
  obtain ⟨m, e, same, value⟩ := Fmt.unpack_signBit (s := s) small
  rw [same, FV.toRat_fin, value]

theorem Fmt.sign_signBit {f : Fmt} {s : Bool} {p : Nat} (small : p < f.limit) :
    (unpack f (f.signBit s + p)).sign = s := by
  obtain ⟨m, e, same, -⟩ := Fmt.unpack_signBit (s := s) small
  rw [same]; rfl

end Sys2Proof.Machine
end

section
/-! Proofs about one rounding (03 R64): the multiple of a power of two that `roundAt` chooses, and the nearest magnitude of a format. -/

namespace Sys2Proof.Machine

/-! ### At a power of two -/

/-- `n` is `y` rounded to nearest even, and `k` its whole part. -/
structure Evens (y : ℝ) (k n : Nat) : Prop where
  next : n = k ∨ n = k + 1
  near : |(n : ℝ) - y| ≤ 1 / 2
  tie : |(n : ℝ) - y| = 1 / 2 → n % 2 = 0

theorem Evens.self (k : Nat) : Evens k k k := ⟨.inl rfl, by simp, by norm_num⟩

/-- The choice of RNE between `k` and `k + 1` by the rest `r` of `2 * H`, and by whether there is more of it. -/
theorem evens_of_rest {y d : ℝ} {k r H : Nat} {sticky : Bool} (below : r < 2 * H) (nonneg : 0 ≤ d) (small : d < 1)
    (more : sticky = false ↔ d = 0) (parts : y = k + (r + d) / (2 * H)) :
    Evens y k (if (decide (H < r) || (r == H && (sticky || k % 2 == 1))) = true then k + 1 else k) := by
  have pos : (0 : ℝ) < H := by exact_mod_cast (show 0 < H by omega)
  set rho : ℝ := (r + d) / (2 * H) with hrho
  have scaled : rho * (2 * H) = r + d := div_mul_cancel₀ _ (by positivity)
  have up (above : 1 / 2 < rho) (lt1 : rho < 1) : Evens y k (k + 1) :=
    have gap : |((k + 1 : Nat) : ℝ) - y| = 1 - rho := by
      rw [parts]; push_cast; rw [abs_of_nonneg] <;> linarith
    ⟨.inr rfl, by rw [gap]; linarith, by rw [gap]; intro; linarith⟩
  have down (under : rho ≤ 1 / 2) (even : rho = 1 / 2 → k % 2 = 0) : Evens y k k :=
    have gap : |(k : ℝ) - y| = rho := by
      rw [parts, abs_sub_comm, abs_of_nonneg] <;> ring_nf
      positivity
    ⟨.inl rfl, by rw [gap]; exact under, by rw [gap]; exact even⟩
  have lt1 : rho < 1 := by
    have : (r : ℝ) + 1 ≤ 2 * H := by exact_mod_cast below
    rw [hrho, div_lt_one (by positivity)]; linarith
  rcases lt_trichotomy r H with low | rfl | high
  · have : (r : ℝ) + 1 ≤ H := by exact_mod_cast low
    have under : rho < 1 / 2 := by rw [hrho, div_lt_iff₀ (by positivity)]; linarith
    simpa [low.not_gt, low.ne] using down under.le fun h => absurd h under.ne
  · cases sticky with
    | true =>
      have left : 0 < d := nonneg.lt_of_ne fun h => by simpa using more.2 h.symm
      have above : 1 / 2 < rho := by rw [hrho, lt_div_iff₀ (by positivity)]; linarith
      simpa using up above lt1
    | false =>
      have half : rho = 1 / 2 := by rw [hrho, more.1 rfl, div_eq_iff (by positivity)]; ring
      rcases Nat.mod_two_eq_zero_or_one k with even | odd
      · simpa [even] using down half.le fun _ => even
      · have gap : |((k + 1 : Nat) : ℝ) - y| = 1 / 2 := by
          rw [parts, half]; push_cast; rw [abs_of_nonneg] <;> linarith
        simpa [odd] using (⟨.inr rfl, gap.le, fun _ => by omega⟩ : Evens y k (k + 1))
  · have : (H : ℝ) + 1 ≤ r := by exact_mod_cast high
    have above : 1 / 2 < rho := by rw [hrho, lt_div_iff₀ (by positivity)]; linarith
    simpa [high] using up above lt1

/-- `x` is `m` x 2^`e` and, when `sticky`, a part of the last place more, which lies below the last place of the format. -/
structure Carries (f : Fmt) (x : ℝ) (m : Nat) (e : Int) (sticky : Bool) : Prop where
  ne_zero : m ≠ 0
  le : m * 2 ^ e ≤ x
  lt : x < (m + 1) * 2 ^ e
  exact_iff : sticky = false ↔ x = m * 2 ^ e
  fine : sticky = true → f.fb + 2 ≤ bitLen m

theorem Carries.exact (f : Fmt) {m : Nat} (e : Int) (ne : m ≠ 0) : Carries f (m * 2 ^ e) m e false :=
  ⟨ne, le_refl _, mul_lt_mul_of_pos_right (lt_add_one _) (by positivity), by simp, by simp⟩

/-- What `roundAt` makes of a number that lies `y` places of 2^`q` above zero: RTZ gives the whole part, RNE the nearest. -/
structure RoundsAt (s : Bool) (m : Nat) (e q : Int) (sticky : Bool) (y : ℝ) (k : Nat) : Prop where
  le : k ≤ y
  lt : y < k + 1
  rtz : (roundAt .rtz s m e q sticky).1 = k
  rne : Evens y k (roundAt .rne s m e q sticky).1
  exact_iff : (roundAt .rne s m e q sticky).2 = true ↔ y = (roundAt .rne s m e q sticky).1

theorem roundAt_of_le {f : Fmt} {s : Bool} {m : Nat} {e q : Int} {x : ℝ} (h : Carries f x m e false) (le : q ≤ e) :
    RoundsAt s m e q false (x / 2 ^ q) (m * 2 ^ (e - q).toNat) := by
  have whole : x / 2 ^ q = ((m * 2 ^ (e - q).toNat : Nat) : ℝ) := by
    rw [h.exact_iff.1 rfl, div_eq_iff (by positivity)]
    have split : e = ((e - q).toNat : Int) + q := by omega
    conv_lhs => rw [split, zpow_add₀ two_ne_zero, zpow_natCast]
    push_cast; ring
  have eq (rm : RM) : roundAt rm s m e q false = (m * 2 ^ (e - q).toNat, true) := by simp [roundAt, le]
  exact ⟨whole.ge, by rw [whole]; exact lt_add_one _, by rw [eq], by rw [eq, whole]; exact .self _, by simp [eq, whole]⟩

theorem roundAt_of_lt {f : Fmt} {s sticky : Bool} {m : Nat} {e q : Int} {x : ℝ} (h : Carries f x m e sticky) (lt : e < q) :
    RoundsAt s m e q sticky (x / 2 ^ q) (m / 2 ^ (q - e).toNat) := by
  obtain ⟨n, hn⟩ : ∃ n, (q - e).toNat = n + 1 := ⟨(q - e).toNat - 1, by omega⟩
  have halves : 2 ^ (n + 1) = 2 * 2 ^ n := pow_succ' 2 n
  have place : (2 : ℝ) ^ q = 2 ^ e * (2 * (2 ^ n : Nat)) := by
    have split : q = e + ((n + 1 : Nat) : Int) := by omega
    rw [split, zpow_add₀ two_ne_zero, zpow_natCast, pow_succ']; push_cast; ring
  have posH : 0 < 2 ^ n := Nat.two_pow_pos n
  have posE : (0 : ℝ) < 2 ^ e := by positivity
  have rest : m % (2 * 2 ^ n) < 2 * 2 ^ n := Nat.mod_lt m (by omega)
  have whole : 2 * (2 ^ n : Nat) * (m / (2 * 2 ^ n) : Nat) + (m % (2 * 2 ^ n) : Nat) = (m : ℝ) := by
    exact_mod_cast Nat.div_add_mod m (2 * 2 ^ n)
  have choice (rm : RM) : roundAt rm s m e q sticky = _ := if_neg (not_le.2 lt)
  simp only [hn, Nat.add_sub_cancel, halves] at choice ⊢
  generalize m / (2 * 2 ^ n) = k at *
  generalize m % (2 * 2 ^ n) = r at *
  generalize 2 ^ n = H at *
  have posR : (0 : ℝ) < 2 * H := by exact_mod_cast (show 0 < 2 * H by omega)
  have le_m : 0 ≤ x / 2 ^ e - m := sub_nonneg.2 ((le_div_iff₀ posE).2 h.le)
  have lt_m : x / 2 ^ e - m < 1 := sub_lt_iff_lt_add'.2 ((div_lt_iff₀ posE).2 h.lt)
  have more : sticky = false ↔ x / 2 ^ e - m = 0 := by rw [h.exact_iff, sub_eq_zero, div_eq_iff posE.ne']
  have parts : x / 2 ^ q = k + (r + (x / 2 ^ e - m)) / (2 * H) := by
    rw [place, ← div_div, ← whole]
    field_simp; ring
  generalize x / 2 ^ e - m = d at *
  have nonneg : 0 ≤ (r + d) / (2 * H) := div_nonneg (add_nonneg r.cast_nonneg le_m) posR.le
  have less : (r + d) / (2 * H) < 1 := by
    have : (r : ℝ) + 1 ≤ 2 * H := by exact_mod_cast rest
    rw [div_lt_one posR]; linarith
  have evens := evens_of_rest rest le_m lt_m more parts
  have rtz : (roundAt .rtz s m e q sticky).1 = k := by rw [choice]; split <;> rfl
  have rne : roundAt .rne s m e q sticky =
      (if (decide (H < r) || (r == H && (sticky || k % 2 == 1))) = true then k + 1 else k, decide (r = 0) && !sticky) := by
    rw [choice]
    by_cases none : (decide (r = 0) && !sticky) = true
    · obtain ⟨rfl, rfl⟩ : r = 0 ∧ sticky = false := by simpa using none
      simp [posH.ne]
    · rw [if_neg none, Bool.eq_false_iff.2 none]
  have near : Evens (x / 2 ^ q) k (roundAt .rne s m e q sticky).1 := by rw [rne]; exact evens
  have zero : (roundAt .rne s m e q sticky).2 = true ↔ x / 2 ^ q = k := by
    rw [rne, parts, add_eq_left, div_eq_zero_iff, or_iff_left posR.ne', add_eq_zero_iff_of_nonneg r.cast_nonneg le_m]
    simp [more]
  refine ⟨by linarith, by linarith, rtz, near, zero.trans ?_⟩
  have half := abs_le.1 near.near
  rcases near.next with same | same <;> rw [same] at half ⊢
  push_cast at half ⊢
  constructor <;> intro whole <;> linarith

/-! ### The place of the last bit -/

theorem two_pow_bitLen_le {m : Nat} (h : m ≠ 0) : 2 ^ (bitLen m - 1) ≤ m := by
  simpa [bitLen, h] using Nat.log2_self_le h
theorem lt_two_pow_bitLen (m : Nat) : m < 2 ^ bitLen m := by
  by_cases h : m = 0
  · simp [bitLen, h]
  · simpa [bitLen, h] using Nat.lt_log2_self
theorem bitLen_pos {m : Nat} (h : m ≠ 0) : 0 < bitLen m := by simp [bitLen, h]
theorem lt_bitLen {m n : Nat} (h : 2 ^ n ≤ m) : n < bitLen m :=
  (Nat.pow_lt_pow_iff_right (by decide)).1 (h.trans_lt (lt_two_pow_bitLen m))

/-- The exponent of the last place of the format at a number with leading bit as that of `m` x 2^`e`. -/
def Fmt.place (f : Fmt) (m : Nat) (e : Int) : Int := max (e + bitLen m - 1 - f.fb) f.qmin
/-- How far that is above the last place of a subnormal. -/
def Fmt.rise (f : Fmt) (m : Nat) (e : Int) : Nat := (f.place m e - f.qmin).toNat
theorem Fmt.two_zpow_place (f : Fmt) (m : Nat) (e : Int) : (2 : ℝ) ^ f.place m e = f.unit * (2 ^ f.rise m e : Nat) := by
  have split : f.place m e = f.qmin + (f.rise m e : Int) := by
    have := le_max_right (e + bitLen m - 1 - f.fb) f.qmin
    unfold Fmt.rise; unfold Fmt.place at *; omega
  rw [split, zpow_add₀ two_ne_zero, zpow_natCast, Fmt.unit]; push_cast; rfl

/-- The whole part of the number at its place: it fits the fraction with its leading bit, and fills it above the subnormals. -/
structure Aligned (f : Fmt) (s : Bool) (m : Nat) (e : Int) (sticky : Bool) (u : ℝ) (k : Nat) : Prop where
  rounds : RoundsAt s m e (f.place m e) sticky (u / (2 ^ f.rise m e : Nat)) k
  fits : k + 1 ≤ 2 * 2 ^ f.fb
  normal : f.rise m e = 0 ∨ 2 ^ f.fb ≤ k

theorem Carries.aligned {f : Fmt} {x : ℝ} {m : Nat} {e : Int} {sticky : Bool} (h : Carries f x m e sticky) (s : Bool) :
    ∃ k, Aligned f s m e sticky (x / f.unit) k := by
  have pos := bitLen_pos h.ne_zero
  have scale : x / 2 ^ f.place m e = x / f.unit / (2 ^ f.rise m e : Nat) := by rw [f.two_zpow_place, div_div]
  have lower : (2 : ℝ) ^ (e + bitLen m - 1) ≤ x := by
    refine le_trans ?_ h.le
    have split : e + bitLen m - 1 = ((bitLen m - 1 : Nat) : Int) + e := by omega
    rw [split, zpow_add₀ two_ne_zero, zpow_natCast]
    exact mul_le_mul_of_nonneg_right (by exact_mod_cast two_pow_bitLen_le h.ne_zero) (by positivity)
  have upper : x < (2 : ℝ) ^ (e + bitLen m) := by
    refine lt_of_lt_of_le h.lt ?_
    rw [add_comm e, zpow_add₀ two_ne_zero, zpow_natCast]
    exact mul_le_mul_of_nonneg_right (by exact_mod_cast lt_two_pow_bitLen m) (by positivity)
  obtain ⟨k, hk⟩ : ∃ k, RoundsAt s m e (f.place m e) sticky (x / 2 ^ f.place m e) k := by
    rcases lt_or_ge e (f.place m e) with lt | le
    · exact ⟨_, roundAt_of_lt h lt⟩
    · cases sticky with
      | false => exact ⟨_, roundAt_of_le h le⟩
      | true =>
        have := h.fine rfl
        have := le_max_left (e + bitLen m - 1 - f.fb) f.qmin
        unfold Fmt.place at le; omega
  refine ⟨k, scale ▸ hk, ?_, ?_⟩
  · have small : (k : ℝ) < (2 * 2 ^ f.fb : Nat) := by
      refine hk.le.trans_lt ((div_lt_iff₀ (by positivity)).2 (upper.trans_le ?_))
      push_cast
      rw [← pow_succ', ← zpow_natCast, ← zpow_add₀ two_ne_zero]
      have := le_max_left (e + bitLen m - 1 - f.fb) f.qmin
      exact zpow_le_zpow_right₀ (by norm_num) (by unfold Fmt.place; push_cast; omega)
    exact_mod_cast small
  · rw [or_iff_not_imp_left]
    intro above
    have big : (2 ^ f.fb : Nat) < (k + 1 : ℝ) := by
      refine ((le_div_iff₀ (by positivity)).2 (le_trans ?_ lower)).trans_lt hk.lt
      push_cast
      rw [← zpow_natCast, ← zpow_add₀ two_ne_zero]
      exact zpow_le_zpow_right₀ (by norm_num) (by unfold Fmt.rise Fmt.place at *; omega)
    exact Nat.lt_succ_iff.1 (by exact_mod_cast big)

/-! ### The nearest magnitude -/

/-- No bits hold a magnitude nearer to `u` units than `p`; of two as near `p` are the even ones. -/
def Fmt.NearestMag (f : Fmt) (u : ℝ) (p : Nat) : Prop :=
  ∀ c, |(f.mag p : ℝ) - u| ≤ |(f.mag c : ℝ) - u| ∧ (|(f.mag p : ℝ) - u| = |(f.mag c : ℝ) - u| → c = p ∨ p % 2 = 0)

theorem Evens.nearest {y t : ℝ} {k n : Nat} (h : Evens y k n) (le : k ≤ y) (lt : y < k + 1) (off : t ≤ k ∨ k + 1 ≤ t) :
    |(n : ℝ) - y| ≤ |t - y| ∧ (|(n : ℝ) - y| = |t - y| → t = n ∨ n % 2 = 0) := by
  have near := h.near
  have tie := h.tie
  rcases h.next with rfl | rfl
  · rw [abs_sub_comm, abs_of_nonneg (sub_nonneg.2 le)] at *
    rcases off with low | high
    · rw [abs_of_nonpos (by linarith)]
      exact ⟨by linarith, fun same => .inl (by linarith)⟩
    · rw [abs_of_nonneg (by linarith)]
      exact ⟨by linarith, fun same => .inr (tie (by linarith))⟩
  · push_cast at *
    rw [abs_of_nonneg (by linarith)] at *
    rcases off with low | high
    · rw [abs_of_nonpos (by linarith)]
      exact ⟨by linarith, fun same => .inr (tie (by linarith))⟩
    · rw [abs_of_nonneg (by linarith)]
      exact ⟨by linarith, fun same => .inl (by linarith)⟩

theorem Evens.nearestMag {f : Fmt} {u : ℝ} {j k n : Nat} (frac : 0 < f.fb) (h : Evens (u / (2 ^ j : Nat)) k n)
    (le : k ≤ u / (2 ^ j : Nat)) (lt : u / (2 ^ j : Nat) < k + 1) (fits : k + 1 ≤ 2 * 2 ^ f.fb)
    (normal : j = 0 ∨ 2 ^ f.fb ≤ k) : f.NearestMag u (j * 2 ^ f.fb + n) := by
  have pos : (0 : ℝ) < (2 ^ j : Nat) := by positivity
  have bounds : k ≤ n ∧ n ≤ k + 1 := by rcases h.next with rfl | rfl <;> omega
  have value : f.mag (j * 2 ^ f.fb + n) = n * 2 ^ j := Fmt.mag_add (by omega) (normal.imp_right (by omega))
  have even : (j * 2 ^ f.fb + n) % 2 = n % 2 := by
    obtain ⟨c, hc⟩ := Nat.exists_eq_succ_of_ne_zero frac.ne'
    rw [hc, pow_succ, ← mul_assoc]; omega
  have scaled (t : ℝ) : |t - u| = |t / (2 ^ j : Nat) - u / (2 ^ j : Nat)| * (2 ^ j : Nat) := by
    rw [← sub_div, abs_div, abs_of_pos pos, div_mul_cancel₀ _ pos.ne']
  intro c
  have off : (f.mag c : ℝ) / (2 ^ j : Nat) ≤ k ∨ (k : ℝ) + 1 ≤ f.mag c / (2 ^ j : Nat) := by
    rw [div_le_iff₀ pos, le_div_iff₀ pos]
    rcases Nat.lt_or_ge (j * 2 ^ f.fb + k) c with above | below
    · have := f.mag_strictMono.monotone (Nat.succ_le_of_lt above)
      rw [Nat.succ_eq_add_one, add_assoc, Fmt.mag_add fits (normal.imp_right (by omega))] at this
      exact .inr (by exact_mod_cast this)
    · have := f.mag_strictMono.monotone below
      rw [Fmt.mag_add (by omega) normal] at this
      exact .inl (by exact_mod_cast this)
  obtain ⟨closer, tie⟩ := h.nearest le lt off
  rw [scaled, scaled (f.mag c), value, Nat.cast_mul, mul_div_cancel_right₀ _ pos.ne', mul_le_mul_iff_left₀ pos,
    mul_left_inj' pos.ne', even]
  refine ⟨closer, fun same => (tie same).imp_left fun eq => f.mag_strictMono.injective ?_⟩
  rw [value]
  exact_mod_cast (div_eq_iff pos.ne').1 eq

end Sys2Proof.Machine
end

section
/-! Proofs about `roundFin` (03 R61, R64 to R66): the nearest number of the format, its flags, and where FP32 overflows. -/

namespace Sys2Proof.Machine

/-! ### `roundFin` -/

theorem Fmt.limit_le_iff {f : Fmt} {j n : Nat} : f.emax ≤ j + n / 2 ^ f.fb ↔ f.limit ≤ j * 2 ^ f.fb + n := by
  have pos : 0 < 2 ^ f.fb := Nat.two_pow_pos _
  rw [Fmt.limit, ← Nat.le_div_iff_mul_le pos, mul_comm j, Nat.mul_add_div pos]

/-- RNE: infinity where the bits lie beyond the finite ones, else these bits. -/
theorem roundFin_rne_eq (f : Fmt) (s : Bool) (m : Nat) (e : Int) (sticky : Bool) : ∃ uf,
    roundFin f .rne s m e sticky =
      if f.emax ≤ f.rise m e + (roundAt .rne s m e (f.place m e) sticky).1 / 2 ^ f.fb then ⟨packInf f s, fOF ||| fNX⟩
      else ⟨f.signBit s + f.rise m e * 2 ^ f.fb + (roundAt .rne s m e (f.place m e) sticky).1,
        flagIf (!(roundAt .rne s m e (f.place m e) sticky).2) fNX ||| flagIf uf fUF⟩ :=
  ⟨_, if_congr (or_self_iff (a := f.emax ≤ f.rise m e + (roundAt .rne s m e (f.place m e) sticky).1 / 2 ^ f.fb)) rfl rfl⟩
/-- RTZ: the largest finite bits where those of either mode lie beyond the finite ones, else its bits. -/
theorem roundFin_rtz_val (f : Fmt) (s : Bool) (m : Nat) (e : Int) (sticky : Bool) :
    (roundFin f .rtz s m e sticky).val =
      if f.emax ≤ f.rise m e + (roundAt .rtz s m e (f.place m e) sticky).1 / 2 ^ f.fb ∨
        f.emax ≤ f.rise m e + (roundAt .rne s m e (f.place m e) sticky).1 / 2 ^ f.fb
      then f.signBit s + f.limit - 1
      else f.signBit s + f.rise m e * 2 ^ f.fb + (roundAt .rtz s m e (f.place m e) sticky).1 :=
  apply_ite FRes.val _ _ _

section
variable {f : Fmt} {x : ℝ} {m : Nat} {e : Int} {sticky : Bool} (h : Carries f x m e sticky) (s : Bool)
include h

/-- RNE gives the bits of a nearest magnitude, or infinity where these lie beyond the finite ones. -/
theorem Carries.roundFin_rne (frac : 0 < f.fb) : ∃ (p : Nat) (ex uf : Bool),
    f.NearestMag (x / f.unit) p ∧ (ex = true ↔ x / f.unit = f.mag p) ∧
    roundFin f .rne s m e sticky = if f.limit ≤ p then ⟨packInf f s, fOF ||| fNX⟩
      else ⟨f.signBit s + p, flagIf (!ex) fNX ||| flagIf uf fUF⟩ := by
  obtain ⟨k, rounds, fits, normal⟩ := h.aligned s
  have bounds : k ≤ (roundAt .rne s m e (f.place m e) sticky).1 ∧ (roundAt .rne s m e (f.place m e) sticky).1 ≤ k + 1 := by
    rcases rounds.rne.next with same | same <;> omega
  have value := Fmt.mag_add (f := f) (bounds.2.trans fits) (normal.imp_right fun low => low.trans bounds.1)
  obtain ⟨uf, eq⟩ := roundFin_rne_eq f s m e sticky
  refine ⟨_, (roundAt .rne s m e (f.place m e) sticky).2, uf,
    rounds.rne.nearestMag frac rounds.le rounds.lt fits normal, ?_, ?_⟩
  · rw [rounds.exact_iff, value, div_eq_iff (by positivity)]
    push_cast; rfl
  · rw [eq, add_assoc]
    exact if_congr Fmt.limit_le_iff rfl rfl

/-- RTZ gives the bits of a finite magnitude that does not exceed the number. -/
theorem Carries.roundFin_rtz (expo : 0 < f.eb) : ∃ p < f.limit,
    (f.mag p : ℝ) ≤ x / f.unit ∧ (roundFin f .rtz s m e sticky).val = f.signBit s + p := by
  have some : 0 < f.limit := by
    have : 1 < 2 ^ f.eb := Nat.one_lt_two_pow expo.ne'
    exact Nat.mul_pos (by unfold Fmt.emax; omega) (Nat.two_pow_pos _)
  obtain ⟨k, rounds, fits, normal⟩ := h.aligned s
  have value := Fmt.mag_add (f := f) (by omega : k ≤ 2 * 2 ^ f.fb) normal
  have below : (f.mag (f.rise m e * 2 ^ f.fb + k) : ℝ) ≤ x / f.unit := by
    rw [value]; push_cast
    simpa using (le_div_iff₀ (by positivity)).1 rounds.le
  simp only [roundFin_rtz_val, rounds.rtz, Fmt.limit_le_iff]
  split
  · next beyond =>
    have : f.limit ≤ f.rise m e * 2 ^ f.fb + k + 1 := by rcases rounds.rne.next with same | same <;> omega
    exact ⟨f.limit - 1, by omega, le_trans (by exact_mod_cast f.mag_strictMono.monotone (by omega)) below, by omega⟩
  · next within => exact ⟨_, by omega, below, by omega⟩

end

/-! ### The nearest number -/

/-- `Fmt.nearest` for a real number. -/
def Fmt.Nearest (f : Fmt) (r : FRes Nat) (v : ℝ) : Prop :=
  f.finite r.val ∧ (r.fl &&& fNX = 0 ↔ ((unpack f r.val).toRat : ℝ) = v) ∧
  ∀ b, f.finite b → |((unpack f r.val).toRat : ℝ) - v| ≤ |((unpack f b).toRat : ℝ) - v| ∧
    (|((unpack f r.val).toRat : ℝ) - v| = |((unpack f b).toRat : ℝ) - v| →
      (unpack f b).toRat = (unpack f r.val).toRat ∨ r.val % 2 = 0)
theorem Fmt.nearest_of_real {f : Fmt} {r : FRes Nat} {v : ℚ} (h : f.Nearest r (v : ℝ)) : f.nearest r v := by
  unfold Fmt.Nearest at h
  unfold Fmt.nearest
  exact_mod_cast h

theorem flagIf_nx_uf (a b : Bool) : (flagIf a fNX ||| flagIf b fUF) &&& fNX = 0 ↔ a = false := by
  revert a b; decide
theorem flagIf_nx_uf_of (a b : Bool) : (flagIf a fNX ||| flagIf b fUF) &&& fOF = 0 := by
  revert a b; decide

theorem Fmt.signBit_even {f : Fmt} (frac : 0 < f.fb) (s : Bool) (p : Nat) : (f.signBit s + p) % 2 = p % 2 := by
  obtain ⟨c, hc⟩ := Nat.exists_eq_succ_of_ne_zero (show f.eb + f.fb ≠ 0 by omega)
  unfold Fmt.signBit
  rw [hc, pow_succ]
  cases s <;> simp

/-- A nearest magnitude makes a nearest number: one with the other sign is no nearer than zero. -/
theorem Fmt.NearestMag.nearest {f : Fmt} {x : ℝ} {p : Nat} {ex uf : Bool} (frac : 0 < f.fb) (nonneg : 0 ≤ x)
    (near : f.NearestMag (x / f.unit) p) (exact : ex = true ↔ x / f.unit = f.mag p) (small : p < f.limit) (s : Bool) :
    f.Nearest ⟨f.signBit s + p, flagIf (!ex) fNX ||| flagIf uf fUF⟩ (signed s * x) := by
  have pos := f.unit_pos
  have upos : 0 ≤ x / f.unit := div_nonneg nonneg pos.le
  have scale : x = x / f.unit * f.unit := (div_mul_cancel₀ _ pos.ne').symm
  generalize x / f.unit = u at *
  subst scale
  have dist (t : Bool) (c : Nat) : |signed t * (f.mag c * f.unit) - signed s * (u * f.unit)|
      = |signed (t != s) * f.mag c - u| * f.unit := by
    have factor : signed t * (f.mag c * f.unit) - signed s * (u * f.unit)
        = signed s * ((signed (t != s) * f.mag c - u) * f.unit) := by cases s <;> cases t <;> simp <;> ring
    rw [factor, abs_mul, abs_signed, one_mul, abs_mul, abs_of_pos pos]
  refine ⟨Fmt.finite_iff.2 ⟨s, p, rfl, small⟩, ?_, ?_⟩
  · rw [flagIf_nx_uf, Bool.not_eq_false', exact, Fmt.toRat_signBit small, eq_comm]
    cases s <;> simp [pos.ne']
  · intro b finite
    obtain ⟨t, c, rfl, hc⟩ := Fmt.finite_iff.1 finite
    rw [Fmt.toRat_signBit small, Fmt.toRat_signBit hc, dist, dist, mul_le_mul_iff_left₀ pos, mul_left_inj' pos.ne',
      Fmt.signBit_even frac, bne_self_eq_false, signed_false, one_mul]
    by_cases side : t = s
    · subst side
      rw [bne_self_eq_false, signed_false, one_mul]
      exact ⟨(near c).1, fun same => ((near c).2 same).imp_left fun eq => by rw [eq]⟩
    · have other : (t != s) = true := by simpa using side
      have zero := near 0
      rw [Fmt.mag_zero, Nat.cast_zero, zero_sub, abs_neg, abs_of_nonneg upos] at zero
      have further : |-(f.mag c : ℝ) - u| = f.mag c + u := by
        rw [← neg_add', abs_neg, abs_of_nonneg (by positivity)]
      have nonneg : (0 : ℝ) ≤ f.mag c := Nat.cast_nonneg _
      rw [other, signed_true, neg_one_mul, further]
      refine ⟨by linarith, fun same => (zero.2 (by linarith)).imp_left fun eq => ?_⟩
      have none : (f.mag c : ℝ) = 0 := by linarith
      apply Rat.cast_injective (α := ℝ)
      rw [Fmt.toRat_signBit hc, Fmt.toRat_signBit small, none, ← eq]
      simp

/-! ### Overflow -/

section
variable {f : Fmt} {u : ℝ} {p : Nat} (near : f.NearestMag u p) (some : 0 < f.limit)
include near some

/-- Below the middle between the largest finite magnitude and the next the result is finite. -/
theorem Fmt.NearestMag.lt_limit (below : 2 * u < f.mag (f.limit - 1) + f.mag f.limit) : p < f.limit := by
  by_contra beyond
  have last : (f.mag (f.limit - 1) : ℝ) < f.mag f.limit := by exact_mod_cast f.mag_strictMono (by omega)
  have far : (f.mag f.limit : ℝ) ≤ f.mag p := by exact_mod_cast f.mag_strictMono.monotone (not_lt.1 beyond)
  have closer := (near (f.limit - 1)).1
  rw [abs_of_nonneg (by linarith)] at closer
  rcases abs_cases ((f.mag (f.limit - 1) : ℝ) - u) with ⟨same, -⟩ | ⟨same, -⟩ <;> rw [same] at closer <;> linarith

/-- From that middle on it is not: the largest finite magnitude is odd. -/
theorem Fmt.NearestMag.limit_le (even : f.limit % 2 = 0) (above : f.mag (f.limit - 1) + f.mag f.limit ≤ 2 * u) :
    f.limit ≤ p := by
  by_contra within
  have last : (f.mag (f.limit - 1) : ℝ) < f.mag f.limit := by exact_mod_cast f.mag_strictMono (by omega)
  have low : (f.mag p : ℝ) ≤ f.mag (f.limit - 1) := by exact_mod_cast f.mag_strictMono.monotone (by omega)
  obtain ⟨closer, tie⟩ := near f.limit
  have bound : |(f.mag f.limit : ℝ) - u| ≤ u - f.mag (f.limit - 1) := abs_le.2 ⟨by linarith, by linarith⟩
  rw [abs_sub_comm, abs_of_nonneg (by linarith)] at closer tie
  have same : p = f.limit - 1 := f.mag_strictMono.injective (by
    have : (f.mag p : ℝ) = f.mag (f.limit - 1) := by linarith
    exact_mod_cast this)
  rcases tie (by linarith) with eq | eq <;> omega

end

theorem fp32_limit_mags : (fp32.mag (fp32.limit - 1) : ℝ) * fp32.unit = 2 ^ 128 - 2 ^ 104 ∧
    (fp32.mag fp32.limit : ℝ) * fp32.unit = 2 ^ 128 := by
  have last : fp32.mag (253 * 2 ^ 23 + (2 ^ 24 - 1)) = (2 ^ 24 - 1) * 2 ^ 253 := Fmt.mag_add (by decide) (by decide)
  have next : fp32.mag (254 * 2 ^ 23 + 2 ^ 23) = 2 ^ 23 * 2 ^ 254 := Fmt.mag_add (by decide) (by decide)
  have limit : fp32.limit = 254 * 2 ^ 23 + 2 ^ 23 := by decide
  have unit : fp32.unit = ((2 : ℝ) ^ 149)⁻¹ := by
    have : fp32.qmin = -((149 : Nat) : Int) := by decide
    rw [Fmt.unit, this, zpow_neg, zpow_natCast]
  rw [limit, next, show 254 * 2 ^ 23 + 2 ^ 23 - 1 = 253 * 2 ^ 23 + (2 ^ 24 - 1) by decide, last, unit]
  constructor <;> norm_num

/-! ### Numbers rounded by `roundFin` -/

section
variable {f : Fmt} {x : ℝ} {m : Nat} {e : Int} {sticky : Bool}

theorem Carries.pos (h : Carries f x m e sticky) : 0 < x :=
  lt_of_lt_of_le (mul_pos (Nat.cast_pos.2 (Nat.pos_of_ne_zero h.ne_zero)) (by positivity)) h.le

/-- R64: under RNE a number that does not overflow is rounded to nearest even. -/
theorem Carries.rne_nearest (h : Carries f x m e sticky) (s : Bool) (frac : 0 < f.fb)
    (fits : (roundFin f .rne s m e sticky).fl &&& fOF = 0) : f.Nearest (roundFin f .rne s m e sticky) (signed s * x) := by
  obtain ⟨p, ex, uf, near, exact, same⟩ := h.roundFin_rne s frac
  rw [same] at fits ⊢
  split at fits
  · exact absurd fits (show (fOF ||| fNX) &&& fOF ≠ 0 by decide)
  · next within =>
    rw [if_neg within]
    exact near.nearest frac h.pos.le exact (not_le.1 within) s

/-- R64: under RTZ the magnitude does not exceed that of the number. -/
theorem Carries.rtz_le (h : Carries f x m e sticky) (s : Bool) (expo : 0 < f.eb) :
    f.finite (roundFin f .rtz s m e sticky).val ∧ |((unpack f (roundFin f .rtz s m e sticky).val).toRat : ℝ)| ≤ x := by
  obtain ⟨p, small, below, same⟩ := h.roundFin_rtz s expo
  rw [same]
  refine ⟨Fmt.finite_iff.2 ⟨s, p, rfl, small⟩, ?_⟩
  rw [Fmt.toRat_signBit small, abs_mul, abs_signed, one_mul, abs_of_nonneg (mul_nonneg (Nat.cast_nonneg _) f.unit_pos.le)]
  exact (le_div_iff₀ f.unit_pos).1 below

/-- FP32 overflows under RNE from half a last place beyond the largest number on, and not before. -/
theorem Carries.fp32_rne (h : Carries fp32 x m e sticky) (s : Bool) :
    (x < 2 ^ 128 - 2 ^ 103 → fp32.Nearest (roundFin fp32 .rne s m e sticky) (signed s * x) ∧
      (roundFin fp32 .rne s m e sticky).fl &&& fOF = 0 ∧ (unpack fp32 (roundFin fp32 .rne s m e sticky).val).sign = s) ∧
    (2 ^ 128 - 2 ^ 103 ≤ x → roundFin fp32 .rne s m e sticky = ⟨packInf fp32 s, fOF ||| fNX⟩) := by
  obtain ⟨p, ex, uf, near, exact, same⟩ := h.roundFin_rne s (by decide)
  obtain ⟨last, next⟩ := fp32_limit_mags
  have pos := fp32.unit_pos
  have middle : ((fp32.mag (fp32.limit - 1) : ℝ) + fp32.mag fp32.limit) / 2 * fp32.unit = 2 ^ 128 - 2 ^ 103 := by
    rw [div_mul_eq_mul_div, add_mul, last, next]; norm_num
  rw [← middle, ← div_lt_iff₀ pos, ← le_div_iff₀ pos, lt_div_iff₀ two_pos, div_le_iff₀ two_pos, mul_comm _ (2 : ℝ), same]
  constructor
  · intro below
    have small := near.lt_limit (by decide) below
    rw [if_neg (not_le.2 small)]
    exact ⟨near.nearest (by decide) h.pos.le exact small s, flagIf_nx_uf_of _ _, Fmt.sign_signBit small⟩
  · intro above
    exact if_pos (near.limit_le (by decide) (by decide) above)

end

end Sys2Proof.Machine
end

section
/-! Proofs about quotients and roots (03 R66, R67): the integer quotient or root with a sticky rest carries the exact number. -/

namespace Sys2Proof.Machine

/-! ### Finite operands -/

theorem unpack_fin_bounds {f : Fmt} {x m : Nat} {s : Bool} {e : Int} (h : unpack f x = .fin s m e) :
    m < 2 * 2 ^ f.fb ∧ f.qmin ≤ e := by
  have small : x % 2 ^ f.fb < 2 ^ f.fb := Nat.mod_lt _ (Nat.two_pow_pos _)
  unfold unpack at h
  dsimp only at h
  split at h
  · split at h <;> cases h
  · split at h <;> cases h <;> omega

theorem Fmt.finite.unpack {f : Fmt} {b : Nat} (h : f.finite b) :
    ∃ s m e, Machine.unpack f b = .fin s m e := by
  obtain ⟨s, p, rfl, small⟩ := Fmt.finite_iff.1 h
  obtain ⟨m, e, same, -⟩ := Fmt.unpack_signBit (s := s) small
  exact ⟨s, m, e, same⟩

theorem FV.toRat_eq_zero {s : Bool} {m : Nat} {e : Int} : (FV.fin s m e).toRat = 0 ↔ m = 0 := by
  have : (2 : ℚ) ^ e ≠ 0 := by positivity
  cases s <;> simp [FV.toRat, this]

theorem FV.toRat_neg_iff {s : Bool} {m : Nat} {e : Int} (ne : m ≠ 0) : (FV.fin s m e).toRat < 0 ↔ s = true := by
  have pos : (0 : ℚ) < m * 2 ^ e := mul_pos (by exact_mod_cast Nat.pos_of_ne_zero ne) (by positivity)
  cases s
  · simpa [FV.toRat] using pos.le
  · simpa [FV.toRat] using pos

theorem packZero_nearest (f : Fmt) (some : 0 < f.limit) (frac : 0 < f.fb) (s : Bool) : f.Nearest ⟨packZero f s, 0⟩ 0 := by
  have near : f.NearestMag (0 / f.unit) 0 := fun c => ⟨by simp, fun _ => .inr rfl⟩
  have h := near.nearest (ex := true) (uf := false) frac le_rfl (by simp) some s
  rw [mul_zero] at h
  exact h

theorem packZero_toRat (f : Fmt) (some : 0 < f.limit) (s : Bool) : (unpack f (packZero f s)).toRat = 0 := by
  obtain ⟨m, e, same, value⟩ := Fmt.unpack_signBit (s := s) some
  rw [show packZero f s = f.signBit s + 0 from rfl, same, FV.toRat_eq_zero]
  have : (2 : ℝ) ^ e ≠ 0 := by positivity
  simpa [this] using value

/-! ### Quotients -/

theorem fDiv_fin {f : Fmt} {rm : RM} {a b m n : Nat} {s t : Bool} {e k : Int} (ha : unpack f a = .fin s m e)
    (hb : unpack f b = .fin t n k) : fDiv f rm a b =
      if n = 0 then if m = 0 then ⟨canonNaN f, fNV⟩ else ⟨packInf f (s != t), fDZ⟩
      else if m = 0 then ⟨packZero f (s != t), 0⟩
      else roundFin f rm (s != t) (m * 2 ^ 80 / n) (e - k - 80) (m * 2 ^ 80 % n != 0) := by
  unfold fDiv
  rw [ha, hb]
  rfl

/-- A quotient of naturals, with whether there is a rest. -/
theorem Carries.quotient {f : Fmt} {c n : Nat} (e : Int) (big : 2 ^ (f.fb + 1) ≤ c / n) :
    Carries f (c / n * 2 ^ e) (c / n) e (c % n != 0) := by
  have pos : 0 < n := Nat.pos_of_ne_zero fun h => by simp [h] at big
  have posR : (0 : ℝ) < n := by exact_mod_cast pos
  have place : (0 : ℝ) < 2 ^ e := by positivity
  refine ⟨by have := Nat.two_pow_pos (f.fb + 1); omega, mul_le_mul_of_nonneg_right Nat.cast_div_le place.le, ?_, ?_,
    fun _ => lt_bitLen big⟩
  · refine mul_lt_mul_of_pos_right ((div_lt_iff₀ posR).2 ?_) place
    exact_mod_cast mul_comm n _ ▸ Nat.lt_mul_div_succ c pos
  · rw [mul_left_inj' place.ne', bne_eq_false_iff_eq, div_eq_iff posR.ne', ← Nat.dvd_iff_mod_eq_zero, Nat.dvd_iff_div_mul_eq,
      eq_comm]
    norm_cast

/-! ### Roots -/

theorem isqrtAux_eq (n x r : Nat) (le : r * r ≤ x) (lt : x < (r + 2 ^ n) * (r + 2 ^ n)) : isqrtAux n x r = x.sqrt := by
  induction n generalizing r with
  | zero => exact (Nat.eq_sqrt.2 ⟨le, lt⟩)
  | succ n ih =>
    unfold isqrtAux
    dsimp only
    split
    · next fits => exact ih _ fits (by rwa [add_assoc, ← two_mul, ← pow_succ'])
    · next big => exact ih _ le (not_le.1 big)

theorem isqrt_eq (x : Nat) : isqrt x = x.sqrt := by
  refine isqrtAux_eq _ _ _ (by simp) ?_
  rw [zero_add, ← pow_add]
  exact (lt_two_pow_bitLen x).trans_le (Nat.pow_le_pow_right (by decide) (by omega))

theorem fSqrt_fin {f : Fmt} {rm : RM} {a m : Nat} {s : Bool} {e : Int} (ha : unpack f a = .fin s m e) : fSqrt f rm a =
    let k : Nat := if (e - 80) % 2 = 0 then 80 else 81
    if m = 0 then ⟨packZero f s, 0⟩ else if s then ⟨canonNaN f, fNV⟩
    else roundFin f rm false (m * 2 ^ k).sqrt ((e - k) / 2) ((m * 2 ^ k).sqrt * (m * 2 ^ k).sqrt != m * 2 ^ k) := by
  unfold fSqrt
  rw [ha]
  simp only [isqrt_eq]

/-- The root of a natural, with whether it is no natural. -/
theorem Carries.root {f : Fmt} {y : Nat} (e : Int) (big : 2 ^ (f.fb + 1) ≤ y.sqrt) :
    Carries f (√y * 2 ^ e) y.sqrt e (y.sqrt * y.sqrt != y) := by
  have place : (0 : ℝ) < 2 ^ e := by positivity
  refine ⟨by have := Nat.two_pow_pos (f.fb + 1); omega, mul_le_mul_of_nonneg_right Real.nat_sqrt_le_real_sqrt place.le,
    mul_lt_mul_of_pos_right Real.real_sqrt_lt_nat_sqrt_succ place, ?_, fun _ => lt_bitLen big⟩
  rw [mul_left_inj' place.ne', bne_eq_false_iff_eq, Real.sqrt_eq_iff_mul_self_eq (by positivity) (by positivity), eq_comm]
  norm_cast

/-- The root of a number whose exponent is brought to an even one. -/
theorem sqrt_mul_zpow {m k : Nat} {e : Int} (even : (e - k) % 2 = 0) :
    √((m : ℝ) * 2 ^ e) = √((m * 2 ^ k : Nat) : ℝ) * 2 ^ ((e - k) / 2) := by
  have split : e = (k : Int) + ((e - k) / 2 + (e - k) / 2) := by omega
  have square : (m : ℝ) * 2 ^ e = (m * 2 ^ k : Nat) * (2 ^ ((e - k) / 2) * 2 ^ ((e - k) / 2)) := by
    conv_lhs => rw [split, zpow_add₀ two_ne_zero, zpow_add₀ two_ne_zero, zpow_natCast]
    push_cast; ring
  rw [square, Real.sqrt_mul (by positivity), Real.sqrt_mul_self (by positivity)]

/-! ### The rounded results -/

theorem binary_fields {f : Fmt} (h : f = fp32 ∨ f = fp16 ∨ f = bf16) : 0 < f.eb ∧ 0 < f.fb := by
  rcases h with rfl | rfl | rfl <;> decide

theorem abs_toRat_fin (s : Bool) (m : Nat) (e : Int) : |(((FV.fin s m e).toRat : ℚ) : ℝ)| = m * 2 ^ e := by
  rw [FV.toRat_fin, abs_mul, abs_signed, one_mul, abs_of_nonneg (by positivity)]

/-- R64: a number of no more than its own bits. -/
theorem roundFin_nearest {f : Fmt} (binary : f = fp32 ∨ f = fp16 ∨ f = bf16) (s : Bool) (m : Nat) (e : Int) (ne : m ≠ 0) :
    ((roundFin f .rne s m e false).fl &&& fOF = 0 → f.nearest (roundFin f .rne s m e false) (FV.fin s m e).toRat) ∧
    f.finite (roundFin f .rtz s m e false).val ∧
      |(unpack f (roundFin f .rtz s m e false).val).toRat| ≤ |(FV.fin s m e).toRat| := by
  obtain ⟨expo, frac⟩ := binary_fields binary
  have carries := Carries.exact f e ne
  obtain ⟨finite, below⟩ := carries.rtz_le s expo
  refine ⟨fun fits => Fmt.nearest_of_real ?_, finite, ?_⟩
  · rw [FV.toRat_fin]
    exact carries.rne_nearest s frac fits
  · rw [← abs_toRat_fin s] at below
    exact_mod_cast below

theorem toRat_div (s t : Bool) (m n : Nat) (e k : Int) :
    ((((FV.fin s m e).toRat / (FV.fin t n k).toRat : ℚ)) : ℝ) =
      signed (s != t) * (((m * 2 ^ 80 : Nat) : ℝ) / n * 2 ^ (e - k - 80)) := by
  have place : (2 : ℝ) ^ (e - k - 80) = 2 ^ e / 2 ^ k / 2 ^ 80 := by
    rw [zpow_sub₀ two_ne_zero, zpow_sub₀ two_ne_zero]; norm_cast
  have sign : signed (s != t) = signed s / signed t := by cases s <;> cases t <;> simp
  rw [Rat.cast_div, FV.toRat_fin, FV.toRat_fin, place, sign]
  have : signed t ≠ 0 := by cases t <;> simp
  push_cast
  field_simp
  norm_num

/-- R67: a quotient by a number that is not zero is rounded once, by either mode. -/
theorem fDiv_nearest {a b : Nat} (ha : fp32.finite a) (hb : fp32.finite b) (ne : (unpack fp32 b).toRat ≠ 0) :
    ((fDiv fp32 .rne a b).fl &&& fOF = 0 →
      fp32.nearest (fDiv fp32 .rne a b) ((unpack fp32 a).toRat / (unpack fp32 b).toRat)) ∧
    fp32.finite (fDiv fp32 .rtz a b).val ∧
      |(unpack fp32 (fDiv fp32 .rtz a b).val).toRat| ≤ |(unpack fp32 a).toRat / (unpack fp32 b).toRat| := by
  obtain ⟨s, m, e, ea⟩ := ha.unpack
  obtain ⟨t, n, k, eb⟩ := hb.unpack
  rw [fDiv_fin ea eb, fDiv_fin ea eb, ea, eb]
  rw [eb] at ne
  have nonzero : n ≠ 0 := fun h => ne (FV.toRat_eq_zero.2 h)
  rw [if_neg nonzero, if_neg nonzero]
  by_cases zero : m = 0
  · have none := packZero_nearest fp32 (by decide) (by decide) (s != t)
    rw [if_pos zero, if_pos zero, FV.toRat_eq_zero.2 zero, zero_div]
    exact ⟨fun _ => Fmt.nearest_of_real (by simpa using none), none.1, (by rw [packZero_toRat fp32 (by decide)])⟩
  · have big : 2 ^ (fp32.fb + 1) ≤ m * 2 ^ 80 / n := by
      have small : n < 2 * 2 ^ 23 := (unpack_fin_bounds eb).1
      rw [Nat.le_div_iff_mul_le (Nat.pos_of_ne_zero nonzero)]
      have : fp32.fb = 23 := rfl
      rw [this]
      omega
    have carries := Carries.quotient (f := fp32) (e - k - 80) big
    rw [if_neg zero, if_neg zero]
    obtain ⟨finite, below⟩ := carries.rtz_le (s != t) (by decide)
    refine ⟨fun fits => Fmt.nearest_of_real ?_, finite, ?_⟩
    · rw [toRat_div]
      exact carries.rne_nearest _ (by decide) fits
    · have same := congrArg abs (toRat_div s t m n e k)
      rw [abs_mul, abs_signed, one_mul, abs_of_pos carries.pos] at same
      rw [← same] at below
      exact_mod_cast below

/-- R66: division by zero. -/
theorem fDiv_zero {a b : Nat} (ha : fp32.finite a) (hb : fp32.finite b) (zero : (unpack fp32 b).toRat = 0) :
    ((unpack fp32 a).toRat = 0 → fDiv fp32 .rne a b = ⟨0x7FC00000, fNV⟩) ∧
    ((unpack fp32 a).toRat ≠ 0 → fDiv fp32 .rne a b =
      ⟨if (unpack fp32 a).sign = (unpack fp32 b).sign then 0x7F800000 else 0xFF800000, fDZ⟩) := by
  obtain ⟨s, m, e, ea⟩ := ha.unpack
  obtain ⟨t, n, k, eb⟩ := hb.unpack
  rw [eb, FV.toRat_eq_zero] at zero
  rw [fDiv_fin ea eb, ea, eb, if_pos zero, ne_eq, FV.toRat_eq_zero]
  refine ⟨fun none => by rw [if_pos none]; decide, fun some => ?_⟩
  rw [if_neg some]
  cases s <;> cases t <;> rfl

theorem fp32_finite_lt {a : Nat} (h : fp32.finite a) : |((unpack fp32 a).toRat : ℝ)| < 2 ^ 128 := by
  obtain ⟨s, p, rfl, small⟩ := Fmt.finite_iff.1 h
  rw [Fmt.toRat_signBit small, abs_mul, abs_signed, one_mul,
    abs_of_nonneg (mul_nonneg (Nat.cast_nonneg _) fp32.unit_pos.le), ← fp32_limit_mags.2]
  exact mul_lt_mul_of_pos_right (by exact_mod_cast fp32.mag_strictMono small) fp32.unit_pos

/-- R67: the root of a number that is not negative is rounded once; it never overflows. -/
theorem fSqrt_nearest {a : Nat} (h : fp32.finite a) (nonneg : 0 ≤ (unpack fp32 a).toRat) :
    fp32.Nearest (fSqrt fp32 .rne a) √((unpack fp32 a).toRat : ℝ) := by
  have bound := fp32_finite_lt h
  obtain ⟨s, m, e, ea⟩ := h.unpack
  rw [fSqrt_fin ea, ea]
  rw [ea] at nonneg bound
  by_cases zero : m = 0
  · rw [FV.toRat_eq_zero.2 zero, Rat.cast_zero, Real.sqrt_zero]
    simp only [zero, if_true]
    exact packZero_nearest fp32 (by decide) (by decide) s
  · obtain rfl : s = false := Bool.eq_false_iff.2 fun minus => nonneg.not_gt ((FV.toRat_neg_iff zero).2 minus)
    have value : ((FV.fin false m e).toRat : ℝ) = m * 2 ^ e := by simp [FV.toRat_fin]
    rw [value] at bound ⊢
    rw [if_neg zero, if_neg Bool.false_ne_true]
    generalize hk : (if (e - 80) % 2 = 0 then 80 else 81 : Nat) = k
    have even : (e - k) % 2 = 0 := by split at hk <;> omega
    have big : 2 ^ (fp32.fb + 1) ≤ (m * 2 ^ k).sqrt := by
      have place : 2 ^ 48 ≤ 2 ^ k := Nat.pow_le_pow_right two_pos (by split at hk <;> omega)
      exact Nat.le_sqrt.2 (place.trans (Nat.le_mul_of_pos_left _ (Nat.pos_of_ne_zero zero)))
    have carries := Carries.root (f := fp32) ((e - k) / 2) big
    rw [← sqrt_mul_zpow even] at carries
    have small : √((m : ℝ) * 2 ^ e) < 2 ^ 128 - 2 ^ 103 := by
      rw [Real.sqrt_lt' (by norm_num)]
      exact (le_abs_self _).trans_lt (bound.trans (by norm_num))
    simpa using ((carries.fp32_rne false).1 small).1

theorem fSqrt_negative {a : Nat} (h : fp32.finite a) (neg : (unpack fp32 a).toRat < 0) :
    fSqrt fp32 .rne a = ⟨0x7FC00000, fNV⟩ := by
  obtain ⟨s, m, e, ea⟩ := h.unpack
  rw [ea] at neg
  have nonzero : m ≠ 0 := fun h => neg.ne (FV.toRat_eq_zero.2 h)
  obtain rfl := (FV.toRat_neg_iff nonzero).1 neg
  rw [fSqrt_fin ea]
  simp only [nonzero, if_false, if_true]
  decide

end Sys2Proof.Machine
end

section
/-! Proofs about exact sums (03 R77, R78), and the assembly of the statement on rounding. -/

namespace Sys2Proof.Machine

/-! ### Exact sums of finite numbers -/

/-- A number that is neither NaN nor infinite. -/
def FV.IsFin (x : FV) : Prop := ∃ s m e, x = .fin s m e
theorem FV.IsFin.not_nan {x : FV} (h : x.IsFin) : x.isNaN = false := by obtain ⟨s, m, e, rfl⟩ := h; rfl
theorem FV.IsFin.not_inf {x : FV} (h : x.IsFin) (s : Bool) : (x == .inf s) = false := by obtain ⟨t, m, e, rfl⟩ := h; rfl

theorem FV.toRat_mul {x y : FV} (hx : x.IsFin) (hy : y.IsFin) : (x.mul y).IsFin ∧ (x.mul y).toRat = x.toRat * y.toRat := by
  obtain ⟨s, m, e, rfl⟩ := hx
  obtain ⟨t, n, k, rfl⟩ := hy
  refine ⟨⟨_, _, _, rfl⟩, ?_⟩
  simp only [FV.mul, FV.toRat, zpow_add₀ (two_ne_zero (α := ℚ))]
  cases s <;> cases t <;> push_cast <;> simp <;> ring

theorem FV.isZero_toRat {x : FV} (h : x.isZero = true) : x.toRat = 0 := by
  cases x with
  | nan g => rfl
  | inf s => rfl
  | fin s m e => exact FV.toRat_eq_zero.2 (by simpa [FV.isZero] using h)

/-- The step of `minExp`. -/
def minExpStep (q : Int) (x : FV) : Int := match x with | .fin _ m e => if m = 0 then q else min q e | _ => q
theorem minExp_eq (xs : List FV) : minExp xs = xs.foldl minExpStep 1000 := rfl
theorem minExpStep_le (q : Int) (x : FV) : minExpStep q x ≤ q := by
  unfold minExpStep
  split
  · split
    · exact le_rfl
    · exact min_le_left _ _
  · exact le_rfl
theorem foldl_minExpStep_le (q : Int) (xs : List FV) : xs.foldl minExpStep q ≤ q := by
  induction xs generalizing q with
  | nil => exact le_rfl
  | cons x xs ih => exact (ih _).trans (minExpStep_le q x)
theorem foldl_minExpStep_le_of_mem {q : Int} {xs : List FV} {s : Bool} {m : Nat} {e : Int} (mem : FV.fin s m e ∈ xs) (ne : m ≠ 0) :
    xs.foldl minExpStep q ≤ e := by
  induction xs generalizing q with
  | nil => cases mem
  | cons x xs ih =>
    rcases List.mem_cons.1 mem with rfl | tail
    · refine (foldl_minExpStep_le _ xs).trans ?_
      simp only [minExpStep, ne, if_false]
      exact min_le_right _ _
    · exact ih tail

/-- The number as a whole number of places 2^`q`, at most its own. -/
theorem FV.at_mul {s : Bool} {m : Nat} {e q : Int} (le : q ≤ e) : ((FV.fin s m e).at_ q : ℚ) * 2 ^ q = (FV.fin s m e).toRat := by
  have split : e = ((e - q).toNat : Int) + q := by omega
  have place : (2 : ℚ) ^ e = 2 ^ (e - q).toNat * 2 ^ q := by
    conv_lhs => rw [split, zpow_add₀ two_ne_zero, zpow_natCast]
  simp only [FV.at_, FV.toRat, place]
  cases s <;> push_cast <;> simp <;> ring

/-- The step of the sum of `sumFV`. -/
def sumStep (q : Int) (a : Int) (x : FV) : Int := if x.isZero then a else a + x.at_ q
theorem foldl_sumStep {q : Int} {xs : List FV} (a : Int) (fin : ∀ x ∈ xs, x.IsFin)
    (low : ∀ s m e, FV.fin s m e ∈ xs → m ≠ 0 → q ≤ e) :
    ((xs.foldl (sumStep q) a : Int) : ℚ) * 2 ^ q = a * 2 ^ q + (xs.map FV.toRat).sum := by
  induction xs generalizing a with
  | nil => simp
  | cons x xs ih =>
    have step : ((sumStep q a x : Int) : ℚ) * 2 ^ q = a * 2 ^ q + x.toRat := by
      obtain ⟨s, m, e, rfl⟩ := fin x List.mem_cons_self
      unfold sumStep
      split
      · next zero => rw [FV.isZero_toRat zero, add_zero]
      · next some =>
        rw [Int.cast_add, add_mul, FV.at_mul (low s m e List.mem_cons_self (by simpa [FV.isZero] using some))]
    rw [List.foldl_cons, ih _ (fun y hy => fin y (List.mem_cons_of_mem x hy))
      (fun s m e mem => low s m e (List.mem_cons_of_mem x mem)), step, List.map_cons, List.sum_cons, add_assoc]

theorem sumFV_fin {xs : List FV} (zneg : Bool) (fin : ∀ x ∈ xs, x.IsFin) :
    (sumFV xs zneg).IsFin ∧ (sumFV xs zneg).toRat = (xs.map FV.toRat).sum := by
  have noInf (s : Bool) : xs.any (fun x => x == .inf s) = false :=
    List.any_eq_false.2 fun x mem => by simp [(fin x mem).not_inf s]
  have noNaN : xs.any FV.isNaN = false := List.any_eq_false.2 fun x mem => by simp [(fin x mem).not_nan]
  have sum := foldl_sumStep 0 fin fun s m e mem ne => foldl_minExpStep_le_of_mem (q := 1000) mem ne
  rw [← minExp_eq, Int.cast_zero, zero_mul, zero_add] at sum
  have form : sumFV xs zneg =
      if xs.foldl (sumStep (minExp xs)) 0 = 0 then
        if xs.all (fun x => x.isZero && x.sign) then .fin true 0 0
        else if xs.all (fun x => x.isZero && !x.sign) then .fin false 0 0
        else .fin zneg 0 0
      else .fin (decide (xs.foldl (sumStep (minExp xs)) 0 < 0)) (xs.foldl (sumStep (minExp xs)) 0).natAbs (minExp xs) := by
    unfold sumFV
    simp only [noInf, noNaN, Bool.false_and, Bool.false_eq_true, if_false]
    rfl
  rw [form, ← sum]
  generalize xs.foldl (sumStep (minExp xs)) 0 = t
  split
  · next zero =>
    rw [zero, Int.cast_zero, zero_mul]
    split
    · exact ⟨⟨_, _, _, rfl⟩, FV.toRat_eq_zero.2 rfl⟩
    · split <;> exact ⟨⟨_, _, _, rfl⟩, FV.toRat_eq_zero.2 rfl⟩
  · refine ⟨⟨_, _, _, rfl⟩, ?_⟩
    rcases lt_or_ge t 0 with neg | nonneg
    · have abs : (t.natAbs : ℚ) = -t := by rw [Nat.cast_natAbs, abs_of_neg neg, Int.cast_neg]
      simp [FV.toRat, neg, abs]
    · have abs : (t.natAbs : ℚ) = t := by rw [Nat.cast_natAbs, abs_of_nonneg nonneg]
      simp [FV.toRat, not_lt.2 nonneg, abs]

/-! ### NaN -/

theorem sumFV_nan {xs : List FV} {zneg : Bool} (h : ∃ x ∈ xs, x.isNaN = true) : (sumFV xs zneg).isNaN = true := by
  have some : xs.any FV.isNaN = true := List.any_eq_true.2 h
  unfold sumFV
  rw [some, if_pos rfl]
  split <;> rfl

theorem FV.mul_nan {x y : FV} (h : x.isNaN = true ∨ y.isNaN = true) : (x.mul y).isNaN = true := by
  cases x <;> cases y <;> simp_all [FV.isNaN, FV.mul]

theorem addTerms_nan {f : Fmt} {rm : RM} {xs : List FV} (h : ∃ x ∈ xs, x.isNaN = true) :
    (addTerms f rm xs).val = canonNaN f := by
  have nan := sumFV_nan (zneg := rm == .rdn) h
  unfold addTerms
  cases same : sumFV xs (rm == .rdn) with
  | nan g => rfl
  | inf s => rw [same] at nan; cases nan
  | fin s m e => rw [same] at nan; cases nan

/-! ### One group -/

/-- The sum of the products of a group, whose zero is -0.0 when each of them is. -/
def groupTerm (ps : List (FV × FV)) : FV :=
  let prods := ps.map fun p => p.1.mul p.2
  if prods.all (fun x => x.isZero && x.sign) then .fin true 0 0 else sumFV prods false
theorem groupAdd_eq (a : Nat) (ps : List (FV × FV)) :
    groupAdd a ps = (addTerms fp32 .rne [unpack fp32 a, groupTerm ps]).val := rfl

theorem groupTerm_nan {ps : List (FV × FV)} (h : ∃ p ∈ ps, p.1.isNaN = true ∨ p.2.isNaN = true) :
    (groupTerm ps).isNaN = true := by
  obtain ⟨p, mem, nan⟩ := h
  have here : p.1.mul p.2 ∈ ps.map fun p => p.1.mul p.2 := List.mem_map_of_mem (f := fun p : FV × FV => p.1.mul p.2) mem
  have product := FV.mul_nan nan
  unfold groupTerm
  dsimp only
  rw [if_neg]
  · exact sumFV_nan ⟨_, here, product⟩
  · intro all
    have := List.all_eq_true.1 all _ here
    cases same : p.1.mul p.2 <;> simp_all [FV.isZero, FV.isNaN]

theorem groupAdd_nan {a : Nat} {ps : List (FV × FV)}
    (h : (unpack fp32 a).isNaN = true ∨ ∃ p ∈ ps, p.1.isNaN = true ∨ p.2.isNaN = true) : groupAdd a ps = 0x7FC00000 := by
  rw [groupAdd_eq]
  refine addTerms_nan ?_
  rcases h with acc | group
  · exact ⟨_, List.mem_cons_self, acc⟩
  · exact ⟨_, List.mem_cons_of_mem _ List.mem_cons_self, groupTerm_nan group⟩

theorem groupTerm_fin {ps : List (FV × FV)} (fin : ∀ p ∈ ps, p.1.IsFin ∧ p.2.IsFin) :
    (groupTerm ps).IsFin ∧ (groupTerm ps).toRat = (ps.map fun p => p.1.toRat * p.2.toRat).sum := by
  have prods : (ps.map fun p => p.1.mul p.2).map FV.toRat = ps.map fun p => p.1.toRat * p.2.toRat := by
    rw [List.map_map]
    exact List.map_congr_left fun p mem => (FV.toRat_mul (fin p mem).1 (fin p mem).2).2
  have finite : ∀ x ∈ ps.map fun p => p.1.mul p.2, x.IsFin := by
    intro x mem
    obtain ⟨p, hp, rfl⟩ := List.mem_map.1 mem
    exact (FV.toRat_mul (fin p hp).1 (fin p hp).2).1
  unfold groupTerm
  rw [← prods]
  dsimp only
  split
  · next zeros =>
    refine ⟨⟨_, _, _, rfl⟩, (FV.toRat_eq_zero.2 rfl).trans (List.sum_eq_zero ?_).symm⟩
    intro y mem
    obtain ⟨x, hx, rfl⟩ := List.mem_map.1 mem
    have both := List.all_eq_true.1 zeros x hx
    exact FV.isZero_toRat (Bool.and_eq_true_iff.1 both).1
  · exact sumFV_fin false finite

/-- The accumulator and the group are added exactly and rounded once. -/
theorem groupAdd_fin {a : Nat} {ps : List (FV × FV)} (acc : fp32.finite a) (fin : ∀ p ∈ ps, p.1.IsFin ∧ p.2.IsFin) :
    ∃ s m e, (FV.fin s m e).toRat = (unpack fp32 a).toRat + (ps.map fun p => p.1.toRat * p.2.toRat).sum ∧
      (m ≠ 0 → groupAdd a ps = (roundFin fp32 .rne s m e false).val) := by
  obtain ⟨term, value⟩ := groupTerm_fin fin
  have terms : ∀ x ∈ [unpack fp32 a, groupTerm ps], x.IsFin := by
    simpa using ⟨acc.unpack, term⟩
  obtain ⟨⟨s, m, e, form⟩, sum⟩ := sumFV_fin (RM.rne == .rdn) terms
  refine ⟨s, m, e, ?_, fun ne => ?_⟩
  · rw [← form, sum, ← value]; simp
  · rw [groupAdd_eq, addTerms, form]
    simp [roundFV, ne]

/-- R77, R78: one rounding to nearest even, to infinity beyond the range. -/
theorem groupAdd_nearest {a : Nat} {ps : List (FV × FV)} (acc : fp32.finite a) (fin : ∀ p ∈ ps, p.1.IsFin ∧ p.2.IsFin) (z : ℚ)
    (total : z = (unpack fp32 a).toRat + (ps.map fun p => p.1.toRat * p.2.toRat).sum) :
    (z ≠ 0 → |z| < 2 ^ 128 - 2 ^ 103 → ∃ fl, fp32.nearest ⟨groupAdd a ps, fl⟩ z) ∧
    (2 ^ 128 - 2 ^ 103 ≤ |z| → groupAdd a ps = if z < 0 then 0xFF800000 else 0x7F800000) := by
  obtain ⟨s, m, e, value, form⟩ := groupAdd_fin acc fin
  rw [← total] at value
  subst value
  clear total
  have size := abs_toRat_fin s m e
  constructor
  · intro some below
    have ne : m ≠ 0 := fun h => some (FV.toRat_eq_zero.2 h)
    have small : (m : ℝ) * 2 ^ e < 2 ^ 128 - 2 ^ 103 := by rw [← size]; exact_mod_cast below
    rw [form ne]
    refine ⟨(roundFin fp32 .rne s m e false).fl, Fmt.nearest_of_real ?_⟩
    rw [FV.toRat_fin]
    exact (((Carries.exact fp32 e ne).fp32_rne s).1 small).1
  · intro above
    have ne : m ≠ 0 := by
      intro h
      rw [FV.toRat_eq_zero.2 h] at above
      norm_num at above
    have large : 2 ^ 128 - 2 ^ 103 ≤ (m : ℝ) * 2 ^ e := by rw [← size]; exact_mod_cast above
    rw [form ne, ((Carries.exact fp32 e ne).fp32_rne s).2 large]
    simp only [FV.toRat_neg_iff ne]
    cases s <;> rfl

/-- Settles O17: each part is one rounding of a number that a mantissa, its exponent and a sticky bit carry. -/
theorem roundingIsNearest : Obligations.RoundingIsNearest := by
  refine ⟨fun f binary s m e ne => roundFin_nearest binary s m e ne, fun a b ha hb => ?_, fun a ha => ?_, fun a ps _ => ?_⟩
  · exact ⟨fDiv_nearest ha hb, fun zero => (fDiv_zero ha hb zero).1, fun zero => (fDiv_zero ha hb zero).2⟩
  · refine ⟨fSqrt_negative ha, fun nonneg => ?_⟩
    obtain ⟨finite, exact, near⟩ := fSqrt_nearest ha nonneg
    exact ⟨finite, by rw [exact, abs_eq_zero, sub_eq_zero], fun c hc => (near c hc).1⟩
  · refine ⟨groupAdd_nan, fun acc fin => groupAdd_nearest acc (fun p mem => ?_) _ rfl⟩
    obtain ⟨s, m, e, t, n, k, rfl⟩ := fin p mem
    exact ⟨⟨s, m, e, rfl⟩, ⟨t, n, k, rfl⟩⟩

end Sys2Proof.Machine
end

section
/-! Proofs about exact cells (03 R80 to R82, 08 R196). -/

namespace Sys2Proof.Machine

/-! ### Adding to a cell (R81) -/

/-- The flag bits and the count of a cell. -/
theorem cell_parts (flags : BitVec 8) (count : BitVec 504) :
    (flags ++ count : BitVec 512).extractLsb' 0 504 = count ∧ (flags ++ count : BitVec 512).extractLsb' 504 8 = flags :=
  ⟨BitVec.extractLsb'_append_eq_right, BitVec.extractLsb'_append_eq_left⟩

/-- The integer count that an operand adds. -/
def cellCount (x : Nat) : Int :=
  match unpack fp32 x with
  | .fin s m e => if s then -(m * 2 ^ (e + 160).toNat : Int) else m * 2 ^ (e + 160).toNat
  | _ => 0

theorem cellAdd_fin {c : BitVec 512} {x m : Nat} {s : Bool} {e : Int} (h : unpack fp32 x = .fin s m e) :
    cellAdd c x =
      (if (c.extractLsb' 0 504).toInt + cellCount x < -2 ^ 503 ∨ 2 ^ 503 ≤ (c.extractLsb' 0 504).toInt + cellCount x
        then c.extractLsb' 504 8 ||| 8#8 else c.extractLsb' 504 8)
      ++ BitVec.ofInt 504 ((c.extractLsb' 0 504).toInt + cellCount x) := by
  unfold cellAdd cellCount
  rw [h]
  cases s <;> simp only [Bool.false_eq_true, if_true, if_false, Bool.or_eq_true, decide_eq_true_eq, ← sub_eq_add_neg]

theorem cellCount_toRat {x m : Nat} {s : Bool} {e : Int} (h : unpack fp32 x = .fin s m e) :
    (cellCount x : ℚ) = (unpack fp32 x).toRat * 2 ^ 160 := by
  have low : -149 ≤ e := (unpack_fin_bounds h).2
  have place : (2 : ℚ) ^ (e + 160).toNat = 2 ^ e * 2 ^ 160 := by
    rw [← zpow_natCast, Int.toNat_of_nonneg (by omega), zpow_add₀ two_ne_zero]; rfl
  unfold cellCount
  rw [h]
  cases s <;> simp only [FV.toRat, Bool.false_eq_true, if_true, if_false] <;> push_cast <;> rw [place] <;> ring

theorem toInt_ofInt_wraps (t : Int) (n : Nat) : ∃ k : Int, ((BitVec.ofInt n t).toInt : ℚ) = t + k * 2 ^ n := by
  have parts := congrArg (Int.cast (R := ℚ)) (Int.bmod_add_bdiv t (2 ^ n))
  rw [BitVec.toInt_ofInt]
  push_cast at parts
  exact ⟨-t.bdiv (2 ^ n), by push_cast; linarith⟩

theorem cellAdd_exact {c : BitVec 512} {x m : Nat} {s : Bool} {e : Int} (h : unpack fp32 x = .fin s m e) (z : ℚ)
    (total : z = ((c.extractLsb' 0 504).toInt : ℚ) + (unpack fp32 x).toRat * 2 ^ 160) :
    (-2 ^ 503 ≤ z → z < 2 ^ 503 → (((cellAdd c x).extractLsb' 0 504).toInt : ℚ) = z ∧
      (cellAdd c x).extractLsb' 504 8 = c.extractLsb' 504 8) ∧
    (z < -2 ^ 503 ∨ 2 ^ 503 ≤ z → (cellAdd c x).extractLsb' 504 8 = c.extractLsb' 504 8 ||| 8 ∧
      ∃ k : Int, (((cellAdd c x).extractLsb' 0 504).toInt : ℚ) = z + k * 2 ^ 504) := by
  rw [← cellCount_toRat h, ← Int.cast_add] at total
  rw [cellAdd_fin h, (cell_parts _ _).1, (cell_parts _ _).2, total]
  generalize (c.extractLsb' 0 504).toInt + cellCount x = t
  have lo : ((-2 ^ 503 : Int) : ℚ) = -2 ^ 503 := by rw [Int.cast_neg, Int.cast_pow, Int.cast_ofNat]
  have hi : ((2 ^ 503 : Int) : ℚ) = 2 ^ 503 := by rw [Int.cast_pow, Int.cast_ofNat]
  rw [← lo, ← hi, Int.cast_le, Int.cast_lt, Int.cast_lt, Int.cast_le]
  constructor
  · intro low high
    have half : 504 - 1 = 503 := rfl
    have whole : (BitVec.ofInt 504 t).toInt = t :=
      BitVec.toInt_ofInt_eq_self (by decide) (by rw [half]; exact low) (by rw [half]; exact high)
    rw [if_neg (not_or.2 ⟨not_lt.2 low, not_le.2 high⟩), whole]
    exact ⟨rfl, rfl⟩
  · intro beyond
    rw [if_pos beyond]
    exact ⟨rfl, toInt_ofInt_wraps t 504⟩

/-- A set bit above the count leaves the count. -/
theorem or_twoPow_count (c : BitVec 512) {k : Nat} (high : 504 ≤ k) :
    (c ||| BitVec.twoPow 512 k).extractLsb' 0 504 = c.extractLsb' 0 504 := by
  ext i hi
  have off : k ≠ i := by omega
  simp [BitVec.getElem_extractLsb', BitVec.getLsbD_twoPow, off]

theorem or_twoPow_bit (c : BitVec 512) {k : Nat} (low : k < 512) (q : Nat) :
    (c ||| BitVec.twoPow 512 k).getLsbD q = (c.getLsbD q || q == k) := by
  simp [BitVec.getLsbD_twoPow, low, beq_eq_decide, eq_comm (a := k)]

/-- Every operand adds its count modulo 2^504. -/
theorem cellAdd_count (c : BitVec 512) (x : Nat) :
    (cellAdd c x).extractLsb' 0 504 = c.extractLsb' 0 504 + BitVec.ofInt 504 (cellCount x) := by
  cases h : unpack fp32 x with
  | fin s m e => rw [cellAdd_fin h, (cell_parts _ _).1, BitVec.ofInt_add, BitVec.ofInt_toInt]
  | nan g =>
    unfold cellAdd cellCount
    rw [h]
    simp only [or_twoPow_count c (le_refl 504)]
    simp
  | inf s =>
    unfold cellAdd cellCount
    rw [h]
    simp only [or_twoPow_count c (show 504 ≤ (if s = true then 506 else 505) by split <;> decide)]
    simp

/-! ### Reading a cell (R82) -/

theorem cellRead_nan {c : BitVec 512}
    (nan : c.getLsbD 504 = true ∨ (c.getLsbD 505 = true ∧ c.getLsbD 506 = true) ∨ c.getLsbD 507 = true) :
    cellRead c = ⟨0x7FC00000, fNV⟩ := by
  unfold cellRead
  rcases nan with nan | ⟨plus, minus⟩ | beyond
  · simp only [nan, Bool.true_or, if_true]; rfl
  · simp only [plus, minus, Bool.and_self, Bool.or_true, if_true]; rfl
  · simp only [beyond, if_true]
    split <;> rfl

section
variable {c : BitVec 512}
  (num : ¬(c.getLsbD 504 = true ∨ (c.getLsbD 505 = true ∧ c.getLsbD 506 = true) ∨ c.getLsbD 507 = true))
include num

theorem cellRead_num : cellRead c = if c.getLsbD 505 then ⟨packInf fp32 false, 0⟩
    else if c.getLsbD 506 then ⟨packInf fp32 true, 0⟩
    else if (c.extractLsb' 0 504).toInt = 0 then ⟨0, 0⟩
    else roundFin fp32 .rne (decide ((c.extractLsb' 0 504).toInt < 0)) (c.extractLsb' 0 504).toInt.natAbs (-160) false := by
  obtain ⟨nan, both, within⟩ : c.getLsbD 504 = false ∧ (c.getLsbD 505 && c.getLsbD 506) = false ∧ c.getLsbD 507 = false := by
    simpa [not_or] using num
  unfold cellRead
  simp only [nan, both, within, Bool.or_self, Bool.false_eq_true, if_false]

theorem cellRead_rounds (plus : c.getLsbD 505 = false) (minus : c.getLsbD 506 = false) (z : ℚ)
    (value : z = ((c.extractLsb' 0 504).toInt : ℚ) / 2 ^ 160) :
    (z = 0 → cellRead c = ⟨0, 0⟩) ∧
    (z ≠ 0 → |z| < 2 ^ 128 - 2 ^ 103 → fp32.nearest (cellRead c) z ∧ (cellRead c).fl &&& fOF = 0 ∧
      (unpack fp32 (cellRead c).val).sign = decide (z < 0)) ∧
    (2 ^ 128 - 2 ^ 103 ≤ |z| → cellRead c = ⟨if z < 0 then 0xFF800000 else 0x7F800000, fOF ||| fNX⟩) := by
  rw [cellRead_num num, plus, minus, if_neg Bool.false_ne_true, if_neg Bool.false_ne_true]
  generalize (c.extractLsb' 0 504).toInt = v at *
  have unit : (0 : ℚ) < 2 ^ 160 := by positivity
  have zero : z = 0 ↔ v = 0 := by rw [value, div_eq_zero_iff, or_iff_left unit.ne', Int.cast_eq_zero]
  have neg : z < 0 ↔ v < 0 := by rw [value, div_lt_iff₀ unit, zero_mul, Int.cast_lt_zero]
  have size : ((|z| : ℚ) : ℝ) = v.natAbs * 2 ^ (-160 : Int) := by
    have place : (2 : ℝ) ^ (-160 : Int) = (2 ^ 160)⁻¹ := zpow_neg 2 160
    rw [value, abs_div, abs_of_pos unit, place, Nat.cast_natAbs, ← div_eq_mul_inv]
    push_cast
    rfl
  have whole : (z : ℝ) = signed (decide (v < 0)) * (v.natAbs * 2 ^ (-160 : Int)) := by
    rw [← size]
    by_cases minus : v < 0
    · simp [minus, abs_of_neg (neg.2 minus)]
    · simp [minus, abs_of_nonneg (not_lt.1 (mt neg.1 minus))]
  refine ⟨fun h => if_pos (zero.1 h), fun some below => ?_, fun above => ?_⟩
  · have ne : v ≠ 0 := fun h => some (zero.2 h)
    have small : (v.natAbs : ℝ) * 2 ^ (-160 : Int) < 2 ^ 128 - 2 ^ 103 := by rw [← size]; exact_mod_cast below
    obtain ⟨near, fits, sign⟩ := ((Carries.exact fp32 (-160) (Int.natAbs_ne_zero.2 ne)).fp32_rne (decide (v < 0))).1 small
    rw [if_neg ne]
    exact ⟨Fmt.nearest_of_real (whole ▸ near), fits, by rw [sign]; exact decide_eq_decide.2 neg.symm⟩
  · have large : 2 ^ 128 - 2 ^ 103 ≤ (v.natAbs : ℝ) * 2 ^ (-160 : Int) := by rw [← size]; exact_mod_cast above
    have ne : v ≠ 0 := by
      rintro rfl
      norm_num at large
    rw [if_neg ne, ((Carries.exact fp32 (-160) (Int.natAbs_ne_zero.2 ne)).fp32_rne (decide (v < 0))).2 large]
    simp only [neg]
    by_cases minus : v < 0 <;> simp only [minus, decide_true, decide_false, if_true, if_false] <;> rfl

end

/-! ### A reply of a die in warm reset (11 R263) -/

/-- An access that meets such a die completes without a value, and its wale awaits the reply. -/
theorem sendHomeOff_awaits (x : Ctx) (e : SAcc) (r : List SAcc) (scalar : Bool) :
    ∃ u, RanOn x false {} u ∧
      Changed u x.st.w (x.awaiting (x.replyOf (e :: r) scalar e.a)) (x.sendHomeOff (e :: r) scalar) := by
  have ran := ran_finish x false {}
  obtain ⟨w, wale, core, -⟩ := ran.wale
  refine ⟨_, ran, w, wale, ?_, fun j other => Sparse.find?_upd_ne _ _ other, rfl⟩
  refine (Sparse.find?_upd_self _ _ _).trans ?_
  rw [show Sparse.find? (x.finish false {}).wales x.st.w = some w from wale, Option.map_some]
  unfold Ctx.awaiting
  congr 3
  by_cases plain : x.la = 0
  · simp [plain, Ctx.replyOf]
  · simp [plain, core.shadows, Ctx.replyOf]

/-! ### `xrd` -/

theorem xrdRes_eq (d : Opnd) (x : Ctx) (ps : List SAcc) :
    let vs := ps.map fun e => natLE ((x.s.ownView x.st.w x.st.wl x.die).placeRead e.p)
    let cell (j : Fin 32) : BitVec 512 := BitVec.ofNat 512 (valueAt ps vs j)
    xrdRes d x (x.loadVals ps) = ⟨x.dataWrites d 2 fun j => (cellRead (cell j)).val,
      ps.foldl (fun f e => f ||| (cellRead (cell e.i)).fl) 0, []⟩ := by
  simp only [xrdRes, Ctx.loadVals, valueAt, List.zip_map', List.foldl_map]

/-- An `xrd` whose places are found. -/
theorem exec_xrd_placed {s : State} {x : Ctx} {o : MOps} {A : Access} {ps : List SAcc} (issues : ready (.xrd o) s = some x)
    (access : accessOf x (.xrd o) = some A) (placed : A.placed x = .ok ps) :
    let y := x.notePlaces ps false
    let z := y.touchPlaces ps (levelOf o.cp.toNat o.ord.toNat o.scope.toNat) .read
    (y.underOwn ps = true → exec (.xrd o) s = .next y.drainWait) ∧
    (y.underOwn ps = false → ∀ e r, y.homeOffStrands ps = e :: r →
      exec (.xrd o) s = .next (if y.core.hoff.isSome then y.hold (.wait false) else y.sendHomeOff (e :: r) A.scalar)) ∧
    (y.underOwn ps = false → y.homeOffStrands ps = [] →
      exec (.xrd o) s = .next (z.finish false (xrdRes o.d z (z.loadVals ps)))) := by
  obtain rfl : (⟨.glob, x.sites (!o.d.isV) (x.mAddr .glob o), 64, 64, .r, true, !o.d.isV, 0⟩ : Access) = A :=
    Option.some.inj access
  have found : x.cellAcc (x.mAddr .glob o) (!o.d.isV) .r = .ok ps := placed
  have run : exec (.xrd o) s = execXrd o s := rfl
  rw [run, execXrd, issueWith_ready issues]
  simp only [found]
  refine ⟨fun own => by rw [if_pos own], fun free e r off => ?_, fun free off => ?_⟩
  · simp only [free, off, Bool.false_eq_true, if_false]
  · simp only [free, off, Bool.false_eq_true, if_false]
    rfl

/-- Settles O31: `xrd` by where its cells lie, and the counts of cells as integers. -/
theorem exactCells : Obligations.ExactCells := by
  refine ⟨fun s x o A ps issues access placed => ?_, fun c => ?_, fun c x m neg e _ form => cellAdd_exact form _ rfl,
    fun c x q form => ?_, fun c x q form => ?_, fun c x q b form => ?_, fun c a b => ?_⟩
  · obtain ⟨own, away, here⟩ := exec_xrd_placed issues access placed
    refine ⟨fun under => ⟨_, own under, drains_drainWait _⟩, fun e r free off due => ?_, fun e r free off clear => ?_,
      fun free off => ⟨_, here free off, ?_⟩⟩
    · refine ⟨_, away free e r off, ?_⟩
      rw [if_pos (Option.isSome_iff_ne_none.2 due)]
      exact waits_hold _ _
    · obtain ⟨u, ran, reply⟩ := sendHomeOff_awaits (x.notePlaces ps false) e r A.scalar
      refine ⟨u, _, away free e r off, ran, ?_⟩
      rw [clear]
      exact reply
    · rw [xrdRes_eq]
      exact ran_finish _ _ _
  · refine ⟨cellRead_nan, fun num plus => ?_, fun num minus => ?_, fun num plus minus => cellRead_rounds num plus minus _ rfl⟩
    · rw [cellRead_num num, plus]; rfl
    · have plus : c.getLsbD 505 = false := Bool.eq_false_iff.2 fun plus => num (.inr (.inl ⟨plus, minus⟩))
      rw [cellRead_num num, plus, minus]; rfl
  · unfold cellAdd
    rw [form]
    exact or_twoPow_bit c (by decide) q
  · unfold cellAdd
    rw [form]
    exact or_twoPow_bit c (by decide) q
  · unfold cellAdd
    rw [form]
    exact or_twoPow_bit c (by decide) q
  · simp only [cellAdd_count]
    exact add_right_comm _ _ _

end Sys2Proof.Machine
end

section
/-! Proofs about masks and exact integers as words: what the values of the integer group are made of (00 R7, 05 R112). -/

namespace Sys2Proof

/-! ### The bits of a mask -/

theorem getLsbD_foldl_twoPow (f : Fin 32 → Bool) (l : List (Fin 32)) (m : Mask) (i : Fin 32) :
    (l.foldl (fun m j => if f j then m ||| BitVec.twoPow 32 j.val else m) m).getLsbD i.val =
      (m.getLsbD i.val || (decide (i ∈ l) && f i)) := by
  induction l generalizing m with
  | nil => simp
  | cons j l ih =>
    rw [List.foldl_cons, ih]
    by_cases same : i = j
    · subst same
      cases f i <;> simp
    · have apart : ¬ i.val = j.val := fun e => same (Fin.ext e)
      cases f j <;> simp [apart, same]
theorem getLsbD_maskOf (f : Fin 32 → Bool) (i : Fin 32) : (maskOf f).getLsbD i.val = f i := by
  rw [maskOf, getLsbD_foldl_twoPow]
  simp
theorem eq_of_strands {m k : Mask} (h : ∀ i : Fin 32, m.getLsbD i.val = k.getLsbD i.val) : m = k :=
  BitVec.eq_of_getLsbD_eq fun i low => h ⟨i, low⟩
theorem eq_maskOf {m : Mask} {f : Fin 32 → Bool} (h : ∀ i : Fin 32, m.getLsbD i.val = f i) : m = maskOf f :=
  eq_of_strands fun i => (h i).trans (getLsbD_maskOf f i).symm
theorem mask_ne_zero_iff {m : Mask} : m ≠ 0 ↔ ∃ i : Fin 32, m.getLsbD i.val = true := by
  constructor
  · intro some
    by_contra none
    exact some (eq_of_strands fun i => by simpa using fun on => none ⟨i, on⟩)
  · rintro ⟨i, on⟩ rfl
    simp at on

/-! ### The strands of a mask -/

@[simp] theorem Mask.mem_strands {m : Mask} {i : Fin 32} : i ∈ m.strands ↔ m.getLsbD i.val = true := by
  simp [Mask.strands]
theorem Mask.strands_pairwise (m : Mask) : m.strands.Pairwise (· < ·) :=
  (List.pairwise_lt_finRange 32).filter _
theorem Mask.lowest_eq_none_iff {m : Mask} : m.lowest = none ↔ ∀ i : Fin 32, m.getLsbD i.val = false := by
  simp [Mask.lowest, Mask.strands]
theorem Mask.lowest_eq_some_iff {m : Mask} {i : Fin 32} :
    m.lowest = some i ↔ m.getLsbD i.val = true ∧ ∀ j : Fin 32, m.getLsbD j.val = true → i ≤ j := by
  have sorted := m.strands_pairwise
  have mem (j : Fin 32) := Mask.mem_strands (m := m) (i := j)
  unfold Mask.lowest
  generalize m.strands = l at sorted mem
  cases l with
  | nil => simp_all
  | cons k l =>
    simp only [List.head?_cons, Option.some.injEq]
    rw [List.pairwise_cons] at sorted
    constructor
    · rintro rfl
      refine ⟨(mem k).1 (.head l), fun j on => ?_⟩
      obtain rfl | later := List.mem_cons.1 ((mem j).2 on)
      · exact le_refl j
      · exact (sorted.1 j later).le
    · rintro ⟨on, least⟩
      obtain same | later := List.mem_cons.1 ((mem i).2 on)
      · exact same.symm
      · exact absurd (sorted.1 i later) (not_lt.2 (least k ((mem k).1 (.head l))))

end Sys2Proof

namespace Sys2Proof.Machine

/-! ### Words of exact integers -/

namespace Rule

theorem word_add (y z : Int) : word (y + z) = word y + word z := BitVec.ofInt_add y z
theorem word_neg (z : Int) : word (-z) = -word z := BitVec.ofInt_neg
theorem word_sub (y z : Int) : word (y - z) = word y - word z := by
  rw [sub_eq_add_neg, word_add, word_neg, BitVec.sub_eq_add_neg]
theorem word_mul (y z : Int) : word (y * z) = word y * word z := BitVec.ofInt_mul y z
theorem word_natCast (n : Nat) : word n = BitVec.ofNat 32 n := BitVec.ofInt_natCast 32 n
@[simp] theorem word_toNat (a : Word) : word a.toNat = a := by simp [word_natCast]
@[simp] theorem word_toInt (a : Word) : word a.toInt = a := BitVec.ofInt_toInt
@[simp] theorem word_num (u : Bool) (a : Word) : word (num u a) = a := by cases u <;> simp [num]
theorem num_inj {u : Bool} {a b : Word} : num u a = num u b ↔ a = b :=
  ⟨fun h => by rw [← word_num u a, h, word_num], congrArg _⟩

end Rule

end Sys2Proof.Machine
end

section
/-! Proofs about the integer, logic and move instructions (05 R114 to R117, R119 to R121, R123 to R125). -/

namespace Sys2Proof.Machine

open Rule

/-! ### Arithmetic (R114 to R117) -/

theorem val_add (a b : Word) : val (a + b) = Rule.add a b := by
  simp only [Rule.add, word_add, word_toNat]
theorem val_sub (a b : Word) : val (a - b) = Rule.sub a b := by
  simp only [Rule.sub, word_sub, word_toNat]
theorem val_mul (a b : Word) : val (a * b) = Rule.mul a b := by
  simp only [Rule.mul, word_mul, word_toNat]
theorem mulAdd_eq_word (a b c : Word) : a * b + c = word (a.toNat * b.toNat + c.toNat) := by
  simp only [word_add, word_mul, word_toNat]
theorem val_mulHigh (u : Bool) (a b : Word) : val (mulHigh u a b) = mulHi u a b := by
  rw [mulHi, Int.fdiv_eq_ediv_of_nonneg _ (by decide)]
  rfl

theorem satWord_eq_clamp (u : Bool) (z : Int) : satWord u z = clamp u z := by
  have inside {lo hi : Int} (le : lo ≤ hi) : (if z < lo then (⟨word lo, fSAT⟩ : FRes Word)
      else if hi < z then ⟨word hi, fSAT⟩ else ⟨word z, 0⟩) =
      ⟨word (max lo (min hi z)), if z < lo ∨ hi < z then fSAT else 0⟩ := by
    by_cases below : z < lo
    · simp [below, min_eq_right (below.le.trans le), max_eq_left below.le]
    · by_cases above : hi < z
      · simp [below, above, min_eq_left above.le, max_eq_right le]
      · simp [below, above, min_eq_right (not_lt.1 above), max_eq_right (not_lt.1 below)]
  cases u with
  | false => exact inside (lo := -2147483648) (hi := 2147483647) (by decide)
  | true => exact inside (lo := 0) (hi := 4294967295) (by decide)

theorem divWord_eq_rule (u : Bool) (a b : Word) : divWord u a b = quot u a b := by
  simp only [divWord, quot, Bool.and_eq_true, Bool.not_eq_true', beq_iff_eq, and_assoc]
  rfl
theorem remWord_eq_rule (u : Bool) (a b : Word) : remWord u a b = rest u a b := by
  simp only [remWord, rest, Bool.and_eq_true, Bool.not_eq_true', beq_iff_eq, and_assoc, Int.tmod_def, mul_comm]
  rfl

theorem ltWord_iff {u : Bool} {a b : Word} : ltWord u a b = true ↔ num u a < num u b := decide_eq_true_iff
theorem minWord_eq_rule (u : Bool) (a b : Word) : minWord u a b = word (min (num u a) (num u b)) := by
  unfold minWord
  split
  · rw [min_eq_right (ltWord_iff.1 ‹_›).le, word_num]
  · rw [min_eq_left (not_lt.1 (mt ltWord_iff.2 ‹_›)), word_num]
theorem maxWord_eq_rule (u : Bool) (a b : Word) : maxWord u a b = word (max (num u a) (num u b)) := by
  unfold maxWord
  split
  · rw [max_eq_right (ltWord_iff.1 ‹_›).le, word_num]
  · rw [max_eq_left (not_lt.1 (mt ltWord_iff.2 ‹_›)), word_num]

theorem word_natAbs (a : Word) : word a.toInt.natAbs = if a.toInt < 0 then -a else a := by
  split
  · rw [Int.ofNat_natAbs_of_nonpos (le_of_lt ‹_›), word_neg, word_toInt]
  · rw [Int.natAbs_of_nonneg (not_lt.1 ‹_›), word_toInt]
theorem absWord_eq_rule (sat : Bool) (a : Word) :
    absWord sat a = if sat = true ∧ a = 0x80000000 then ⟨0x7FFFFFFF, fSAT⟩ else val (word a.toInt.natAbs) := by
  unfold absWord
  by_cases most : a = 0x80000000
  · subst most
    cases sat <;> rfl
  · rw [if_neg most, if_neg (not_and_of_not_right _ most), word_natAbs]
    rfl

/-! ### Logic and shifts (R119) -/

theorem shiftLeft_eq_word (a : Word) (n : Nat) : a <<< n = word (a.toNat * 2 ^ n : Nat) :=
  BitVec.eq_of_toNat_eq (by rw [word_natCast]; simp [Nat.shiftLeft_eq])
theorem ushiftRight_eq_word (a : Word) (n : Nat) : a >>> n = word (a.toNat / 2 ^ n : Nat) := by
  rw [← word_toNat (a >>> n), BitVec.toNat_ushiftRight, Nat.shiftRight_eq_div_pow]
theorem val_shlWord (a b : Word) : val (shlWord a b) = shiftL a b := by
  simp only [shlWord, shiftL, shiftLeft_eq_word]
  push_cast
  rfl
theorem val_shrWord (a b : Word) : val (shrWord a b) = shiftR a b := by
  simp only [shrWord, shiftR, ushiftRight_eq_word]
theorem sshiftRight_eq_word (a : Word) (n : Nat) : a.sshiftRight n = word (Int.fdiv a.toInt (2 ^ n)) := by
  rw [← word_toInt (a.sshiftRight n), BitVec.toInt_sshiftRight, Int.shiftRight_eq_div_pow,
    Int.fdiv_eq_ediv_of_nonneg _ (by positivity)]
  push_cast
  rfl
theorem sshiftRight_31 (a : Word) : a.sshiftRight 31 = if a.getLsbD 31 then BitVec.allOnes 32 else 0 := by
  have sign : a.msb = a.getLsbD 31 := rfl
  refine BitVec.eq_of_getLsbD_eq fun i low => ?_
  have top : (if 31 + i < 32 then a.getLsbD (31 + i) else a.msb) = a.getLsbD 31 := by
    split
    · rw [show i = 0 by omega]
    · exact sign
  rw [BitVec.getLsbD_sshiftRight, top]
  cases a.getLsbD 31
  · simp
  · simp only [if_true, BitVec.getLsbD_allOnes]
    simp [low]
theorem val_sarWord (a b : Word) : val (sarWord a b) = shiftA a b := by
  unfold sarWord shiftA
  by_cases inside : b.toNat < 32
  · rw [if_pos inside, min_eq_left (by omega), sshiftRight_eq_word]
  · rw [if_neg inside, min_eq_right (by omega), sshiftRight_31]
    rfl
theorem val_rotlWord (a b : Word) : val (rotlWord a b) = rotate a b := by
  have low : b.toNat % 32 < 32 := Nat.mod_lt _ (by decide)
  unfold rotlWord rotate
  generalize b.toNat % 32 = n at low
  have carried : a.toNat / 2 ^ (32 - n) < 2 ^ n := by
    rw [Nat.div_lt_iff_lt_mul (by positivity), ← pow_add, Nat.add_sub_cancel' low.le]
    exact a.isLt
  rw [BitVec.rotateLeft_def, Nat.mod_eq_of_lt low, shiftLeft_eq_word, ushiftRight_eq_word, word_natCast, word_natCast,
    ← BitVec.ofNat_or, ← Nat.shiftLeft_eq, ← Nat.shiftLeft_add_eq_or_of_lt carried, ← word_natCast,
    Nat.shiftLeft_eq]
theorem and_eq_maskOf (a b : Word) : a &&& b = maskOf fun i => a.getLsbD i.val && b.getLsbD i.val :=
  eq_maskOf fun _ => BitVec.getLsbD_and
theorem or_eq_maskOf (a b : Word) : a ||| b = maskOf fun i => a.getLsbD i.val || b.getLsbD i.val :=
  eq_maskOf fun _ => BitVec.getLsbD_or
theorem xor_eq_maskOf (a b : Word) : a ^^^ b = maskOf fun i => a.getLsbD i.val != b.getLsbD i.val :=
  eq_maskOf fun _ => BitVec.getLsbD_xor
theorem not_eq_maskOf (a : Word) : ~~~a = maskOf fun i => !a.getLsbD i.val :=
  eq_maskOf fun i => by simp
theorem andNot_eq_maskOf (a b : Word) : a &&& ~~~b = maskOf fun i => a.getLsbD i.val && !b.getLsbD i.val :=
  eq_maskOf fun i => by simp

/-! ### Bit fields and counts (R120, R121) -/

theorem toInt_extractLsb' (a : Word) (pos : Nat) {l : Nat} (some : l ≠ 0) :
    (a.extractLsb' pos l).toInt =
      if 2 ^ (l - 1) ≤ a.toNat / 2 ^ pos % 2 ^ l then (a.toNat / 2 ^ pos % 2 ^ l : Nat) - (2 : Int) ^ l
      else (a.toNat / 2 ^ pos % 2 ^ l : Nat) := by
  have twice : 2 ^ l = 2 * 2 ^ (l - 1) := by rw [← pow_succ', Nat.sub_add_cancel (Nat.one_le_iff_ne_zero.2 some)]
  have value : (a.extractLsb' pos l).toNat = a.toNat / 2 ^ pos % 2 ^ l := by
    rw [BitVec.extractLsb'_toNat, Nat.shiftRight_eq_div_pow]
  rw [BitVec.toInt_eq_toNat_cond, value]
  generalize a.toNat / 2 ^ pos % 2 ^ l = v
  by_cases high : 2 ^ (l - 1) ≤ v
  · rw [if_neg (by omega), if_pos high]
    push_cast
    rfl
  · rw [if_pos (by omega), if_neg high]
theorem bfeWord_eq_rule (sg : Bool) (a f : Word) : bfeWord sg a f = extract sg a f := by
  have pos : fld f 7 0 = f.toNat % 256 := toNat_fld_low f 7
  have len : fld f 15 8 = f.toNat / 256 % 256 := by simp [fld, Nat.shiftRight_eq_div_pow]
  unfold bfeWord extract
  simp only [pos, len]
  generalize f.toNat % 256 = p
  generalize f.toNat / 256 % 256 = n
  split
  · rfl
  · rename_i inside
    have some : min n (32 - p) ≠ 0 := by omega
    generalize min n (32 - p) = l at some
    have field := toInt_extractLsb' a p some
    cases sg with
    | true =>
      simp only [Bool.true_and, decide_eq_true_eq, if_true, BitVec.signExtend, field]
      split
      · rfl
      · exact (word_natCast _).symm
    | false => exact BitVec.eq_of_toNat_eq (by simp [Nat.shiftRight_eq_div_pow])

/-- The mask of `n` bits from `pos` on. -/
theorem getLsbD_ofNat_ones (n pos : Nat) (i : Fin 32) :
    (BitVec.ofNat 32 ((2 ^ n - 1) * 2 ^ pos)).getLsbD i.val = decide (pos ≤ i.val ∧ i.val < pos + n) := by
  have shifted : pos ≤ i.val ∧ i.val - pos < n ↔ pos ≤ i.val ∧ i.val < pos + n := by omega
  simp only [BitVec.getLsbD_ofNat, i.isLt, decide_true, Bool.true_and, Nat.testBit_mul_two_pow, Nat.testBit_two_pow_sub_one,
    ← Bool.decide_and, decide_eq_decide.2 shifted]
theorem bfiWord_eq_rule (a b f : Word) : bfiWord a b f = Rule.insert a b f := by
  have pos : fld f 7 0 = f.toNat % 256 := toNat_fld_low f 7
  have len : fld f 15 8 = f.toNat / 256 % 256 := by simp [fld, Nat.shiftRight_eq_div_pow]
  unfold bfiWord Rule.insert
  simp only [pos, len]
  generalize f.toNat % 256 = p
  generalize f.toNat / 256 % 256 = n
  split
  · rfl
  · refine eq_maskOf fun i => ?_
    have field : p ≤ i.val ∧ i.val < p + min n (32 - p) ↔ p ≤ i.val ∧ i.val < p + n := by omega
    simp only [BitVec.getLsbD_or, BitVec.getLsbD_and, BitVec.getLsbD_not, BitVec.getLsbD_shiftLeft, getLsbD_ofNat_ones,
      decide_eq_decide.2 field, i.isLt, decide_true, Bool.true_and]
    by_cases within : p ≤ i.val ∧ i.val < p + n
    · simp [within, not_lt.2 within.1]
    · simp [within]

theorem count_eq_word (a : Word) :
    BitVec.ofNat 32 (Mask.count a) = word (List.countP (fun i : Fin 32 => a.getLsbD i.val) (List.finRange 32)) := by
  rw [word_natCast, List.countP_eq_length_filter]
  rfl
theorem length_takeWhile_range {p : Nat → Bool} {m n : Nat} (le : m ≤ n) (before : ∀ k < m, p k = true)
    (stop : m < n → p m = false) : ((List.range n).takeWhile p).length = m := by
  obtain ⟨k, rfl⟩ := Nat.exists_eq_add_of_le le
  rw [List.range_add, List.takeWhile_append_of_pos (by simpa using before)]
  cases k with
  | zero => simp
  | succ k => simp [List.range_succ_eq_map, stop (by omega)]
theorem bitLen_le (a : Word) : bitLen a.toNat ≤ 32 := by
  by_contra more
  have some : a.toNat ≠ 0 := by
    intro zero
    simp [bitLen, zero] at more
  have big : 2 ^ 32 ≤ a.toNat := (Nat.pow_le_pow_right (by decide) (by omega)).trans (two_pow_bitLen_le some)
  exact absurd a.isLt (not_lt.2 big)
theorem getLsbD_of_bitLen_le {a : Word} {k : Nat} (le : bitLen a.toNat ≤ k) : a.getLsbD k = false :=
  Nat.testBit_lt_two_pow ((lt_two_pow_bitLen a.toNat).trans_le (Nat.pow_le_pow_right (by decide) le))
theorem getLsbD_bitLen_sub_one {a : Word} (some : 0 < bitLen a.toNat) : a.getLsbD (bitLen a.toNat - 1) = true := by
  have ne : a.toNat ≠ 0 := fun zero => by simp [bitLen, zero] at some
  rw [bitLen, if_neg ne]
  exact Nat.testBit_log2 ne
theorem clzWord_eq_rule (a : Word) :
    clzWord a = word ((List.range 32).takeWhile fun k => !a.getLsbD (31 - k)).length := by
  have le := bitLen_le a
  have length : ((List.range 32).takeWhile fun k => !a.getLsbD (31 - k)).length = 32 - bitLen a.toNat := by
    refine length_takeWhile_range (by omega) (fun k low => ?_) fun some => ?_
    · rw [getLsbD_of_bitLen_le (by omega)]
      rfl
    · rw [show 31 - (32 - bitLen a.toNat) = bitLen a.toNat - 1 by omega, getLsbD_bitLen_sub_one (by omega)]
      rfl
  rw [length, word_natCast]
  rfl

/-! ### Byte products (R125) -/

theorem byteInt_eq_rule (u : Bool) (a : Word) (j : Nat) : byteInt u a j = byte u a j := by
  have cut : a.extractLsb' (8 * j) 8 = (a >>> (8 * j)).setWidth 8 := BitVec.eq_of_toNat_eq (by simp)
  simp only [byteInt, byte, cut, BitVec.toNat_setWidth]
  rfl
theorem dotBytes_eq_rule (au bu sat : Bool) (a b c : Word) :
    dotBytes au bu sat a b c = if sat then clamp false (Rule.dot au bu a b c) else val (word (Rule.dot au bu a b c)) := by
  have total : c.toInt + byteInt au a 0 * byteInt bu b 0 + byteInt au a 1 * byteInt bu b 1
      + byteInt au a 2 * byteInt bu b 2 + byteInt au a 3 * byteInt bu b 3 = Rule.dot au bu a b c := by
    simp only [byteInt_eq_rule, Rule.dot, List.range_succ, List.range_zero, List.nil_append, List.cons_append, List.map_cons,
      List.map_nil, List.sum_cons, List.sum_nil]
    ring
  simp only [dotBytes, total, satWord_eq_clamp]
  rfl

/-! ### Results -/

/-- An instruction whose meaning is a 32-bit result completes with it, where its value in each strand is that of the rules. -/
theorem ran_out {i : Instr} {s : State} {x : Ctx} {g : Info} {d : Opnd} {m : Ctx → Fin 32 → FRes Word}
    {r : Fin 32 → FRes Word} (issues : ready i s = some x) (value : ∀ k, m x k = r k)
    (run : exec i s = issueReg i s fun x => x.out d (m x)) (info : infoOf i = some g) (unheld : g.held = false) : ∃ t, exec i s = .next t ∧ RanOn x false (x.wordRes d r) t := by
  rw [run]
  exact issueReg_ok issues info unheld (by rw [funext value]; rfl)

/-- Settles O9: each meaning is one register result, whose value is that of the rules. -/
theorem integerResults : Obligations.IntegerResults := by
  intro i s x d f rule issues
  cases i with
  | iadd o | iaddI o => cases rule; exact ran_out issues (fun _ => val_add _ _) rfl rfl rfl
  | isub o | isubI o => cases rule; exact ran_out issues (fun _ => val_sub _ _) rfl rfl rfl
  | iadds o | iaddsI o | isubs o | isubsI o => cases rule; exact ran_out issues (fun _ => satWord_eq_clamp _ _) rfl rfl rfl
  | imul o | imulI o => cases rule; exact ran_out issues (fun _ => val_mul _ _) rfl rfl rfl
  | imulh o | imulhI o => cases rule; exact ran_out issues (fun _ => val_mulHigh _ _ _) rfl rfl rfl
  | imad o => cases rule; exact ran_out issues (fun _ => congrArg val (mulAdd_eq_word _ _ _)) rfl rfl rfl
  | idiv o | idivI o => cases rule; exact ran_out issues (fun _ => congrArg val (divWord_eq_rule _ _ _)) rfl rfl rfl
  | irem o | iremI o => cases rule; exact ran_out issues (fun _ => congrArg val (remWord_eq_rule _ _ _)) rfl rfl rfl
  | imin o | iminI o => cases rule; exact ran_out issues (fun _ => congrArg val (minWord_eq_rule _ _ _)) rfl rfl rfl
  | imax o | imaxI o => cases rule; exact ran_out issues (fun _ => congrArg val (maxWord_eq_rule _ _ _)) rfl rfl rfl
  | iabs o => cases rule; exact ran_out issues (fun _ => absWord_eq_rule _ _) rfl rfl rfl
  | iand o | iandI o => cases rule; exact ran_out issues (fun _ => congrArg val (and_eq_maskOf _ _)) rfl rfl rfl
  | ior o | iorI o => cases rule; exact ran_out issues (fun _ => congrArg val (or_eq_maskOf _ _)) rfl rfl rfl
  | ixor o | ixorI o => cases rule; exact ran_out issues (fun _ => congrArg val (xor_eq_maskOf _ _)) rfl rfl rfl
  | iandn o | iandnI o => cases rule; exact ran_out issues (fun _ => congrArg val (andNot_eq_maskOf _ _)) rfl rfl rfl
  | inot o => cases rule; exact ran_out issues (fun _ => congrArg val (not_eq_maskOf _)) rfl rfl rfl
  | shl o | shlI o => cases rule; exact ran_out issues (fun _ => val_shlWord _ _) rfl rfl rfl
  | shr o | shrI o => cases rule; exact ran_out issues (fun _ => val_shrWord _ _) rfl rfl rfl
  | sar o | sarI o => cases rule; exact ran_out issues (fun _ => val_sarWord _ _) rfl rfl rfl
  | rotl o | rotlI o => cases rule; exact ran_out issues (fun _ => val_rotlWord _ _) rfl rfl rfl
  | bfe o | bfeI o => cases rule; exact ran_out issues (fun _ => congrArg val (bfeWord_eq_rule _ _ _)) rfl rfl rfl
  | bfi o => cases rule; exact ran_out issues (fun _ => congrArg val (bfiWord_eq_rule _ _ _)) rfl rfl rfl
  | popc o => cases rule; exact ran_out issues (fun _ => congrArg val (count_eq_word _)) rfl rfl rfl
  | clz o => cases rule; exact ran_out issues (fun _ => congrArg val (clzWord_eq_rule _)) rfl rfl rfl
  | brev o => cases rule; exact ran_out issues (fun _ => rfl) rfl rfl rfl
  | sel o => cases rule; exact ran_out issues (fun _ => congrArg val (by cases o.d.isS <;> simp)) rfl rfl rfl
  | idp4 o => cases rule; exact ran_out issues (fun _ => dotBytes_eq_rule _ _ _ _ _ _) rfl rfl rfl
  | mov o | movi o =>
    cases single : o.mod.getLsbD 0
    all_goals simp only [Rule.int, single] at rule; cases rule
    exact ran_out issues (fun _ => rfl) (by simp only [exec, execMov, execMovi, mbit, single]; rfl) rfl rfl
  | _ => cases rule

end Sys2Proof.Machine
end

section
/-! Proofs about the 64-bit pair instructions (05 R115, R118, R124): sums and products modulo 2^64. -/

namespace Sys2Proof.Machine

open Rule

theorem ofInt64_toNat (a : Dword) : BitVec.ofInt 64 a.toNat = a := by rw [BitVec.ofInt_natCast]; simp
theorem ofInt64_sub (y z : Int) : BitVec.ofInt 64 (y - z) = BitVec.ofInt 64 y - BitVec.ofInt 64 z := by
  rw [sub_eq_add_neg, BitVec.ofInt_add, BitVec.ofInt_neg, BitVec.sub_eq_add_neg]
theorem sx64_eq_ofInt (a : Word) : sx64 a = BitVec.ofInt 64 a.toInt := rfl
theorem shiftLeft_eq_mul (a : Dword) (n : Nat) : a <<< n = a * BitVec.ofInt 64 (2 ^ n) := by
  rw [show (2 ^ n : Int) = (2 ^ n : Nat) by push_cast; rfl, BitVec.ofInt_natCast]
  exact BitVec.eq_of_toNat_eq (by simp [Nat.shiftLeft_eq])

theorem add64_eq_ofNat (a b : Dword) : a + b = BitVec.ofNat 64 (a.toNat + b.toNat) := rfl
theorem addImm64_eq_ofInt (a : Dword) (b : Word) : a + sx64 b = BitVec.ofInt 64 (a.toNat + b.toInt) := by
  rw [BitVec.ofInt_add, ofInt64_toNat, sx64_eq_ofInt]
theorem sub64_eq_ofInt (a b : Dword) : a - b = BitVec.ofInt 64 (a.toNat - b.toNat) := by
  simp only [ofInt64_sub, ofInt64_toNat]
theorem subImm64_eq_ofInt (a : Dword) (b : Word) : a - sx64 b = BitVec.ofInt 64 (a.toNat - b.toInt) := by
  rw [ofInt64_sub, ofInt64_toNat, sx64_eq_ofInt]
/-- The index of `lea`, extended as SX says (R118). -/
theorem extended_eq_ofInt (sx : Bool) (b : Word) :
    (if sx then sx64 b else b.setWidth 64) = BitVec.ofInt 64 (num (!sx) b) := by
  cases sx with
  | true => rfl
  | false => exact (BitVec.ofNat_toNat 64 b).symm.trans (BitVec.ofInt_natCast 64 b.toNat).symm
theorem leaSum_eq_ofInt {n : Nat} (sx : Bool) (m : BitVec n) (a : Dword) (b : Word) :
    leaSum sx (fld m 2 0) a b = BitVec.ofInt 64 (a.toNat + num (!sx) b * 2 ^ (m.toNat % 8)) := by
  have shift : fld m 2 0 = m.toNat % 8 := toNat_fld_low m 2
  rw [leaSum, extended_eq_ofInt, shift, shiftLeft_eq_mul, BitVec.ofInt_add, ofInt64_toNat, BitVec.ofInt_mul]
theorem mulWide_eq_ofInt (u : Bool) (a b : Word) (c : Dword) :
    mulWide u a b c = BitVec.ofInt 64 (num u a * num u b + c.toNat) := by
  rw [BitVec.ofInt_add, ofInt64_toNat]
  rfl

/-- An instruction whose meaning is a pair completes with it, where its value in each strand is that of the rules. -/
theorem ran_out64 {i : Instr} {s : State} {x : Ctx} {g : Info} {d : Opnd} {m : Ctx → Fin 32 → Dword} {r : Fin 32 → Dword}
    (issues : ready i s = some x) (value : ∀ k, m x k = r k) (run : exec i s = issueReg i s fun x => x.out64 d (m x))
    (info : infoOf i = some g) (unheld : g.held = false) : ∃ t, exec i s = .next t ∧ RanOn x false (x.pairRes d r) t := by
  rw [run]
  exact issueReg_ok issues info unheld (by rw [funext value]; exact out64_eq_pairRes x d r)

/-- Settles O10: each meaning is one pair, whose value is that of the rules. -/
theorem pairResults : Obligations.PairResults := by
  intro i s x d f rule issues
  cases i with
  | iadd64 o => cases rule; exact ran_out64 issues (fun _ => add64_eq_ofNat _ _) rfl rfl rfl
  | iadd64I o => cases rule; exact ran_out64 issues (fun _ => addImm64_eq_ofInt _ _) rfl rfl rfl
  | isub64 o => cases rule; exact ran_out64 issues (fun _ => sub64_eq_ofInt _ _) rfl rfl rfl
  | isub64I o => cases rule; exact ran_out64 issues (fun _ => subImm64_eq_ofInt _ _) rfl rfl rfl
  | lea o | leaI o => cases rule; exact ran_out64 issues (fun _ => leaSum_eq_ofInt _ _ _ _) rfl rfl rfl
  | imadw o => cases rule; exact ran_out64 issues (fun _ => mulWide_eq_ofInt _ _ _ _) rfl rfl rfl
  | mov o | movi o =>
    cases wide : o.mod.getLsbD 0
    all_goals simp only [Rule.pairs, wide] at rule; cases rule
    exact ran_out64 issues (fun _ => rfl) (by simp only [exec, execMov, execMovi, mbit, wide]; rfl) rfl rfl
  | _ => cases rule

end Sys2Proof.Machine
end

section
/-! Proofs about the instructions with a predicate destination (05 R122, R130, R131, R133, 06 R144). -/

namespace Sys2Proof.Machine

open Rule

/-! ### Results that write the same -/

/-- Two lists of register writes that leave the same registers. -/
structure SameWrites (a b : List RegWrite) : Prop where
  vreg : ∀ n i old, vAfter a n i old = vAfter b n i old
  sreg : ∀ n old, sAfter a n old = sAfter b n old
  preg : ∀ n i old, pAfter a n i old = pAfter b n i old

/-- The bits of strands that a predicate write does not visit may be any. -/
theorem SameWrites.preds {n : Fin 8} {m y z : Mask}
    (h : ∀ i : Fin 32, m.getLsbD i.val = true → y.getLsbD i.val = z.getLsbD i.val) : SameWrites [.p n m y] [.p n m z] where
  vreg _ _ _ := rfl
  sreg _ _ := rfl
  preg _ i _ := if_ctx_congr .rfl (fun visited => h i visited.2) fun _ => rfl

/-- Without a lookahead count a result counts only by the registers that it leaves: no shadow keeps its writes (04 R94). -/
theorem Ran.of_sameWrites {x : Ctx} {r q : Res} {held : Bool} {g : WaleCore} {t : State} (ran : Ran x r held g t) (la : x.la = 0)
    (same : SameWrites r.writes q.writes) (flags : r.flags = q.flags) (effects : r.held = q.held) : Ran x q held g t := by
  obtain ⟨⟨w, here, core, wale⟩, outside⟩ := ran
  have lands : x.landing r = r.writes ++ x.ending.flatMap fun h => h.writes := by rw [Ctx.landing, if_pos la]
  have landsAlso : x.landing q = q.writes ++ x.ending.flatMap fun h => h.writes := by rw [Ctx.landing, if_pos la]
  have raised : x.landingFlags r = x.landingFlags q := by rw [Ctx.landingFlags, Ctx.landingFlags, flags]
  refine ⟨⟨w, here, ⟨fun n i => ?_, fun n => ?_, fun n i => ?_, raised ▸ core.flags, ?_, core.icount, core.wcount,
    core.yleft, core.hoff, core.rest⟩, effects ▸ wale⟩, outside⟩
  · rw [core.vreg, lands, landsAlso, vAfter_append, vAfter_append, same.vreg]
  · rw [core.sreg, lands, landsAlso, sAfter_append, sAfter_append, same.sreg]
  · rw [core.preg, lands, landsAlso, pAfter_append, pAfter_append, same.preg]
  · rw [core.shadows, if_pos la, if_pos la]

/-! ### No lookahead count (04 R91, R93) -/

theorem la_of_ok {h : Hdr} {g : Grd} {v : Bool} (ok : h.ok g v false = true) : h.la = 0 := by
  simp only [Hdr.ok, Bool.false_or, Bool.and_eq_true, beq_iff_eq] at ok
  exact ok.2
theorem la_of_wfR {o : ROps} {g : Grd} {d a b c : Cls} {m : Bool} (wf : wfR o g false d a b c m = true) : o.h.la = 0 := by
  simp only [wfR, Bool.and_eq_true, and_assoc] at wf
  exact la_of_ok wf.1
theorem la_of_wfRx {o : ROps} {g : Grd} {d a b c : Cls} {m : Bool} (wf : wfRx o g false d a b c m = true) : o.h.la = 0 := by
  simp only [wfRx, Bool.and_eq_true, and_assoc] at wf
  exact la_of_ok wf.1
theorem la_of_wfI {o : IOps} {g : Grd} {d a : Cls} {m n : Bool} (wf : wfI o g false d a m n = true) : o.h.la = 0 := by
  simp only [wfI, Bool.and_eq_true, and_assoc] at wf
  exact la_of_ok wf.1
theorem la_of_wfPmov {o : ROps} (wf : (Instr.pmov o).wf = true) : o.h.la = 0 := by
  simp only [Instr.wf, Bool.and_eq_true] at wf
  exact la_of_wfR wf.1
/-- An instruction whose encoding allows no lookahead count issues without one. -/
theorem la_of_ready {i : Instr} {s : State} {x : Ctx} {g : Info} (issues : ready i s = some x) (info : infoOf i = some g)
    (short : i.wf = true → g.h.la = 0) : x.la = 0 := by
  obtain ⟨f, y, facts⟩ := ready_facts issues
  have la := short facts.wf
  obtain rfl : g = f := Option.some.inj (info.symm.trans facts.info)
  rw [facts.head, Ctx.header]
  simp [la]

/-! ### Predicate results -/

/-- A predicate result that agrees with the rules in every visited strand. -/
theorem ran_bits {i : Instr} {s : State} {x : Ctx} {f : Ctx → Except Flt Res} {g : Info} {d : Opnd} {m r : Fin 32 → FRes Bool}
    (issues : ready i s = some x) (short : i.wf = true → g.h.la = 0)
    (value : ∀ k : Fin 32, x.vis.getLsbD k.val = true → m k = r k) (run : exec i s = issueReg i s f)
    (info : infoOf i = some g) (unheld : g.held = false) (form : f x = x.outP d m) :
    ∃ t, exec i s = .next t ∧ RanOn x false (x.bitRes d r) t := by
  have la := la_of_ready issues info short
  have flags : x.flagsOf (fun k => (m k).fl) = x.flagsOf fun k => (r k).fl :=
    List.foldl_ext _ _ _ fun _ k seen => congrArg (fun y : FRes Bool => _ ||| y.fl) (value k (Mask.mem_strands.1 seen))
  obtain ⟨t, runs, ran⟩ := issueReg_ok issues info unheld (form.trans rfl : f x = .ok (x.bitRes d m))
  refine ⟨t, run.trans runs, ?_⟩
  cases d with
  | p n =>
    refine ran.of_sameWrites la (.preds fun k seen => ?_) flags rfl
    rw [getLsbD_maskOf, getLsbD_maskOf, value k seen]
  | _ => exact ran
theorem ran_outP {i : Instr} {s : State} {x : Ctx} {g : Info} {d : Opnd} {m : Ctx → Fin 32 → FRes Bool}
    {r : Fin 32 → FRes Bool} (issues : ready i s = some x) (short : i.wf = true → g.h.la = 0)
    (value : ∀ k : Fin 32, x.vis.getLsbD k.val = true → m x k = r k)
    (run : exec i s = issueReg i s fun x => x.outP d (m x)) (info : infoOf i = some g) (unheld : g.held = false) :
    ∃ t, exec i s = .next t ∧ RanOn x false (x.bitRes d r) t :=
  ran_bits issues short value run info unheld rfl

/-! ### Comparisons (R122, R144) -/

theorem decide_eq_of_num {u : Bool} {a b : Word} : decide (num u a = num u b) = (a == b) := by
  rw [decide_eq_decide.2 num_inj, beq_eq_decide]
theorem not_ltWord (u : Bool) (a b : Word) : (!ltWord u a b) = decide (num u b ≤ num u a) := by
  rw [← decide_eq_decide.2 (not_lt (a := num u a) (b := num u b)), decide_not]
  rfl
theorem cmpWord_eq_cond (cc : Nat) (u : Bool) (a b : Word) : cmpWord cc u a b = Rule.cond cc (num u a) (num u b) := by
  match cc with
  | 0 => exact decide_eq_of_num.symm
  | 1 => exact (by rw [decide_not, decide_eq_of_num]; rfl : decide (num u a ≠ num u b) = (a != b)).symm
  | 2 | 4 => rfl
  | 3 => exact not_ltWord u b a
  | _ + 5 => exact not_ltWord u a b

theorem icmp_eq_cond {n : Nat} (m : BitVec n) (a b : Word) : cmpWord (fld m 2 0) (mbit m 3) a b =
    Rule.cond (m.toNat % 8) (num (m.getLsbD 3) a) (num (m.getLsbD 3) b) := by
  rw [cmpWord_eq_cond, toNat_fld_low]
  rfl

theorem fcmp_eq_fCmp {n : Nat} (m : BitVec n) (a b : Nat) : fCmp fp32 (fld m 2 0) a b = fCmp fp32 (m.toNat % 8) a b :=
  congrArg (fCmp fp32 · a b) (toNat_fld_low m 2)

/-! ### Votes and elections (R130, R131) -/

section
variable (vis : Mask) (a : Fin 32 → Word)

/-- The visited strands whose value is not zero. -/
theorem hits_eq_maskOf : (vis &&& maskOf fun i => a i != 0) = maskOf fun i => vis.getLsbD i.val && decide (a i ≠ 0) :=
  eq_maskOf fun i => by rw [BitVec.getLsbD_and, getLsbD_maskOf, bne, beq_eq_decide, decide_not]
theorem getLsbD_hits (i : Fin 32) :
    (vis &&& maskOf fun i => a i != 0).getLsbD i.val = true ↔ vis.getLsbD i.val = true ∧ a i ≠ 0 := by
  rw [hits_eq_maskOf, getLsbD_maskOf, Bool.and_eq_true, decide_eq_true_eq]
theorem hits_ne_zero_iff : (vis &&& maskOf fun i => a i != 0) ≠ 0 ↔ ∃ j : Fin 32, vis.getLsbD j.val = true ∧ a j ≠ 0 := by
  simp only [mask_ne_zero_iff, getLsbD_hits]
theorem hits_eq_vis_iff : (vis &&& maskOf fun i => a i != 0) = vis ↔ ∀ j : Fin 32, vis.getLsbD j.val = true → a j ≠ 0 := by
  constructor
  · intro all j seen
    rw [← all] at seen
    exact ((getLsbD_hits vis a j).1 seen).2
  · refine fun all => eq_of_strands fun j => Bool.eq_iff_iff.2 ((getLsbD_hits vis a j).trans ?_)
    exact and_iff_left_of_imp (all j)
theorem same_as_lowest_iff : (match vis.lowest with | some j => vis.strands.all fun i => a i == a j | none => true) = true ↔
    ∀ j k : Fin 32, vis.getLsbD j.val = true → vis.getLsbD k.val = true → a j = a k := by
  cases h : vis.lowest with
  | none =>
    refine iff_of_true rfl fun j _ seen => ?_
    rw [Mask.lowest_eq_none_iff.1 h j] at seen
    cases seen
  | some l =>
    have seen := (Mask.lowest_eq_some_iff.1 h).1
    simp only [List.all_eq_true, Mask.mem_strands, beq_iff_eq]
    exact ⟨fun all j k hj hk => (all j hj).trans (all k hk).symm, fun all j hj => all j l hj seen⟩

/-- The value of `vote` by the table of R130. -/
theorem voteVal_eq_rule (mode : Nat) : voteVal mode vis a =
    match mode with
    | 0 => .inl (maskOf fun i => vis.getLsbD i.val && decide (a i ≠ 0))
    | 1 => .inr (decide (∃ j : Fin 32, vis.getLsbD j.val = true ∧ a j ≠ 0))
    | 2 => .inr (decide (∀ j : Fin 32, vis.getLsbD j.val = true → a j ≠ 0))
    | _ => .inr (decide (∀ j k : Fin 32, vis.getLsbD j.val = true → vis.getLsbD k.val = true → a j = a k)) := by
  match mode with
  | 0 => exact congrArg Sum.inl (hits_eq_maskOf vis a)
  | 1 => exact congrArg Sum.inr (Bool.eq_iff_iff.2 (by rw [bne_iff_ne, decide_eq_true_eq, hits_ne_zero_iff]))
  | 2 => exact congrArg Sum.inr (Bool.eq_iff_iff.2 (by rw [beq_iff_eq, decide_eq_true_eq, hits_eq_vis_iff]))
  | _ + 3 => exact congrArg Sum.inr (Bool.eq_iff_iff.2 ((same_as_lowest_iff vis a).trans decide_eq_true_iff.symm))
end

theorem idle_vote_iff {x : Ctx} {o : ROps} : Rule.idle x (.vote o) = true ↔ x.vis = 0 ∧ (o.h.gp ≠ 0 ∨ o.h.gn = true) := by
  simp [Rule.idle]
/-- The result of `vote` where its guard does not leave it idle: for the strands of a p destination, or once. -/
def voteRes (o : ROps) (x : Ctx) : Except Flt Res :=
  match voteVal (fld o.mod 1 0) x.vis (x.src o.a) with
  | .inl m => if o.d.isS then x.out o.d fun _ => .pure m else x.outP o.d fun i => .pure (m.getLsbD i.val)
  | .inr b => if o.d.isS then x.out o.d fun _ => .pure (if b then 1 else 0) else x.outP o.d fun _ => .pure b
theorem exec_vote (o : ROps) (s : State) : exec (.vote o) s =
    issueReg (.vote o) s fun x => if x.vis = 0 ∧ (o.h.gp ≠ 0 ∨ o.h.gn = true) then .ok {} else voteRes o x := rfl
/-- A vote whose guard holds for no strand writes nothing (04 R92). -/
theorem ran_vote_idle {o : ROps} {s : State} {x : Ctx} (issues : ready (.vote o) s = some x)
    (idle : Rule.idle x (.vote o) = true) : ∃ t, exec (.vote o) s = .next t ∧ RanOn x false {} t := by
  rw [exec_vote]
  exact issueReg_ok issues rfl rfl (if_pos (idle_vote_iff.1 idle))
theorem voteRes_preds {o : ROps} {d : Opnd} {f : Ctx → Fin 32 → FRes Bool} (rule : Rule.preds (.vote o) = some (d, f))
    (x : Ctx) : ∃ m, voteRes o x = x.outP d m ∧ ∀ k : Fin 32, x.vis.getLsbD k.val = true → m k = f x k := by
  have mode : fld o.mod 1 0 = o.mod.toNat % 4 := toNat_fld_low o.mod 1
  simp only [Rule.preds, Option.ite_none_left_eq_some] at rule
  obtain ⟨apart, rule⟩ := rule
  cases rule
  rw [voteRes, voteVal_eq_rule, mode]
  dsimp only
  generalize o.mod.toNat % 4 = k
  match k with
  | 0 => exact ⟨_, if_neg apart, fun i seen => by rw [getLsbD_maskOf, seen]; rfl⟩
  | 1 | 2 | _ + 3 => exact ⟨_, if_neg apart, fun _ _ => congrArg val (decide_eq_decide.2 .rfl)⟩
theorem ran_vote_preds {o : ROps} {s : State} {x : Ctx} {d : Opnd} {f : Ctx → Fin 32 → FRes Bool}
    (rule : Rule.preds (.vote o) = some (d, f)) (issues : ready (.vote o) s = some x) (busy : ¬ Rule.idle x (.vote o) = true) :
    ∃ t, exec (.vote o) s = .next t ∧ RanOn x false (x.bitRes d (f x)) t := by
  obtain ⟨m, form, value⟩ := voteRes_preds rule x
  exact ran_bits (g := rInfo o) issues la_of_wfRx value (exec_vote o s) rfl rfl ((if_neg (mt idle_vote_iff.2 busy)).trans form)

theorem lowest_iff_least {vis : Mask} {i : Fin 32} (seen : vis.getLsbD i.val = true) :
    (vis.lowest == some i) = decide (∀ j : Fin 32, vis.getLsbD j.val = true → i ≤ j) :=
  Bool.eq_iff_iff.2 (by rw [beq_iff_eq, Mask.lowest_eq_some_iff, decide_eq_true_eq, and_iff_right seen])

/-- Settles O11: each meaning is one predicate result, which agrees with the rules in every visited strand. -/
theorem predicateResults : Obligations.PredicateResults := by
  intro i s x d f rule issues
  have active {j : Instr} (ran : ∃ t, exec j s = .next t ∧ RanOn x false (x.bitRes d (f x)) t) (busy : Rule.idle x j = false) :
      ∃ t, exec j s = .next t ∧ RanOn x false (if Rule.idle x j then {} else x.bitRes d (f x)) t := by
    rwa [busy]
  cases i with
  | icmp o =>
    cases rule
    exact active (ran_outP (g := rInfo o) issues la_of_wfR (fun _ _ => congrArg val (icmp_eq_cond _ _ _)) rfl rfl rfl) rfl
  | icmpI o =>
    cases rule
    exact active (ran_outP (g := iInfo o) issues la_of_wfI (fun _ _ => congrArg val (icmp_eq_cond _ _ _)) rfl rfl rfl) rfl
  | fcmp o =>
    cases rule
    exact active (ran_outP (g := rInfo o) issues la_of_wfR (fun _ _ => fcmp_eq_fCmp o.mod _ _) rfl rfl rfl) rfl
  | fcmpI o =>
    cases rule
    exact active (ran_outP (g := iInfo o) issues la_of_wfI (fun _ _ => fcmp_eq_fCmp o.mod _ _) rfl rfl rfl) rfl
  | vote o =>
    by_cases idle : Rule.idle x (.vote o) = true
    · rw [if_pos idle]
      exact ran_vote_idle issues idle
    · rw [if_neg idle]
      exact ran_vote_preds rule issues idle
  | elect o =>
    cases rule
    exact active (ran_outP (g := rInfo o) issues la_of_wfR (fun _ seen => congrArg val (lowest_iff_least seen)) rfl rfl rfl) rfl
  | pand o =>
    cases rule
    exact active (ran_outP (g := rInfo o) issues la_of_wfR (fun _ _ => congrArg val BitVec.getLsbD_and) rfl rfl rfl) rfl
  | por o =>
    cases rule
    exact active (ran_outP (g := rInfo o) issues la_of_wfR (fun _ _ => congrArg val BitVec.getLsbD_or) rfl rfl rfl) rfl
  | pxor o =>
    cases rule
    exact active (ran_outP (g := rInfo o) issues la_of_wfR (fun _ _ => congrArg val BitVec.getLsbD_xor) rfl rfl rfl) rfl
  | pnot o =>
    cases rule
    exact active (ran_outP (g := rInfo o) issues la_of_wfR (fun _ _ => rfl) rfl rfl rfl) rfl
  | pmov o =>
    simp only [Rule.preds, Option.ite_none_left_eq_some] at rule
    obtain ⟨apart, rule⟩ := rule
    cases rule
    exact active (ran_bits (g := pmovInfo o) issues la_of_wfPmov (fun _ _ => rfl) rfl rfl rfl (if_neg apart)) rfl
  | _ => cases rule

end Sys2Proof.Machine
end

section
/-! Proofs about lane exchanges, reductions and scans (05 R127, R129 to R132). -/

namespace Sys2Proof.Machine

open Rule

/-! ### Exchanges (R127, R131) -/

theorem shflFrom_eq_from (mode w s k : Nat) : shflFrom mode (32 / 2 ^ w) s k = from_ mode w s k := by
  have base : s / (32 / 2 ^ w) * (32 / 2 ^ w) = s - s % (32 / 2 ^ w) := Nat.div_mul_self_eq_mod_sub_self
  have place : s - (s - s % (32 / 2 ^ w)) = s % (32 / 2 ^ w) := Nat.sub_sub_self (Nat.mod_le _ _)
  unfold shflFrom from_
  simp only [base, place]
  rfl
theorem shflVal_eq_shuffle (x : Ctx) (mode w : Nat) (a : Opnd) (i : Fin 32) (k : Word) :
    shflVal x.vis mode w (x.src a) i k = shuffle x mode w a i k := by
  unfold shflVal shuffle
  rw [shflFrom_eq_from]
  cases from_ mode w i.val k.toNat with
  | none => rfl
  | some t =>
    by_cases low : t < 32
    · have lane : Fin.ofNat 32 t = ⟨t, low⟩ := Fin.ext (Nat.mod_eq_of_lt low)
      simp only [low, dif_pos, lane]
    · simp only [low, dif_neg, not_false_eq_true]
      rw [BitVec.getLsbD_of_ge _ _ (not_lt.1 low)]
      rfl
theorem shfl_eq_shuffle {n : Nat} (m : BitVec n) (x : Ctx) (a : Opnd) (i : Fin 32) (k : Word) :
    shflVal x.vis (fld m 1 0) (fld m 4 2) (x.src a) i k = shuffle x (m.toNat % 4) (m.toNat / 4 % 8) a i k := by
  have mode : fld m 1 0 = m.toNat % 4 := toNat_fld_low m 1
  have width : fld m 4 2 = m.toNat / 4 % 8 := by simp [fld, Nat.shiftRight_eq_div_pow]
  rw [shflVal_eq_shuffle, mode, width]

theorem matchMask_eq_maskOf {α : Type} [DecidableEq α] (vis : Mask) (a : Fin 32 → α) (i : Fin 32) :
    matchMask vis a i = maskOf fun j => vis.getLsbD j.val && decide (a j = a i) :=
  eq_maskOf fun j => by rw [matchMask, BitVec.getLsbD_and, getLsbD_maskOf]

theorem match_eq_maskOf (wide : Bool) (vis : Mask) (b : Fin 32 → Dword) (a : Fin 32 → Word) (i : Fin 32) :
    (if wide then matchMask vis b i else matchMask vis a i) =
      maskOf fun j => vis.getLsbD j.val && (if wide then decide (b j = b i) else decide (a j = a i)) := by
  cases wide <;> exact matchMask_eq_maskOf _ _ _

theorem voteRes_lane {o : ROps} {d : Opnd} {f : Ctx → Fin 32 → FRes Word} (rule : Rule.lane (.vote o) = some (d, f)) (x : Ctx) :
    voteRes o x = .ok (x.wordRes d (f x)) := by
  have mode : fld o.mod 1 0 = o.mod.toNat % 4 := toNat_fld_low o.mod 1
  simp only [Rule.lane, Option.ite_none_right_eq_some] at rule
  obtain ⟨uniform, rule⟩ := rule
  cases rule
  rw [voteRes, voteVal_eq_rule, mode]
  dsimp only
  generalize o.mod.toNat % 4 = k
  match k with
  | 0 => exact if_pos uniform
  | 1 | 2 | _ + 3 =>
    refine (if_pos uniform).trans (congrArg (fun w => x.out o.d fun _ => val w) ?_)
    exact if_congr decide_eq_true_iff rfl rfl

/-! ### Reductions and scans (R132) -/

section
variable (opn ty : Nat) (a : Fin 32 → Word)

/-- One step of `Rule.folded`: the first value enters as it is. -/
def foldStep (acc : Option (FRes Word)) (i : Fin 32) : Option (FRes Word) :=
  match acc with
  | none => some ⟨a i, 0⟩
  | some y => some ⟨(redStep opn ty y.val (a i)).val, y.fl ||| (redStep opn ty y.val (a i)).fl⟩
theorem folded_eq_foldl (l : List (Fin 32)) : folded opn ty a l = l.foldl (foldStep opn ty a) none := rfl
/-- The flags of the steps so far. -/
def flagsSoFar (acc : Option (FRes Word)) : Word := match acc with | none => 0 | some y => y.fl
theorem foldFl_eq (l : List (Fin 32)) : foldFl opn ty a l = flagsSoFar (folded opn ty a l) := by
  unfold foldFl
  cases folded opn ty a l <;> rfl
theorem foldVal_eq (l : List (Fin 32)) (d : Word) : foldVal opn ty a l d = ((folded opn ty a l).map (·.val)).getD d := by
  unfold foldVal
  cases folded opn ty a l <;> rfl

/-- The model's scan from the accumulator `acc`. -/
def scanFrom (acc : Option (FRes Word)) (l : List (Fin 32)) : List (Fin 32 × Option Word × Word) × Word :=
  scanSteps opn ty a l (acc.map (·.val)) (flagsSoFar acc)
theorem foldStep_isSome (acc : Option (FRes Word)) (i : Fin 32) : ∃ y, foldStep opn ty a acc i = some y := by
  cases acc <;> exact ⟨_, rfl⟩
/-- A scan notes the accumulator before and after its first strand, and goes on behind it. -/
theorem scanFrom_cons {acc : Option (FRes Word)} {i : Fin 32} {y : FRes Word} (step : foldStep opn ty a acc i = some y)
    (l : List (Fin 32)) : scanFrom opn ty a acc (i :: l) =
      ((i, acc.map (·.val), y.val) :: (scanFrom opn ty a (some y) l).1, (scanFrom opn ty a (some y) l).2) := by
  cases acc with
  | none =>
    cases step
    simp only [scanFrom, scanSteps, Option.map, flagsSoFar, FRes.pure, BitVec.or_self]
  | some z =>
    cases step
    rfl

theorem scanFrom_flags (acc : Option (FRes Word)) (l : List (Fin 32)) :
    (scanFrom opn ty a acc l).2 = flagsSoFar (l.foldl (foldStep opn ty a) acc) := by
  induction l generalizing acc with
  | nil => rfl
  | cons i l ih =>
    obtain ⟨y, step⟩ := foldStep_isSome opn ty a acc i
    rw [scanFrom_cons opn ty a step, List.foldl_cons, step]
    exact ih _
/-- The last value of a scan is the reduction. -/
theorem scanFrom_last (acc : Option (FRes Word)) (l : List (Fin 32)) :
    ((scanFrom opn ty a acc l).1.getLast?.map (·.2.2)).or (acc.map (·.val)) = (l.foldl (foldStep opn ty a) acc).map (·.val) := by
  induction l generalizing acc with
  | nil => rfl
  | cons i l ih =>
    obtain ⟨y, step⟩ := foldStep_isSome opn ty a acc i
    rw [scanFrom_cons opn ty a step, List.foldl_cons, step, ← ih, List.getLast?_cons]
    cases (scanFrom opn ty a (some y) l).1.getLast? <;> rfl
/-- The entry of a strand: the fold over the strands before it, and the fold that takes it in. -/
theorem scanFrom_find (acc : Option (FRes Word)) {l : List (Fin 32)} (sorted : l.Pairwise (· < ·)) {i : Fin 32} (mem : i ∈ l) :
    ∃ y, (l.filter fun j => decide (j ≤ i)).foldl (foldStep opn ty a) acc = some y ∧
      (scanFrom opn ty a acc l).1.find? (fun e => e.1 == i) =
        some (i, ((l.filter fun j => decide (j < i)).foldl (foldStep opn ty a) acc).map (·.val), y.val) := by
  induction l generalizing acc with
  | nil => cases mem
  | cons j l ih =>
    obtain ⟨y, step⟩ := foldStep_isSome opn ty a acc j
    obtain ⟨later, sorted⟩ := List.pairwise_cons.1 sorted
    rw [scanFrom_cons opn ty a step]
    obtain rfl | mem := List.mem_cons.1 mem
    · have upTo : (i :: l).filter (fun j => decide (j ≤ i)) = [i] := by
        rw [List.filter_cons_of_pos (by simp), List.filter_eq_nil_iff.2 (by simpa using later)]
      have before : (i :: l).filter (fun j => decide (j < i)) = [] :=
        List.filter_eq_nil_iff.2 (by simpa using fun j mem => (later j mem).le)
      exact ⟨y, by rw [upTo]; exact step, by rw [before]; simp⟩
    · have lower := later i mem
      rw [List.filter_cons_of_pos (by simpa using lower.le), List.filter_cons_of_pos (by simpa using lower), List.foldl_cons,
        List.foldl_cons, step, List.find?_cons_of_neg (by simpa using lower.ne)]
      exact ih (some y) sorted mem

/-- What `lscan` writes to a strand, from the entries of its scan. -/
def scanVal (ex : Bool) (ident : Word) (steps : List (Fin 32 × Option Word × Word)) (i : Fin 32) : Word :=
  match steps.find? fun e => e.1 == i with
  | some e => if ex then e.2.1.getD ident else e.2.2
  | none => 0
theorem scanVal_eq_foldVal (ex : Bool) (ident : Word) {vis : Mask} {i : Fin 32} (seen : vis.getLsbD i.val = true) :
    scanVal ex ident (scanFrom opn ty a none vis.strands).1 i =
      if ex then foldVal opn ty a (vis.strands.filter fun j => decide (j < i)) ident
      else foldVal opn ty a (vis.strands.filter fun j => decide (j ≤ i)) 0 := by
  obtain ⟨y, upTo, found⟩ := scanFrom_find opn ty a none vis.strands_pairwise (Mask.mem_strands.2 seen)
  rw [scanVal, found, foldVal_eq, foldVal_eq, folded_eq_foldl, folded_eq_foldl, upTo]
  rfl
end

theorem fld_lred {n : Nat} (m : BitVec n) : fld m 2 0 = m.toNat % 8 ∧ fld m 4 3 = m.toNat / 8 % 4 :=
  ⟨toNat_fld_low m 2, by simp [fld, Nat.shiftRight_eq_div_pow]⟩
theorem scanSteps_eq_scanFrom (opn ty : Nat) (a : Fin 32 → Word) (l : List (Fin 32)) :
    scanSteps opn ty a l none 0 = scanFrom opn ty a none l := rfl

theorem ran_lred {o : ROps} {s : State} {x : Ctx} (issues : ready (.lred o) s = some x) :
    ∃ t, exec (.lred o) s = .next t ∧ RanOn x false
      (match folded (o.mod.toNat % 8) (o.mod.toNat / 8 % 4) (x.src o.a) (Mask.strands x.vis), o.d with
        | some y, .v n => { writes := [.v n x.vis (Lanes.all y.val)], flags := y.fl }
        | some y, .s n => { writes := [.s n y.val], flags := y.fl }
        | _, _ => {}) t := by
  refine issueReg_ok issues rfl rfl ?_
  obtain ⟨operation, type⟩ := fld_lred o.mod
  simp only [operation, type, scanSteps_eq_scanFrom]
  generalize o.mod.toNat % 8 = opn
  generalize o.mod.toNat / 8 % 4 = ty
  have last := scanFrom_last opn ty (x.src o.a) none (Mask.strands x.vis)
  have flags := scanFrom_flags opn ty (x.src o.a) none (Mask.strands x.vis)
  rw [← folded_eq_foldl] at last flags
  generalize scanFrom opn ty (x.src o.a) none (Mask.strands x.vis) = scan at last flags
  obtain ⟨steps, fl⟩ := scan
  simp only [Option.map_none, Option.or_none] at last flags
  cases reduced : folded opn ty (x.src o.a) (Mask.strands x.vis) with
  | none =>
    rw [reduced, Option.map_none, Option.map_eq_none_iff] at last
    simp only [last]
  | some y =>
    rw [reduced, Option.map_some, Option.map_eq_some_iff] at last
    obtain ⟨e, end_, value⟩ := last
    rw [reduced] at flags
    simp only [end_, value, show fl = y.fl from flags]
    cases o.d <;> rfl

theorem ran_lscanRes {o : ROps} {s : State} {x : Ctx} {n : Fin 256} (dest : o.d = .v n) (issues : ready (.lscan o) s = some x) :
    ∃ t, exec (.lscan o) s = .next t ∧ RanOn x false
      (let scan := scanFrom (fld o.mod 2 0) (fld o.mod 4 3) (x.src o.a) none (Mask.strands x.vis)
       ⟨[.v n x.vis (Vector.ofFn (scanVal (mbit o.mod 5) (redIdent (fld o.mod 2 0) (fld o.mod 4 3)) scan.1))], scan.2, []⟩) t := by
  refine issueReg_ok issues rfl rfl ?_
  rw [dest]
  rfl
theorem ran_lscan {o : ROps} {s : State} {x : Ctx} {n : Fin 256} (dest : o.d = .v n) (issues : ready (.lscan o) s = some x) :
    ∃ (t : State) (y : Lanes), exec (.lscan o) s = .next t ∧
      RanOn x false ⟨[.v n x.vis y], foldFl (o.mod.toNat % 8) (o.mod.toNat / 8 % 4) (x.src o.a) (Mask.strands x.vis), []⟩ t ∧
      ∀ i : Fin 32, x.vis.getLsbD i.val = true → vget y i =
        if o.mod.getLsbD 5 then
          foldVal (o.mod.toNat % 8) (o.mod.toNat / 8 % 4) (x.src o.a) ((Mask.strands x.vis).filter fun j => decide (j < i))
            (redIdent (o.mod.toNat % 8) (o.mod.toNat / 8 % 4))
        else
          foldVal (o.mod.toNat % 8) (o.mod.toNat / 8 % 4) (x.src o.a) ((Mask.strands x.vis).filter fun j => decide (j ≤ i)) 0 := by
  obtain ⟨operation, type⟩ := fld_lred o.mod
  have flags := scanFrom_flags (o.mod.toNat % 8) (o.mod.toNat / 8 % 4) (x.src o.a) none (Mask.strands x.vis)
  rw [← folded_eq_foldl, ← foldFl_eq] at flags
  obtain ⟨t, runs, ran⟩ := ran_lscanRes dest issues
  simp only [operation, type, flags] at ran
  refine ⟨t, _, runs, ran, fun i seen => ?_⟩
  rw [vget_ofFn]
  exact scanVal_eq_foldVal _ _ _ _ _ seen

/-- Settles O12: exchanges by their values, reductions and scans by the fold that each step of the scan continues. -/
theorem laneResults : Obligations.LaneResults := by
  refine ⟨fun i s x d f rule issues => ?_, fun o s x issues => ?_, fun o s x => ran_lred, fun o s x n => ran_lscan⟩
  · cases i with
    | shfl o => cases rule; exact ran_out issues (fun _ => congrArg val (shfl_eq_shuffle _ _ _ _ _)) rfl rfl rfl
    | shflI o => cases rule; exact ran_out issues (fun _ => congrArg val (shfl_eq_shuffle _ _ _ _ _)) rfl rfl rfl
    | vote o =>
      by_cases idle : Rule.idle x (.vote o) = true
      · rw [if_pos idle]
        exact ran_vote_idle issues idle
      · rw [if_neg idle, exec_vote]
        exact issueReg_ok issues rfl rfl ((if_neg (mt idle_vote_iff.2 idle)).trans (voteRes_lane rule x))
    | lmatch o =>
      cases rule
      exact ran_out issues (fun _ => congrArg val (match_eq_maskOf _ _ _ _ _)) rfl rfl rfl
    | _ => cases rule
  · refine issueReg_ok issues rfl rfl ?_
    unfold Mask.lowest
    cases Mask.strands x.vis <;> rfl

end Sys2Proof.Machine
end

section
/-! Proofs about `rdln` and `bcast` (05 R126, R128): the named lane is read, awaited, or of a suspended arm. -/

namespace Sys2Proof.Machine

/-! ### Where the lane stands (R126) -/

theorem suspendedIn_iff {n : Nat} {ts : List Token} : suspendedIn n ts = true ↔ ∃ k ∈ ts,
    (k.a0.st = .suspended ∧ k.a0.mem.getLsbD n = true) ∨ (k.a1.st = .suspended ∧ k.a1.mem.getLsbD n = true) := by
  simp only [suspendedIn, List.any_eq_true, Bool.or_eq_true, Bool.and_eq_true, beq_iff_eq]
/-- The lane belongs to the other live fragment of the token. -/
def inSibling (c : WaleCore) (a : ArmId) (n : Nat) : Prop :=
  a ≠ .sole ∧ (c.frag a.sib).live = true ∧ (c.frag a.sib).mem.getLsbD n = true
theorem inSibling_iff {c : WaleCore} {a : ArmId} {n : Nat} :
    (a != .sole && (c.frag a.sib).live && (c.frag a.sib).mem.getLsbD n) = true ↔ inSibling c a n := by
  simp only [Bool.and_eq_true, bne_iff_ne, and_assoc, inSibling]
theorem laneStatus_suspended_iff {c : WaleCore} {a : ArmId} {n : Nat} : laneStatus c a n = .suspended ↔
    ¬(c.frag a).mem.getLsbD n = true ∧ ¬inSibling c a n ∧ suspendedIn n c.stack = true := by
  rw [← inSibling_iff]
  unfold laneStatus
  split_ifs <;> simp [*]
theorem inSibling_of_laneStatus_other {c : WaleCore} {a : ArmId} {n : Nat} (h : laneStatus c a n = .other) : inSibling c a n := by
  rw [← inSibling_iff]
  unfold laneStatus at h
  split_ifs at h
  assumption

/-! ### Reading it (R128) -/

/-- The fragment waits for its sibling, which runs, as at a single-fragment point (07 R166). -/
theorem judge_running {c : WaleCore} {a : ArmId} (arm : a ≠ .sole) (runs : (c.frag a.sib).st = .running) :
    judge c a false = .wait := by
  cases a with
  | sole => exact absurd rfl arm
  | a0 | a1 => simp [judge, runs]

section
variable {i : Instr} {s : State} {x : Ctx} {lane : Ctx → Fin 32} {a : Opnd} {out : Ctx → Word → Except Flt Res}
  (issues : ready i s = some x)
include issues

theorem withCore_of_ready : x.withCore x.core = x := by
  obtain ⟨rfl, here, frag⟩ := ready_ctx issues
  exact Ctx.withCore_self here frag

/-- A lane that no other live fragment holds is read, or SYNC is raised. -/
theorem laneRead_at_once (alone : laneStatus x.core x.arm (lane x).val ≠ .other) :
    laneRead i s lane a out = .next (
      if laneStatus x.core x.arm (lane x).val == .suspended then x.raiseEm cSYNC
      else match out x (x.src a (lane x)) with
        | .ok r => x.finish false r
        | .error e => x.raise e) := by
  have goes : (if laneStatus x.core x.arm (lane x).val == .other then judge x.core x.arm false else Sfp.go) = .go :=
    if_neg (by simpa using alone)
  have same : x.withCore (applyJudge x.core x.arm false .go) = x := withCore_of_ready issues
  unfold laneRead
  rw [issueWith_ready issues]
  simp only [goes, same]
  rfl
theorem laneRead_here (here : laneStatus x.core x.arm (lane x).val = .here) {r : Res} (value : out x (x.src a (lane x)) = .ok r) :
    ∃ t, laneRead i s lane a out = .next t ∧ RanOn x false r t := by
  refine ⟨x.finish false r, ?_, ran_finish x false r⟩
  rw [laneRead_at_once issues (by simp [here]), here, value]
  rfl
theorem laneRead_suspended (suspended : laneStatus x.core x.arm (lane x).val = .suspended) :
    ∃ t, laneRead i s lane a out = .next t ∧ Raised x (x.record ⟨cSYNC, 0, x.fr.em⟩) t := by
  refine ⟨x.raiseEm cSYNC, ?_, raised_raise x ⟨cSYNC, 0, x.fr.em⟩⟩
  rw [laneRead_at_once issues (by simp [suspended]), suspended]
  rfl
theorem laneRead_other (other : laneStatus x.core x.arm (lane x).val = .other) (runs : (x.core.frag x.arm.sib).st = .running) :
    ∃ t, laneRead i s lane a out = .next t ∧
      OnlyWale x { x.st.wl with core := x.core.setFrag x.arm { x.fr with st := .waiting, split := false } } t := by
  have waits : (if laneStatus x.core x.arm (lane x).val == .other then judge x.core x.arm false else Sfp.go) = .wait := by
    rw [other, judge_running (inSibling_of_laneStatus_other other).1 runs]
    rfl
  obtain ⟨-, -, frag⟩ := ready_ctx issues
  refine ⟨_, ?_, OnlyWale.setWale x _⟩
  unfold laneRead
  rw [issueWith_ready issues]
  simp only [waits, frag]
  rfl
end

/-- The meaning of each instruction that names a lane: a read of that lane. -/
theorem exec_namedLane {x : Ctx} {i : Instr} {n : Nat} {a d : Opnd} (named : namedLane x i = some (n, a, d)) (s : State) :
    ∃ lane : Ctx → Fin 32, (lane x).val = n ∧
      exec i s = laneRead i s lane a fun x v => x.out d fun _ => .pure v := by
  have low (w : Word) : (w.extractLsb' 0 5).toFin.val = w.toNat % 32 := by simp
  cases i with
  | rdln o | bcast o => cases named; exact ⟨_, low (x.uni o.b), rfl⟩
  | rdlnI o | bcastI o => cases named; exact ⟨_, low o.imm, rfl⟩
  | _ => cases named

/-- Settles O13: by where the lane stands, which the meaning asks first. -/
theorem namedLaneReads : Obligations.NamedLaneReads := by
  intro i s x n a d issues named
  obtain ⟨lane, rfl, run⟩ := exec_namedLane named s
  obtain ⟨-, -, frag⟩ := ready_ctx issues
  rw [run]
  refine ⟨fun here => laneRead_here issues here ?_, laneRead_suspended issues, laneRead_other issues, ?_⟩
  · rw [show Fin.ofNat 32 (lane x).val = lane x from Fin.ext (Nat.mod_eq_of_lt (lane x).isLt)]
    rfl
  · rw [laneStatus_suspended_iff, suspendedIn_iff, frag]
    rfl

end Sys2Proof.Machine
end

section
/-! Proofs about `pmov` to an s register, `emget`, `emset` and `nop` (05 R133 to R135, 04 R99). -/

namespace Sys2Proof.Machine

/-! ### The effects of an instruction are apart from its flow of control -/

@[simp] theorem WaleCore.writes_stack (c : WaleCore) (ws : List RegWrite) : (c.writes ws).stack = c.stack := by
  rw [WaleCore.writes_rest]
@[simp] theorem WaleCore.countShadows_stack (c : WaleCore) (a : ArmId) : (c.countShadows a).stack = c.stack := by
  unfold WaleCore.countShadows
  rw [(WaleCore.foldl_land _ _).rest]
@[simp] theorem WaleCore.length_setFrag (c : WaleCore) (a : ArmId) (f : Arm) :
    (c.setFrag a f).stack.length = c.stack.length := by
  unfold WaleCore.setFrag
  split <;> simp [*]

section
variable {g d : WaleCore}

theorem WaleCore.write_withData (w : RegWrite) : (g.withData d).write w = g.withData (d.write w) := by
  cases w with
  | v n m y => rfl
  | s n y => rfl
  | p n m y =>
    simp only [WaleCore.write]
    split <;> rfl
theorem WaleCore.writes_withData (ws : List RegWrite) : (g.withData d).writes ws = g.withData (d.writes ws) := by
  induction ws generalizing d with
  | nil => rfl
  | cons w ws ih => exact (congrArg (WaleCore.writes · ws) (WaleCore.write_withData w)).trans ih
theorem WaleCore.land_withData (h : Shadow) : (g.withData d).land h = g.withData (d.land h) := by
  unfold WaleCore.land
  rw [WaleCore.writes_withData]
  rfl
theorem WaleCore.foldl_land_withData (hs : List Shadow) :
    hs.foldl WaleCore.land (g.withData d) = g.withData (hs.foldl WaleCore.land d) := by
  induction hs generalizing d with
  | nil => rfl
  | cons h hs ih => rw [List.foldl_cons, WaleCore.land_withData, ih, List.foldl_cons]
variable (depth : g.stack.length = d.stack.length)
include depth
theorem WaleCore.countShadows_withData (a : ArmId) : (g.withData d).countShadows a = g.withData (d.countShadows a) := by
  simp only [WaleCore.countShadows, WaleCore.withData_stack, depth]
  exact WaleCore.foldl_land_withData (d := { d with shadows := _ }) _
theorem WaleCore.effect_withData (a : ArmId) (la : Nat) (dst : List Opnd) (r : Res) :
    (g.withData d).effect a la dst r = g.withData (d.effect a la dst r) := by
  unfold WaleCore.effect
  split
  · rw [WaleCore.writes_withData]
    exact WaleCore.countShadows_withData
      (d := { (d.writes r.writes) with fflags := (d.writes r.writes).fflags ||| r.flags }) (depth.trans (by simp)) a
  · rw [WaleCore.countShadows_withData depth]
    simp only [WaleCore.withData_stack, WaleCore.countShadows_stack, depth]
    rfl
end

/-- A change of the fragment commutes with the effects of its instruction. -/
theorem WaleCore.effect_setFrag (c : WaleCore) (a b : ArmId) (f : Arm) (la : Nat) (dst : List Opnd) (r : Res) (held : Bool) :
    ((c.setFrag a f).effect b la dst r).counted held = ((c.effect b la dst r).counted held).setFrag a f := by
  have own : c.effect b la dst r = c.withData (c.effect b la dst r) := WaleCore.effect_withData (g := c) (d := c) rfl b la dst r
  have kept : c.setFrag a f = (c.setFrag a f).withData c := WaleCore.setFrag_withData c c a f
  calc ((c.setFrag a f).effect b la dst r).counted held
    _ = ((c.setFrag a f).withData (c.effect b la dst r)).counted held := by
      conv_lhs => rw [kept, WaleCore.effect_withData (c.length_setFrag a f)]
    _ = (c.setFrag a f).withData ((c.effect b la dst r).counted held) := rfl
    _ = (c.withData ((c.effect b la dst r).counted held)).setFrag a f := (WaleCore.setFrag_withData _ _ a f).symm
    _ = ((c.effect b la dst r).counted held).setFrag a f := by
      conv_rhs => rw [own]
      rfl

/-! ### A change of `em` (R135) -/

theorem WaleCore.frag_setFrag (c : WaleCore) (a b : ArmId) (f : Arm) :
    (c.setFrag a f).frag b = if b = a ∧ (a = .sole ∨ c.stack ≠ []) then f else c.frag b := by
  cases stack : c.stack <;> cases a <;> cases b <;> simp [WaleCore.setFrag, WaleCore.frag, stack]
/-- The core with another `em` of the fragment. -/
def WaleCore.setEm (c : WaleCore) (a : ArmId) (em : Mask) : WaleCore := c.setFrag a { c.frag a with em := em }
/-- `em` does not decide which fragment may issue. -/
theorem WaleCore.issuable_setEm (c : WaleCore) (a b : ArmId) (em : Mask) : (c.setEm a em).issuable b = c.issuable b := by
  have same : ((c.setEm a em).frag b).st = (c.frag b).st ∧ ((c.setEm a em).frag b).stall = (c.frag b).stall := by
    rw [WaleCore.setEm, WaleCore.frag_setFrag]
    split
    · obtain ⟨rfl, -⟩ := ‹_ ∧ _›
      exact ⟨rfl, rfl⟩
    · exact ⟨rfl, rfl⟩
  have rest : (c.setEm a em).pend b = c.pend b ∧ (c.setEm a em).call = c.call ∧ (c.setEm a em).hoff = c.hoff := by
    unfold WaleCore.setEm WaleCore.setFrag
    split <;> exact ⟨rfl, rfl, rfl⟩
  rw [WaleCore.issuable, WaleCore.issuable, same.1, same.2, rest.1, rest.2.1, rest.2.2]
theorem Ctx.commit_withEm (x : Ctx) (em : Mask) (c : WaleCore) (held : List Held) :
    (x.withCore (x.core.setEm x.arm em)).commit c held = x.commit c held := by
  have ready1 : (x.withCore (x.core.setEm x.arm em)).ready1 c = x.ready1 c := by
    have issuable := x.core.issuable_setEm x.arm .a1 em
    have depth : (x.core.setEm x.arm em).stack.length = x.core.stack.length := WaleCore.length_setFrag _ _ _
    unfold Ctx.ready1
    simp only [show (x.withCore (x.core.setEm x.arm em)).core = x.core.setEm x.arm em from rfl, issuable, depth]
    rfl
  unfold Ctx.commit
  rw [ready1]
  simp only [Ctx.withCore, State.setWale_setWale]
  rfl

theorem ran_withEm {x : Ctx} (frag : x.fr = x.core.frag x.arm) (em : Mask) :
    Ran x {} false ((x.core.setFrag x.arm { x.fr with em := em }).advance x.arm)
      ((x.withCore (x.core.setFrag x.arm { x.fr with em := em })).finish false {}) := by
  have apart (g d : WaleCore) : ((g.withData d).setFrag x.arm { x.fr with em := em }).advance x.arm =
      ((g.setFrag x.arm { x.fr with em := em }).advance x.arm).withData d := by
    rw [WaleCore.setFrag_withData, WaleCore.advance_withData]
  have same : (x.withCore (x.core.setFrag x.arm { x.fr with em := em })).finish false {} =
      x.after fun c => (c.setFrag x.arm { x.fr with em := em }).advance x.arm := by
    unfold Ctx.after
    dsimp only
    rw [← WaleCore.effect_setFrag, frag]
    exact x.commit_withEm em _ []
  rw [same]
  exact ran_after x (F := fun c => (c.setFrag x.arm { x.fr with em := em }).advance x.arm) apart

theorem ran_emset {o : ROps} {s : State} {x : Ctx} (issues : ready (.emset o) s = some x) :
    let em := x.maskSrc o.a &&& x.fr.mem
    (em ≠ 0 → ∃ t, exec (.emset o) s = .next t ∧
      Ran x {} false ((x.core.setFrag x.arm { x.fr with em := em }).advance x.arm) t) ∧
    (em = 0 → x.core.stack = [] → ∃ t, exec (.emset o) s = .next t ∧ Raised x (x.record ⟨cSYNC, 0, x.fr.em⟩) t) ∧
    (em = 0 → x.core.stack ≠ [] → ∃ t, exec (.emset o) s = .next t ∧ Ran x {} false (x.core.park x.arm) t) := by
  intro em
  obtain ⟨-, -, frag⟩ := ready_ctx issues
  refine ⟨fun some => ⟨_, exec_of_ready rfl issues (if_pos some), ran_withEm frag em⟩, fun none bare => ?_,
    fun none token => ?_⟩
  · refine ⟨_, exec_of_ready rfl issues ((if_neg (not_not.2 none)).trans (if_pos ?_)), raised_raise x ⟨cSYNC, 0, x.fr.em⟩⟩
    rw [bare]
    rfl
  · refine ⟨_, exec_of_ready rfl issues ((if_neg (not_not.2 none)).trans (if_neg ?_)), ran_after x (F := fun c => c.park x.arm)
      fun g d => WaleCore.park_withData g d x.arm⟩
    rwa [List.isEmpty_iff]

/-! ### Masks copied (R133, R134) -/

theorem ran_emget {o : ROps} {s : State} {x : Ctx} (issues : ready (.emget o) s = some x) :
    ∃ t, exec (.emget o) s = .next t ∧ RanOn x false (match o.d with
      | .s n => { writes := [.s n x.fr.em] }
      | .p n => { writes := [.p n 0xFFFFFFFF x.fr.em] }
      | _ => {}) t := by
  obtain ⟨f, y, facts⟩ := ready_facts issues
  have dest : Cls.ps.ok o.d = true := by
    have wf := facts.wf
    simp only [Instr.wf, wfR, Bool.and_eq_true, and_assoc] at wf
    exact wf.2.1
  refine issueReg_ok issues rfl rfl ?_
  cases d : o.d with
  | s n | p n => rfl
  | _ => rw [d] at dest; cases dest

theorem exec_nop (s : State) : exec .nop s = issueReg .nop s fun _ => .ok {} := rfl

/-- Settles O14: `emset` by what is left of `em`, the others by their results. -/
theorem maskMoves : Obligations.MaskMoves := by
  refine ⟨fun s x issues => ?_, fun o s x n dest issues => ?_, fun o s x => ran_emget, fun o s x => ran_emset⟩
  · rw [exec_nop]
    exact issueReg_ok issues rfl rfl rfl
  · refine issueReg_ok issues rfl rfl ?_
    simp only [dest]
    rfl

end Sys2Proof.Machine
end

section
/-! Proofs about the floating-point and scalar conversion instructions (06 R141 to R143, R145 to R150, R153). -/

namespace Sys2Proof.Machine

/-- The rounding mode stands in the two low bits of MOD (03 R64). -/
theorem rmOf_eq_ofCode {n : Nat} (m : BitVec n) : rmOf m = RM.ofCode (m.toNat % 4) :=
  congrArg RM.ofCode (toNat_fld_low m 1)
/-- The block format stands in the four low bits of MOD (06 R152, R153). -/
theorem bfpBits_fld {n : Nat} (m : BitVec n) : bfpBits (fld m 3 0) = bfpBits (m.toNat % 16) :=
  congrArg bfpBits (toNat_fld_low m 3)

/-- Settles O15: each meaning is one register result, whose rounding mode or block format is that of the rules. -/
theorem floatResults : Obligations.FloatResults := by
  intro i s x d f rule issues
  cases i with
  | fadd o | faddI o => cases rule; exact ran_out issues (fun _ => congrArg (fp2 fAdd · _ _) (rmOf_eq_ofCode _)) rfl rfl rfl
  | fsub o | fsubI o => cases rule; exact ran_out issues (fun _ => congrArg (fp2 fSub · _ _) (rmOf_eq_ofCode _)) rfl rfl rfl
  | fmul o | fmulI o => cases rule; exact ran_out issues (fun _ => congrArg (fp2 fMul · _ _) (rmOf_eq_ofCode _)) rfl rfl rfl
  | fdiv o | fdivI o => cases rule; exact ran_out issues (fun _ => congrArg (fp2 fDiv · _ _) (rmOf_eq_ofCode _)) rfl rfl rfl
  | fma o => cases rule; exact ran_out issues (fun _ => congrArg (fmaWord · _ _ _ _ _) (rmOf_eq_ofCode _)) rfl rfl rfl
  | fmin o | fminI o => cases rule; exact ran_out issues (fun _ => rfl) rfl rfl rfl
  | fmax o | fmaxI o => cases rule; exact ran_out issues (fun _ => rfl) rfl rfl rfl
  | fclass o => cases rule; exact ran_out issues (fun _ => rfl) rfl rfl rfl
  | frcp o => cases rule; exact ran_out issues (fun _ => congrArg (fp1 fRcp · _) (rmOf_eq_ofCode _)) rfl rfl rfl
  | fsqrt o => cases rule; exact ran_out issues (fun _ => congrArg (fp1 fSqrt · _) (rmOf_eq_ofCode _)) rfl rfl rfl
  | frsq o => cases rule; exact ran_out issues (fun _ => congrArg (fp1 fRsq · _) (rmOf_eq_ofCode _)) rfl rfl rfl
  | fpow2 o => cases rule; exact ran_out issues (fun _ => congrArg (fp1 fPow2 · _) (rmOf_eq_ofCode _)) rfl rfl rfl
  | flog2 o => cases rule; exact ran_out issues (fun _ => congrArg (fp1 fLog2 · _) (rmOf_eq_ofCode _)) rfl rfl rfl
  | frnd o => cases rule; exact ran_out issues (fun _ => congrArg (fp1 fRnd · _) (rmOf_eq_ofCode _)) rfl rfl rfl
  | hadd2 o => cases rule; exact ran_out issues (fun _ => congrArg (hadd2Word _ · _ _) (rmOf_eq_ofCode _)) rfl rfl rfl
  | hmul2 o => cases rule; exact ran_out issues (fun _ => congrArg (hmul2Word _ · _ _) (rmOf_eq_ofCode _)) rfl rfl rfl
  | hfma2 o => cases rule; exact ran_out issues (fun _ => congrArg (hfma2Word _ · _ _ _) (rmOf_eq_ofCode _)) rfl rfl rfl
  | fdp2 o => cases rule; exact ran_out issues (fun _ => congrArg (fdp2Word _ · _ _ _) (rmOf_eq_ofCode _)) rfl rfl rfl
  | cvt o => cases rule; exact ran_out issues (fun _ => rfl) rfl rfl rfl
  | cvtbx o =>
    cases rule
    exact ran_out issues (fun _ => congrArg (fun b => Rule.val (cvtbxWord b _ _)) (bfpBits_fld _)) rfl rfl rfl
  | _ => cases rule

end Sys2Proof.Machine
end

section
/-! Proofs about the largest finite magnitude of a block, from which its exponents come (03 R74). -/

namespace Sys2Proof.Machine

/-! ### Order -/

/-- The number as a whole number of places 2^`q`, as `fOrd` counts them; a zero counts at any place. -/
theorem units_mul {s : Bool} {m : Nat} {e q : Int} (low : m ≠ 0 → q ≤ e) :
    ((if (FV.fin s m e).isZero then 0 else (FV.fin s m e).at_ q : Int) : ℚ) * 2 ^ q = (FV.fin s m e).toRat := by
  by_cases zero : m = 0
  · rw [FV.toRat_eq_zero.2 zero]
    simp [FV.isZero, zero]
  · rw [← FV.at_mul (low zero)]
    simp [FV.isZero, zero]
/-- The order of two finite numbers is that of their values. -/
theorem fOrd_fin_lt_iff {s t : Bool} {m n : Nat} {e k : Int} :
    fOrd (.fin s m e) (.fin t n k) = .lt ↔ (FV.fin s m e).toRat < (FV.fin t n k).toRat := by
  have first := units_mul (s := s) fun ne => foldl_minExpStep_le_of_mem (q := 1000) (s := s) (xs := [.fin s m e, .fin t n k])
    List.mem_cons_self ne
  have second := units_mul (s := t) fun ne => foldl_minExpStep_le_of_mem (q := 1000) (s := t) (xs := [.fin s m e, .fin t n k])
    (List.mem_cons_of_mem _ List.mem_cons_self) ne
  rw [← first, ← second, mul_lt_mul_iff_left₀ (by positivity), Int.cast_lt]
  exact compare_lt_iff_lt

/-! ### The search of `bfpMax` -/

/-- One step of `bfpMax`. -/
def maxStep (acc : Option FV) (x : FV) : Option FV :=
  match x with
  | .fin _ m e =>
    if m = 0 then acc else match acc with
      | none => some (.fin false m e)
      | some y => if fOrd y (.fin false m e) == .lt then some (.fin false m e) else some y
  | _ => acc
section
variable {s : Bool} {m : Nat} {e : Int}
theorem maxStep_zero (acc : Option FV) (zero : m = 0) : maxStep acc (.fin s m e) = acc := if_pos zero
theorem maxStep_none (ne : m ≠ 0) : maxStep none (.fin s m e) = some (.fin false m e) := if_neg ne
theorem maxStep_some (y : FV) (ne : m ≠ 0) :
    maxStep (some y) (.fin s m e) = if fOrd y (.fin false m e) == .lt then some (.fin false m e) else some y := if_neg ne
end
theorem bfpMax_append (xs : List FV) (x : FV) : bfpMax (xs ++ [x]) = maxStep (bfpMax xs) x := List.foldl_append

/-- The magnitude found so far. -/
noncomputable def foundMag : Option FV → ℚ
  | none => 0
  | some y => y.toRat
/-- What is found is a finite magnitude that is not zero. -/
def FoundPos (acc : Option FV) : Prop := ∀ y ∈ acc, ∃ m e, y = .fin false m e ∧ m ≠ 0

theorem toRat_fin_false (m : Nat) (e : Int) : (FV.fin false m e).toRat = m * 2 ^ e := by simp [FV.toRat]
theorem toRat_fin_pos {m : Nat} (e : Int) (ne : m ≠ 0) : 0 < (FV.fin false m e).toRat := by
  rw [toRat_fin_false]
  exact mul_pos (Nat.cast_pos.2 (Nat.pos_of_ne_zero ne)) (by positivity)
theorem abs_toRat_eq (s : Bool) (m : Nat) (e : Int) : |(FV.fin s m e).toRat| = (FV.fin false m e).toRat := by
  have nonneg : (0 : ℚ) ≤ m * 2 ^ e := by positivity
  cases s <;> simp [FV.toRat, abs_of_nonneg nonneg]
theorem FoundPos.eq_none {acc : Option FV} (h : FoundPos acc) (zero : foundMag acc = 0) : acc = none := by
  cases acc with
  | none => rfl
  | some y =>
    obtain ⟨m, e, rfl, ne⟩ := h y rfl
    exact absurd zero (toRat_fin_pos e ne).ne'
theorem FoundPos.nonneg {acc : Option FV} (h : FoundPos acc) : 0 ≤ foundMag acc := by
  cases acc with
  | none => exact le_rfl
  | some y =>
    obtain ⟨m, e, rfl, ne⟩ := h y rfl
    exact (toRat_fin_pos e ne).le

/-- A step keeps the larger magnitude. -/
theorem FoundPos.step {acc : Option FV} (h : FoundPos acc) (x : FV) :
    FoundPos (maxStep acc x) ∧ foundMag (maxStep acc x) = max (foundMag acc) |x.toRat| := by
  have keep (zero : x.toRat = 0) : FoundPos acc ∧ foundMag acc = max (foundMag acc) |x.toRat| :=
    ⟨h, by rw [zero, abs_zero, max_eq_left h.nonneg]⟩
  cases x with
  | nan g => exact keep rfl
  | inf s => exact keep rfl
  | fin s m e =>
    by_cases zero : m = 0
    · rw [maxStep_zero acc zero]
      exact keep (FV.toRat_eq_zero.2 zero)
    · have takes : FoundPos (some (.fin false m e)) := by
        rintro _ ⟨⟩
        exact ⟨m, e, rfl, zero⟩
      rw [abs_toRat_eq]
      cases acc with
      | none =>
        rw [maxStep_none zero]
        exact ⟨takes, (max_eq_right (toRat_fin_pos e zero).le).symm⟩
      | some y =>
        obtain ⟨n, k, rfl, -⟩ := h y rfl
        simp only [maxStep_some _ zero, beq_iff_eq, fOrd_fin_lt_iff]
        split
        · next less => exact ⟨takes, (max_eq_right less.le).symm⟩
        · next more => exact ⟨h, (max_eq_left (not_lt.1 more)).symm⟩

/-- `bfpMax` finds a magnitude that none exceeds; it is that of an entry, or zero. -/
theorem bfpMax_greatest (xs : List FV) : FoundPos (bfpMax xs) ∧ (∀ x ∈ xs, |x.toRat| ≤ foundMag (bfpMax xs)) ∧
    (foundMag (bfpMax xs) = 0 ∨ ∃ x ∈ xs, |x.toRat| = foundMag (bfpMax xs)) := by
  induction xs using List.reverseRecOn with
  | nil => exact ⟨nofun, nofun, .inl rfl⟩
  | append_singleton xs x ih =>
    obtain ⟨pos, above, attained⟩ := ih
    obtain ⟨stays, mag⟩ := pos.step x
    rw [bfpMax_append, mag]
    refine ⟨stays, fun y mem => ?_, ?_⟩
    · obtain before | rfl := (List.mem_append.1 mem).imp_right List.mem_singleton.1
      · exact le_max_of_le_left (above y before)
      · exact le_max_right _ _
    · rcases le_total |x.toRat| (foundMag (bfpMax xs)) with less | more
      · rw [max_eq_left less]
        exact attained.imp_right fun ⟨y, mem, same⟩ => ⟨y, List.mem_append_left _ mem, same⟩
      · exact .inr ⟨x, by simp, (max_eq_right more).symm⟩

theorem bfpMax_eq_none {xs : List FV} (zeros : ∀ x ∈ xs, x.toRat = 0) : bfpMax xs = none := by
  obtain ⟨pos, -, zero | ⟨x, mem, same⟩⟩ := bfpMax_greatest xs
  · exact pos.eq_none zero
  · exact pos.eq_none (by rw [← same, zeros x mem, abs_zero])
theorem bfpMax_eq_some {xs : List FV} {x : FV} (mem : x ∈ xs) (greatest : ∀ y ∈ xs, |y.toRat| ≤ |x.toRat|) (big : 0 < |x.toRat|) :
    ∃ m e, bfpMax xs = some (.fin false m e) ∧ m ≠ 0 ∧ (FV.fin false m e).toRat = |x.toRat| := by
  obtain ⟨pos, above, attained⟩ := bfpMax_greatest xs
  have same : foundMag (bfpMax xs) = |x.toRat| := by
    refine le_antisymm ?_ (above x mem)
    obtain zero | ⟨y, other, eq⟩ := attained
    · rw [zero]
      exact big.le
    · rw [← eq]
      exact greatest y other
  cases found : bfpMax xs with
  | none => exact absurd (by rw [← same, found]; rfl) big.ne'
  | some y =>
    obtain ⟨m, e, rfl, nonzero⟩ := pos y found
    exact ⟨m, e, rfl, nonzero, by rw [← same, found]; rfl⟩

end Sys2Proof.Machine
end

section
/-! Proofs about the blocks that `cvtb` forms (06 R152, 03 R74). -/

namespace Sys2Proof.Machine

/-! ### Exponents and mantissas -/

/-- The exponent of the leading bit, from the powers of two about the number. -/
theorem exponent_eq {m : Nat} {e g : Int} (ne : m ≠ 0) (le : (2 : ℚ) ^ g ≤ (FV.fin false m e).toRat)
    (lt : (FV.fin false m e).toRat < (2 : ℚ) ^ (g + 1)) : e + bitLen m - 1 = g := by
  have some := bitLen_pos ne
  have upper : (m : ℚ) * 2 ^ e < 2 ^ (e + bitLen m) := by
    rw [add_comm e, zpow_add₀ two_ne_zero, zpow_natCast]
    exact mul_lt_mul_of_pos_right (by exact_mod_cast lt_two_pow_bitLen m) (by positivity)
  have lower : (2 : ℚ) ^ (e + bitLen m - 1) ≤ m * 2 ^ e := by
    rw [show e + bitLen m - 1 = ((bitLen m - 1 : Nat) : Int) + e by omega, zpow_add₀ two_ne_zero, zpow_natCast]
    exact mul_le_mul_of_nonneg_right (by exact_mod_cast two_pow_bitLen_le ne) (by positivity)
  rw [toRat_fin_false] at le lt
  have below : g < e + bitLen m := (zpow_lt_zpow_iff_right₀ one_lt_two).1 (le.trans_lt upper)
  have above : e + bitLen m - 1 < g + 1 := (zpow_lt_zpow_iff_right₀ one_lt_two).1 (lower.trans_lt lt)
  omega

/-- `n` is `q` rounded to nearest even. -/
def NearestEven (q : ℚ) (n : Nat) : Prop := |(n : ℚ) - q| ≤ 1 / 2 ∧ (|(n : ℚ) - q| = 1 / 2 → n % 2 = 0)

theorem Evens.nearestEven {q : ℚ} {k n : Nat} (h : Evens (q : ℝ) k n) : NearestEven q n := by
  have half : ((1 / 2 : ℚ) : ℝ) = 1 / 2 := by norm_num
  obtain ⟨-, near, tie⟩ := h
  rw [← half] at near tie
  exact ⟨by exact_mod_cast near, fun same => tie (by exact_mod_cast same)⟩
/-- Under RNE `roundAt` gives the nearest multiple of 2^`q`. -/
theorem roundAt_nearestEven (m : Nat) (e q : Int) :
    NearestEven ((FV.fin false m e).toRat / 2 ^ q) (roundAt .rne false m e q false).1 := by
  by_cases zero : m = 0
  · have none : (roundAt .rne false m e q false).1 = 0 := by simp [roundAt, zero]
    rw [none, FV.toRat_eq_zero.2 zero]
    norm_num [NearestEven]
  · have carries := Carries.exact fp32 e zero
    have value : (((FV.fin false m e).toRat / 2 ^ q : ℚ) : ℝ) = m * 2 ^ e / 2 ^ q := by
      rw [Rat.cast_div, FV.toRat_fin, signed_false, one_mul]
      push_cast
      rfl
    obtain ⟨k, rounds⟩ : ∃ k, RoundsAt false m e q false (m * 2 ^ e / 2 ^ q) k := by
      rcases lt_or_ge e q with lt | le
      · exact ⟨_, roundAt_of_lt carries lt⟩
      · exact ⟨_, roundAt_of_le carries le⟩
    exact Evens.nearestEven (value ▸ rounds.rne)
/-- The mantissa at an exponent of the block is the magnitude rounded to nearest even (R74). -/
theorem bfpQ_nearestEven (s : Bool) (m : Nat) (e : Int) (ex b : Nat) :
    NearestEven (|(FV.fin s m e).toRat| / 2 ^ ((ex : Int) - 127 - (b - 1))) (bfpQ (.fin s m e) ex b).1 := by
  rw [abs_toRat_eq]
  exact roundAt_nearestEven m e _

/-! ### Elements -/

theorem bfpElem_fin (s : Bool) (m : Nat) (e : Int) (b e0 e1 : Nat) :
    (bfpElem (.fin s m e) b e0 e1).1 = (if s then 2 ^ b else 0) +
      if (bfpQ (.fin s m e) e1 b).1 ≤ 2 ^ b - 1 then 2 ^ (b + 1) + (bfpQ (.fin s m e) e1 b).1
      else min (bfpQ (.fin s m e) e0 b).1 (2 ^ b - 1) := by
  simp only [bfpElem]
  by_cases fits : (bfpQ (.fin s m e) e1 b).1 ≤ 2 ^ b - 1
  · rw [if_pos fits, if_pos fits]
    omega
  · rw [if_neg fits, if_neg fits]
    by_cases beyond : 2 ^ b - 1 < (bfpQ (.fin s m e) e0 b).1
    · rw [if_pos beyond, min_eq_right beyond.le]
    · rw [if_neg beyond, min_eq_left (not_lt.1 beyond)]

/-! ### The block -/

theorem any_isNaN_iff {xs : List FV} : xs.any FV.isNaN = true ↔ ∃ g, FV.nan g ∈ xs := by
  rw [List.any_eq_true]
  constructor
  · rintro ⟨x, mem, nan⟩
    cases x with
    | nan g => exact ⟨g, mem⟩
    | inf s => cases nan
    | fin s m e => cases nan
  · rintro ⟨g, mem⟩
    exact ⟨_, mem, rfl⟩
theorem any_isInf_iff {xs : List FV} : xs.any FV.isInf = true ↔ ∃ s, FV.inf s ∈ xs := by
  rw [List.any_eq_true]
  constructor
  · rintro ⟨x, mem, inf⟩
    cases x with
    | nan g => cases inf
    | inf s => exact ⟨s, mem⟩
    | fin s m e => cases inf
  · rintro ⟨s, mem⟩
    exact ⟨_, mem, rfl⟩

/-- What `formBlock` makes of the exponent `e0` that R74 chooses, and how it is chosen from the largest finite magnitude. -/
theorem formBlock_parts (xs : List FV) (b sh : Nat) : ∃ e0 : Nat,
    (formBlock xs b sh).e0 = (if xs.any FV.isNaN then 0xFF else e0) ∧
    (formBlock xs b sh).e1 = max (e0 - sh) 1 ∧
    (formBlock xs b sh).elems = xs.map (fun x => (bfpElem x b e0 (max (e0 - sh) 1)).1) ∧
    (bfpMax xs = none → e0 = if xs.any FV.isInf then 0xFE else 1) ∧
    ∀ s m e k, bfpMax xs = some (.fin s m e) → k = (min (max (e + (bitLen m : Int) - 1 + 127) 1) 0xFE).toNat →
      e0 = if 2 ^ b - 1 < (bfpQ (.fin s m e) k b).1 ∧ k < 0xFE then k + 1 else k := by
  refine ⟨_, rfl, rfl, List.map_map, fun none => ?_, fun s m e k found exponent => ?_⟩
  · rw [none]
  · rw [found, exponent]
    simp only [Bool.and_eq_true, decide_eq_true_eq]

/-- R74: every entry gives one element, by what it is. -/
theorem bfpElem_spec (x : FV) (b e0 e1 : Nat) :
    (∀ g, x = .nan g → (bfpElem x b e0 e1).1 = 0) ∧
    (∀ s, x = .inf s → (bfpElem x b e0 e1).1 = (if s then 2 ^ b else 0) + (2 ^ b - 1)) ∧
    ∀ s m e, x = .fin s m e → ∃ q n, NearestEven (|x.toRat| / 2 ^ ((e1 : Int) - 127 - (b - 1))) q ∧
      NearestEven (|x.toRat| / 2 ^ ((e0 : Int) - 127 - (b - 1))) n ∧
      (bfpElem x b e0 e1).1 = (if s then 2 ^ b else 0) + if q ≤ 2 ^ b - 1 then 2 ^ (b + 1) + q else min n (2 ^ b - 1) := by
  refine ⟨?_, ?_, ?_⟩
  · rintro g rfl
    rfl
  · rintro s rfl
    rfl
  · rintro s m e rfl
    exact ⟨_, _, bfpQ_nearestEven s m e e1 b, bfpQ_nearestEven s m e e0 b, bfpElem_fin s m e b e0 e1⟩

/-- What the strands receive of a block: each its element, and all the scale pair (R152). -/
def blockLanes (k : Block) : Lanes :=
  Vector.ofFn fun i => BitVec.ofNat 32 (k.elems.getD i.val 0 + k.e0 * 2 ^ 16 + k.e1 * 2 ^ 24)
theorem ran_blockLanes {o : ROps} {s : State} {x : Ctx} {n : Fin 256} (dest : o.d = .v n) (issues : ready (.cvtb o) s = some x) :
    ∃ t, exec (.cvtb o) s = .next t ∧ RanOn x false
      { writes := [.v n x.vis (blockLanes (cvtbBlock x o))], flags := if x.vis = 0 then 0 else (cvtbBlock x o).fl } t := by
  refine issueReg_ok issues rfl rfl ?_
  rw [dest]
  rfl
theorem ran_cvtb {o : ROps} {s : State} {x : Ctx} {n : Fin 256} (dest : o.d = .v n) (issues : ready (.cvtb o) s = some x) :
    let b := bfpBits (o.mod.toNat % 16)
    let sh := if o.mod.toNat / 16 % 16 = 0 then b else o.mod.toNat / 16 % 16
    let k := formBlock ((List.finRange 32).map fun i =>
      if x.vis.getLsbD i.val then unpack fp32 (x.src o.a i).toNat else .fin false 0 0) b sh
    ∃ (t : State) (y : Lanes), exec (.cvtb o) s = .next t ∧
      RanOn x false { writes := [.v n x.vis y], flags := if x.vis = 0 then 0 else k.fl } t ∧
      ∀ i : Fin 32, vget y i = BitVec.ofNat 32 (k.elems.getD i.val 0 + k.e0 * 2 ^ 16 + k.e1 * 2 ^ 24) := by
  intro b sh k
  have shift : fld o.mod 7 4 = o.mod.toNat / 16 % 16 := by simp [fld, Nat.shiftRight_eq_div_pow]
  have block : cvtbBlock x o = k := by
    unfold cvtbBlock
    rw [shift, bfpBits_fld]
  obtain ⟨t, runs, ran⟩ := ran_blockLanes dest issues
  exact ⟨t, _, runs, block ▸ ran, fun i => block ▸ vget_ofFn _ i⟩

/-- Settles O16: the result by its block, and the block by the exponent that `formBlock_parts` names. -/
theorem blockFormed : Obligations.BlockFormed := by
  refine ⟨fun o s x n dest issues => ran_cvtb dest issues, fun xs b sh _ => ?_⟩
  obtain ⟨e0, scale, shifted, elems, zero, largest⟩ := formBlock_parts xs b sh
  refine ⟨e0, fun nan => scale.trans (if_pos (any_isNaN_iff.2 nan)), fun nan => scale.trans (if_neg (mt any_isNaN_iff.1 nan)),
    shifted, by rw [elems, List.length_map], fun zeros => ?_, fun x mem greatest g le lt => ?_, fun i x w entry elem => ?_⟩
  · rw [zero (bfpMax_eq_none zeros)]
    exact ⟨fun inf => if_pos (any_isInf_iff.2 inf), fun inf => if_neg (mt any_isInf_iff.1 inf)⟩
  · obtain ⟨m, e, found, ne, same⟩ := bfpMax_eq_some mem greatest (lt_of_lt_of_le (by positivity) le)
    rw [← same] at le lt
    refine ⟨_, ?_, largest false m e _ found (by rw [exponent_eq ne le lt])⟩
    dsimp only
    rw [← same, ← abs_toRat_eq false]
    exact bfpQ_nearestEven false m e _ b
  · rw [elems, List.getElem?_map, entry, Option.map_some, Option.some.injEq] at elem
    dsimp only
    rw [← elem, shifted]
    exact bfpElem_spec x b e0 _

end Sys2Proof.Machine
end

section
/-! Proofs about branches, jumps, calls and returns (07 R157, R158). -/

namespace Sys2Proof.Machine

/-! ### What the meaning of a control instruction comes to -/

/-- The fragment is transferred, after the writes of a link pair (07 R157, R158). -/
theorem ranTo_jumpTo (x : Ctx) (pc : Dword) (ws : List RegWrite) : RanTo x pc { writes := ws } (x.jumpTo pc ws) :=
  ran_commit (ranCore_flow (F := fun c => c.transfer x.arm pc) fun g d => WaleCore.transfer_withData g d x.arm pc)

section
variable {i : Instr} {s : State} {x : Ctx} {f : Ctx → State} (run : exec i s = issueWith i s f) (issues : ready i s = some x)
include run issues

theorem ranTo_of_meaning {pc : Dword} {ws : List RegWrite} (e : f x = x.jumpTo pc ws) :
    ∃ t, exec i s = .next t ∧ RanTo x pc { writes := ws } t :=
  ⟨_, exec_of_ready run issues e, ranTo_jumpTo x pc ws⟩
theorem ranOn_of_meaning (e : f x = x.finish false {}) : ∃ t, exec i s = .next t ∧ RanOn x false {} t :=
  ⟨_, exec_of_ready run issues e, ran_finish x false {}⟩
theorem ran_of_meaning {F : WaleCore → WaleCore} (e : f x = x.after F)
    (apart : ∀ g d : WaleCore, F (g.withData d) = (F g).withData d) :
    ∃ t, exec i s = .next t ∧ Ran x {} false (F x.core) t :=
  ⟨_, exec_of_ready run issues e, ran_after x apart⟩
theorem raised_of_meaning {code : BitVec 8} (e : f x = x.raiseEm code) :
    ∃ t, exec i s = .next t ∧ Raised x (x.record ⟨code, 0, x.fr.em⟩) t :=
  ⟨_, exec_of_ready run issues e, raised_raise x ⟨code, 0, x.fr.em⟩⟩
/-- A reported engine fault is taken at the instruction (09 R211). -/
theorem raisedEng_of_meaning {g : EngFault} (e : f x = x.raiseEng g) :
    ∃ t, exec i s = .next t ∧ Raised x { g.f with mask := x.fr.em, resume := x.fr.pc } t :=
  ⟨_, exec_of_ready run issues e, raised_raiseRec x _⟩
theorem drains_of_meaning (e : f x = x.drainWait) : ∃ t, exec i s = .next t ∧ Drains x t :=
  ⟨_, exec_of_ready run issues e, drains_drainWait x⟩
end

/-! ### Branches (R157) -/

theorem ran_brcNz {o : BOps} {s : State} {x : Ctx} (issues : ready (.brcNz o) s = some x) :
    (x.uni o.a ≠ 0 → ∃ t, exec (.brcNz o) s = .next t ∧ RanTo x (target x.fr.pc o.dist) {} t) ∧
    (x.uni o.a = 0 → ∃ t, exec (.brcNz o) s = .next t ∧ RanOn x false {} t) :=
  ⟨fun taken => ranTo_of_meaning rfl issues (if_pos taken),
    fun zero => ranOn_of_meaning rfl issues (if_neg (not_not.2 zero))⟩
theorem ran_brcZ {o : BOps} {s : State} {x : Ctx} (issues : ready (.brcZ o) s = some x) :
    (x.uni o.a = 0 → ∃ t, exec (.brcZ o) s = .next t ∧ RanTo x (target x.fr.pc o.dist) {} t) ∧
    (x.uni o.a ≠ 0 → ∃ t, exec (.brcZ o) s = .next t ∧ RanOn x false {} t) :=
  ⟨fun taken => ranTo_of_meaning rfl issues (if_pos taken), fun other => ranOn_of_meaning rfl issues (if_neg other)⟩

/-! ### Calls write their link pair (R158) -/

theorem ranTo_call {o : BOps} {s : State} {x : Ctx} {n : Fin 64} (link : o.a = .s n) (issues : ready (.call o) s = some x) :
    ∃ t, exec (.call o) s = .next t ∧ RanTo x (target x.fr.pc o.dist)
      { writes := [.s n (lo32 (nextSlot x.fr.pc)), .s (n + 1) (hi32 (nextSlot x.fr.pc))] } t :=
  ranTo_of_meaning rfl issues (by rw [link]; rfl)
theorem ranTo_callr {o : ROps} {s : State} {x : Ctx} {n : Fin 64} (link : o.d = .s n) (issues : ready (.callr o) s = some x) :
    ∃ t, exec (.callr o) s = .next t ∧ RanTo x (x.uni64 o.a)
      { writes := [.s n (lo32 (nextSlot x.fr.pc)), .s (n + 1) (hi32 (nextSlot x.fr.pc))] } t :=
  ranTo_of_meaning rfl issues (by rw [link]; rfl)

/-! ### Slot distances (04 R84, R85) -/

/-- A PC that names a slot: its line and its place in the line. -/
theorem slotPc_spec {pc : Dword} (h : slotPc pc = true) : ∃ line k : Nat, pc.toNat = 64 * line + 12 * k ∧ k < 5 ∧ line < 2 ^ 47 := by
  simp only [slotPc, Bool.and_eq_true, beq_iff_eq, decide_eq_true_eq] at h
  obtain ⟨⟨high, onSlot⟩, last⟩ := h
  have small : pc.toNat / 2 ^ 53 = 0 := by simpa [Nat.shiftRight_eq_div_pow] using congrArg BitVec.toNat high
  exact ⟨pc.toNat / 64, pc.toNat % 64 / 12, by omega, by omega, by omega⟩
theorem toNat_nextSlot {pc : Dword} {line k : Nat} (at_ : pc.toNat = 64 * line + 12 * k) (slot : k < 5) (low : line < 2 ^ 47) :
    (nextSlot pc).toNat = if k = 4 then 64 * (line + 1) else 64 * line + 12 * (k + 1) := by
  unfold nextSlot
  by_cases last : k = 4
  · rw [if_pos (by omega), if_pos last]
    bv_omega
  · rw [if_neg (by omega), if_neg last]
    bv_omega
/-- The slot number counts five slots to a line. -/
theorem linSlot_eq {pc : Dword} {line k : Nat} (at_ : pc.toNat = 64 * line + 12 * k) (slot : k < 5) :
    linSlot pc = (5 * line + k : Nat) := by
  unfold linSlot
  exact congrArg Int.ofNat (by omega)
theorem toNat_pcOfLin {line k : Nat} (slot : k < 5) (low : line < 2 ^ 48) :
    (pcOfLin (5 * line + k : Nat)).toNat = 64 * line + 12 * k := by
  have lin : ((5 * line + k : Nat) : Int) / 5 * 64 + ((5 * line + k : Nat) : Int) % 5 * 12 = (64 * line + 12 * k : Nat) := by omega
  rw [pcOfLin, lin, BitVec.ofInt_natCast, BitVec.toNat_ofNat]
  omega

theorem target_zero {pc : Dword} (h : slotPc pc = true) : target pc 0 = pc := by
  obtain ⟨line, k, at_, slot, low⟩ := slotPc_spec h
  apply BitVec.eq_of_toNat_eq
  have same : linSlot pc + (0 : Word).toInt = (5 * line + k : Nat) := by rw [linSlot_eq at_ slot]; rfl
  rw [target, same, toNat_pcOfLin slot (by omega), at_]
theorem target_one {pc : Dword} (h : slotPc pc = true) : target pc 1 = nextSlot pc := by
  obtain ⟨line, k, at_, slot, low⟩ := slotPc_spec h
  apply BitVec.eq_of_toNat_eq
  have one : (1 : Word).toInt = 1 := rfl
  rw [target, linSlot_eq at_ slot, one, toNat_nextSlot at_ slot low]
  split
  · have wraps : ((5 * line + k : Nat) : Int) + 1 = (5 * (line + 1) + 0 : Nat) := by omega
    rw [wraps, toNat_pcOfLin (by omega) (by omega)]
    rfl
  · have follows : ((5 * line + k : Nat) : Int) + 1 = (5 * line + (k + 1) : Nat) := by omega
    rw [follows, toNat_pcOfLin (by omega) (by omega)]
theorem nextSlot_behind {pc : Dword} (h : slotPc pc = true) : pc.toNat + 12 ≤ (nextSlot pc).toNat := by
  obtain ⟨line, k, at_, slot, low⟩ := slotPc_spec h
  rw [toNat_nextSlot at_ slot low]
  split <;> omega

/-- Settles O18: each meaning is a transfer or a step in sequence, and slot distances are those of the lines of five slots. -/
theorem branches : Obligations.Branches :=
  ⟨fun _ _ => ⟨fun _ issues => ranTo_of_meaning rfl issues rfl, fun _ => ran_brcNz, fun _ => ran_brcZ,
      fun _ issues => ranTo_of_meaning rfl issues rfl, fun _ issues => ranTo_of_meaning rfl issues rfl,
      fun _ _ => ranTo_call, fun _ _ => ranTo_callr⟩,
    fun _ slot => ⟨target_zero slot, target_one slot, nextSlot_behind slot⟩⟩

end Sys2Proof.Machine
end

section
/-! Proofs about hardware loops: their start (07 R169, R170) and their ends (07 R171). -/

namespace Sys2Proof.Machine

/-! ### `loop` (R169, R170) -/

theorem ran_loop {o : BOps} {s : State} {x : Ctx} (issues : ready (.loop o) s = some x) :
    let n : Fin 3 := Fin.ofNat 3 o.sub.toNat
    let e := target x.fr.pc o.dist
    (x.uni o.a = 0 → ∃ t, exec (.loop o) s = .next t ∧
      Ran x {} false ((x.core.dropLoop n).transfer x.arm (nextSlot e)) t) ∧
    (x.uni o.a ≠ 0 → ∃ t, exec (.loop o) s = .next t ∧
      Ran x {} false (((x.core.dropLoop n).startLoop n (x.uni o.a) (nextSlot x.fr.pc) e).advance x.arm) t) := by
  intro n e
  refine ⟨fun zero => ran_of_meaning rfl issues (F := fun c => (c.dropLoop n).transfer x.arm (nextSlot e)) (if_pos zero) ?_,
    fun some => ran_of_meaning rfl issues
      (F := fun c => ((c.dropLoop n).startLoop n (x.uni o.a) (nextSlot x.fr.pc) e).advance x.arm) (if_neg some) ?_⟩
  · intro g d
    rw [WaleCore.dropLoop_withData, WaleCore.transfer_withData]
  · intro g d
    rw [WaleCore.dropLoop_withData, WaleCore.startLoop_withData, WaleCore.advance_withData]

/-- Settles O21: `loop` by its count, and the two operations on the loop descriptors by their fields. -/
theorem loopStarts : Obligations.LoopStarts := by
  refine ⟨fun o s x => ran_loop, fun c n k st en => ⟨?_, ?_, rfl, fun m other => ?_, rfl, ?_, ?_, fun m other => ⟨?_, ?_⟩⟩⟩
  · exact List.filter_congr fun m _ => (decide_not).symm
  · exact congrArg LoopD.lact ((vget_vset ..).trans (if_pos rfl))
  · exact (vget_vset ..).trans (if_neg other)
  · exact (vget_vset ..).trans (if_pos rfl)
  · exact (vget_vset ..).trans (if_pos rfl)
  · exact (vget_vset ..).trans (if_neg other)
  · exact (vget_vset ..).trans (if_neg other)

/-! ### Loops that end at a slot (R171) -/

theorem eq_of_vget {α : Type} {n : Nat} {x y : Vector α n} (h : ∀ i, vget x i = vget y i) : x = y :=
  Vector.ext fun j lt => h ⟨j, lt⟩

/-- The core after one pass of loop `n`. -/
def WaleCore.countLoop (c : WaleCore) (n : Fin 3) : WaleCore := { c with lc := vset c.lc n (vget c.lc n - 1) }
/-- The core after the last pass of the loops `us`, which are no longer active. -/
def WaleCore.endLoops (c : WaleCore) (us : List (Fin 3)) : WaleCore :=
  { c with
    lc := Vector.ofFn fun m => if m ∈ us then vget c.lc m - 1 else vget c.lc m
    loops := Vector.ofFn fun m => if m ∈ us then { vget c.loops m with lact := false } else vget c.loops m }
/-- The core after the loops `us` have started again with the loop around them. -/
def WaleCore.restartLoops (c : WaleCore) (us : List (Fin 3)) : WaleCore :=
  { c with
    lc := Vector.ofFn fun m => if m ∈ us then (vget c.loops m).lreload else vget c.lc m
    loops := Vector.ofFn fun m => if m ∈ us then { vget c.loops m with lact := true } else vget c.loops m }

section
variable (c : WaleCore) (us : List (Fin 3)) (m n : Fin 3)

@[simp] theorem WaleCore.countLoop_lc : vget (c.countLoop n).lc m = if m = n then vget c.lc n - 1 else vget c.lc m :=
  vget_vset ..
@[simp] theorem WaleCore.countLoop_loops : (c.countLoop n).loops = c.loops := rfl
@[simp] theorem WaleCore.endLoops_lc : vget (c.endLoops us).lc m = if m ∈ us then vget c.lc m - 1 else vget c.lc m :=
  vget_ofFn ..
@[simp] theorem WaleCore.endLoops_loops :
    vget (c.endLoops us).loops m = if m ∈ us then { vget c.loops m with lact := false } else vget c.loops m :=
  vget_ofFn ..
@[simp] theorem WaleCore.restartLoops_lc :
    vget (c.restartLoops us).lc m = if m ∈ us then (vget c.loops m).lreload else vget c.lc m :=
  vget_ofFn ..
@[simp] theorem WaleCore.restartLoops_loops :
    vget (c.restartLoops us).loops m = if m ∈ us then { vget c.loops m with lact := true } else vget c.loops m :=
  vget_ofFn ..
end

/-- A loop that ends stays where it is. -/
theorem WaleCore.endLoops_lend (c : WaleCore) (us : List (Fin 3)) (m : Fin 3) :
    (vget (c.endLoops us).loops m).lend = (vget c.loops m).lend := by
  rw [WaleCore.endLoops_loops]
  split <;> rfl

theorem WaleCore.ext_loops {c d : WaleCore} (rest : d = { c with lc := d.lc, loops := d.loops })
    (lc : ∀ m, vget d.lc m = vget c.lc m) (loops : ∀ m, vget d.loops m = vget c.loops m) : d = c := by
  rw [rest, eq_of_vget lc, eq_of_vget loops]
theorem WaleCore.endLoops_nil (c : WaleCore) : c.endLoops [] = c :=
  WaleCore.ext_loops rfl (fun _ => by simp) fun _ => by simp
/-- The innermost loop ends, then those around it. -/
theorem WaleCore.endLoops_cons (c : WaleCore) {u : Fin 3} {us : List (Fin 3)} (new : u ∉ us) :
    (c.endLoops [u]).endLoops us = c.endLoops (u :: us) := by
  refine WaleCore.ext_loops rfl (fun m => ?_) fun m => ?_
  all_goals
    by_cases first : m = u
    · subst first; simp [new]
    · simp [first]
theorem WaleCore.restartLoops_nil (c : WaleCore) : c.restartLoops [] = c :=
  WaleCore.ext_loops rfl (fun _ => by simp) fun _ => by simp
theorem WaleCore.restartLoops_cons (c : WaleCore) (u : Fin 3) (us : List (Fin 3)) :
    (c.restartLoops [u]).restartLoops us = c.restartLoops (u :: us) := by
  refine WaleCore.ext_loops rfl (fun m => ?_) fun m => ?_
  all_goals
    by_cases first : m = u
    · subst first; simp
    · simp [first]

theorem endLoops_one (c : WaleCore) (n : Fin 3) :
    { c with lc := vset c.lc n (vget c.lc n - 1), loops := vset c.loops n { vget c.loops n with lact := false } } =
      c.endLoops [n] := by
  refine WaleCore.ext_loops rfl (fun m => ?_) fun m => ?_
  all_goals
    by_cases same : m = n
    · subst same; simp
    · simp [same]
theorem restartLoops_one (c : WaleCore) (n : Fin 3) :
    { c with lc := vset c.lc n (vget c.loops n).lreload, loops := vset c.loops n { vget c.loops n with lact := true } } =
      c.restartLoops [n] := by
  refine WaleCore.ext_loops rfl (fun m => ?_) fun m => ?_
  all_goals
    by_cases same : m = n
    · subst same; simp
    · simp [same]

/-- Loops whose counters are used up at their end are passed, and the next one out is judged. -/
theorem loopEnd_ended {pc : Dword} {us : List (Fin 3)} (distinct : us.Nodup) {c : WaleCore}
    (ended : ∀ u ∈ us, (vget c.loops u).lend = pc ∧ vget c.lc u = 1) (rest ps : List (Fin 3)) :
    loopEnd pc c (us ++ rest) ps = loopEnd pc (c.endLoops us) rest (us.reverse ++ ps) := by
  induction us generalizing c ps with
  | nil => rw [WaleCore.endLoops_nil]; rfl
  | cons u us ih =>
    obtain ⟨new, distinct⟩ := List.nodup_cons.mp distinct
    obtain ⟨here, last⟩ := ended u List.mem_cons_self
    have later : ∀ v ∈ us, (vget (c.endLoops [u]).loops v).lend = pc ∧ vget (c.endLoops [u]).lc v = 1 := by
      intro v mem
      obtain ⟨lend, lc⟩ := ended v (List.mem_cons_of_mem u mem)
      have other : v ≠ u := fun same => new (same ▸ mem)
      exact ⟨(WaleCore.endLoops_lend ..).trans lend, by simp [other, lc]⟩
    rw [List.cons_append, loopEnd_end here (by rw [last]; rfl), endLoops_one, ih distinct later, WaleCore.endLoops_cons c new]
    simp
/-- A back-edge takes the loops that have ended inside with it. -/
theorem loopEnd_restarts {pc : Dword} {c : WaleCore} {n : Fin 3} {rest ps : List (Fin 3)} (here : (vget c.loops n).lend = pc)
    (more : vget c.lc n ≠ 1) :
    loopEnd pc c (n :: rest) ps =
      ({ (c.countLoop n).restartLoops ps with lstack := ps.reverse ++ n :: rest }, (vget c.loops n).lstart, true) := by
  have again : ∀ (qs : List (Fin 3)) (d : WaleCore), qs.foldl (fun (c : WaleCore) m =>
      { c with lc := vset c.lc m (vget c.loops m).lreload
               loops := vset c.loops m { (vget c.loops m) with lact := true } }) d = d.restartLoops qs := by
    intro qs
    induction qs with
    | nil => exact fun d => d.restartLoops_nil.symm
    | cons q qs ih => exact fun d => by rw [List.foldl_cons, restartLoops_one, ih, WaleCore.restartLoops_cons]
  rw [loopEnd_back here (by bv_omega), again]
  rfl

/-! ### The next PC (R171) -/

theorem WaleCore.setFrag_rest (c : WaleCore) (a : ArmId) (f : Arm) :
    c.setFrag a f = { c with base := (c.setFrag a f).base, stack := (c.setFrag a f).stack } := by
  unfold WaleCore.setFrag
  split <;> rfl
@[simp] theorem WaleCore.setFrag_lc (c : WaleCore) (a : ArmId) (f : Arm) : (c.setFrag a f).lc = c.lc := by
  rw [WaleCore.setFrag_rest]
@[simp] theorem WaleCore.setFrag_loops (c : WaleCore) (a : ArmId) (f : Arm) : (c.setFrag a f).loops = c.loops := by
  rw [WaleCore.setFrag_rest]
@[simp] theorem WaleCore.setFrag_lstack (c : WaleCore) (a : ArmId) (f : Arm) : (c.setFrag a f).lstack = c.lstack := by
  rw [WaleCore.setFrag_rest]
theorem WaleCore.frag_setFrag_self {c : WaleCore} {a : ArmId} (there : a = .sole ∨ c.stack ≠ []) (f : Arm) :
    (c.setFrag a f).frag a = f :=
  (c.frag_setFrag a a f).trans (if_pos ⟨rfl, there⟩)

/-- The fragment goes on at `pc`. -/
def Arm.goTo (f : Arm) (pc : Dword) (arr : Bool) : Arm := { f with pc := pc, st := .running, split := false, arr := arr }

section
variable {c : WaleCore} {a : ArmId} {us rest : List (Fin 3)} (plain : (c.frag a).retry = none) (stack : c.lstack = us ++ rest)
  (distinct : us.Nodup) (ended : ∀ u ∈ us, (vget c.loops u).lend = (c.frag a).pc ∧ vget c.lc u = 1)
include plain stack distinct ended

/-- Where no loop but those `us` ends, the fragment goes on in sequence. -/
theorem WaleCore.advance_on (apart : ∀ n, rest.head? = some n → (vget c.loops n).lend ≠ (c.frag a).pc) :
    c.advance a = ({ c.endLoops us with lstack := rest } : WaleCore).setFrag a ((c.frag a).goTo (nextSlot (c.frag a).pc) false) := by
  have next : loopEnd (c.frag a).pc c c.lstack [] = ({ c.endLoops us with lstack := rest }, nextSlot (c.frag a).pc, false) := by
    rw [stack, loopEnd_ended distinct ended]
    cases rest with
    | nil => rfl
    | cons n rest => exact loopEnd_other (by rw [WaleCore.endLoops_lend]; exact apart n rfl)
  unfold WaleCore.advance
  simp only [plain, next]
  cases a <;> rfl
/-- Where the loop around them has passes left, the fragment goes back to its start. -/
theorem WaleCore.advance_back {n : Fin 3} {more : List (Fin 3)} (around : rest = n :: more) (new : n ∉ us)
    (here : (vget c.loops n).lend = (c.frag a).pc) (left : vget c.lc n ≠ 1) :
    c.advance a = ({ ((c.endLoops us).countLoop n).restartLoops us.reverse with lstack := c.lstack } : WaleCore).setFrag a
      ((c.frag a).goTo (vget c.loops n).lstart true) := by
  have next : loopEnd (c.frag a).pc c c.lstack [] =
      ({ ((c.endLoops us).countLoop n).restartLoops us.reverse with lstack := c.lstack }, (vget c.loops n).lstart, true) := by
    conv_lhs => rw [stack, loopEnd_ended distinct ended, around]
    rw [loopEnd_restarts (by rw [WaleCore.endLoops_lend]; exact here) (by simpa [new] using left)]
    simp [stack, around, new]
  unfold WaleCore.advance
  simp only [plain, next]
  cases a <;> rfl

variable (there : a = .sole ∨ c.stack ≠ [])
include there
theorem WaleCore.advance_on_spec (apart : ∀ n, rest.head? = some n → (vget c.loops n).lend ≠ (c.frag a).pc) :
    (c.advance a).frag a = { c.frag a with pc := nextSlot (c.frag a).pc, st := .running, split := false, arr := false } ∧
    (c.advance a).lstack = rest ∧
    (∀ m, vget (c.advance a).lc m = if m ∈ us then 0 else vget c.lc m) ∧
    ∀ m, vget (c.advance a).loops m = if m ∈ us then { vget c.loops m with lact := false } else vget c.loops m := by
  rw [WaleCore.advance_on plain stack distinct ended apart]
  refine ⟨WaleCore.frag_setFrag_self (c := { c.endLoops us with lstack := rest }) there _, by simp, fun m => ?_, fun m => by simp⟩
  by_cases mem : m ∈ us
  · simp [mem, (ended m mem).2]
  · simp [mem]
theorem WaleCore.advance_back_spec {n : Fin 3} {more : List (Fin 3)} (around : rest = n :: more) (new : n ∉ us)
    (here : (vget c.loops n).lend = (c.frag a).pc) (left : vget c.lc n ≠ 1) :
    (c.advance a).frag a = { c.frag a with pc := (vget c.loops n).lstart, st := .running, split := false, arr := true } ∧
    (c.advance a).lstack = c.lstack ∧
    (∀ m, vget (c.advance a).lc m =
      if m = n then vget c.lc n - 1 else if m ∈ us then (vget c.loops m).lreload else vget c.lc m) ∧
    ∀ m, vget (c.advance a).loops m = if m ∈ us then { vget c.loops m with lact := true } else vget c.loops m := by
  rw [WaleCore.advance_back plain stack distinct ended around new here left]
  refine ⟨WaleCore.frag_setFrag_self
    (c := { ((c.endLoops us).countLoop n).restartLoops us.reverse with lstack := c.lstack }) there _, by simp, fun m => ?_, fun m => ?_⟩
  · by_cases own : m = n
    · subst own; simp [new]
    · by_cases mem : m ∈ us <;> simp [own, mem]
  · by_cases mem : m ∈ us <;> simp [mem]
end

/-- Settles O8: `advance_on_spec` and `advance_back_spec` for the loops that end at the slot: none, the innermost, or any. -/
theorem sequenceAndLoopEnds : Obligations.SequenceAndLoopEnds := by
  refine ⟨fun c a plain there none => ?_, fun c a n rest plain there stack => ?_,
    fun c a us rest plain there stack distinct ended => ?_⟩
  · exact (WaleCore.advance_on_spec (us := []) plain none List.nodup_nil (by simp) there (by simp)).1
  · have around := WaleCore.advance_back_spec (us := []) plain stack List.nodup_nil (by simp) there rfl (by simp)
    have inner (here : (vget c.loops n).lend = (c.frag a).pc) (last : vget c.lc n = 1) :
        ∀ u ∈ [n], (vget c.loops u).lend = (c.frag a).pc ∧ vget c.lc u = 1 := by simp [here, last]
    refine ⟨fun apart => ?_, fun here left => ?_, fun here last outermost => ?_, fun m more outer other here last there' left => ?_⟩
    · obtain ⟨frag, lstack, lc, -⟩ := WaleCore.advance_on_spec (us := []) plain stack List.nodup_nil (by simp) there
        (by simpa using apart)
      exact ⟨frag, eq_of_vget fun m => (lc m).trans (by simp), lstack.trans stack.symm⟩
    · obtain ⟨frag, lstack, lc, -⟩ := around here left
      exact ⟨frag, by simpa using lc, lstack⟩
    · obtain ⟨frag, lstack, lc, loops⟩ := WaleCore.advance_on_spec (us := [n]) (rest := []) plain (by rw [stack, outermost]; rfl)
        (List.nodup_singleton n) (inner here last) there (by simp)
      exact ⟨frag, by simp [lc], lstack, by simp [loops]⟩
    · obtain ⟨frag, lstack, lc, loops⟩ := WaleCore.advance_back_spec (us := [n]) plain stack (List.nodup_singleton n)
        (inner here last) there outer (by simpa using other) there' left
      exact ⟨frag, by simp [lc], by simp [lc, other.symm], by simp [loops], lstack⟩
  · obtain ⟨inside, -, apart⟩ := List.nodup_append.mp (stack ▸ distinct)
    refine ⟨WaleCore.advance_on_spec plain stack inside ended there, fun n head here left => ?_⟩
    obtain ⟨more, around⟩ := List.head?_eq_some_iff.mp head
    exact WaleCore.advance_back_spec plain stack inside ended there around
      (fun mem => apart n mem n (around ▸ List.mem_cons_self) rfl) here left

end Sys2Proof.Machine
end

section
/-! Proofs about single-fragment points (07 R166). -/

namespace Sys2Proof.Machine

/-! ### The judgement at a point -/

/-- The fragment goes on, and the other is suspended at its point. -/
def WaleCore.goFirst (c : WaleCore) (a : ArmId) (split : Bool) : WaleCore :=
  (c.setFrag a.sib { c.frag a.sib with st := .suspended, why := .point }).setFrag a { c.frag a with st := .running, split := split }
/-- The fragment is suspended at its point, and the other goes on. -/
def WaleCore.goSecond (c : WaleCore) (a : ArmId) (split : Bool) : WaleCore :=
  (c.setFrag a { c.frag a with st := .suspended, split := split, why := .point }).setFrag a.sib { c.frag a.sib with st := .running }
/-- ARM0 stands at a `brd` that would split. -/
def splits0 (c : WaleCore) (a : ArmId) (split : Bool) : Bool := if a = .a0 then split else (c.frag a.sib).split

section
variable {c : WaleCore} {a : ArmId} (split : Bool) (arm : a ≠ .sole)
include arm

theorem judge_heldByTrap (held : (c.frag a.sib).heldByTrap = true) : judge c a split = if split then .wait else .go := by
  unfold Arm.heldByTrap at held
  cases a with
  | sole => exact absurd rfl arm
  | a0 | a1 => exact if_pos held
theorem judge_alone (alone : (c.frag a.sib).st = .free ∨ (c.frag a.sib).st = .opened) : judge c a split = .go := by
  cases a with
  | sole => exact absurd rfl arm
  | a0 | a1 => obtain alone | alone := alone <;> simp [judge, alone]
theorem judge_other_runs (runs : (c.frag a.sib).st = .running) : judge c a split = .wait := by
  cases a with
  | sole => exact absurd rfl arm
  | a0 | a1 => simp [judge, runs]

variable (free : (c.frag a.sib).heldByTrap = false) (stops : (c.frag a.sib).st = .waiting ∨ (c.frag a.sib).st = .suspended)
include free stops

/-- Where both wait, the `brd` that would split decide. -/
theorem judge_both_wait :
    judge c a split = if split = true ∧ (c.frag a.sib).split = true then .sync0 else if splits0 c a split then .swap0 else .swap1 := by
  have trap : ¬((c.frag a.sib).st == .suspended && (c.frag a.sib).why == .trap) = true := Bool.eq_false_iff.mp free
  cases a with
  | sole => exact absurd rfl arm
  | a0 | a1 =>
    refine (if_neg trap).trans ?_
    obtain stops | stops := stops <;> simp [splits0, stops, and_comm]
omit free in
theorem stack_of_sibling_stops : ∃ k ks, c.stack = k :: ks := by
  cases stack : c.stack with
  | nil =>
    have nobody : (c.frag a.sib).st = .free := by
      cases a with
      | sole => exact absurd rfl arm
      | a0 | a1 => simp [WaleCore.frag, ArmId.sib, stack, Arm.none]
    simp [nobody] at stops
  | cons k ks => exact ⟨k, ks, rfl⟩

variable (apart : ¬(split = true ∧ (c.frag a.sib).split = true))
include apart

/-- ARM0 goes on unless it stands at a `brd` that would split; then ARM1 does. -/
theorem judge_goFirst (first : a = .a1 ↔ splits0 c a split = true) :
    (judge c a split).proceeds a = true ∧ judge c a split ≠ .sync0 ∧
      applyJudge c a split (judge c a split) = c.goFirst a split := by
  obtain ⟨k, ks, stack⟩ := stack_of_sibling_stops arm stops
  rw [judge_both_wait split arm free stops, if_neg apart]
  cases a with
  | sole => exact absurd rfl arm
  | a0 => simp [show splits0 c .a0 split = false by simpa using first, Sfp.proceeds, applyJudge, WaleCore.goFirst,
      WaleCore.setFrag, WaleCore.frag, ArmId.sib, stack]
  | a1 => simp [first.mp rfl, Sfp.proceeds, applyJudge, WaleCore.goFirst, WaleCore.setFrag, WaleCore.frag, ArmId.sib, stack]
theorem judge_goSecond (second : ¬(a = .a1 ↔ splits0 c a split = true)) :
    (judge c a split).proceeds a = false ∧ judge c a split ≠ .sync0 ∧
      applyJudge c a split (judge c a split) = c.goSecond a split := by
  obtain ⟨k, ks, stack⟩ := stack_of_sibling_stops arm stops
  rw [judge_both_wait split arm free stops, if_neg apart]
  cases a with
  | sole => exact absurd rfl arm
  | a0 => simp [show splits0 c .a0 split = true by simpa using second, Sfp.proceeds, applyJudge, WaleCore.goSecond,
      WaleCore.setFrag, WaleCore.frag, ArmId.sib, stack]
  | a1 => simp [show splits0 c .a1 split = false by simpa using second, Sfp.proceeds, applyJudge, WaleCore.goSecond,
      WaleCore.setFrag, WaleCore.frag, ArmId.sib, stack]
end

/-! ### The checks at a point -/

/-- The checks of `i` before its point hold for the fragment of context `y`. -/
structure Legal (i : Instr) (f : Info) (y : Ctx) : Prop where
  left : y.core.yleft ≠ 0
  wf : i.wf = true
  regs : vregsOk y.st.wl.vregs f.regs = true
  shadow : shadowIll y.core y.arm f = false

theorem legal_iff {i : Instr} {f : Info} {s : State} {x : Ctx} (hf : infoOf i = some f) :
    legal i s = some x ↔ ∃ y, s.ctx? = some y ∧ x = y.header f ∧ Legal i f y := by
  unfold legal
  cases hy : s.ctx? with
  | none => simp [hf]
  | some y =>
    simp only [hf, Option.ite_none_right_eq_some, Bool.and_eq_true, bne_iff_ne, Bool.not_eq_true', Option.some.injEq]
    constructor
    · rintro ⟨⟨⟨⟨left, wf⟩, regs⟩, shadow⟩, rfl⟩
      exact ⟨y, rfl, rfl, left, wf, regs, shadow⟩
    · rintro ⟨y, rfl, rfl, left, wf, regs, shadow⟩
      exact ⟨⟨⟨⟨left, wf⟩, regs⟩, shadow⟩, rfl⟩

/-- What follows a judgement `j` of the point. -/
def pointGate (f : Info) (x : Ctx) (split : Bool) (j : Sfp) : Gate :=
  let z := x.withCore (applyJudge x.core x.arm split j)
  if j == .sync0 then .stop (.next z.sync0)
  else if !j.proceeds x.arm then .stop (.next z.s)
  else regionGate f z

theorem gate_of_legal {i : Instr} {f : Info} {s : State} {x : Ctx} (hf : infoOf i = some f) (h : legal i s = some x)
    (point : atPoint i f x = true) :
    gate i s = pointGate f x (splits i x.core x.fr) (judge x.core x.arm (splits i x.core x.fr)) := by
  obtain ⟨y, hy, rfl, left, wf, regs, shadow⟩ := (legal_iff hf).mp h
  unfold gate
  rw [hf, hy]
  simp only [left, if_false, wf, regs, shadow, Bool.not_true, Bool.or_self, Bool.false_eq_true]
  unfold atPoint at point
  rw [if_pos point]
  rfl
theorem exec_stopped {i : Instr} {f : Info} {s t : State} {x : Ctx} (hf : infoOf i = some f) (h : legal i s = some x)
    (point : atPoint i f x = true) {j : Sfp} (judged : judge x.core x.arm (splits i x.core x.fr) = j)
    (stops : pointGate f x (splits i x.core x.fr) j = .stop (.next t)) : exec i s = .next t :=
  exec_of_gate_stop (issued_of_info hf) ((gate_of_legal hf h point).trans (judged ▸ stops))
theorem checked_of_judge_go {i : Instr} {f : Info} {s : State} {x : Ctx} (hf : infoOf i = some f) (h : legal i s = some x)
    (goes : judge x.core x.arm (splits i x.core x.fr) = .go) : checked i s = some x := by
  unfold checked
  simp [hf, h, goes]
theorem legal_frag {i : Instr} {f : Info} {s : State} {x : Ctx} (hf : infoOf i = some f) (h : legal i s = some x) :
    x.s = s ∧ s.site? x.st.w = some x.st ∧ x.fr = x.core.frag x.arm ∧ s.cur = some ⟨x.st.w, x.arm⟩ := by
  obtain ⟨y, hy, rfl, -⟩ := (legal_iff hf).mp h
  obtain ⟨hs, site, frag, cur⟩ := State.ctx?_spec hy
  exact ⟨hs, site, frag, cur⟩

/-! ### The other fragment is suspended first -/

/-- Core `d` has all of `c` that the checks of fragment `a` look at. -/
structure SameChecks (a : ArmId) (c d : WaleCore) : Prop where
  rest : d = { c with stack := d.stack }
  depth : d.stack.length = c.stack.length
  pc : (d.frag a).pc = (c.frag a).pc
  em : (d.frag a).em = (c.frag a).em
  retry : (d.frag a).retry = (c.frag a).retry

section
variable {a : ArmId} {c d : WaleCore} (same : SameChecks a c d)
include same

theorem SameChecks.left : d.yleft = c.yleft := by rw [same.rest]
theorem SameChecks.getP (n : Fin 8) : d.getP n = c.getP n := by rw [same.rest]; rfl
theorem SameChecks.shadow (f : Info) : shadowIll d a f = shadowIll c a f := by
  have shadows : d.shadows = c.shadows := by rw [same.rest]
  simp only [shadowIll, WaleCore.inShadow, shadows, same.depth]
theorem SameChecks.visited (h : Hdr) : visited d (d.frag a).em h = visited c (c.frag a).em h := by
  simp only [Machine.visited, same.em, same.getP]
theorem SameChecks.splits (i : Instr) : splits i d (d.frag a) = splits i c (c.frag a) := by
  have empty : d.stack.isEmpty = c.stack.isEmpty := by
    rw [Bool.eq_iff_iff, List.isEmpty_iff_length_eq_zero, List.isEmpty_iff_length_eq_zero, same.depth]
  cases i with
  | brd o => simp only [Machine.splits, same.em, same.getP, empty]
  | _ => rfl
theorem SameChecks.atLoopEnd : atLoopEnd d (d.frag a).pc = atLoopEnd c (c.frag a).pc := by
  have loops : d.lstack = c.lstack ∧ d.loops = c.loops := by rw [same.rest]; exact ⟨rfl, rfl⟩
  simp only [Machine.atLoopEnd, same.pc, loops]
end
theorem SameChecks.atPoint {x : Ctx} {d : WaleCore} (same : SameChecks x.arm x.core d) (i : Instr) (f : Info)
    (frag : x.fr = x.core.frag x.arm) : atPoint i f (x.withCore d) = atPoint i f x := by
  unfold Machine.atPoint
  rw [show (x.withCore d).core = d from rfl, show (x.withCore d).fr = d.frag x.arm from rfl, same.splits, same.atLoopEnd, ← frag]

/-- The context of the issuing fragment after a change of fragments that the checks do not see. -/
theorem ctx?_withCore {s : State} {y : Ctx} {d : WaleCore} (hy : s.ctx? = some y) (same : SameChecks y.arm y.core d) :
    (y.withCore d).s.ctx? = some (y.withCore d) := by
  obtain ⟨cur, site, whole⟩ := State.ctx?_eq_some_iff.mp hy
  have hs : y.s = s := congrArg Ctx.s whole
  have vis : y.vis = (d.frag y.arm).em := (congrArg Ctx.vis whole).trans same.em.symm
  refine State.ctx?_eq_some_iff.mpr ⟨(congrArg State.cur hs).trans cur, State.site?_setWale (hs ▸ site) rfl, ?_⟩
  rw [show ((y.withCore d).core.frag (y.withCore d).arm).em = y.vis from vis.symm]
  rw [whole]
  rfl
theorem legal_withCore {i : Instr} {f : Info} {s : State} {x : Ctx} {d : WaleCore} (hf : infoOf i = some f)
    (h : legal i s = some x) (same : SameChecks x.arm x.core d) : legal i (x.withCore d).s = some (x.withCore d) := by
  obtain ⟨y, hy, rfl, left, wf, regs, shadow⟩ := (legal_iff hf).mp h
  refine (legal_iff hf).mpr ⟨y.withCore d, ctx?_withCore hy same, ?_, same.left ▸ left, wf, regs, (same.shadow f).trans shadow⟩
  obtain ⟨-, -, frag, -⟩ := State.ctx?_spec hy
  have retry : (d.frag y.arm).retry = y.fr.retry := frag ▸ same.retry
  have la : ((y.withCore d).header f).la = (y.header f).la := by simp [Ctx.header, Ctx.withCore, retry]
  have vis : ((y.withCore d).header f).vis = (y.header f).vis := (same.visited f.h).trans (by rw [Ctx.header_core, Ctx.header_arm, ← frag]; rfl)
  calc (y.header f).withCore d
    _ = { (y.withCore d).header f with la := (y.header f).la, vis := (y.header f).vis } := rfl
    _ = (y.withCore d).header f := by rw [← la, ← vis]

section
variable {c : WaleCore} {a : ArmId} {k : Token} {ks : List Token} (arm : a ≠ .sole) (split : Bool) (stack : c.stack = k :: ks)
include arm stack

theorem WaleCore.goFirst_sib : (c.goFirst a split).frag a.sib = { c.frag a.sib with st := .suspended, why := .point } := by
  cases a with
  | sole => exact absurd rfl arm
  | a0 | a1 => simp [WaleCore.goFirst, WaleCore.setFrag, WaleCore.frag, ArmId.sib, stack]
theorem WaleCore.goFirst_sameChecks : SameChecks a c (c.goFirst a split) := by
  cases a with
  | sole => exact absurd rfl arm
  | a0 | a1 => constructor <;> simp [WaleCore.goFirst, WaleCore.setFrag, WaleCore.frag, ArmId.sib, stack]
theorem WaleCore.goFirst_goFirst : (c.goFirst a split).goFirst a split = c.goFirst a split := by
  cases a with
  | sole => exact absurd rfl arm
  | a0 | a1 => simp [WaleCore.goFirst, WaleCore.setFrag, WaleCore.frag, ArmId.sib, stack]
end

/-! ### A fragment at a point -/

/-- Where both arms stand at a `brd` that would split, the fault is ARM0's, whichever arm issues. -/
theorem Ctx.sync0_spec (x : Ctx) : ∃ (w : Wale) (r : FaultRec), x.sync0.wale? x.st.w = some w ∧
    w.core.pend0 = some r ∧ r.code = cSYNC ∧ r.mask = (x.core.frag .a0).em := by
  let c := (x.core.setFrag .a0 { x.core.frag .a0 with st := .running }).setFrag .a1
    { x.core.frag .a1 with st := .waiting, split := true }
  let z : Ctx := { x.withCore c with arm := .a0, fr := c.frag .a0 }
  have em : (c.frag .a0).em = (x.core.frag .a0).em := by
    cases stack : x.core.stack <;> simp [c, WaleCore.frag, WaleCore.setFrag, stack]
  refine ⟨_, z.record ⟨cSYNC, 0, z.fr.em⟩, (raised_raise z ⟨cSYNC, 0, z.fr.em⟩).wale, ?_, rfl, em⟩
  split <;> rfl

section
variable {i : Instr} {f : Info} {s : State} {x : Ctx} (hf : infoOf i = some f) (h : legal i s = some x)
  (point : atPoint i f x = true) (arm : x.arm ≠ .sole)
include hf h point

theorem waits_at_point (waits : judge x.core x.arm (splits i x.core x.fr) = .wait) : ∃ t, exec i s = .next t ∧
    OnlyWale x { x.st.wl with core := x.core.setFrag x.arm { x.fr with st := .waiting, split := splits i x.core x.fr } } t := by
  obtain ⟨-, -, frag, -⟩ := legal_frag hf h
  refine ⟨_, exec_stopped hf h point waits rfl, ?_⟩
  rw [frag]
  exact OnlyWale.setWale x _

include arm
variable (free : (x.core.frag x.arm.sib).heldByTrap = false)
  (stops : (x.core.frag x.arm.sib).st = .waiting ∨ (x.core.frag x.arm.sib).st = .suspended)
include free stops

theorem sync_at_point (mine : splits i x.core x.fr = true) (other : (x.core.frag x.arm.sib).split = true) :
    ∃ (t : State) (w : Wale) (r : FaultRec), exec i s = .next t ∧ t.wale? x.st.w = some w ∧
      w.core.pend0 = some r ∧ r.code = cSYNC ∧ r.mask = (x.core.frag .a0).em := by
  have judged : judge x.core x.arm (splits i x.core x.fr) = .sync0 := by
    rw [judge_both_wait _ arm free stops, if_pos ⟨mine, other⟩]
  obtain ⟨w, r, wale, pend, code, mask⟩ := (x.withCore x.core).sync0_spec
  exact ⟨_, w, r, exec_stopped hf h point judged rfl, wale, pend, code, mask⟩

variable (apart : ¬(splits i x.core x.fr = true ∧ (x.core.frag x.arm.sib).split = true))
include apart

theorem gives_way_at_point (second : ¬(x.arm = .a1 ↔ splits0 x.core x.arm (splits i x.core x.fr) = true)) :
    ∃ t, exec i s = .next t ∧
      OnlyWale x { x.st.wl with core := x.core.goSecond x.arm (splits i x.core x.fr) } t := by
  obtain ⟨stays, notSync, core⟩ := judge_goSecond _ arm free stops apart second
  refine ⟨_, exec_stopped hf h point rfl ?_, OnlyWale.setWale x _⟩
  unfold pointGate
  rw [if_neg (by simpa using notSync), if_pos (by rw [stays]; rfl), core]
  rfl
/-- The checks pass the point as they do once the other fragment is suspended. -/
theorem gate_goFirst (first : x.arm = .a1 ↔ splits0 x.core x.arm (splits i x.core x.fr) = true) :
    gate i s = regionGate f (x.withCore (x.core.goFirst x.arm (splits i x.core x.fr))) := by
  obtain ⟨goes, notSync, core⟩ := judge_goFirst _ arm free stops apart first
  rw [gate_of_legal hf h point]
  unfold pointGate
  rw [if_neg (by simpa using notSync), if_neg (by rw [goes]; decide), core]
theorem exec_goFirst (first : x.arm = .a1 ↔ splits0 x.core x.arm (splits i x.core x.fr) = true) :
    exec i s = exec i (x.withCore (x.core.goFirst x.arm (splits i x.core x.fr))).s := by
  obtain ⟨k, ks, stack⟩ := stack_of_sibling_stops arm stops
  obtain ⟨-, -, frag, -⟩ := legal_frag hf h
  have same := WaleCore.goFirst_sameChecks arm (splits i x.core x.fr) stack
  have sib := WaleCore.goFirst_sib arm (splits i x.core x.fr) stack
  have twice := WaleCore.goFirst_goFirst arm (splits i x.core x.fr) stack
  have once := gate_goFirst hf h point arm free stops apart first
  generalize x.core.goFirst x.arm (splits i x.core x.fr) = d at same sib twice once
  have split : splits i d (d.frag x.arm) = splits i x.core x.fr := frag ▸ same.splits i
  have point' : atPoint i f (x.withCore d) = true := (same.atPoint i f frag).trans point
  have judged : splits0 d x.arm (splits i x.core x.fr) = splits0 x.core x.arm (splits i x.core x.fr) := by
    rw [splits0, sib]
    rfl
  have again : gate i (x.withCore d).s = regionGate f ((x.withCore d).withCore (d.goFirst x.arm (splits i d (d.frag x.arm)))) :=
    gate_goFirst (x := x.withCore d) hf (legal_withCore hf h same) point' arm
      (show (d.frag x.arm.sib).heldByTrap = false by rw [sib]; rfl)
      (.inr (show (d.frag x.arm.sib).st = .suspended by rw [sib]))
      (show ¬(splits i d (d.frag x.arm) = true ∧ (d.frag x.arm.sib).split = true) by rw [split, sib]; exact apart)
      (show x.arm = .a1 ↔ splits0 d x.arm (splits i d (d.frag x.arm)) = true by rw [split, judged]; exact first)
  have self : (x.withCore d).withCore d = x.withCore d := Ctx.withCore_self (Sparse.find?_put_self _ _ _) rfl
  rw [split, twice, self] at again
  exact exec_of_gate_eq (issued_of_info hf) (once.trans again.symm)
end

/-- Settles O7: the judgement of the point by what the other fragment does, and `exec_goFirst` where this one proceeds. -/
theorem singleFragmentPoints : Obligations.SingleFragmentPoints := by
  intro i f s x hf h point arm o mine at0
  obtain ⟨hs, -, frag, -⟩ := legal_frag hf h
  refine ⟨fun held split => ?_, fun held whole => ?_, fun alone => ?_, fun free => ⟨fun runs => ?_, fun stops split other => ?_,
    fun stops apart first => ?_, fun stops apart second => ?_⟩⟩
  · exact waits_at_point hf h point ((judge_heldByTrap _ arm held).trans (if_pos split))
  · exact checked_of_judge_go hf h ((judge_heldByTrap _ arm held).trans (if_neg (Bool.eq_false_iff.mp whole)))
  · exact checked_of_judge_go hf h (judge_alone _ arm alone)
  · exact waits_at_point hf h point (judge_other_runs _ arm runs)
  · exact sync_at_point hf h point arm free stops split other
  · rw [frag]
    subst hs
    exact exec_goFirst hf h point arm free stops apart first
  · rw [frag]
    exact gives_way_at_point hf h point arm free stops apart second

end Sys2Proof.Machine
end

section
/-! Proofs about the instructions on join tokens and `exit`: their cases (07 R160 to R165, 09 R211). -/

namespace Sys2Proof.Machine

/-! ### `tok` (R160) -/

theorem siblingFaulted_iff (c : WaleCore) (a : ArmId) : siblingFaulted c a = true ↔
    a ≠ .sole ∧ (c.frag a.sib).live = true ∧ (c.pend a.sib ≠ none ∨ c.hoff ≠ none ∨ c.call ≠ none) := by
  simp [siblingFaulted, Option.isSome_iff_ne_none, and_assoc, or_assoc]

section
variable {s : State} {x : Ctx}

theorem ran_tok {o : BOps} (issues : ready (.tok o) s = some x) :
    (64 ≤ x.core.stack.length → ∃ t, exec (.tok o) s = .next t ∧ Raised x (x.record ⟨cJOVF, 0, x.fr.em⟩) t) ∧
    (x.core.stack.length < 64 →
      let waits := x.arm ≠ .sole ∧ (x.core.frag x.arm.sib).live = true ∧
        (x.core.pend x.arm.sib ≠ none ∨ x.core.hoff ≠ none ∨ x.core.call ≠ none)
      (waits → ∃ t, exec (.tok o) s = .next t ∧ Drains x t) ∧
      (¬waits → ∃ t, exec (.tok o) s = .next t ∧
        Ran x {} false ((x.core.pushToken x.arm (target x.fr.pc o.dist)).advance .a0) t)) := by
  refine ⟨fun full => raised_of_meaning rfl issues (if_pos full), fun room => ?_⟩
  have fits : ¬64 ≤ x.core.stack.length := Nat.not_le.mpr room
  refine ⟨fun waits => drains_of_meaning rfl issues ((if_neg fits).trans (if_pos ((siblingFaulted_iff _ _).mpr waits))),
    fun goes => ran_of_meaning (F := fun c => (c.pushToken x.arm (target x.fr.pc o.dist)).advance .a0) rfl issues
      ((if_neg fits).trans (if_neg (mt (siblingFaulted_iff _ _).mp goes))) fun g d => ?_⟩
  rw [WaleCore.pushToken_withData, WaleCore.advance_withData]

/-! ### `brd` and `join` (R161, R162) -/

theorem ran_brd {o : BOps} (issues : ready (.brd o) s = some x) :
    let t' := x.fr.em &&& x.pred o.a
    let f := x.fr.em &&& ~~~(x.pred o.a)
    let l := target x.fr.pc o.dist
    (x.core.stack = [] → ∃ t, exec (.brd o) s = .next t ∧ Raised x (x.record ⟨cSYNC, 0, x.fr.em⟩) t) ∧
    (x.core.stack ≠ [] → t' = 0 → ∃ t, exec (.brd o) s = .next t ∧ RanOn x false {} t) ∧
    (x.core.stack ≠ [] → t' ≠ 0 → f = 0 → ∃ t, exec (.brd o) s = .next t ∧ RanTo x l {} t) ∧
    (x.core.stack ≠ [] → t' ≠ 0 → f ≠ 0 → ∃ t, exec (.brd o) s = .next t ∧
      Ran x {} false ((x.core.splitArms x.arm t' l).advance .a1) t) := by
  intro t' f l
  refine ⟨fun bare => raised_of_meaning rfl issues (if_pos (List.isEmpty_iff.mpr bare)), fun token none => ?_,
    fun token some all => ?_, fun token some others => ?_⟩
  · exact ranOn_of_meaning rfl issues ((if_neg (mt List.isEmpty_iff.mp token)).trans (if_pos none))
  · exact ranTo_of_meaning rfl issues ((if_neg (mt List.isEmpty_iff.mp token)).trans ((if_neg some).trans (if_pos all)))
  · refine ran_of_meaning (F := fun c => (c.splitArms x.arm t' l).advance .a1) rfl issues
      ((if_neg (mt List.isEmpty_iff.mp token)).trans ((if_neg some).trans (if_neg others))) fun g d => ?_
    rw [WaleCore.splitArms_withData, WaleCore.advance_withData]
theorem ran_join {o : ROps} (issues : ready (.join o) s = some x) :
    (x.core.stack = [] → ∃ t, exec (.join o) s = .next t ∧ Raised x (x.record ⟨cSYNC, 0, x.fr.em⟩) t) ∧
    (x.core.stack ≠ [] → ∃ t, exec (.join o) s = .next t ∧ Ran x {} false (x.core.park x.arm) t) :=
  ⟨fun bare => raised_of_meaning rfl issues (if_pos (List.isEmpty_iff.mpr bare)),
    fun token => ran_of_meaning (F := fun c => c.park x.arm) rfl issues (if_neg (mt List.isEmpty_iff.mp token))
      fun g d => WaleCore.park_withData g d x.arm⟩

/-! ### `brk` and `exit` (R164, R165) -/

/-- The core after `brk` of the strands `m` to the token at depth `n`. -/
def WaleCore.breakTo (c : WaleCore) (a : ArmId) (m : Mask) (n : Nat) : WaleCore :=
  let d : WaleCore := { c with stack := brkStack m n c.stack }
  (d.setFrag a ((d.frag a).without m)).endOrGo a
theorem WaleCore.breakTo_withData (g d : WaleCore) (a : ArmId) (m : Mask) (n : Nat) :
    (g.withData d).breakTo a m n = (g.breakTo a m n).withData d := by
  let k : WaleCore := { g with stack := brkStack m n g.stack }
  calc (g.withData d).breakTo a m n
    _ = ((k.withData d).setFrag a (((k.withData d).frag a).without m)).endOrGo a := rfl
    _ = (g.breakTo a m n).withData d := by
      rw [WaleCore.frag_withData, WaleCore.setFrag_withData, WaleCore.endOrGo_withData]
      rfl

theorem ran_brk {o : BOps} (issues : ready (.brk o) s = some x) :
    let m := x.fr.em &&& x.pred o.a
    let c : WaleCore := { x.core with stack := brkStack m o.sub.toNat x.core.stack }
    (x.core.stack.length ≤ o.sub.toNat →
      ∃ t, exec (.brk o) s = .next t ∧ Raised x (x.record ⟨cSYNC, 0, x.fr.em⟩) t) ∧
    (o.sub.toNat < x.core.stack.length → m = 0 → ∃ t, exec (.brk o) s = .next t ∧ RanOn x false {} t) ∧
    (o.sub.toNat < x.core.stack.length → m ≠ 0 → ∃ t, exec (.brk o) s = .next t ∧
      Ran x {} false ((c.setFrag x.arm ((c.frag x.arm).without m)).endOrGo x.arm) t) := by
  intro m c
  refine ⟨fun shallow => raised_of_meaning rfl issues (if_pos shallow), fun deep none => ?_, fun deep some => ?_⟩
  · exact ranOn_of_meaning rfl issues ((if_neg (Nat.not_le.mpr deep)).trans (if_pos none))
  · exact ran_of_meaning (F := fun c => c.breakTo x.arm m o.sub.toNat) rfl issues
      ((if_neg (Nat.not_le.mpr deep)).trans (if_neg some)) fun g d => WaleCore.breakTo_withData g d x.arm m _

theorem ran_exit {o : ROps} (issues : ready (.exit o) s = some x) :
    (x.st.wl.engFaults = [] ∨ x.core.exited ||| x.vis ≠ 0xFFFFFFFF →
      ∃ t, exec (.exit o) s = .next t ∧ Ran x {} false (x.core.exitStrands x.arm x.vis) t) ∧
    (∀ e r, x.st.wl.engFaults = e :: r → x.core.exited ||| x.vis = 0xFFFFFFFF →
      ∃ t, exec (.exit o) s = .next t ∧ Raised x { e.f with mask := x.fr.em, resume := x.fr.pc } t) := by
  have leaves (g d : WaleCore) := WaleCore.exitStrands_withData g d x.arm x.vis
  refine ⟨fun none => ?_, fun e r reported last => ?_⟩
  · refine ran_of_meaning (F := fun c => c.exitStrands x.arm x.vis) rfl issues ?_ leaves
    cases faults : x.st.wl.engFaults with
    | nil => rfl
    | cons e r => exact if_neg (none.resolve_left (by simp [faults]))
  · refine raisedEng_of_meaning rfl issues ?_
    rw [reported]
    exact if_pos last
end

/-- Settles O19: each instruction by the tests of its meaning, in their order. -/
theorem tokenInstructions : Obligations.TokenInstructions :=
  fun _ _ => ⟨fun _ => ran_tok, fun _ => ran_brd, fun _ => ran_join, fun _ => ran_brk, fun _ => ran_exit⟩

end Sys2Proof.Machine
end

section
/-! Proofs about what the operations on join tokens do to a wale (07 R160 to R165). -/

namespace Sys2Proof.Machine

/-! ### Changes of fragments -/

section
variable (c : WaleCore) (a : ArmId) (f : Arm)

@[simp] theorem WaleCore.setFrag_exited : (c.setFrag a f).exited = c.exited := by rw [WaleCore.setFrag_rest]
@[simp] theorem WaleCore.setFrag_tail : (c.setFrag a f).stack.tail = c.stack.tail := by
  unfold WaleCore.setFrag
  split <;> simp [*]
theorem WaleCore.setFrag_base {a : ArmId} (arm : a ≠ .sole) : (c.setFrag a f).base = c.base := by
  unfold WaleCore.setFrag
  split
  · exact absurd rfl arm
  all_goals rfl
theorem WaleCore.frag_setFrag_sib {a : ArmId} (arm : a ≠ .sole) : (c.setFrag a f).frag a.sib = c.frag a.sib := by
  rw [WaleCore.frag_setFrag, if_neg]
  cases a with
  | sole => exact absurd rfl arm
  | a0 | a1 => simp [ArmId.sib]

theorem WaleCore.resumeFor_eq (why : Susp) {a : ArmId} (arm : a ≠ .sole) : c.resumeFor a why =
    if (c.frag a.sib).st = .suspended ∧ (c.frag a.sib).why = why then c.setFrag a.sib (c.frag a.sib).resume else c := by
  cases a with
  | sole => exact absurd rfl arm
  | a0 | a1 => simp [WaleCore.resumeFor]
end
theorem ArmId.sib_ne_sole {a : ArmId} (arm : a ≠ .sole) : a.sib ≠ .sole := by
  cases a with
  | sole => exact absurd rfl arm
  | a0 | a1 => simp [ArmId.sib]
theorem ArmId.sib_sib (a : ArmId) : a.sib.sib = a := by cases a <;> rfl

/-! ### `tok` and `brd` (R160, R161) -/

theorem pushToken_spec (c : WaleCore) (a : ArmId) (l : Dword) :
    let d := c.pushToken a l
    (∃ k ks, d.stack = k :: ks ∧ k.l = l ∧ k.mem = (c.frag a).mem ∧ k.pk = 0 ∧ k.ser = c.serial ∧
      k.a0 = { c.frag a with st := .running } ∧ k.a1 = Arm.none ∧ ks.length = c.stack.length) ∧
    d.serial = c.serial + 1 ∧
    (a = .sole → d.base = { c.base with st := .opened } ∧ d.stack.tail = c.stack) ∧
    (∀ k ks, c.stack = k :: ks → a = .a0 → d.base = c.base ∧
      d.stack.tail = { k with a0 := { k.a0 with st := .opened },
                              a1 := if k.a1.live then { k.a1 with st := .suspended, stall := false, why := .tok } else k.a1 } :: ks) ∧
    (∀ k ks, c.stack = k :: ks → a = .a1 → d.base = c.base ∧
      d.stack.tail = { k with a1 := { k.a1 with st := .opened },
                              a0 := if k.a0.live then { k.a0 with st := .suspended, stall := false, why := .tok } else k.a0 } :: ks) := by
  intro d
  have serial (b : ArmId) (f : Arm) (e : WaleCore) : (e.setFrag b f).serial = e.serial := by rw [WaleCore.setFrag_rest]
  refine ⟨⟨_, _, rfl, rfl, rfl, rfl, ?_, rfl, rfl, ?_⟩, ?_, ?_, fun k ks stack arm => ?_, fun k ks stack arm => ?_⟩
  · cases a <;> simp [serial]
  · cases a <;> simp
  · cases a <;> simp [d, WaleCore.pushToken, serial]
  · rintro rfl
    exact ⟨rfl, rfl⟩
  all_goals
    subst arm
    simp [d, WaleCore.pushToken, WaleCore.setFrag, WaleCore.frag, ArmId.sib, Arm.suspend, stack]

theorem splitArms_stack {c : WaleCore} {k : Token} {ks : List Token} (stack : c.stack = k :: ks) (a : ArmId) (t : Mask) (l : Dword) :
    (c.splitArms a t l).stack =
      { k with a0 := { st := .running, pc := l, em := t, mem := t, split := false, arr := true, retry := none },
               a1 := { c.frag a with em := (c.frag a).em &&& ~~~t, mem := (c.frag a).mem &&& ~~~t } } :: ks := by
  unfold WaleCore.splitArms
  rw [stack]
  rfl

/-! ### Tokens that settle (R163) -/

/-- No strand of the arm goes on in its token: it has parked or ended, or a trap handler suspends it (log entry 16). -/
def Arm.gone (f : Arm) : Bool := !f.live && !(f.st == .suspended && f.why != .trap)

theorem Arm.gone_of {f : Arm} (h : f.st = .free ∨ f.heldByTrap = true) : f.gone = true := by
  obtain free | held := h
  · simp [Arm.gone, Arm.live, free]
  · simp only [Arm.heldByTrap, Bool.and_eq_true, beq_iff_eq] at held
    simp [Arm.gone, Arm.live, held]

/-- The core with another join stack. -/
def WaleCore.onStack (c : WaleCore) (ts : List Token) : WaleCore := { c with stack := ts }
@[simp] theorem WaleCore.onStack_stack (c : WaleCore) (ts : List Token) : (c.onStack ts).stack = ts := rfl

section
variable {c : WaleCore} {t : Token} {ts : List Token} (stack : c.stack = t :: ts) (n : Nat)
include stack

theorem settle_of_live (live : t.a0.live = true ∨ t.a1.live = true) : settle (n + 1) c = c := by
  unfold settle
  rw [stack]
  exact if_pos (by simpa using live)
/-- A token none of whose arms goes on is popped. -/
theorem settle_of_gone (gone0 : t.a0.gone = true) (gone1 : t.a1.gone = true) : settle (n + 1) c =
    if t.mem &&& ~~~c.exited ≠ 0 then (c.onStack ts).replaceOpened (Arm.start t.l (t.mem &&& ~~~c.exited))
    else if ts = [] then (c.onStack []).endOpened
    else settle n (c.onStack ts).endOpened := by
  simp only [Arm.gone, Bool.and_eq_true, Bool.not_eq_true'] at gone0 gone1
  obtain ⟨dead0, stays0⟩ := gone0
  obtain ⟨dead1, stays1⟩ := gone1
  conv_lhs => unfold settle
  rw [stack]
  simp only [dead0, dead1, stays0, stays1, Bool.or_self, Bool.false_eq_true, if_false]
  cases ts <;> rfl
end

/-- The sole fragment carries no trap frame on. -/
theorem WaleCore.leaveFrame_sole (c : WaleCore) : ∃ f, c.leaveFrame .sole = { c with frame := f } := by
  unfold WaleCore.leaveFrame
  split
  · exact ⟨none, rfl⟩
  · exact ⟨c.frame, rfl⟩
theorem WaleCore.endOpened_bare {c : WaleCore} (bare : c.stack = []) :
    c.endOpened.stack = [] ∧ c.endOpened.base = Arm.none := by
  obtain ⟨f, leaves⟩ := c.leaveFrame_sole
  have ends : c.endOpened = (c.leaveFrame .sole).replaceOpened Arm.none := by
    unfold WaleCore.endOpened
    rw [bare]
  rw [ends, leaves]
  unfold WaleCore.replaceOpened
  simp [bare]
theorem WaleCore.replaceOpened_bare {c : WaleCore} (bare : c.stack = []) (f : Arm) : c.replaceOpened f = { c with base := f } := by
  unfold WaleCore.replaceOpened
  rw [bare]

theorem Token.openedArm_ne_sole {t : Token} {b : ArmId} (h : t.openedArm = some b) : b ≠ .sole := by
  unfold Token.openedArm at h
  split_ifs at h <;> cases h <;> simp
/-- The strands continue in the arm that had pushed the token, and the arm beside it goes on that the push had suspended. -/
theorem WaleCore.replaceOpened_spec {c : WaleCore} {t : Token} {ts : List Token} {b : ArmId} (stack : c.stack = t :: ts)
    (opened : t.openedArm = some b) (f : Arm) :
    (c.replaceOpened f).base = c.base ∧ (c.replaceOpened f).frag b = f ∧ (c.replaceOpened f).stack.tail = ts ∧
      (c.replaceOpened f).frag b.sib = if (c.frag b.sib).st = .suspended ∧ (c.frag b.sib).why = .tok then
        { c.frag b.sib with st := .running, split := false, stall := false } else c.frag b.sib := by
  have arm := Token.openedArm_ne_sole opened
  have there : c.stack ≠ [] := by simp [stack]
  have put : c.replaceOpened f = (c.setFrag b f).resumeFor b .tok := by
    unfold WaleCore.replaceOpened
    simp only [stack, opened]
  have own : (c.setFrag b f).frag b = f := WaleCore.frag_setFrag_self (.inr there) f
  have left : (c.setFrag b f).stack ≠ [] := by simpa [← List.length_pos_iff] using there
  rw [put, WaleCore.resumeFor_eq _ .tok arm, WaleCore.frag_setFrag_sib c f arm]
  split
  · refine ⟨?_, ?_, by simp [stack], WaleCore.frag_setFrag_self (.inr left) _⟩
    · rw [WaleCore.setFrag_base _ _ (ArmId.sib_ne_sole arm), WaleCore.setFrag_base _ _ arm]
    · have kept := WaleCore.frag_setFrag_sib (c.setFrag b f) (c.frag b.sib).resume (ArmId.sib_ne_sole arm)
      rw [ArmId.sib_sib] at kept
      exact kept.trans own
  · exact ⟨WaleCore.setFrag_base c f arm, own, by simp [stack], WaleCore.frag_setFrag_sib c f arm⟩

/-! ### A fragment that parks (R162, R163) -/

/-- The arm examines its point again, where a trap handler does not suspend it (R166). -/
def Arm.wake (f : Arm) : Arm := if f.st = .waiting ∨ (f.st = .suspended ∧ f.why ≠ .trap) then f.resume else f
/-- The token after its arm `a` has parked. -/
def Token.parkArm (k : Token) : ArmId → Token
  | .sole => k
  | .a0 => { k with pk := k.pk ||| k.a0.mem, a0 := Arm.none, a1 := k.a1.wake }
  | .a1 => { k with pk := k.pk ||| k.a1.mem, a1 := Arm.none, a0 := k.a0.wake }

theorem WaleCore.park_eq_settle {c : WaleCore} {k : Token} {ks : List Token} {a : ArmId} (stack : c.stack = k :: ks)
    (arm : a ≠ .sole) : c.park a = settle 65 (c.onStack (k.parkArm a :: ks)) := by
  unfold WaleCore.park
  rw [stack]
  refine congrArg (settle 65) ?_
  cases a with
  | sole => exact absurd rfl arm
  | a0 | a1 =>
    simp only [WaleCore.onStack, WaleCore.setFrag, WaleCore.resumeSib, WaleCore.frag, ArmId.sib, stack, Token.parkArm, Arm.wake, Bool.or_eq_true,
      Bool.and_eq_true, beq_iff_eq, bne_iff_ne]
    split <;> rfl

theorem Arm.wake_of_gone {f : Arm} (h : f.st = .free ∨ f.heldByTrap = true) : f.wake = f := by
  refine if_neg ?_
  obtain free | held := h
  · simp [free]
  · simp only [Arm.heldByTrap, Bool.and_eq_true, beq_iff_eq] at held
    simp [held]
theorem Arm.wake_of_stays {f : Arm} (h : f.st = .running ∨ f.st = .waiting ∨ (f.st = .suspended ∧ f.why ≠ .trap)) :
    f.wake = (if f.st = .running then f else { f with st := .running, split := false, stall := false }) ∧ f.wake.live = true := by
  obtain runs | stops := h
  · simp [Arm.wake, Arm.live, runs]
  · have halts : f.st ≠ .running := by obtain waits | ⟨suspended, -⟩ := stops <;> simp [*]
    rw [Arm.wake, if_pos stops, if_neg halts]
    exact ⟨rfl, rfl⟩

section
variable {c : WaleCore} {a : ArmId} {k : Token} {ks : List Token} (stack : c.stack = k :: ks) (arm : a ≠ .sole)
include stack arm

/-- The sibling goes on. -/
theorem park_beside (stays : (c.frag a.sib).st = .running ∨ (c.frag a.sib).st = .waiting ∨
      ((c.frag a.sib).st = .suspended ∧ (c.frag a.sib).why ≠ .trap)) :
    (c.park a).frag a = Arm.none ∧
    (c.park a).frag a.sib = (if (c.frag a.sib).st = .running then c.frag a.sib
      else { c.frag a.sib with st := .running, split := false, stall := false }) ∧
    (∃ k', (c.park a).stack = k' :: ks ∧ k'.pk = k.pk ||| (c.frag a).mem ∧ k'.mem = k.mem ∧ k'.l = k.l) := by
  obtain ⟨woken, live⟩ := Arm.wake_of_stays stays
  rw [← woken, WaleCore.park_eq_settle stack arm]
  have stands : (k.parkArm a).a0.live = true ∨ (k.parkArm a).a1.live = true := by
    cases a with
    | sole => exact absurd rfl arm
    | a0 => exact .inr (by simpa [WaleCore.frag, ArmId.sib, stack, Token.parkArm] using live)
    | a1 => exact .inl (by simpa [WaleCore.frag, ArmId.sib, stack, Token.parkArm] using live)
  rw [settle_of_live rfl 64 stands]
  cases a with
  | sole => exact absurd rfl arm
  | a0 | a1 => simp [WaleCore.frag, ArmId.sib, Token.parkArm, stack]

variable (last : (c.frag a.sib).st = .free ∨ (c.frag a.sib).heldByTrap = true)
include last

theorem Token.parkArm_gone : (k.parkArm a).a0.gone = true ∧ (k.parkArm a).a1.gone = true := by
  cases a with
  | sole => exact absurd rfl arm
  | a0 | a1 =>
    simp only [WaleCore.frag, ArmId.sib, stack] at last
    simp only [Token.parkArm, Arm.wake_of_gone last, Arm.gone_of last]
    decide
/-- With no arm left the token is popped, and its strands continue at L. -/
theorem park_last : c.park a =
    if k.mem &&& ~~~c.exited ≠ 0 then (c.onStack ks).replaceOpened (Arm.start k.l (k.mem &&& ~~~c.exited))
    else if ks = [] then (c.onStack []).endOpened
    else settle 64 (c.onStack ks).endOpened := by
  obtain ⟨gone0, gone1⟩ := Token.parkArm_gone stack arm last
  have kept : (k.parkArm a).mem = k.mem ∧ (k.parkArm a).l = k.l := by cases a <;> exact ⟨rfl, rfl⟩
  rw [WaleCore.park_eq_settle stack arm, settle_of_gone rfl 64 gone0 gone1, kept.1, kept.2]
  rfl
theorem park_last_outermost (outermost : ks = []) : (c.park a).stack = [] ∧
    (c.park a).base = if k.mem &&& ~~~c.exited = 0 then Arm.none else Arm.start k.l (k.mem &&& ~~~c.exited) := by
  subst outermost
  rw [park_last stack arm last]
  by_cases empty : k.mem &&& ~~~c.exited = 0
  · rw [if_neg (not_not.mpr empty), if_pos rfl, if_pos empty]
    exact WaleCore.endOpened_bare rfl
  · rw [if_pos empty, if_neg empty, WaleCore.replaceOpened_bare rfl]
    exact ⟨rfl, rfl⟩
theorem park_last_inner (some : k.mem &&& ~~~c.exited ≠ 0) {k2 : Token} {ks2 : List Token} {b : ArmId} (outer : ks = k2 :: ks2)
    (opened : k2.openedArm = .some b) : (c.park a).base = c.base ∧ (c.park a).frag b = Arm.start k.l (k.mem &&& ~~~c.exited) ∧
      (c.park a).stack.tail = ks2 ∧
      let u := ({ c with stack := ks } : WaleCore).frag b.sib
      (c.park a).frag b.sib =
        if u.st = .suspended ∧ u.why = .tok then { u with st := .running, split := false, stall := false } else u := by
  rw [park_last stack arm last, if_pos some]
  exact WaleCore.replaceOpened_spec (c := c.onStack ks) outer opened _
end

/-! ### `brk` (R164) -/

theorem getElem?_brkStack (m : Mask) (n i : Nat) (ts : List Token) :
    (brkStack m n ts)[i]? = ts[i]?.map fun t =>
      if i < n then
        { t with mem := t.mem &&& ~~~m, pk := t.pk &&& ~~~m,
                 a0 := { t.a0 with em := t.a0.em &&& ~~~m, mem := t.a0.mem &&& ~~~m },
                 a1 := { t.a1 with em := t.a1.em &&& ~~~m, mem := t.a1.mem &&& ~~~m } }
      else if i = n then { t with pk := t.pk ||| m } else t := by
  induction ts generalizing n i with
  | nil => cases n <;> simp [brkStack]
  | cons t ts ih =>
    cases n with
    | zero => cases i <;> simp [brkStack]
    | succ n =>
      cases i with
      | zero => simp [brkStack, Token.without, Arm.without]
      | succ i => simp [brkStack, ih]

/-! ### Strands that exit (R165) -/

section
variable (c : WaleCore) (a : ArmId)

@[simp] theorem WaleCore.resumeSib_exited : (c.resumeSib a).exited = c.exited := by
  unfold WaleCore.resumeSib
  split
  · rfl
  · dsimp only
    split <;> simp
@[simp] theorem WaleCore.resumeFor_exited (why : Susp) : (c.resumeFor a why).exited = c.exited := by
  unfold WaleCore.resumeFor
  split
  · rfl
  · dsimp only
    split <;> simp
@[simp] theorem WaleCore.replaceOpened_exited (f : Arm) : (c.replaceOpened f).exited = c.exited := by
  unfold WaleCore.replaceOpened
  split
  · rfl
  · split <;> simp
@[simp] theorem WaleCore.leaveFrame_exited : (c.leaveFrame a).exited = c.exited := by
  unfold WaleCore.leaveFrame
  split <;> simp
@[simp] theorem WaleCore.endOpened_exited : c.endOpened.exited = c.exited := by
  unfold WaleCore.endOpened
  split
  · simp
  · split <;> simp
@[simp] theorem settle_exited (n : Nat) : (settle n c).exited = c.exited := by
  induction n generalizing c with
  | zero => rfl
  | succ n ih =>
    unfold settle
    split
    · rfl
    · split_ifs
      · rfl
      · simp
      · simp
      · dsimp only
        split
        · simp
        · split <;> simp [ih]
@[simp] theorem WaleCore.park_exited : (c.park a).exited = c.exited := by
  unfold WaleCore.park
  split <;> simp
@[simp] theorem WaleCore.endFrag_exited : (c.endFrag a).exited = c.exited := by simp [WaleCore.endFrag]
theorem loopEnd_kept (pc : Dword) (ls ps : List (Fin 3)) :
    (loopEnd pc c ls ps).1.exited = c.exited ∧ (loopEnd pc c ls ps).1.base = c.base := by
  induction ls generalizing c ps with
  | nil => exact ⟨rfl, rfl⟩
  | cons n rest ih =>
    by_cases here : (vget c.loops n).lend = pc
    · by_cases last : vget c.lc n = 1
      · rw [loopEnd_end here (by rw [last]; rfl)]
        exact ih _ _
      · rw [loopEnd_restarts here last]
        exact ⟨rfl, rfl⟩
    · rw [loopEnd_other here]
      exact ⟨rfl, rfl⟩
@[simp] theorem WaleCore.advance_exited : (c.advance a).exited = c.exited := by
  obtain ⟨ends, -⟩ := loopEnd_kept c (c.frag a).pc c.lstack []
  unfold WaleCore.advance
  dsimp only
  split
  · split <;> simp [ends]
  · simp [ends]
theorem WaleCore.advance_sole : (c.advance .sole).base.mem = c.base.mem ∧ (c.advance .sole).base.em = c.base.em := by
  obtain ⟨-, ends⟩ := loopEnd_kept c c.base.pc c.lstack []
  unfold WaleCore.advance
  dsimp only
  split
  · split <;> simp [WaleCore.setFrag, WaleCore.frag, ends]
  · simp [WaleCore.setFrag, WaleCore.frag, ends]
@[simp] theorem WaleCore.endOrGo_exited : (c.endOrGo a).exited = c.exited := by
  unfold WaleCore.endOrGo
  split_ifs <;> simp
theorem WaleCore.exitStrands_exited (m : Mask) : (c.exitStrands a m).exited = c.exited ||| m := by
  simp [WaleCore.exitStrands_eq, WaleCore.exitNote]
end

theorem WaleCore.endFrag_sole {c : WaleCore} (bare : c.stack = []) : (c.endFrag .sole).ended = true := by
  obtain ⟨f, leaves⟩ := c.leaveFrame_sole
  have ends : c.endFrag .sole = settle 65 { c with frame := f, base := Arm.none } := by
    rw [WaleCore.endFrag, leaves]
    rfl
  rw [ends]
  unfold settle
  simp [bare, WaleCore.ended, Arm.none]
theorem WaleCore.exitFrag_sole {c : WaleCore} (m : Mask) :
    (c.exitFrag .sole m).mem = c.base.mem &&& ~~~m ∧
    (c.base.em &&& ~~~m ≠ 0 → (c.exitFrag .sole m).em = c.base.em &&& ~~~m) := by
  unfold WaleCore.exitFrag
  dsimp only
  split
  · rename_i empty
    simp only [Bool.and_eq_true, beq_iff_eq] at empty
    exact ⟨rfl, fun some => absurd empty.2 some⟩
  · exact ⟨rfl, fun _ => rfl⟩
/-- The sole fragment loses the strands that exit. -/
theorem exitStrands_sole {c : WaleCore} (bare : c.stack = []) (m : Mask) :
    (c.base.mem &&& ~~~m = 0 → (c.exitStrands .sole m).ended = true) ∧
    (c.base.mem &&& ~~~m ≠ 0 → c.base.em &&& ~~~m ≠ 0 →
      (c.exitStrands .sole m).base.mem = c.base.mem &&& ~~~m ∧ (c.exitStrands .sole m).base.em = c.base.em &&& ~~~m) := by
  obtain ⟨mem, em⟩ : ((c.exitNote m).exitFrag .sole m).mem = c.base.mem &&& ~~~m ∧
      (c.base.em &&& ~~~m ≠ 0 → ((c.exitNote m).exitFrag .sole m).em = c.base.em &&& ~~~m) := WaleCore.exitFrag_sole m
  rw [WaleCore.exitStrands_eq]
  generalize (c.exitNote m).exitFrag .sole m = f at mem em
  have left : ((c.exitNote m).setFrag .sole f).stack = [] := by simp [WaleCore.setFrag, WaleCore.exitNote, bare]
  rw [WaleCore.endOrGo, WaleCore.frag_setFrag_self (.inl rfl), mem]
  refine ⟨fun none => ?_, fun some active => ?_⟩
  · rw [if_pos none]
    exact WaleCore.endFrag_sole left
  · rw [if_neg some, em active, if_neg active]
    obtain ⟨mem', em'⟩ := ((c.exitNote m).setFrag .sole f).advance_sole
    exact ⟨mem'.trans mem, em'.trans (em active)⟩

/-- Settles O20: each operation by its own lemma; a fragment that parks by what the other arm does. -/
theorem tokenRules : Obligations.TokenRules := by
  refine ⟨pushToken_spec, fun c a t l k ks stack => splitArms_stack stack a t l, fun c a k ks stack arm => ?_, getElem?_brkStack,
    fun c a m => c.exitStrands_exited a m, fun c m bare => exitStrands_sole bare m⟩
  exact ⟨park_beside stack arm, park_last_outermost stack arm,
    fun k2 ks2 b last some outer opened => park_last_inner stack arm last some outer opened⟩

end Sys2Proof.Machine
end

section
/-! Proofs about `yield`, `rhead` and the heads of regions (07 R173 to R176, 02 R51, R52, 01 R33). -/

namespace Sys2Proof

theorem Sparse.upd_upd {β : Type} (m : Sparse β) (n : Nat) (f g : β → β) :
    Sparse.upd (Sparse.upd m n f) n g = Sparse.upd m n fun v => g (f v) := by
  unfold Sparse.upd
  cases h : Sparse.find? m n with
  | none => simp [h]
  | some v => simp [Sparse.find?_put_self, Sparse.put_put]
theorem Sparse.upd_put {β : Type} (m : Sparse β) (n : Nat) (v : β) (f : β → β) :
    Sparse.upd (Sparse.put m n v) n f = Sparse.put m n (f v) := by
  simp [Sparse.upd, Sparse.find?_put_self, Sparse.put_put]
/-- The entries below a key. -/
theorem Sparse.find?_filter_lt {β : Type} {m : Sparse β} {a : Nat} (wf : Sparse.wfFrom a m = true) (n k : Nat) :
    Sparse.find? (m.filter fun e => decide (e.1 < n)) k = if k < n then Sparse.find? m k else none := by
  induction m generalizing a with
  | nil => simp [Sparse.find?]
  | cons e m ih =>
    obtain ⟨j, v⟩ := e
    simp only [Sparse.wfFrom, Bool.and_eq_true, decide_eq_true_eq] at wf
    obtain ⟨-, rest⟩ := wf
    by_cases below : j < n
    · rw [List.filter_cons_of_pos (by simpa using below)]
      simp only [Sparse.find?, ih rest]
      by_cases low : k < n
      · simp [low]
      · simp [low, show k ≠ j by omega]
    · rw [List.filter_cons_of_neg (by simpa using below), ih rest]
      by_cases low : k < n
      · rw [if_pos low, if_pos low, Sparse.find?_of_lt rest (by omega)]
        simp only [Sparse.find?]
        rw [if_neg (by omega), if_pos (by omega)]
      · rw [if_neg low, if_neg low]

end Sys2Proof

namespace Sys2Proof.Machine

/-! ### What `yield` does to the core (R174) -/

theorem yieldState_spec (c : WaleCore) {d : Nat} (n : Nat) (wf : Sparse.wf c.v = true) (fits : d < 2 ^ 12) :
    (∀ (k : Fin 256) (i : Fin 32), vget ((c.yieldState d n).getV k) i = if k.val < n then vget (c.getV k) i else 0) ∧
    (c.yieldState d n).yleft.toNat = 64 * d ∧
    c.yieldState d n = { c with v := (c.yieldState d n).v, yleft := (c.yieldState d n).yleft } := by
  refine ⟨fun k i => ?_, ?_, rfl⟩
  · have left : (c.yieldState d n).getV k = if k.val < n then c.getV k else zeroLanes := by
      simp only [WaleCore.getV, WaleCore.yieldState, Sparse.getD, Sparse.find?_filter_lt wf]
      split <;> rfl
    rw [left]
    split
    · rfl
    · exact vget_all 0 i
  · simp only [WaleCore.yieldState, BitVec.toNat_ofNat]
    omega
/-- The flow of control is apart from what `yield` does. -/
theorem WaleCore.advance_yieldState (c : WaleCore) (d n : Nat) (a : ArmId) :
    (c.yieldState d n).advance a = (c.advance a).yieldState d n := by
  have kept : c.advance a = (c.advance a).withData c := WaleCore.advance_withData c c a
  calc (c.yieldState d n).advance a
    _ = (c.withData (c.yieldState d n)).advance a := rfl
    _ = (c.advance a).withData (c.yieldState d n) := WaleCore.advance_withData c _ a
    _ = ((c.advance a).withData c).yieldState d n := rfl
    _ = (c.advance a).yieldState d n := by rw [← kept]

/-! ### Changes of one wale -/

theorem changed_updWale {u : State} {k : Nat} {w : Wale} (found : u.wale? k = some w) (f : Wale → Wale) :
    Changed u k f (u.updWale k f) :=
  ⟨w, found, (Sparse.find?_upd_self _ _ _).trans (congrArg (Option.map f) found), fun _ other => Sparse.find?_upd_ne _ _ other, rfl⟩
theorem State.updWale_updWale (s : State) (k : Nat) (f g : Wale → Wale) :
    (s.updWale k f).updWale k g = s.updWale k fun w => g (f w) :=
  congrArg (fun ws => { s with wales := ws }) (Sparse.upd_upd s.wales k f g)

/-! ### Heads (02 R51, R52) -/

theorem Region.close_eq (r : Region) (q : Nat) : r.close q = { r with q := some (r.q.getD q) } := by
  obtain ⟨ckpt, held, last, closed, refused⟩ := r
  cases closed <;> rfl

theorem head_spec (w : Wale) (q cc : Nat) :
    (w.head q cc).core = { w.core with
      icount := 0, wcount := 0, shadows := w.core.shadows.map fun h => { h with old := true }
      hoff := w.core.hoff.map fun h => { h with old := true } } ∧
    (w.head q cc).cur = { ckpt := (w.head q cc).core, held := [], last := cc, q := none } ∧
    (w.head q cc).old = some { w.cur with q := some (w.cur.q.getD q) } ∧
    w.head q cc = { w with core := (w.head q cc).core, cur := (w.head q cc).cur, old := (w.head q cc).old } :=
  ⟨rfl, rfl, congrArg some (w.cur.close_eq q), rfl⟩

/-- The wale with a region head made at a `yield`. -/
def Wale.yieldHead (w : Wale) (d n q cc : Nat) : Wale := ({ w with core := w.core.yieldState d n } : Wale).head q cc

theorem Ctx.commit_yieldState (x : Ctx) (c : WaleCore) (d n : Nat) :
    x.commit (c.yieldState d n) [] = (x.commit c []).updWale x.st.w fun w => { w with core := w.core.yieldState d n } := by
  have wales : Sparse.upd (x.commit c []).wales x.st.w (fun w => { w with core := w.core.yieldState d n }) =
      (x.commit (c.yieldState d n) []).wales := by
    simp only [Ctx.commit, State.tick_wales, State.setWale_wales, Sparse.upd_put]
    rfl
  rw [State.updWale, wales]
  rfl
theorem Ctx.commit_cycle (x : Ctx) (c : WaleCore) (held : List Held) : ((x.commit c held).die x.die).cc = x.cc + 1 :=
  congrArg Die.cc ((vget_vset x.s.dies x.die x.die _).trans (if_pos rfl))
theorem headAfter_yield (x : Ctx) (d n : Nat) :
    (x.after fun c => (c.yieldState d n).advance x.arm).headAfter x =
      (x.after fun c => c.advance x.arm).updWale x.st.w fun w => w.yieldHead d n (x.s.window x.die) (x.cc + 1) := by
  let c := ((x.core.effect x.arm x.la x.lld {}).counted false).advance x.arm
  calc (x.after fun c => (c.yieldState d n).advance x.arm).headAfter x
    _ = (x.commit (c.yieldState d n) []).headAfter x := by
      rw [Ctx.after, WaleCore.advance_yieldState]
    _ = (x.commit (c.yieldState d n) []).updWale x.st.w fun w => w.head (x.s.window x.die) (x.cc + 1) := by
      rw [← x.commit_cycle (c.yieldState d n) []]
      rfl
    _ = (x.after fun c => c.advance x.arm).updWale x.st.w fun w => w.yieldHead d n (x.s.window x.die) (x.cc + 1) := by
      rw [Ctx.commit_yieldState, State.updWale_updWale]
      rfl

/-! ### `yield` and `rhead` (R174, R176) -/

theorem ran_yield {o : IOps} {s : State} {x : Ctx} (issues : ready (.yield o) s = some x) :
    let n := o.imm.toNat / 2 ^ 12 % 2 ^ 9
    let d := o.imm.toNat % 2 ^ 12
    (x.st.wl.vregs < n → ∃ t, exec (.yield o) s = .next t ∧ Raised x (x.record ⟨cILL, 0, x.fr.em⟩) t) ∧
    (∀ e r, n ≤ x.st.wl.vregs → x.st.wl.engFaults = e :: r →
      ∃ t, exec (.yield o) s = .next t ∧ Raised x { e.f with mask := x.fr.em, resume := x.fr.pc } t) ∧
    (n ≤ x.st.wl.vregs → x.st.wl.engFaults = [] → x.st.wl.old ≠ none → ∃ t, exec (.yield o) s = .next t ∧ Drains x t) ∧
    (n ≤ x.st.wl.vregs → x.st.wl.engFaults = [] → x.st.wl.old = none → ∃ u t, exec (.yield o) s = .next t ∧
      Ran x {} false (x.core.advance x.arm) u ∧
      Changed u x.st.w (fun w =>
        let v := ({ w with core := w.core.yieldState d n } : Wale).head (x.s.window x.die) (x.cc + 1)
        { v with st := if x.preemptPending then .yielded else w.st }) t) := by
  have hn : fld o.imm 20 12 = o.imm.toNat / 2 ^ 12 % 2 ^ 9 := by simp [fld, Nat.shiftRight_eq_div_pow]
  have hd : fld o.imm 11 0 = o.imm.toNat % 2 ^ 12 := toNat_fld_low o.imm 11
  intro n d
  have named {r : Nat} (h : n ≤ r) : ¬r < fld o.imm 20 12 := by rw [hn]; exact Nat.not_lt.mpr h
  refine ⟨fun above => raised_of_meaning rfl issues (if_pos (hn ▸ above)), fun e r within reported => ?_,
    fun within none older => ?_, fun within none alone => ?_⟩
  · refine raisedEng_of_meaning rfl issues ((if_neg (named within)).trans ?_)
    rw [reported]
  · refine drains_of_meaning rfl issues ((if_neg (named within)).trans ?_)
    rw [none]
    exact if_pos (Option.isSome_iff_ne_none.mpr older)
  · have ran : Ran x {} false (x.core.advance x.arm) (x.after fun c => c.advance x.arm) :=
      ran_after x (F := fun c => c.advance x.arm) fun g d => WaleCore.advance_withData g d x.arm
    obtain ⟨w, found, -, -⟩ := ran.wale
    refine ⟨_, _, exec_of_ready rfl issues ((if_neg (named within)).trans ?_), ran, changed_updWale found _⟩
    rw [none]
    refine (if_neg (by simp [alone])).trans ?_
    dsimp only
    rw [headAfter_yield, hn, hd]
    by_cases pending : x.preemptPending = true
    · rw [if_pos pending, State.updWale_updWale]
      simp only [pending]
      rfl
    · rw [if_neg pending]
      simp only [pending]
      rfl

theorem ran_rhead {o : ROps} {s : State} {x : Ctx} (issues : ready (.rhead o) s = some x) :
    (x.st.wl.old ≠ none → ∃ t, exec (.rhead o) s = .next t ∧ Drains x t) ∧
    (x.st.wl.old = none → ∃ t, exec (.rhead o) s = .next t ∧ RanOn x.withHead false {} t) :=
  ⟨fun older => drains_of_meaning rfl issues (if_pos (Option.isSome_iff_ne_none.mpr older)),
    fun alone => ⟨_, exec_of_ready rfl issues (if_neg (by simp [alone])), ran_finish x.withHead false {}⟩⟩

/-- Settles O22: `yield` by the tests of its meaning, in their order; `rhead`, registers and heads by their own lemmas. -/
theorem yieldAndHeads : Obligations.YieldAndHeads :=
  ⟨fun _ _ _ => ran_yield, fun _ _ _ => ran_rhead, fun c _ n => yieldState_spec c n, head_spec⟩

end Sys2Proof.Machine
end

section
/-! Proofs about barriers (08 R204, R205): the arrival that each holds, and the wait at the instruction. -/

namespace Sys2Proof.Machine

/-- An arrival is held in a region of its own, which closes, and the wale waits (R204). -/
theorem arrive_waits (x : Ctx) (k : BarKind) {F : WaleCore → WaleCore}
    (apart : ∀ g d : WaleCore, F (g.withData d) = (F g).withData d) :
    ∃ u, Ran x { held := [.arrive k] } true (F x.core) u ∧
      Changed u x.st.w (fun w => { w with cur := w.cur.close (x.s.window x.die), st := .barrier k }) (x.arrive k F) := by
  have ran : Ran x { held := [.arrive k] } true (F x.core) _ := ran_commit (ranCore_flow apart)
  obtain ⟨w, found, -, -⟩ := ran.wale
  exact ⟨_, ran, changed_updWale found _⟩

theorem ran_sbar {o : ROps} {s : State} {x : Ctx} (issues : ready (.sbar o) s = some x) :
    (pkHeld x.st.skein.pkt = false → ∃ t, exec (.sbar o) s = .next t ∧
      OnlyWale x { x.st.wl with core := { x.core with nColl := x.core.nColl + 1 }, st := .coll,
                                collArg := some (.sbar o, 0, 0) } t) ∧
    (pkHeld x.st.skein.pkt = true → ∃ u v t, exec (.sbar o) s = .next t ∧
      Ran x { held := [.arrive .sbar] } true { x.core with nSbar := x.core.nSbar + 1, nColl := x.core.nColl + 1 } u ∧
      Changed u x.st.w (fun w => { w with cur := w.cur.close (x.s.window x.die), st := .barrier .sbar }) v ∧
      Changed v x.st.w (fun w => { w with collArg := some (.sbar o, 0, 0) }) t) := by
  refine ⟨fun free => ⟨_, exec_of_ready rfl issues (if_pos (by simp [free])), OnlyWale.setWale x _⟩, fun held => ?_⟩
  obtain ⟨u, ran, changed⟩ := arrive_waits x .sbar
    (F := fun c => { c with nSbar := c.nSbar + 1, nColl := c.nColl + 1 }) fun _ _ => rfl
  have ⟨w, _, found, _⟩ := changed
  exact ⟨u, _, _, exec_of_ready rfl issues (if_neg (by simp [held])), ran, changed, changed_updWale found _⟩

/-- Settles O33: `bar` and `rbar` arrive; `sbar` by whether its skein is held. -/
theorem barriers : Obligations.Barriers := by
  intro s x waits
  refine ⟨fun o issues => ?_, fun o issues => ?_, fun o => ran_sbar⟩
  · obtain ⟨u, ran, changed⟩ := arrive_waits x .bar (F := fun c => { c with nBar := c.nBar + 1 }) fun _ _ => rfl
    exact ⟨u, _, exec_of_ready rfl issues rfl, ran, changed⟩
  · obtain ⟨u, ran, changed⟩ := arrive_waits x .rbar (F := fun c => { c with nRbar := c.nRbar + 1 }) fun _ _ => rfl
    exact ⟨u, _, exec_of_ready rfl issues rfl, ran, changed⟩

end Sys2Proof.Machine
end

section
/-! Proofs about sync words (08 R200 to R203): the fields of a word, its advance, and `wtg`. -/

namespace Sys2Proof.Machine

/-! ### The fields of a word (R200) -/

theorem SyncW.ofNat_gen (n : Nat) : (SyncW.ofNat n).gen = n / 2 ^ 32 % 2 ^ 32 := rfl
theorem SyncW.ofNat_toNat {y : SyncW} (exp : y.exp < 2 ^ 16) (arr : y.arr < 2 ^ 16) (gen : y.gen < 2 ^ 32)
    (tgt : y.tgt < 2 ^ 32) (cnt : y.cnt < 2 ^ 32) : SyncW.ofNat y.toNat = y := by
  obtain ⟨e, a, g, t, c⟩ := y
  dsimp only at exp arr gen tgt cnt
  simp only [SyncW.ofNat, SyncW.toNat, nfld, SyncW.mk.injEq, pow_zero, Nat.div_one]
  omega

/-! ### The advance (R202) -/

theorem SyncW.advance_due {y : SyncW} (due : y.exp ≤ y.arr ∧ y.tgt ≤ y.cnt) :
    y.advance = ⟨y.exp, y.arr - y.exp, (y.gen + 1) % 2 ^ 32, 0, y.cnt - y.tgt⟩ := if_pos due
theorem SyncW.advance_early {y : SyncW} (early : y.arr < y.exp ∨ y.cnt < y.tgt) : y.advance = y := if_neg (by omega)

/-! ### `wtg` (R203) -/

/-- A `wtg` whose word is found in the scratchpad of hoop `h` at `a`. -/
theorem ran_wtg {s : State} {x : Ctx} {o : AOps} {h a : Nat} {ps : List SAcc} (issues : ready (.wtg o) s = some x)
    (placed : (x.syncAcc o 0).placed x = .ok ps) (word : (ps.flatMap fun e => e.p.pcs).head? = some (.sp h a, 16)) :
    let g := natLE (x.s.locRead (.sp h a) 16) / 2 ^ 32 % 2 ^ 32
    (g = (x.uni o.x).toNat → ∃ t, exec (.wtg o) s = .next t ∧ Waits x (.gen h a) t) ∧
    (g ≠ (x.uni o.x).toNat → ∃ t, exec (.wtg o) s = .next t ∧ RanAlone x
      { writes := match o.d with | .s n => [.s n (BitVec.ofNat 32 g)] | _ => [] } t) := by
  obtain ⟨rest, pieces⟩ := List.head?_eq_some_iff.mp word
  have found : x.syncPlace o = .ok ps := placed
  have run : exec (.wtg o) s = .next
      (if natLE (x.s.locRead (.sp h a) 16) / 2 ^ 32 % 2 ^ 32 = (x.uni o.x).toNat then x.hold (.gen h a)
      else x.finishSingle (match o.d with
        | .s n => { writes := [.s n (BitVec.ofNat 32 (natLE (x.s.locRead (.sp h a) 16) / 2 ^ 32 % 2 ^ 32))] }
        | _ => {})) := by
    refine (issueWith_ready issues).trans ?_
    simp only [found, pieces, SyncW.ofNat_gen]
    rfl
  intro g
  refine ⟨fun same => ⟨_, run.trans (by rw [if_pos same]), waits_hold x _⟩, fun other => ⟨_, run.trans (by rw [if_neg other]), ?_⟩⟩
  cases o.d <;> exact ranAlone_finishSingle x _

/-- Settles O32: `wtg` by the generation that it finds; updates are their advances by definition. -/
theorem syncWords : Obligations.SyncWords :=
  ⟨fun _ _ _ _ _ _ issues placed word => ran_wtg issues placed word, fun _ exp arr gen tgt cnt =>
    ⟨SyncW.ofNat_toNat exp arr gen tgt cnt, SyncW.advance_due, SyncW.advance_early, fun _ _ => ⟨rfl, rfl, rfl, rfl⟩⟩⟩

end Sys2Proof.Machine
end

section
/-! Proofs about `pref`, `fence` and `cpub` (08 R189, R197, R199). -/

namespace Sys2Proof

/-- Entries that a function of key and value keeps, each at its key. -/
theorem Sparse.find?_filterMap {β γ : Type} {m : Sparse β} {a : Nat} (wf : Sparse.wfFrom a m = true) {g : Nat × β → Option (Nat × γ)}
    {f : Nat → β → Option γ} (keyed : ∀ e, g e = (f e.1 e.2).map fun v => (e.1, v)) (k : Nat) :
    Sparse.find? (m.filterMap g) k = (Sparse.find? m k).bind (f k) := by
  induction m generalizing a with
  | nil => rfl
  | cons e m ih =>
    obtain ⟨j, v⟩ := e
    simp only [Sparse.wfFrom, Bool.and_eq_true, decide_eq_true_eq] at wf
    obtain ⟨-, rest⟩ := wf
    have below : k ≤ j → Sparse.find? m k = none := fun le => Sparse.find?_of_lt rest (by omega)
    rw [List.filterMap_cons, keyed]
    obtain lt | rfl | gt := Nat.lt_trichotomy k j
    · cases kept : f j v <;> simp [Sparse.find?, ih rest, below lt.le, lt, lt.ne]
    · cases kept : f k v <;> simp [Sparse.find?, ih rest, below le_rfl, kept]
    · cases kept : f j v <;> simp [Sparse.find?, ih rest, gt.not_gt, gt.ne']

end Sys2Proof

namespace Sys2Proof.Machine

/-! ### Translations and the caches (14 R323, R324) -/

theorem State.cachesOnly_keepXl (s : State) (d : Fin 4) (c : Option Nat) (f va : Nat) (x : Xl) :
    CachesOnly s (s.keepXl d c f va x) := by
  unfold State.keepXl
  split
  · exact .refl s
  · exact .updDie s d fun _ => rfl
/-- What an access's translation leaves beside the walker's marks changes no byte. -/
theorem State.cachesOnly_noteXl (s : State) (d : Fin 4) (c : Option Nat) (f va : Nat) (x : Xl) (wr : Bool) :
    CachesOnly (s.setAD x wr) (s.noteXl d c f va x wr) :=
  (State.cachesOnly_keepXl ..).trans (State.cachesOnly_takeGrant ..)

/-! ### `pref` (R189) -/

section
variable (x : Ctx) (lv n : Nat) (a : Dword)

theorem prefetch_unaligned (h : a.toNat % n ≠ 0) : x.prefetch lv n a = x := if_pos h
theorem prefetch_untranslated {e : XErr} (h : x.xlat a.toNat .r = .error e) : x.prefetch lv n a = x := by
  unfold Ctx.prefetch
  rw [h]
  exact ite_self x
theorem prefetch_uncached {t : Xl} (h : x.xlat a.toNat .r = .ok t) (mt : t.mt ≠ 0) : x.prefetch lv n a = x := by
  unfold Ctx.prefetch
  rw [h]
  simp only [mt, ne_eq, not_false_eq_true, true_or, if_true, ite_self]
/-- A prefetch does nothing, or leaves the walker's marks and the caches changed. -/
theorem prefetch_marks {t : Xl} (h : x.xlat a.toNat .r = .ok t) :
    x.prefetch lv n a = x ∨ (x.prefetch lv n a = x.over (x.prefetch lv n a).s ∧
      CachesOnly (x.s.setAD t false) (x.prefetch lv n a).s) := by
  by_cases skips : a.toNat % n ≠ 0 ∨ t.mt ≠ 0 ∨ isIo t.pa = true ∨ x.s.homeOff (x.s.homeDie t.pa) = true
  · left
    unfold Ctx.prefetch
    rw [h]
    obtain skips | skips := skips
    · exact if_pos skips
    · simp only [skips, if_true, ite_self]
  · right
    obtain ⟨aligned, fetches⟩ := not_or.mp skips
    have run : x.prefetch lv n a = x.over ((x.s.noteXl x.die (some x.st.hoop.core) x.func a.toNat t false).touch
        x.die x.st.hoop.core lv .read (t.loc a.toNat x.func x.part)) := by
      unfold Ctx.prefetch
      rw [h, if_neg aligned]
      exact if_neg fetches
    rw [run]
    exact ⟨rfl, (State.cachesOnly_noteXl ..).trans (State.cachesOnly_touch ..)⟩

end

/-! ### `fence` and `cpub` at issue (R197, R199) -/

section
variable {s : State} {x : Ctx} {o : MOps}

theorem ran_fence (issues : ready (.fence o) s = some x) :
    (o.scope = 0 → ∃ t, exec (.fence o) s = .next t ∧ RanOn x false {} t) ∧
    (∀ e r, o.scope ≠ 0 → x.st.wl.engFaults = e :: r →
      ∃ t, exec (.fence o) s = .next t ∧ Raised x { e.f with mask := x.fr.em, resume := x.fr.pc } t) ∧
    (o.scope ≠ 0 → x.st.wl.engFaults = [] → x.st.wl.drained = true →
      ∃ t, exec (.fence o) s = .next t ∧ RanOn (x.writeBack (levelOf 0 1 o.scope.toNat)) false {} t) ∧
    (o.scope ≠ 0 → x.st.wl.engFaults = [] → x.st.wl.drained = false → ∃ t, exec (.fence o) s = .next t ∧ Drains x t) := by
  refine ⟨fun wale => ranOn_of_meaning rfl issues (if_pos wale), fun e r wide reported => ?_, fun wide none drained => ?_,
    fun wide none undrained => ?_⟩
  · refine raisedEng_of_meaning rfl issues ((if_neg wide).trans ?_)
    rw [reported]
  · refine ⟨_, exec_of_ready rfl issues ((if_neg wide).trans ?_), ran_finish _ false {}⟩
    rw [none]
    exact if_pos drained
  · refine drains_of_meaning rfl issues ((if_neg wide).trans ?_)
    rw [none]
    exact if_neg (by simp [undrained])

theorem ran_cpub (issues : ready (.cpub o) s = some x) :
    (x.st.wl.drained = true → ∃ t, exec (.cpub o) s = .next t ∧
      let u := (x.writeBack (max 2 (levelOf 0 1 o.scope.toNat))).s
      RanOn (x.over (u.publish x.st.w (pubCores o.scope.toNat x.st.hoop.core))) false {} t) ∧
    (x.st.wl.drained = false → ∃ t, exec (.cpub o) s = .next t ∧ Drains x t) :=
  ⟨fun drained => ⟨_, exec_of_ready rfl issues (if_pos drained), ran_finish _ false {}⟩,
    fun undrained => drains_of_meaning rfl issues (if_neg (by simp [undrained]))⟩

end

/-! ### Publication (R199) -/

/-- The cores for which an agent's write to a line stays unpublished. -/
def State.stillHidden (s : State) (w : Nat) (cores : BitVec 384) (line : Nat) (q : Agent × BitVec 384) : BitVec 384 :=
  if s.ordersBefore w line q.1 then q.2 &&& ~~~cores else q.2
/-- A line's writes after a publication. -/
def State.leftHidden (s : State) (w : Nat) (cores : BitVec 384) (line : Nat) (qs : List (Agent × BitVec 384)) :
    List (Agent × BitVec 384) :=
  (qs.map fun q => (q.1, s.stillHidden w cores line q)).filter fun q => q.2 != 0

theorem find?_publish {s : State} (wf : Sparse.wf s.unpub = true) (w : Nat) (cores : BitVec 384) (line : Nat) :
    Sparse.getD (s.publish w cores).unpub [] line = s.leftHidden w cores line (Sparse.getD s.unpub [] line) := by
  have found : Sparse.find? (s.publish w cores).unpub line = (Sparse.find? s.unpub line).bind fun qs =>
      if (s.leftHidden w cores line qs).isEmpty then none else some (s.leftHidden w cores line qs) :=
    Sparse.find?_filterMap (f := fun line qs =>
      if (s.leftHidden w cores line qs).isEmpty then none else some (s.leftHidden w cores line qs)) wf
      (fun e => by
        show (if (s.leftHidden w cores e.1 e.2).isEmpty then none else some (e.1, s.leftHidden w cores e.1 e.2)) = _
        split <;> rfl) line
  simp only [Sparse.getD, found]
  cases Sparse.find? s.unpub line with
  | none => rfl
  | some qs =>
    simp only [Option.bind_some, Option.getD_some]
    split
    · exact (List.isEmpty_iff.mp ‹_›).symm
    · rfl

/-- After a publication a line is unpublished for a core where some write of it stays so. -/
theorem unpublished_publish {s : State} (wf : Sparse.wf s.unpub = true) (w : Nat) (cores : BitVec 384) (core pa : Nat) :
    (s.publish w cores).unpublished core pa = true ↔
      ∃ q ∈ Sparse.getD s.unpub [] (pa / 64), (s.stillHidden w cores (pa / 64) q).getLsbD core = true := by
  have some_bit (m : BitVec 384) (h : m.getLsbD core = true) : m ≠ 0 := fun zero => by simp [zero] at h
  simp only [State.unpublished, find?_publish wf, State.leftHidden, List.any_eq_true, List.mem_filter, List.mem_map, bne_iff_ne]
  constructor
  · rintro ⟨_, ⟨⟨q, mem, rfl⟩, -⟩, bit⟩
    exact ⟨q, mem, bit⟩
  · rintro ⟨q, mem, bit⟩
    exact ⟨_, ⟨⟨q, mem, rfl⟩, some_bit _ bit⟩, bit⟩

section
variable {s : State} {w core : Nat} {cores : BitVec 384}

theorem getLsbD_stillHidden_inside (inside : cores.getLsbD core = true) (line : Nat) (q : Agent × BitVec 384) :
    (s.stillHidden w cores line q).getLsbD core = (!s.ordersBefore w line q.1 && q.2.getLsbD core) := by
  unfold State.stillHidden
  split <;> simp [*]
theorem getLsbD_stillHidden_outside (outside : cores.getLsbD core = false) (line : Nat) (q : Agent × BitVec 384) :
    (s.stillHidden w cores line q).getLsbD core = q.2.getLsbD core := by
  unfold State.stillHidden
  split
  · rw [BitVec.getLsbD_and, BitVec.getLsbD_not, outside]
    by_cases named : core < 384
    · simp [named]
    · simp [q.2.getLsbD_of_ge core (by omega)]
  · rfl

theorem publish_inside (wf : Sparse.wf s.unpub = true) (inside : cores.getLsbD core = true) (pa : Nat) :
    ((∀ e ∈ Sparse.getD s.unpub [] (pa / 64), e.2.getLsbD core = true → e.1 = .wale w) →
      (s.publish w cores).unpublished core pa = false) ∧
    (∀ c q b m, (Agent.cmd w c q b, m) ∈ Sparse.getD s.unpub [] (pa / 64) → m.getLsbD core = true →
      (s.publish w cores).unpublished core pa = true) := by
  constructor
  · intro own
    rw [Bool.eq_false_iff]
    intro hidden
    obtain ⟨q, mem, bit⟩ := (unpublished_publish wf w cores core pa).mp hidden
    rw [getLsbD_stillHidden_inside inside, Bool.and_eq_true, Bool.not_eq_true'] at bit
    obtain ⟨late, bit⟩ := bit
    rw [own q mem bit] at late
    simp [State.ordersBefore] at late
  · intro c q b m mem bit
    refine (unpublished_publish wf w cores core pa).mpr ⟨_, mem, ?_⟩
    rw [getLsbD_stillHidden_inside inside, bit]
    simp [State.ordersBefore]
theorem publish_outside (wf : Sparse.wf s.unpub = true) (outside : cores.getLsbD core = false) (pa : Nat) :
    (s.publish w cores).unpublished core pa = s.unpublished core pa := by
  rw [Bool.eq_iff_iff, unpublished_publish wf]
  simp only [getLsbD_stillHidden_outside outside, State.unpublished, List.any_eq_true]

end

/-- Settles O34: the three meanings, what a prefetch and a write-back leave, and the writes that a publication leaves hidden. -/
theorem fences : Obligations.Fences := by
  refine ⟨fun s x o => ⟨fun issues => ⟨_, exec_of_ready rfl issues rfl, ran_finish _ false {}⟩, ran_fence, ran_cpub⟩,
    fun x lv n a => ⟨prefetch_unaligned x lv n a, fun e => prefetch_untranslated x lv n a, fun t mapped =>
      ⟨prefetch_uncached x lv n a mapped, ?_⟩⟩,
    fun x lv l i => (x.s.cachesOnly_writeBackTo lv x.die x.st.hoop.core x.part x.func).bytes l i,
    fun s w pa core cores wf inside => publish_inside wf inside pa,
    fun s w pa core cores wf outside => publish_outside wf outside pa, fun _ _ _ => rfl⟩
  exact (prefetch_marks x lv n a mapped).imp_right fun ⟨rest, caches⟩ => ⟨rest, caches.bytes⟩

end Sys2Proof.Machine
end

section
/-! Proofs about the device pages (16 R357 to R359): what a load from a mailbox slot or a status page gives. -/

namespace Sys2Proof

/-- A byte of the number of a byte string. -/
theorem ofNat_natLE_div (bs : List Byte) (i : Nat) : BitVec.ofNat 8 (natLE bs / 256 ^ i) = bs.getD i 0 := by
  induction bs generalizing i with
  | nil => simp [natLE]
  | cons b bs ih =>
    have low := b.isLt
    cases i with
    | zero =>
      apply BitVec.eq_of_toNat_eq
      simp only [natLE, pow_zero, Nat.div_one, BitVec.toNat_ofNat, List.getD_cons_zero]
      omega
    | succ i =>
      have rest : (b.toNat + 256 * natLE bs) / 256 = natLE bs := by omega
      rw [List.getD_cons_succ, ← ih, natLE, Nat.pow_succ', ← Nat.div_div_eq_div_mul, rest]

end Sys2Proof

namespace Sys2Proof.Machine

/-! ### Mailbox slots (R358) -/

/-- Offset `o` of slot `slot` of die `d`. -/
def slotPa (d : Fin 4) (slot o : Nat) : Nat := 0x300008010000 + 2 ^ 28 * d.val + 256 * slot + o

section
variable (d : Fin 4) {slot o : Nat} (hs : slot < 256) (ho : o < 256)
include hs ho

theorem slotPa_die : Fin.ofNat 4 (slotPa d slot o / 2 ^ 28) = d := by
  apply Fin.ext
  simp only [slotPa, Fin.ofNat]
  omega
theorem slotPa_offset : slotPa d slot o % 2 ^ 28 = 0x08010000 + 256 * slot + o := by
  unfold slotPa
  omega

end

/-- Slot `slot` of die `d` becomes `c`. -/
def State.putSlot (s : State) (d : Fin 4) (slot : Nat) (c : Mbox) : State :=
  s.updDie d fun x => { x with mbox := Sparse.setD x.mbox Mbox.empty slot c }

theorem putSlot_spec (s : State) (d : Fin 4) (slot : Nat) (c : Mbox) :
    s.putSlot d slot c = { s with dies := (s.putSlot d slot c).dies } ∧
    (∀ e, (s.putSlot d slot c).die e = if e = d then { s.die d with mbox := ((s.putSlot d slot c).die d).mbox } else s.die e) ∧
    (Sparse.wf (s.die d).mbox = true → ∀ k, Sparse.getD ((s.putSlot d slot c).die d).mbox Mbox.empty k =
      if k = slot then c else Sparse.getD (s.die d).mbox Mbox.empty k) := by
  have die : ∀ e, (s.putSlot d slot c).die e =
      if e = d then { s.die d with mbox := Sparse.setD (s.die d).mbox Mbox.empty slot c } else s.die e := fun e => s.die_updDie d e _
  refine ⟨rfl, fun e => ?_, fun wf k => ?_⟩
  · rw [die e, die d, if_pos rfl]
  · rw [die d, if_pos rfl]
    exact Sparse.getD_setD _ _ _ _ wf

theorem ioLoad_slot (s : State) (d : Fin 4) {slot o : Nat} (n : Nat) (hs : slot < 256) (ho : o < 256) :
    s.ioLoad (slotPa d slot o) n =
      let b := Sparse.getD (s.die d).mbox Mbox.empty slot
      if o = 16 ∧ n = 16 then
        match b.msgs with
        | [] => (bytesLE 16 0, s)
        | m :: ms => (bytesLE 16 m.toNat, s.putSlot d slot { b with msgs := ms })
      else if o = 32 ∧ n = 4 then
        (bytesLE 4 (b.msgs.length + if b.ovf then 256 else 0), s.putSlot d slot { b with ovf := false })
      else (bytesLE n 0, s) := by
  have inside : 0x08010000 ≤ 0x08010000 + 256 * slot + o ∧ 0x08010000 + 256 * slot + o < 0x08020000 := by omega
  have number : (0x08010000 + 256 * slot + o - 0x08010000) / 256 = slot := by omega
  have offset : (0x08010000 + 256 * slot + o) % 256 = o := by omega
  unfold State.ioLoad
  simp only [slotPa_die d hs ho, slotPa_offset d hs ho, if_pos inside, number, offset]
  rfl

theorem bytesLE_zero (n : Nat) : bytesLE n 0 = List.replicate n 0 := by
  induction n with
  | zero => rfl
  | succ n ih => simp [bytesLE, ih, List.replicate_succ]

/-- A load from a slot by its offset and width: POP, STAT, anything else. -/
theorem ioLoad_slot_cases (s : State) (d : Fin 4) {slot o : Nat} (n : Nat) (hs : slot < 256) (ho : o < 256) :
    let b := Sparse.getD (s.die d).mbox Mbox.empty slot
    let r := s.ioLoad (slotPa d slot o) n
    (o = 16 → n = 16 → b.msgs = [] → r = (List.replicate 16 0, s)) ∧
    (∀ m ms, o = 16 → n = 16 → b.msgs = m :: ms →
      r.1.length = 16 ∧ natLE r.1 = m.toNat ∧ r.2 = s.putSlot d slot { b with msgs := ms }) ∧
    (o = 32 → n = 4 → b.msgs.length ≤ 16 → r.1.length = 4 ∧
      natLE r.1 = b.msgs.length + (if b.ovf = true then 2 ^ 8 else 0) ∧ r.2 = s.putSlot d slot { b with ovf := false }) ∧
    (¬(o = 16 ∧ n = 16) → ¬(o = 32 ∧ n = 4) → r = (List.replicate n 0, s)) := by
  intro b r
  have run := ioLoad_slot s d n hs ho
  refine ⟨fun pop wide none => ?_, fun m ms pop wide some => ?_, fun stat word few => ?_, fun pop stat => ?_⟩
  · refine run.trans ((if_pos ⟨pop, wide⟩).trans ?_)
    rw [show (Sparse.getD (s.die d).mbox Mbox.empty slot).msgs = [] from none]
    rfl
  · have popped : r = (bytesLE 16 m.toNat, s.putSlot d slot { b with msgs := ms }) := by
      refine run.trans ((if_pos ⟨pop, wide⟩).trans ?_)
      rw [show (Sparse.getD (s.die d).mbox Mbox.empty slot).msgs = m :: ms from some]
    rw [popped, natLE_bytesLE, bytesLE_length]
    exact ⟨rfl, Nat.mod_eq_of_lt m.isLt, rfl⟩
  · have read : r = (bytesLE 4 (b.msgs.length + if b.ovf then 256 else 0), s.putSlot d slot { b with ovf := false }) :=
      run.trans ((if_neg (by omega)).trans (if_pos ⟨stat, word⟩))
    rw [read, natLE_bytesLE, bytesLE_length]
    refine ⟨rfl, Nat.mod_eq_of_lt ?_, rfl⟩
    split <;> omega
  · refine run.trans ((if_neg pop).trans ((if_neg stat).trans ?_))
    rw [bytesLE_zero]

/-! ### Status pages (R359) -/

/-- The bytes of the status word: DIEUP, then the dies' epochs from byte 4 on. -/
theorem statusWord_bytes (s : State) : s.statusWord = natLE [s.dieUp.setWidth 8, 0, 0, 0, vget s.dieEpoch 0, vget s.dieEpoch 1,
    vget s.dieEpoch 2, vget s.dieEpoch 3] := by
  have up := s.dieUp.isLt
  simp only [State.statusWord, show List.finRange 4 = [0, 1, 2, 3] from rfl, List.map_cons, List.map_nil, natLE,
    BitVec.toNat_setWidth, Nat.mod_eq_of_lt (show s.dieUp.toNat < 2 ^ 8 by omega), show (0 : Byte).toNat = 0 from rfl]
  omega

theorem statusWord_byte (s : State) (k : Nat) : BitVec.ofNat 8 (s.statusWord / 256 ^ k) =
    if k = 0 then s.dieUp.setWidth 8 else if 4 ≤ k ∧ k < 8 then vget s.dieEpoch (Fin.ofNat 4 k) else 0 := by
  rw [statusWord_bytes, ofNat_natLE_div]
  match k with
  | 0 | 1 | 2 | 3 | 4 | 5 | 6 | 7 => rfl
  | k + 8 => simp

theorem ioLoad_status (s : State) (d : Fin 4) {o : Nat} (n : Nat) (ho : o < 2 ^ 13) :
    let r := s.ioLoad (0x300008000000 + 2 ^ 28 * d.val + o) n
    r.2 = s ∧ r.1.length = n ∧ ∀ i, i < n → r.1[i]? = some
      (if o + i = 0 then s.dieUp.setWidth 8 else if 4 ≤ o + i ∧ o + i < 8 then vget s.dieEpoch (Fin.ofNat 4 (o + i)) else 0) := by
  have offset : (0x300008000000 + 2 ^ 28 * d.val + o) % 2 ^ 28 = 0x08000000 + o := by omega
  have run : s.ioLoad (0x300008000000 + 2 ^ 28 * d.val + o) n = (bytesLE n (s.statusWord / 2 ^ (8 * o)), s) := by
    unfold State.ioLoad
    simp only [offset]
    rw [if_neg (by omega), if_pos (by omega), show (0x08000000 + o) % 0x2000 = o by omega]
  simp only [run]
  refine ⟨trivial, bytesLE_length _ _, fun i hi => ?_⟩
  rw [List.getElem?_eq_getElem (by simpa using hi), bytesLE_getElem, pow_mul, Nat.div_div_eq_div_mul,
    show (2 ^ 8 : Nat) = 256 from rfl, ← pow_add, statusWord_byte]

/-! ### The reads of an instruction, strand by strand (R358) -/

theorem ioReads_each (s : State) (n : Nat) (e : SAcc) (l : List SAcc) (seen : List (Fin 32 × Dword × List Byte)) :
    s.ioReads n [] seen = (seen, s) ∧
    (isMailbox e.p = true ∨ (∀ q ∈ seen, q.2.1 ≠ e.a) →
      let r := s.ioRead e.p n
      s.ioReads n (e :: l) seen = r.2.ioReads n l (seen ++ [(e.i, e.a, r.1)])) ∧
    (isMailbox e.p = false → ∀ q, (seen.find? fun q => q.2.1 == e.a) = some q →
      s.ioReads n (e :: l) seen = s.ioReads n l (seen ++ [(e.i, e.a, q.2.2)])) := by
  refine ⟨rfl, fun first => ?_, fun shared q found => ?_⟩
  · have none : (seen.find? fun q => q.2.1 == e.a && !isMailbox e.p) = none := by
      rw [List.find?_eq_none]
      intro q mem
      obtain own | new := first
      · simp [own]
      · simp [new q mem]
    rw [State.ioReads, none]
  · rw [State.ioReads]
    simp only [shared, Bool.not_false, Bool.and_true, found]

end Sys2Proof.Machine
end

section
/-! Proofs about loads (08 R182, R187, R188, R191). -/

namespace Sys2Proof.Machine

/-! ### Data registers (R182, 02 R41) -/

/-- The registers of a v result of width code `w`. -/
theorem dataWrites_v (x : Ctx) (n : Fin 256) (w : Nat) (f : Fin 32 → Nat) :
    x.dataWrites (.v n) w f = (List.range (dataRegs w)).map fun k =>
      .v (Fin.ofNat 256 (n.val + k)) x.vis (Vector.ofFn fun i => BitVec.ofNat 32 (f i / 2 ^ (32 * k))) := rfl

/-- A visited strand of `m` registers written in a row from `n` on. -/
theorem vAfter_row (n : Fin 256) (vis : Mask) (y : Nat → Lanes) {m k : Nat} (few : m ≤ 256) (hk : k < 256) {i : Fin 32}
    (seen : vis.getLsbD i.val = true) (old : Word) :
    vAfter ((List.range m).map fun k => .v (Fin.ofNat 256 (n.val + k)) vis (y k)) (Fin.ofNat 256 (n.val + k)) i old =
      if k < m then vget (y k) i else old := by
  induction m with
  | zero => simp [vAfter]
  | succ m ih =>
    have named : Fin.ofNat 256 (n.val + m) = Fin.ofNat 256 (n.val + k) ↔ k = m := by
      simp only [Fin.ofNat, Fin.mk.injEq]
      omega
    have step := ih (by omega)
    unfold vAfter at step ⊢
    rw [List.range_succ, List.map_append, List.foldl_append, step]
    simp only [List.map_cons, List.map_nil, List.foldl_cons, List.foldl_nil, named, seen, and_true]
    obtain lt | rfl | gt := Nat.lt_trichotomy k m
    · simp [lt, lt.ne, Nat.lt_succ_of_lt lt]
    · simp
    · simp [gt.ne', gt.not_gt, show ¬k < m + 1 by omega]

theorem vAfter_dataWrites (x : Ctx) (n : Fin 256) {k w : Nat} (f : Fin 32 → Nat) {i : Fin 32} (old : Word) (hk : k < dataRegs w)
    (seen : x.vis.getLsbD i.val = true) :
    vAfter (x.dataWrites (.v n) w f) (Fin.ofNat 256 (n.val + k)) i old = BitVec.ofNat 32 (f i / 2 ^ (32 * k)) := by
  have few : dataRegs w ≤ 4 := by unfold dataRegs; split_ifs <;> omega
  rw [dataWrites_v, vAfter_row n x.vis _ (by omega) (by omega) seen, if_pos hk, vget_ofFn]

/-! ### Extension (R182) -/

theorem extendTo_signed {w v : Nat} (narrow : w < 2) (fits : v < 2 ^ (8 * 2 ^ w)) :
    extendTo w true v = ((BitVec.ofNat (8 * 2 ^ w) v).signExtend 32).toNat := by
  have half : 8 * 2 ^ w ≤ 16 := by
    obtain rfl | rfl : w = 0 ∨ w = 1 := by omega
    all_goals decide
  have small : v < 2 ^ 32 := fits.trans_le (Nat.pow_le_pow_right two_pos (by omega))
  rw [BitVec.toNat_signExtend, BitVec.msb_eq_decide, BitVec.toNat_setWidth, BitVec.toNat_ofNat, Nat.mod_eq_of_lt fits,
    Nat.mod_eq_of_lt small]
  unfold extendTo
  by_cases neg : 2 ^ (8 * 2 ^ w - 1) ≤ v <;> simp [narrow, neg]
theorem extendTo_unsigned (w v : Nat) : extendTo w false v = v := rfl
theorem extendTo_wide {w : Nat} (wide : 2 ≤ w) (sx : Bool) (v : Nat) : extendTo w sx v = v := by
  simp [extendTo, show ¬w < 2 by omega]

/-! ### A load at issue -/

/-- The result that a load makes of the values read (R182). -/
def Ctx.loadRes (x : Ctx) (o : MOps) (vs : List (Fin 32 × Nat)) : Res :=
  { writes := x.dataWrites o.d o.w.toNat fun j => extendTo o.w.toNat (o.var.getLsbD 0) (strandVal vs j) }

/-- The load of a width code from a space, by what its places are. -/
theorem load_placed {x : Ctx} {spc : Sp} {o : MOps} {ps : List SAcc} (placed : (x.loadAcc spc o).placed x = .ok ps) :
    let y := x.notePlaces ps false
    let io := ps.any fun e => e.p.io
    let z := y.touchPlaces ps (mLevel o).at_ .read
    let r := y.s.ioReads (2 ^ o.w.toNat) ps []
    x.load spc o =
      if io && !y.st.wl.drained then y.drainWait
      else if y.underOwn ps then y.drainWait
      else match y.homeOffStrands ps with
        | e :: r => if y.core.hoff.isSome then y.hold (.wait false) else y.sendHomeOff (e :: r) (!o.d.isV)
        | [] =>
          if io then Ctx.finishSingle { y with s := r.2 } (y.loadRes o (r.1.map fun e => (e.1, natLE e.2.2)))
          else z.finish false (z.loadRes o (z.loadVals ps)) := by
  have found : x.placeAll spc (x.strandsOf (!o.d.isV) (x.mAddr spc o)) (2 ^ o.w.toNat) (2 ^ o.w.toNat) .r false (!o.d.isV) =
    .ok ps := placed
  simp only [Ctx.load, Ctx.loadWith, found]
  rfl

/-- The values that a load of ordinary memory gives. -/
theorem strandVal_loadVals (x : Ctx) (ps : List SAcc) :
    strandVal (x.loadVals ps) = valueAt ps (ps.map fun e => natLE ((x.s.ownView x.st.w x.st.wl x.die).placeRead e.p)) := by
  funext j
  simp only [Ctx.loadVals, valueAt, List.zip_map']

/-- A load instruction's space. -/
theorem load_of_access {i : Instr} {x : Ctx} {o : MOps} {A : Access} (load : loadOf i = some o) (access : accessOf x i = some A) :
    ∃ spc, A = x.loadAcc spc o ∧ ∀ s, exec i s = issueWith i s fun y => y.load spc o := by
  cases i <;> cases load <;> cases access <;> exact ⟨_, rfl, fun _ => rfl⟩

theorem ran_load {i : Instr} {s : State} {x : Ctx} {o : MOps} {A : Access} {ps : List SAcc}
    (load : loadOf i = some o) (issues : ready i s = some x) (access : accessOf x i = some A) (placed : A.placed x = .ok ps) :
    let y := x.notePlaces ps false
    let value (vs : List Nat) (j : Fin 32) : Nat := extendTo o.w.toNat (o.var.getLsbD 0) (valueAt ps vs j)
    let io := ∃ e ∈ ps, e.p.io = true
    let z := y.touchPlaces ps (levelOf o.cp.toNat o.ord.toNat o.scope.toNat) .read
    (¬io → y.underOwn ps = false → y.homeOffStrands ps = [] → ∃ t, exec i s = .next t ∧
      RanOn z false ⟨z.dataWrites o.d o.w.toNat
        (value (ps.map fun e => natLE ((z.s.ownView z.st.w z.st.wl z.die).placeRead e.p))), 0, []⟩ t) ∧
    ((io → y.st.wl.drained = true) → y.underOwn ps = true → ∃ t, exec i s = .next t ∧ Drains y t) ∧
    (io → y.st.wl.drained = true → y.underOwn ps = false → y.homeOffStrands ps = [] → ∃ t, exec i s = .next t ∧
      let r := y.s.ioReads (2 ^ o.w.toNat) ps []
      RanAlone { y with s := r.2 } ⟨y.dataWrites o.d o.w.toNat fun j =>
        extendTo o.w.toNat (o.var.getLsbD 0) (strandVal (r.1.map fun e => (e.1, natLE e.2.2)) j), 0, []⟩ t) ∧
    (io → y.st.wl.drained = false → ∃ t, exec i s = .next t ∧ Drains y t) ∧
    (∀ e r, (io → y.st.wl.drained = true) → y.underOwn ps = false → y.homeOffStrands ps = e :: r → y.core.hoff ≠ none →
      ∃ t, exec i s = .next t ∧ Waits y (.wait false) t) ∧
    (∀ e r, (io → y.st.wl.drained = true) → y.underOwn ps = false → y.homeOffStrands ps = e :: r → y.core.hoff = none → ∃ u t,
      exec i s = .next t ∧ RanOn y false {} u ∧ Changed u y.st.w (y.awaiting (y.replyOf (e :: r) A.scalar e.a)) t) := by
  obtain ⟨spc, rfl, meaning⟩ := load_of_access load access
  have run := (meaning s).trans ((issueWith_ready issues).trans (congrArg Host.Outcome.next (load_placed placed)))
  intro y value io z
  have any_io : (ps.any fun e => e.p.io) = true ↔ io := List.any_eq_true
  have at_once (may : io → y.st.wl.drained = true) : ¬((ps.any fun e => e.p.io) && !y.st.wl.drained) = true := by
    rw [Bool.and_eq_true, any_io, Bool.not_eq_true']
    exact fun ⟨is, undrained⟩ => Bool.false_ne_true (undrained.symm.trans (may is))
  refine ⟨fun plain free here => ?_, fun may own => ?_, fun is drained free here => ?_, fun is undrained => ?_,
    fun e r may free away due => ?_, fun e r may free away clear => ?_⟩
  · refine ⟨_, run.trans (congrArg Host.Outcome.next ?_), ran_finish z false _⟩
    rw [if_neg (at_once fun is => absurd is plain), if_neg (by simpa using free), here]
    refine (if_neg (mt any_io.mp plain)).trans ?_
    rw [Ctx.loadRes, strandVal_loadVals]
    rfl
  · refine ⟨_, run.trans (congrArg Host.Outcome.next ?_), drains_drainWait y⟩
    rw [if_neg (at_once may), if_pos own]
  · refine ⟨_, run.trans (congrArg Host.Outcome.next ?_), ranAlone_finishSingle { y with s := (y.s.ioReads _ ps []).2 } _⟩
    rw [if_neg (at_once fun _ => drained), if_neg (by simpa using free), here]
    exact if_pos (any_io.mpr is)
  · refine ⟨_, run.trans (congrArg Host.Outcome.next (if_pos ?_)), drains_drainWait y⟩
    rw [any_io.mpr is, undrained]
    rfl
  · refine ⟨_, run.trans (congrArg Host.Outcome.next ?_), waits_hold y _⟩
    rw [if_neg (at_once may), if_neg (by simpa using free), away]
    exact if_pos (Option.isSome_iff_ne_none.mpr due)
  · obtain ⟨u, ran, reply⟩ := sendHomeOff_awaits y e r (!o.d.isV)
    refine ⟨u, _, run.trans (congrArg Host.Outcome.next ?_), ran, reply⟩
    rw [if_neg (at_once may), if_neg (by simpa using free), away]
    exact if_neg (Option.not_isSome_iff_eq_none.mpr clear)

/-- Settles O27: a load by where its places lie, its registers and extension, and the device pages that it may read. -/
theorem loads : Obligations.Loads := by
  refine ⟨fun i s x o A ps load issues access placed => ran_load load issues access placed,
    fun x n k w f i old hk seen => vAfter_dataWrites x n f old hk seen,
    fun v => ⟨fun byte => extendTo_signed (w := 0) (by decide) byte, fun half => extendTo_signed (w := 1) (by decide) half,
      fun w => extendTo_unsigned w v, fun w sx wide => extendTo_wide wide sx v⟩,
    fun s d slot o n hs ho => ?_, fun s d o n ho => ioLoad_status s d n ho, ioReads_each,
    fun s pa va key f p mt n x is => if_pos is⟩
  obtain ⟨empty, pop, stat, other⟩ := ioLoad_slot_cases s d n hs ho
  have left {r : List Byte × State} {c : Mbox} (h : r.2 = s.putSlot d slot c) := h ▸ putSlot_spec s d slot c
  refine ⟨empty, fun m ms at_ wide some => ?_, fun at_ word few => ?_, other⟩
  · obtain ⟨length, value, next⟩ := pop m ms at_ wide some
    exact ⟨length, value, left next⟩
  · obtain ⟨length, value, next⟩ := stat at_ word few
    exact ⟨length, value, left next⟩

end Sys2Proof.Machine
end

section
/-! Proofs about placing the strands of an access (08 R191, 11 R262): which strand's error it takes, and the strands that raise it. -/

namespace Sys2Proof.Machine

/-! ### The errors of the least rank -/

/-- The least rank among the errors of strands. -/
def leastRank (es : List (Fin 32 × Dword × AErr)) : Nat := es.foldl (fun m e => min m e.2.2.rank) 9
/-- The errors that an access takes. -/
def taken (es : List (Fin 32 × Dword × AErr)) : List (Fin 32 × Dword × AErr) := es.filter fun e => e.2.2.rank == leastRank es

/-- The die of a partition check. -/
def AErr.die? : AErr → Option (Fin 4)
  | .part d => some d
  | _ => none
theorem AErr.die?_eq_some {k : AErr} {d : Fin 4} : k.die? = some d ↔ k = .part d := by cases k <;> simp [AErr.die?]

theorem rank_le (k : AErr) : k.rank ≤ 5 := by cases k <;> simp [AErr.rank]
theorem leastRank_spec (es : List (Fin 32 × Dword × AErr)) :
    (leastRank es = 9 ∨ ∃ e ∈ es, e.2.2.rank = leastRank es) ∧ ∀ e ∈ es, leastRank es ≤ e.2.2.rank := by
  have least : (9 :: es.map fun e => e.2.2.rank).min? = some (leastRank es) := by
    rw [List.min?_cons', List.foldl_map, leastRank]
  obtain ⟨mem, le⟩ := List.min?_eq_some_iff.mp least
  rw [List.mem_cons, List.mem_map] at mem
  exact ⟨mem, fun e h => le _ (List.mem_cons_of_mem _ (List.mem_map_of_mem h))⟩
theorem mem_taken {es : List (Fin 32 × Dword × AErr)} {e : Fin 32 × Dword × AErr} :
    e ∈ taken es ↔ e ∈ es ∧ e.2.2.rank = leastRank es := by simp [taken]
theorem taken_ne_nil {es : List (Fin 32 × Dword × AErr)} (some : es ≠ []) : taken es ≠ [] := by
  obtain ⟨e, mem⟩ := List.exists_mem_of_ne_nil es some
  obtain ⟨reached, le⟩ := leastRank_spec es
  obtain none | ⟨f, mem', rank⟩ := reached
  · have low := (le e mem).trans (rank_le _)
    omega
  · exact List.ne_nil_of_mem (mem_taken.mpr ⟨mem', rank⟩)

/-! ### The strands of an access -/

section
variable (x : Ctx) (spc : Sp) (ss : List (Fin 32 × Dword)) (n al : Nat) (need : Need) (atomic : Bool)

/-- The strands that cannot be placed, with their errors. -/
def Ctx.misses : List (Fin 32 × Dword × AErr) :=
  ss.filterMap fun q => match x.place spc q.1 q.2 n al need atomic with
    | .error k => some (q.1, q.2, k)
    | .ok _ => none
/-- The strands that can be placed, with their places. -/
def Ctx.hits : List SAcc :=
  ss.filterMap fun q => match x.place spc q.1 q.2 n al need atomic with
    | .ok p => some { i := q.1, a := q.2, p := p }
    | .error _ => none

variable {x spc ss n al need atomic}

theorem mem_misses {j : Fin 32} {b : Dword} {k : AErr} :
    (j, b, k) ∈ x.misses spc ss n al need atomic ↔ (j, b) ∈ ss ∧ x.place spc j b n al need atomic = .error k := by
  simp only [Ctx.misses, List.mem_filterMap]
  constructor
  · rintro ⟨q, mem, found⟩
    split at found
    · cases found
      exact ⟨mem, ‹_›⟩
    · cases found
  · rintro ⟨mem, error⟩
    exact ⟨_, mem, by simp only [error]⟩
theorem mem_hits {e : SAcc} (mem : e ∈ x.hits spc ss n al need atomic) : x.place spc e.i e.a n al need atomic = .ok e.p := by
  simp only [Ctx.hits, List.mem_filterMap] at mem
  obtain ⟨q, -, found⟩ := mem
  split at found
  · cases found
    assumption
  · cases found
/-- With no error every strand is placed, in order. -/
theorem hits_strands (all : x.misses spc ss n al need atomic = []) :
    (x.hits spc ss n al need atomic).map (fun e => (e.i, e.a)) = ss := by
  have each : ∀ q ∈ ss, ((match x.place spc q.1 q.2 n al need atomic with
      | .ok p => some { i := q.1, a := q.2, p := p }
      | .error _ => none : Option SAcc).map fun e => (e.i, e.a)) = some q := by
    intro q mem
    cases placed : x.place spc q.1 q.2 n al need atomic with
    | ok p => rfl
    | error k => exact absurd (all ▸ mem_misses.mpr ⟨mem, placed⟩) List.not_mem_nil
  rw [Ctx.hits, List.map_filterMap, List.filterMap_congr each, List.filterMap_some]
/-- The errors stand in the order of the strands. -/
theorem misses_pairwise (ascending : (ss.map fun q => q.1).Pairwise (· < ·)) :
    (x.misses spc ss n al need atomic).Pairwise fun e f => e.1 < f.1 := by
  refine (List.pairwise_map.mp ascending).filterMap _ fun p q lt e he f hf => ?_
  split at he
  · split at hf
    · cases he; cases hf
      exact lt
    · cases hf
  · cases he

theorem placeAll_eq (scalar : Bool) : x.placeAll spc ss n al need atomic scalar =
    match x.misses spc ss n al need atomic with
    | [] => .ok (x.hits spc ss n al need atomic)
    | e0 :: _ =>
      let es := taken (x.misses spc ss n al need atomic)
      .err (es.headD e0).2.2 (if scalar then x.fr.em else maskOf fun i => es.any fun e => e.1 == i) (es.headD e0).2.1
        (es.filterMap fun e => e.2.2.die?) := by
  unfold Ctx.placeAll Ctx.misses Ctx.hits
  simp only [List.filterMap_map]
  rfl

end

/-! ### The error that an access takes (R191, R262) -/

/-- What an access that cannot be placed takes: the error of a strand, raised by the strands of its rank. -/
structure Refused (x : Ctx) (spc : Sp) (ss : List (Fin 32 × Dword)) (n al : Nat) (need : Need) (atomic scalar : Bool)
    (e : AErr) (m : Mask) (a : Dword) (parts : List (Fin 4)) : Prop where
  first : ∃ i rest, taken (x.misses spc ss n al need atomic) = (i, a, e) :: rest
  mask : m = if scalar then x.fr.em else maskOf fun i => (taken (x.misses spc ss n al need atomic)).any fun e => e.1 == i
  parts : parts = (taken (x.misses spc ss n al need atomic)).filterMap fun e => e.2.2.die?

section
variable {x : Ctx} {spc : Sp} {ss : List (Fin 32 × Dword)} {n al : Nat} {need : Need} {atomic scalar : Bool}

theorem placeAll_ok {ps : List SAcc} (h : x.placeAll spc ss n al need atomic scalar = .ok ps) :
    ps.map (fun e => (e.i, e.a)) = ss ∧ ∀ e ∈ ps, x.place spc e.i e.a n al need atomic = .ok e.p := by
  rw [placeAll_eq] at h
  split at h
  · cases h
    exact ⟨hits_strands ‹_›, fun _ => mem_hits⟩
  · cases h
theorem placeAll_err {e : AErr} {m : Mask} {a : Dword} {parts : List (Fin 4)}
    (h : x.placeAll spc ss n al need atomic scalar = .err e m a parts) :
    Refused x spc ss n al need atomic scalar e m a parts := by
  rw [placeAll_eq] at h
  split at h
  · cases h
  · next e0 es found =>
    cases h
    obtain ⟨⟨i, b, k⟩, rest, first⟩ := List.exists_cons_of_ne_nil (taken_ne_nil (found ▸ List.cons_ne_nil e0 es))
    exact ⟨⟨i, rest, by rw [first]; rfl⟩, rfl, rfl⟩

variable {e : AErr} {m : Mask} {a : Dword} {parts : List (Fin 4)} (h : Refused x spc ss n al need atomic scalar e m a parts)
include h

theorem Refused.leastRank : leastRank (x.misses spc ss n al need atomic) = e.rank := by
  obtain ⟨i, rest, first⟩ := h.first
  exact (mem_taken.mp (first ▸ List.mem_cons_self : (i, a, e) ∈ _)).2.symm
theorem Refused.mem_taken_iff {j : Fin 32} {b : Dword} {k : AErr} : (j, b, k) ∈ taken (x.misses spc ss n al need atomic) ↔
    (j, b) ∈ ss ∧ x.place spc j b n al need atomic = .error k ∧ k.rank = e.rank := by
  rw [mem_taken, mem_misses, h.leastRank, and_assoc]
theorem Refused.rank_le {j : Fin 32} {b : Dword} {k : AErr} (mem : (j, b) ∈ ss)
    (error : x.place spc j b n al need atomic = .error k) : e.rank ≤ k.rank := by
  rw [← h.leastRank]
  exact (leastRank_spec _).2 (j, b, k) (mem_misses.mpr ⟨mem, error⟩)
/-- Of the strands that raise the error the lowest gives the address. -/
theorem Refused.lowest : ∃ i, (i, a) ∈ ss ∧ x.place spc i a n al need atomic = .error e ∧
    ((ss.map fun q => q.1).Pairwise (· < ·) →
      ∀ j b k, (j, b) ∈ ss → x.place spc j b n al need atomic = .error k → k.rank = e.rank → i ≤ j) := by
  obtain ⟨i, rest, first⟩ := h.first
  obtain ⟨mem, error, -⟩ := h.mem_taken_iff.mp (first ▸ List.mem_cons_self : (i, a, e) ∈ _)
  refine ⟨i, mem, error, fun ascending j b k mem' error' rank => ?_⟩
  have later : (j, b, k) ∈ (i, a, e) :: rest := first ▸ h.mem_taken_iff.mpr ⟨mem', error', rank⟩
  have sorted : ((i, a, e) :: rest).Pairwise fun e f => e.1 < f.1 := first ▸ (misses_pairwise ascending).filter _
  obtain same | tail := List.mem_cons.mp later
  · exact (congrArg Prod.fst same).ge
  · exact (List.rel_of_pairwise_cons sorted tail).le
theorem Refused.mask_iff (many : scalar = false) (i : Fin 32) : m.getLsbD i.val = true ↔
    ∃ b k, (i, b) ∈ ss ∧ x.place spc i b n al need atomic = .error k ∧ k.rank = e.rank := by
  rw [h.mask, many, if_neg Bool.false_ne_true, getLsbD_maskOf, List.any_eq_true]
  constructor
  · rintro ⟨⟨j, b, k⟩, mem, same⟩
    obtain rfl : j = i := by simpa using same
    exact ⟨b, k, h.mem_taken_iff.mp mem⟩
  · rintro ⟨b, k, found⟩
    exact ⟨(i, b, k), h.mem_taken_iff.mpr found, by simp⟩
theorem Refused.mem_parts {d : Fin 4} : d ∈ parts ↔
    ∃ q ∈ ss, x.place spc q.1 q.2 n al need atomic = .error (.part d) ∧ (AErr.part d).rank = e.rank := by
  rw [h.parts, List.mem_filterMap]
  constructor
  · rintro ⟨⟨j, b, k⟩, mem, found⟩
    obtain ⟨mem', error, rank⟩ := h.mem_taken_iff.mp mem
    obtain rfl := AErr.die?_eq_some.mp found
    exact ⟨(j, b), mem', error, rank⟩
  · rintro ⟨⟨j, b⟩, mem, found⟩
    exact ⟨(j, b, .part d), h.mem_taken_iff.mpr ⟨mem, found⟩, rfl⟩

end

/-- An error has the code PERM where its rank is that of a partition check. -/
theorem code_perm_iff (e : AErr) (d : Fin 4) : e.code = 0x06 ↔ (AErr.part d).rank = e.rank := by
  cases e <;> simp [AErr.code, AErr.rank, cALIGN, cRANGE, cPERM, cXLATE]

end Sys2Proof.Machine
end

section
/-! Proofs about page requests (11 R268, 15 R347): what of the device's work leaves the requests as they are, and the request that an
access posts. -/

namespace Sys2Proof.Machine

/-! ### Work that leaves the page requests alone -/

theorem CachesOnly.pageReqs {s t : State} (h : CachesOnly s t) : t.pageReqs = s.pageReqs := by rw [h.rest]

/-- A value that no step of a fold changes. -/
theorem foldl_keeps {α β : Type} {f : State → α → State} (g : State → β) (keeps : ∀ s a, g (f s a) = g s) (l : List α) (s : State) :
    g (l.foldl f s) = g s := by
  induction l generalizing s with
  | nil => rfl
  | cons a l ih => exact (ih _).trans (keeps s a)

theorem State.setAD_pageReqs (s : State) (x : Xl) (wr : Bool) : (s.setAD x wr).pageReqs = s.pageReqs := by
  have mark (s : State) (a m : Nat) :
      (if s.pte a ||| m = s.pte a then s else s.physWrite 0 a (bytesLE 8 (s.pte a ||| m))).pageReqs = s.pageReqs := by
    split
    · rfl
    · rw [State.physWrite_rest]
  unfold State.setAD
  split
  · rfl
  · exact (foldl_keeps State.pageReqs (fun s a => mark s a _) _ _).trans (mark s _ _)
theorem State.locWrite_pageReqs (s : State) (g : Agent) (d : Fin 4) (a : Acc) : (s.locWrite g d a).pageReqs = s.pageReqs := by
  unfold State.locWrite
  split
  · split_ifs
    · rfl
    · simp only [State.ioStore]
      split <;> rfl
    · simp only [State.ring]
      split <;> rfl
    · simp only [State.unpublish]
      rw [State.physWriteRun_rest]
      rfl
  all_goals rfl
theorem State.failed_pageReqs (s : State) (e : XErr) : (s.failed e).pageReqs = s.pageReqs := by
  unfold State.failed
  split
  · rfl
  · exact (s.cachesOnly_callBack _).pageReqs
  · rfl
theorem State.fePut_pageReqs {s t : State} {f va : Nat} {bs : List Byte} {o : FeOut} (h : s.fePut f va bs = o)
    (out : o = .done t ∨ o = .waits t) : t.pageReqs = s.pageReqs := by
  unfold State.fePut at h
  split at h
  · split at h
    · obtain rfl : t = s.failed _ := by simpa [← h, eq_comm] using out
      exact s.failed_pageReqs _
    · simp [← h] at out
  · dsimp only at h
    split at h
    · obtain rfl : t = s := by simpa [← h, eq_comm] using out
      rfl
    · obtain rfl | rfl := out
      · cases h
        rw [State.locWrite_pageReqs, (State.cachesOnly_touch ..).pageReqs, (State.cachesOnly_takeGrant ..).pageReqs,
          State.setAD_pageReqs]
      · cases h
theorem State.feWrite_pageReqs {s t : State} {f va : Nat} {bs : List Byte} (h : s.feWrite f va bs = some t) :
    t.pageReqs = s.pageReqs := by
  unfold State.feWrite at h
  split at h
  · cases h
    rfl
  · split at h
    · next u out =>
      cases h
      exact State.fePut_pageReqs out (.inl rfl)
    · next u out =>
      cases h
      have same : u.pageReqs = s.pageReqs := State.fePut_pageReqs out (.inr rfl)
      exact same
    · cases h
theorem State.feTry_pageReqs (s : State) (f va : Nat) (bs : List Byte) : (s.feTry f va bs).pageReqs = s.pageReqs := by
  unfold State.feTry
  split
  · exact State.feWrite_pageReqs ‹_›
  · split
    · exact s.failed_pageReqs _
    · rfl
theorem State.eventRecord_pageReqs {s t : State} {f : Nat} {bs : List Byte} (h : s.eventRecord f bs = some t) :
    t.pageReqs = s.pageReqs := by
  have post (u : State) : (u.fePost f).pageReqs = u.pageReqs := by
    unfold State.fePost State.evPost State.msixSend
    split_ifs <;> rfl
  unfold State.eventRecord at h
  dsimp only at h
  split at h
  · cases h
  · cases h
    rw [post, State.feTry_pageReqs, State.feTry_pageReqs]

/-! ### The request for a page (R268) -/

/-- Posting requests marks them as posted, and no more. -/
theorem mem_postRequests (f : Nat) (rs : List PageReq) {s : State} {q : PageReq} (mem : q ∈ s.pageReqs) :
    ∃ b, { q with posted := b } ∈ (s.postRequests f rs).pageReqs := by
  induction rs generalizing s q with
  | nil => exact ⟨q.posted, mem⟩
  | cons r rs ih =>
    rw [State.postRequests]
    split
    · exact ih mem
    · split
      · exact ⟨q.posted, mem⟩
      · next t recorded =>
        rw [← State.eventRecord_pageReqs recorded] at mem
        by_cases posts : (q.func == f && q.tag == r.tag) = true
        · exact ih (s := { t with pageReqs := _ }) (q := { q with posted := true }) (List.mem_map.mpr ⟨q, mem, if_pos posts⟩)
        · exact ih (s := { t with pageReqs := _ }) (List.mem_map.mpr ⟨q, mem, if_neg posts⟩)

/-- After a request for a page of a function there is one for it and the die, with the tag given, of the kind asked for where there was
none before. -/
theorem requestPage_spec (s : State) (f va : Nat) (d : Fin 4) (kind : Nat) :
    ∃ r ∈ (s.requestPage f va d kind).2.pageReqs, r.func = f ∧ r.page = va / 8192 ∧ r.die = d.val ∧
      r.tag = (s.requestPage f va d kind).1 ∧
      ((∀ q ∈ s.pageReqs, ¬(q.func = f ∧ q.page = va / 8192 ∧ q.die = d.val)) → r.kind = kind) := by
  unfold State.requestPage
  dsimp only
  split
  · next r found =>
    have mine := List.find?_some found
    simp only [Bool.and_eq_true, beq_iff_eq] at mine
    obtain ⟨⟨func, page⟩, die⟩ := mine
    exact ⟨r, List.mem_of_find?_eq_some found, func, page, die, rfl, fun none =>
      absurd ⟨func, page, die⟩ (none r (List.mem_of_find?_eq_some found))⟩
  · obtain ⟨b, mem⟩ := mem_postRequests f _ (s := { s with pageReqs := _ }) (List.mem_append_right s.pageReqs (List.mem_singleton_self _))
    exact ⟨_, mem, rfl, rfl, rfl, rfl, fun _ => rfl⟩

end Sys2Proof.Machine
end

section
/-! Proofs about the instructions with an access that cannot be placed (08 R191, 11 R262, R263, R268). -/

namespace Sys2Proof.Machine

/-! ### What an access that is refused comes to -/

/-- A demand discards the wale's region, requests the page, and leaves the wale waiting for it at the head. -/
theorem demand_requests (x : Ctx) (va kind : Nat) :
    ∃ r ∈ (x.demand va kind).pageReqs, r.func = x.func ∧ r.page = va / 8192 ∧ r.die = x.die.val ∧
      ((∀ q ∈ x.s.pageReqs, ¬(q.func = x.func ∧ q.page = va / 8192 ∧ q.die = x.die.val)) → r.kind = kind) ∧
      (x.demand va kind).wale? x.st.w = some { x.st.wl with
        core := x.st.wl.cur.ckpt.unstall, cur := { x.st.wl.cur with held := [], q := none }, st := .page r.tag } := by
  obtain ⟨r, mem, func, page, die, tag, new⟩ := requestPage_spec x.s x.func va x.die kind
  refine ⟨r, mem, func, page, die, new, ?_⟩
  rw [tag]
  exact Sparse.find?_put_self _ _ _

/-- An error that is neither a demand nor a wait is raised, and the rejections of partition checks are counted. -/
theorem raised_accessErr (x : Ctx) {e : AErr} (m : Mask) (a : Dword) (parts : List (Fin 4)) (kind : Nat)
    (demand : e ≠ .demand) (wait : e ≠ .wait) (away : ∀ p, e ≠ .away p) :
    Raised (x.refuse parts) ((x.refuse parts).record ⟨e.code, a, m⟩) (x.accessErr e m a parts kind) := by
  cases e with
  | demand => exact absurd rfl demand
  | wait => exact absurd rfl wait
  | away p => exact absurd rfl (away p)
  | align | range | xlate | perm | part d => exact raised_raise (x.refuse parts) _

/-! ### Each instruction -/

section
variable {x : Ctx} {e : AErr} {m : Mask} {a : Dword} {parts : List (Fin 4)}

theorem load_refused {spc : Sp} {o : MOps} (h : (x.loadAcc spc o).placed x = .err e m a parts) :
    x.load spc o = x.accessErr e m a parts 0 := by
  have found : x.placeAll spc (x.strandsOf (!o.d.isV) (x.mAddr spc o)) (2 ^ o.w.toNat) (2 ^ o.w.toNat) .r false (!o.d.isV) =
    .err e m a parts := h
  simp only [Ctx.load, Ctx.loadWith, found]
theorem store_refused {spc : Sp} {o : MOps} (h : (x.storeAcc spc o).placed x = .err e m a parts) :
    x.store spc o = x.accessErr e m a parts 1 := by
  have found : x.placeAll spc (x.strandsOf (!o.d.isV && o.idx == .none) (x.mAddr spc o)) (2 ^ o.w.toNat) (2 ^ o.w.toNat) .w false
    (!o.d.isV && o.idx == .none) = .err e m a parts := h
  simp only [Ctx.store, Ctx.storeWith, found]
theorem atomic_refused {spc : Sp} {o : AOps} (lv : Level) (h : (x.atomAcc spc o).placed x = .err e m a parts) :
    x.atomic spc o lv = x.accessErr e m a parts 2 := by
  have found : x.placeAll spc (x.strandsOf o.scalar (x.aAddr spc o)) (2 ^ o.w.toNat) (2 ^ o.w.toNat)
    (if o.d = .none then .w else .rw) true o.scalar = .err e m a parts := h
  simp only [Ctx.atomic, found]
theorem syncHeld_refused {o : AOps} {kind : Nat} (op : SyncOp) (v w : Word) (h : (x.syncAcc o kind).placed x = .err e m a parts) :
    x.syncHeld o op v w = x.accessErr e m a parts 1 := by
  have found : x.syncPlace o = .err e m a parts := h
  simp only [Ctx.syncHeld, found]

/-- An instruction whose access is refused does what the error says, and nothing else. -/
theorem exec_refused {i : Instr} {s : State} {A : Access} (issues : ready i s = some x) (access : accessOf x i = some A)
    (h : A.placed x = .err e m a parts) : exec i s = .next (x.accessErr e m a parts A.kind) := by
  unfold accessOf at access
  split at access
  -- `ld`, `ldsp`, `ldcl`, `lddie`, `ldpv`
  case h_1 o | h_2 o | h_3 o | h_4 o | h_5 o =>
    cases access
    exact exec_of_ready rfl issues (load_refused h)
  -- `st`, `stsp`, `stcl`, `stdie`, `stpv`
  case h_6 o | h_7 o | h_8 o | h_9 o | h_10 o =>
    cases access
    exact exec_of_ready rfl issues (store_refused h)
  -- `xadd`
  case h_11 o =>
    cases access
    have found : x.cellAcc (x.aAddr .glob o) (!o.x.isV && o.idx == .none) .w = .err e m a parts := h
    exact exec_of_ready rfl issues (by simp only [found])
  -- `xrd`
  case h_12 o =>
    cases access
    have found : x.cellAcc (x.mAddr .glob o) (!o.d.isV) .r = .err e m a parts := h
    exact exec_of_ready rfl issues (by simp only [found])
  -- `xclr`
  case h_13 o =>
    cases access
    have found : x.cellAcc (x.mAddr .glob o) false .w = .err e m a parts := h
    exact exec_of_ready rfl issues (by simp only [found])
  -- `atom`, `red`, `atomsp`
  case h_14 o | h_15 o | h_16 o =>
    cases access
    exact exec_of_ready rfl issues (atomic_refused _ h)
  -- `swinit`, `swexp`, `arv`
  case h_17 o | h_18 o | h_19 o =>
    cases access
    exact exec_of_ready rfl issues (syncHeld_refused _ _ _ h)
  -- `wtg`
  case h_20 o =>
    cases access
    have found : x.syncPlace o = .err e m a parts := h
    refine exec_of_ready rfl issues ?_
    simp only [found]
    rfl
  case h_21 => cases access

/-- The strands of an access are in ascending order. -/
theorem strands_ascending {i : Instr} {A : Access} (access : accessOf x i = some A) : (A.strands.map fun q => q.1).Pairwise (· < ·) := by
  have sites (scalar : Bool) (f : Fin 32 → Dword) : ((x.sites scalar f).map fun q => q.1).Pairwise (· < ·) := by
    cases scalar with
    | true => exact List.pairwise_singleton _ _
    | false => simpa [Ctx.sites, Function.comp_def] using Mask.strands_pairwise x.vis
  unfold accessOf at access
  split at access
  case h_21 => cases access
  case h_17 | h_18 | h_19 | h_20 => cases access; exact List.pairwise_singleton _ _
  case h_13 o => cases access; exact sites false (x.mAddr .glob o)
  all_goals
    cases access
    exact sites _ _

end

/-- Settles O24: placing an access by the errors of its strands; each instruction by what the error comes to. -/
theorem accessFaults : Obligations.AccessFaults := by
  refine ⟨fun x spc ss n al need atomic scalar => ⟨fun ps => placeAll_ok, fun e m a parts h => ?_⟩,
    fun i s x A e m a parts issues access h => ?_, fun d p => by simp [AErr.rank, AErr.code, cALIGN, cRANGE, cXLATE, cPERM]⟩
  · have refused := placeAll_err h
    exact ⟨refused.lowest, fun j b k => refused.rank_le, fun one => by rw [refused.mask, if_pos one], refused.mask_iff⟩
  · have refused := placeAll_err h
    have run := exec_refused issues access h
    obtain ⟨j, mem, error, least⟩ := refused.lowest
    refine ⟨⟨j, mem, error, fun q mem k => least (strands_ascending access) q.1 q.2 k mem⟩,
      fun demand wait away => ⟨_, run, raised_accessErr x m a parts A.kind demand wait away⟩,
      fun perm d => refused.mem_parts.trans ?_, fun other => ?_, ?_, ?_, ?_⟩
    · simp only [(code_perm_iff e d).mp perm, and_true]
    · refine List.eq_nil_iff_forall_not_mem.mpr fun d mem => other ?_
      obtain ⟨-, -, -, rank⟩ := refused.mem_parts.mp mem
      exact (code_perm_iff e d).mpr rank
    · rintro rfl
      exact ⟨_, run, waits_hold x _⟩
    · rintro p rfl
      exact ⟨_, run, waits_hold (x.over (x.s.callBack p)) _⟩
    · rintro rfl
      obtain ⟨r, requested, func, page, die, new, wale⟩ := demand_requests x a.toNat A.kind
      exact ⟨_, r, run, requested, func, page, die, new, wale⟩

end Sys2Proof.Machine
end

section
/-! Proofs about a store that is performed (08 R187, R198, 10 R248, 14 R315, R319): the bytes that it changes in each kind of place. -/

namespace Sys2Proof

/-! ### Byte strings -/

theorem natLE_append (as bs : List Byte) : natLE (as ++ bs) = natLE as + 256 ^ as.length * natLE bs := by
  induction as with
  | nil => simp [natLE]
  | cons a as ih => rw [List.cons_append, natLE, ih, natLE, List.length_cons, Nat.pow_succ]; ring
theorem natLE_lt (bs : List Byte) : natLE bs < 256 ^ bs.length := by
  induction bs with
  | nil => simp [natLE]
  | cons b bs ih =>
    have low := b.isLt
    rw [natLE, List.length_cons, Nat.pow_succ]
    omega
theorem natLE_take {bs : List Byte} {n : Nat} (fits : n ≤ bs.length) : natLE (bs.take n) = natLE bs % 256 ^ n := by
  have low := natLE_lt (bs.take n)
  have parts := natLE_append (bs.take n) (bs.drop n)
  rw [List.length_take_of_le fits] at low parts
  rw [List.take_append_drop] at parts
  rw [parts, Nat.add_mul_mod_self_left, Nat.mod_eq_of_lt low]

/-! ### Byte maps with the default zero -/

theorem getD_putZ_out {m : Sparse Byte} (wf : Sparse.wf m = true) (a : Nat) (bs : List Byte) {k : Nat}
    (out : k < a ∨ a + bs.length ≤ k) : Sparse.getD (Machine.putZ m a bs) 0 k = Sparse.getD m 0 k := by
  induction bs generalizing m a with
  | nil => rfl
  | cons b bs ih =>
    rw [List.length_cons] at out
    rw [Machine.putZ, ih (Sparse.wf_setD 0 a b wf) (a + 1) (by omega), Sparse.getD_setD _ _ _ _ wf, if_neg (by omega)]
theorem getD_putZ_in {m : Sparse Byte} (wf : Sparse.wf m = true) (a : Nat) (bs : List Byte) {i : Nat} (hi : i < bs.length) :
    Sparse.getD (Machine.putZ m a bs) 0 (a + i) = bs[i] := by
  induction bs generalizing m a i with
  | nil => simp at hi
  | cons b bs ih =>
    have wf' := Sparse.wf_setD 0 a b wf
    rw [Machine.putZ]
    cases i with
    | zero => rw [getD_putZ_out wf' _ _ (by omega), Sparse.getD_setD _ _ _ _ wf, if_pos (Nat.add_zero a), List.getElem_cons_zero]
    | succ i =>
      have hi' : i < bs.length := by simpa using hi
      rw [show a + (i + 1) = a + 1 + i by omega, ih wf' (a + 1) hi', List.getElem_cons_succ]

end Sys2Proof

namespace Sys2Proof.Machine

/-! ### Plain memory (14 R319, 08 R198, 10 R248) -/

section
variable {s : State} (g : Agent) (d : Fin 4) {pa va key f p mt : Nat} {bs : List Byte}

theorem locWrite_poisoned (poisoned : s.poisoned.contains (pa / 8192) = true) :
    s.locWrite g d { loc := .glob pa va key f p mt, bytes := bs } = s := if_pos poisoned

variable (clean : s.poisoned.contains (pa / 8192) = false)
include clean

/-- A store within a line of plain memory. -/
theorem locWrite_plain (plain : isIo pa = false) (bell : (isDoorbell pa && mt == 3) = false) (some : bs ≠ [])
    (line : pa % 64 + bs.length ≤ 64) :
    s.locWrite g d { loc := .glob pa va key f p mt, bytes := bs } =
      ((s.watch f va bs.length).physWrite key pa bs).unpublish g pa := by
  refine (if_neg (by simpa using clean)).trans ((if_neg (by simp [plain])).trans ((if_neg (by simpa using bell)).trans ?_))
  rw [State.physWriteRun_line 7 _ _ _ some line]
theorem locWrite_io (io : isIo pa = true) :
    s.locWrite g d { loc := .glob pa va key f p mt, bytes := bs } = s.ioStore pa f d bs :=
  (if_neg (by simpa using clean)).trans (if_pos io)
theorem locWrite_doorbell (plain : isIo pa = false) (bell : isDoorbell pa = true) :
    s.locWrite g d { loc := .glob pa va key f p 3, bytes := bs } = s.ring pa bs :=
  (if_neg (by simpa using clean)).trans ((if_neg (by simp [plain])).trans (if_pos (by simp [bell])))

end

/-- A write of bytes of one line changes those bytes under its key, and no byte of another line. -/
theorem physByte_physWrite (s : State) {key pa : Nat} {bs : List Byte} (line : pa % 64 + bs.length ≤ 64) (q : Nat) :
    (s.physWrite key pa bs).physByte key q = if h : pa ≤ q ∧ q - pa < bs.length then bs[q - pa] else s.physByte key q := by
  by_cases same : q / 64 = pa / 64
  · rw [State.physByte_physWrite_key s key pa same]
    by_cases inside : pa ≤ q ∧ q - pa < bs.length
    · rw [dif_pos inside, dif_pos (by omega)]
    · rw [dif_neg inside, dif_neg (by omega)]
  · rw [State.physByte_physWrite_line s key pa line same, dif_neg (by omega)]

theorem performed_plain (s : State) (g : Agent) (f va key pa : Nat) {bs : List Byte} (line : pa % 64 + bs.length ≤ 64) :
    let t := ((s.watch f va bs.length).physWrite key pa bs).unpublish g pa
    (∀ q, t.physByte key q = if h : pa ≤ q ∧ q - pa < bs.length then bs[q - pa] else s.physByte key q) ∧
    (∀ k q, q / 64 ≠ pa / 64 → t.physByte k q = s.physByte k q) ∧
    (∀ core : Nat, core < 384 → t.unpublished core pa = true) ∧ (∀ e ∈ t.icache, e.1 % 2 ^ 46 / 64 ≠ pa / 64) ∧
    t = { s with mem := t.mem, lines := t.lines, free := t.free, unpub := t.unpub, icache := t.icache, dies := t.dies } ∧
    (∀ e, t.die e = { s.die e with reuse := (t.die e).reuse }) := by
  intro t
  have rest := (s.watch f va bs.length).physWrite_rest key pa bs
  have dies : t.dies = (s.watch f va bs.length).dies := (congrArg State.dies rest :)
  refine ⟨physByte_physWrite (s.watch f va bs.length) line, fun k q other =>
    State.physByte_physWrite_line (s.watch f va bs.length) key pa line other, fun core named => ?_, fun e mem => ?_, ?_, fun e => ?_⟩
  · have listed : Sparse.getD t.unpub [] (pa / 64) = (g, BitVec.allOnes 384) :: _ :=
      (Sparse.getD_put _ _ _ _ _).trans (if_pos rfl)
    have first : (BitVec.allOnes 384).getLsbD core = true := BitVec.getLsbD_allOnes.trans (decide_eq_true named)
    rw [State.unpublished, listed, List.any_cons, first, Bool.true_or]
  · simpa using (List.mem_filter.mp mem).2
  · obtain ⟨mem, lines, free, written⟩ : ∃ mem lines free, (s.watch f va bs.length).physWrite key pa bs =
      { s.watch f va bs.length with mem := mem, lines := lines, free := free } := ⟨_, _, _, rest⟩
    simp only [t, written]
    rfl
  · have die : t.die e = bumpWatch f va bs.length _ (s.die e) := (congrArg (vget · e) dies).trans (vget_ofFn _ _)
    rw [die]
    rfl

/-! ### The I/O range (16 R358, R364) -/

theorem ioStore_other (s : State) (pa f : Nat) (d : Fin 4) (bs : List Byte)
    (other : ¬(0x08010000 ≤ pa % 2 ^ 28 ∧ pa % 2 ^ 28 < 0x08020000 ∧ pa % 256 = 0 ∧ bs.length = 16)) : s.ioStore pa f d bs = s :=
  if_neg (by omega)

/-- The message that a store to PUSH appends: 12 bytes of data, and the sender. -/
def pushed (f : Nat) (d : Fin 4) (bs : List Byte) : BitVec 128 :=
  BitVec.ofNat 128 (natLE (bs.take 12) + 2 ^ 96 * (f % 2 ^ 8 + 2 ^ 8 * d.val + 2 ^ 31))

theorem pushed_eq (f : Nat) (d : Fin 4) {bs : List Byte} (wide : bs.length = 16) :
    (BitVec.ofNat 32 (f % 256 + d.val * 256 + 2 ^ 31) : Word) ++ (BitVec.ofNat 128 (natLE bs)).setWidth 96 = pushed f d bs := by
  have data : natLE bs % 2 ^ 128 % 2 ^ 96 = natLE (bs.take 12) := by
    rw [natLE_take (by omega)]
    omega
  have low := natLE_lt (bs.take 12)
  rw [List.length_take_of_le (by omega)] at low
  apply BitVec.eq_of_toNat_eq
  rw [BitVec.toNat_append, BitVec.toNat_setWidth, BitVec.toNat_ofNat, BitVec.toNat_ofNat, data, pushed, BitVec.toNat_ofNat,
    ← Nat.shiftLeft_add_eq_or_of_lt low, Nat.shiftLeft_eq]
  omega

/-- A 16-byte store to PUSH of a slot. -/
theorem ioStore_push (s : State) (f : Nat) (d e : Fin 4) {slot : Nat} (hs : slot < 256) {bs : List Byte} (wide : bs.length = 16) :
    let b := Sparse.getD (s.die e).mbox Mbox.empty slot
    s.ioStore (slotPa e slot 0) f d bs = s.putSlot e slot
      (if b.msgs.length < 16 then { b with msgs := b.msgs ++ [pushed f d bs] } else { b with ovf := true }) := by
  have inside : 0x08010000 ≤ 0x08010000 + 256 * slot + 0 ∧ 0x08010000 + 256 * slot + 0 < 0x08020000 ∧
    (0x08010000 + 256 * slot + 0) % 256 = 0 ∧ bs.length = 16 := by omega
  have number : (0x08010000 + 256 * slot + 0 - 0x08010000) / 256 = slot := by omega
  intro b
  have room : (if b.msgs.length < 16 then { b with msgs := b.msgs ++ [pushed f d bs] } else { b with ovf := true }) =
      if 16 ≤ b.msgs.length then { b with ovf := true } else { b with msgs := b.msgs ++ [pushed f d bs] } := by
    by_cases full : 16 ≤ b.msgs.length
    · rw [if_pos full, if_neg (by omega)]
    · rw [if_neg full, if_pos (by omega)]
  unfold State.ioStore
  simp only [slotPa_die e hs (by decide : 0 < 256), slotPa_offset e hs (by decide : 0 < 256), if_pos inside, number, pushed_eq f d wide, room]
  rfl

theorem isIo_slotPa (e : Fin 4) {slot : Nat} (hs : slot < 256) : isIo (slotPa e slot 0) = true := by
  unfold isIo slotPa
  simp only [Bool.and_eq_true, decide_eq_true_eq]
  omega

/-! ### Scratchpads and the slice of a wale -/

theorem performed_sp (s : State) (g : Agent) (d : Fin 4) (h o : Nat) (bs : List Byte) (wf : Sparse.wf s.spad = true)
    (fits : o + bs.length ≤ 2 ^ 19) (k q : Nat) (hq : q < 2 ^ 19) :
    (s.locWrite g d { loc := .sp h o, bytes := bs }).locByte (.sp k q) 0 =
      if j : k = h ∧ o ≤ q ∧ q - o < bs.length then bs[q - o]'(j.2.2) else s.locByte (.sp k q) 0 := by
  show Sparse.getD (putZ s.spad (h * 2 ^ 19 + o) bs) 0 (k * 2 ^ 19 + (q + 0)) = _
  by_cases inside : k = h ∧ o ≤ q ∧ q - o < bs.length
  · rw [dif_pos inside]
    obtain ⟨rfl, le, lt⟩ := inside
    rw [show k * 2 ^ 19 + (q + 0) = k * 2 ^ 19 + o + (q - o) by omega, getD_putZ_in wf _ _ lt]
  · rw [dif_neg inside, getD_putZ_out wf _ _ (by omega)]
    rfl
theorem performed_dsc (s : State) (g : Agent) (d e : Fin 4) (o : Nat) (bs : List Byte) (wf : Sparse.wf (s.die e).dsc = true) :
    let t := s.locWrite g d { loc := .dsc e o, bytes := bs }
    (∀ k, t.die k = if k = e then { s.die e with dsc := (t.die e).dsc } else s.die k) ∧ t = { s with dies := t.dies } ∧
    ∀ q, t.locByte (.dsc e q) 0 = if j : o ≤ q ∧ q - o < bs.length then bs[q - o]'(j.2) else s.locByte (.dsc e q) 0 := by
  have self : Fin.ofNat 4 e.val = e := Fin.ofNat_val_eq_self e
  have die (k : Fin 4) : (s.locWrite g d { loc := .dsc e o, bytes := bs }).die k =
      if k = e then { s.die e with dsc := putZ (s.die e).dsc o bs } else s.die k := by
    simp only [State.locWrite, self, State.die_updDie]
  refine ⟨fun k => by rw [die k, die e, if_pos rfl], rfl, fun q => ?_⟩
  simp only [State.locByte, self, die e, if_true, Nat.add_zero]
  by_cases inside : o ≤ q ∧ q - o < bs.length
  · rw [dif_pos inside]
    obtain ⟨le, lt⟩ := inside
    exact (congrArg (Sparse.getD _ 0) (Nat.add_sub_of_le le).symm).trans (getD_putZ_in wf o bs lt)
  · rw [dif_neg inside, getD_putZ_out wf _ _ (by omega)]
theorem performed_priv (s : State) (g : Agent) (d : Fin 4) (v o : Nat) (bs : List Byte) (fits : o + bs.length ≤ 2 ^ 21)
    (k q : Nat) (hq : q < 2 ^ 21) :
    (s.locWrite g d { loc := .priv v o, bytes := bs }).locByte (.priv k q) 0 =
      if j : k = v ∧ o ≤ q ∧ q - o < bs.length then bs[q - o]'(j.2.2) else s.locByte (.priv k q) 0 := by
  show (Sparse.find? (putBytes s.priv (v * 2 ^ 21 + o) bs) (k * 2 ^ 21 + (q + 0))).getD _ = _
  by_cases inside : k = v ∧ o ≤ q ∧ q - o < bs.length
  · rw [dif_pos inside]
    obtain ⟨rfl, le, lt⟩ := inside
    rw [show k * 2 ^ 21 + (q + 0) = k * 2 ^ 21 + o + (q - o) by omega, find?_putBytes_in _ _ _ lt]
    rfl
  · rw [dif_neg inside, find?_putBytes_out _ _ _ (by omega)]
    rfl

/-- Settles O29: a store by the kind of its place. -/
theorem performedStores : Obligations.PerformedStores := by
  refine ⟨fun s g d pa va key f p mt bs clean plain bell some line => ?_, fun s g d pa va key f p mt bs => locWrite_poisoned g d,
    fun s g d pa va key f p bs clean plain bell => locWrite_doorbell g d clean plain bell,
    fun s g d e slot va key f p mt bs hs => ?_, fun s g d pa va key f p mt bs io other => ?_,
    fun s g d h o bs wf fits => ⟨rfl, performed_sp s g d h o bs wf fits⟩, fun s g d e o bs => performed_dsc s g d e o bs,
    fun s g d v o bs fits => ⟨rfl, performed_priv s g d v o bs fits⟩⟩
  · rw [locWrite_plain g d clean plain bell some line]
    exact performed_plain s g f va key pa line
  · intro pa clean wide
    have run : s.locWrite g d { loc := .glob pa va key f p mt, bytes := bs } = _ :=
      (locWrite_io g d clean (isIo_slotPa e hs)).trans (ioStore_push s f d e hs wide)
    rw [run]
    obtain ⟨rest, dies, slots⟩ := putSlot_spec s e slot (if (Sparse.getD (s.die e).mbox Mbox.empty slot).msgs.length < 16 then _ else _)
    refine ⟨rest, dies, fun wf k => (slots wf k).trans ?_⟩
    rw [ite_not]
    rfl
  · by_cases poisoned : s.poisoned.contains (pa / 8192) = true
    · exact locWrite_poisoned g d poisoned
    · exact (locWrite_io g d (Bool.eq_false_iff.mpr poisoned) io).trans (ioStore_other s pa f d bs other)

end Sys2Proof.Machine
end

section
/-! Proofs about atomics (08 R192, R193, R195): the operations, the strands of one location, and an atomic with a destination at issue. -/

namespace Sys2Proof.Machine

/-! ### The operations (R193) -/

section
variable {n : Nat} (some : 0 < n) (u : Bool) (c x : BitVec n)
include some

/-- The order of locations: as unsigned or as signed numbers. -/
theorem aop_lt :
    (if u then decide (x.toNat < c.toNat) else decide ((if decide (2 ^ (n - 1) ≤ x.toNat) then (x.toNat : Int) - 2 ^ n else x.toNat) <
      (if decide (2 ^ (n - 1) ≤ c.toNat) then (c.toNat : Int) - 2 ^ n else c.toNat))) =
    (if u then decide (x.toNat < c.toNat) else decide (x.toInt < c.toInt)) := by
  have signed (y : BitVec n) : (if decide (2 ^ (n - 1) ≤ y.toNat) then (y.toNat : Int) - 2 ^ n else y.toNat) = y.toInt := by
    have whole : 2 * 2 ^ (n - 1) = 2 ^ n := mul_pow_sub_one some.ne' 2
    rw [BitVec.toInt_eq_toNat_cond]
    by_cases neg : 2 ^ (n - 1) ≤ y.toNat
    · rw [if_pos (decide_eq_true neg), if_neg (by omega)]
      push_cast
      rfl
    · rw [if_neg (by simpa using neg), if_pos (by omega)]
  rw [signed, signed]

theorem applyAop_eq (y : BitVec n) :
    let lt (p q : BitVec n) : Bool := if u then decide (p.toNat < q.toNat) else decide (p.toInt < q.toInt)
    applyAop 0 u n c.toNat x.toNat y.toNat = (c + x).toNat ∧
    applyAop 1 u n c.toNat x.toNat y.toNat = (if lt x c then x else c).toNat ∧
    applyAop 2 u n c.toNat x.toNat y.toNat = (if lt c x then x else c).toNat ∧
    applyAop 3 u n c.toNat x.toNat y.toNat = (c &&& x).toNat ∧
    applyAop 4 u n c.toNat x.toNat y.toNat = (c ||| x).toNat ∧
    applyAop 5 u n c.toNat x.toNat y.toNat = (c ^^^ x).toNat ∧
    applyAop 6 u n c.toNat x.toNat y.toNat = x.toNat ∧
    applyAop 7 u n c.toNat x.toNat y.toNat = (if c = y then x else c).toNat := by
  refine ⟨(BitVec.toNat_add c x).symm, ?_, ?_, (BitVec.toNat_and c x).symm, (BitVec.toNat_or c x).symm, (BitVec.toNat_xor c x).symm,
    rfl, ?_⟩
  · exact (congrArg (fun b : Bool => if b then x.toNat else c.toNat) (aop_lt some u c x)).trans (apply_ite BitVec.toNat _ x c).symm
  · exact (congrArg (fun b : Bool => if b then x.toNat else c.toNat) (aop_lt some u x c)).trans (apply_ite BitVec.toNat _ x c).symm
  · simp only [applyAop, BitVec.toNat_inj]
    split <;> rfl

end

/-- An operation on a location of `n` bits leaves a value of `n` bits. -/
theorem applyAop_lt (aop : Nat) (u : Bool) {n c x : Nat} (y : Nat) (hc : c < 2 ^ n) (hx : x < 2 ^ n) :
    applyAop aop u n c x y < 2 ^ n := by
  have pick (b : Bool) {p q : Nat} (hp : p < 2 ^ n) (hq : q < 2 ^ n) : (if b then p else q) < 2 ^ n := by
    cases b
    · exact hq
    · exact hp
  unfold applyAop
  dsimp only
  split
  · exact Nat.mod_lt _ (Nat.two_pow_pos n)
  · exact pick _ hx hc
  · exact pick _ hx hc
  · exact Nat.and_lt_two_pow c hx
  · exact Nat.or_lt_two_pow hc hx
  · exact Nat.xor_lt_two_pow hc hx
  · exact hx
  · split <;> assumption

/-! ### Strands of one location (R193, 12 R273) -/

section
variable {α : Type} (f : Nat → α → Nat) (l : Loc)

theorem combine_snd (c : Nat) (xs : List α) : (combine f c xs).2 = xs.foldl f c := by
  induction xs generalizing c with
  | nil => rfl
  | cons x xs ih => exact ih (f c x)
theorem atLoc_same (xs : List α) : atLoc l (xs.map fun e => (l, e)) = xs := by
  simp [atLoc, List.filter_map, Function.comp_def]
theorem locsOf_same (xs : List α) : locsOf ((xs.map fun e => (l, e)).map (·.1)) = if xs.isEmpty then [] else [l] := by
  induction xs with
  | nil => rfl
  | cons x xs ih =>
    simp only [List.map_cons, locsOf, ih]
    cases xs <;> simp

/-- Each strand takes the value that the lower ones have left. -/
theorem oldVals_same (rd : Loc → Nat) (done xs : List α) :
    oldVals f rd (done.map fun e => (l, e)) (xs.map fun e => (l, e)) =
      (List.range xs.length).map fun k => (done ++ xs.take k).foldl f (rd l) := by
  induction xs generalizing done with
  | nil => rfl
  | cons x xs ih =>
    have next := ih (done ++ [x])
    rw [List.map_append, List.map_cons, List.map_nil] at next
    rw [List.map_cons, oldVals, next, List.length_cons, List.range_succ_eq_map, List.map_cons, List.map_map, combine_snd, atLoc_same]
    simp [Function.comp_def]

end

/-- What a write has put into a scratchpad is read there. -/
theorem locRead_locWrite_sp {s : State} (g : Agent) (d : Fin 4) (h a : Nat) (bs : List Byte) (wf : Sparse.wf s.spad = true) :
    (s.locWrite g d { loc := .sp h a, bytes := bs }).locRead (.sp h a) bs.length = bs := by
  apply List.ext_getElem
  · simp [State.locRead]
  · intro i _ hi
    simp only [State.locRead, List.getElem_map, List.getElem_range]
    show Sparse.getD (putZ s.spad (h * 2 ^ 19 + a) bs) 0 (h * 2 ^ 19 + (a + i)) = bs[i]
    rw [← Nat.add_assoc]
    exact getD_putZ_in wf _ bs hi

/-- The strands of an atomic that name one location in a scratchpad. -/
theorem rmwAll_same (s : State) (g : Agent) (d : Fin 4) (aop n : Nat) (u : Bool) (h a : Nat) (xs : List (Dword × Dword))
    (wf : Sparse.wf s.spad = true) :
    let c := natLE (s.locRead (.sp h a) n)
    let r := s.rmwAll g d aop u n (xs.map fun e => (.sp h a, e))
    r.1 = (List.range xs.length).map (fun k => (xs.take k).foldl (aopStep aop u n) c) ∧
    natLE (r.2.locRead (.sp h a) n) = xs.foldl (aopStep aop u n) c := by
  have bytes : (256 : Nat) ^ n = 2 ^ (8 * n) := by rw [Nat.pow_mul]
  have start : natLE (s.locRead (.sp h a) n) < 2 ^ (8 * n) := by
    have low := natLE_lt (s.locRead (.sp h a) n)
    rwa [State.locRead, List.length_map, List.length_range, bytes] at low
  have left : xs.foldl (aopStep aop u n) (natLE (s.locRead (.sp h a) n)) < 2 ^ (8 * n) :=
    List.foldlRecOn (motive := fun c => c < 2 ^ (8 * n)) xs (aopStep aop u n) start fun c low e _ =>
      applyAop_lt aop u _ low (Nat.mod_lt _ (Nat.two_pow_pos (8 * n)))
  refine ⟨oldVals_same (aopStep aop u n) (.sp h a) _ [] xs, ?_⟩
  have read := locRead_locWrite_sp g d h a (bytesLE n (xs.foldl (aopStep aop u n) (natLE (s.locRead (.sp h a) n)))) wf
  rw [bytesLE_length] at read
  simp only [State.rmwAll, State.combineAll, locsOf_same]
  cases none : xs.isEmpty with
  | true =>
    rw [List.isEmpty_iff.mp none]
    rfl
  | false =>
    simp only [Bool.false_eq_true, if_false, List.foldl_cons, List.foldl_nil, combine_snd, atLoc_same]
    rw [read, natLE_bytesLE, bytes, Nat.mod_eq_of_lt left]

/-! ### An atomic with a destination (R195) -/

/-- An atomic's space. -/
theorem atom_of_access {i : Instr} {x : Ctx} {o : AOps} {A : Access} (atom : atomOf i = some o) (access : accessOf x i = some A) :
    o.d ≠ .none ∧ ∃ spc, A = x.atomAcc spc o ∧ ∀ s, exec i s = issueWith i s fun y => y.atomic spc o (aLevel o) := by
  unfold atomOf at atom
  split at atom
  case h_1 o' | h_2 o' =>
    obtain ⟨result, same⟩ := Option.ite_none_left_eq_some.mp atom
    cases same
    cases access
    exact ⟨result, _, rfl, fun _ => rfl⟩
  case h_3 => cases atom

theorem ran_atom {i : Instr} {s : State} {x : Ctx} {o : AOps} {A : Access} {ps : List SAcc}
    (atom : atomOf i = some o) (issues : ready i s = some x) (access : accessOf x i = some A) (placed : A.placed x = .ok ps) :
    let y := x.notePlaces ps true
    let z := Ctx.touchPlaces (y.over (y.s.writeBackTo (aLevel o).back y.die y.st.hoop.core y.part y.func)) ps
      (aLevel o).at_ .atomic
    let r := z.s.rmwAll (.wale z.st.w) z.die o.aop.toNat (o.var.getLsbD 0) (2 ^ o.w.toNat) (y.atomOps o ps)
    (y.homeOffStrands ps = [] → ∃ t, exec i s = .next t ∧
      RanAlone (z.over r.2) { writes := y.dataWrites o.d o.w.toNat (valueAt ps r.1) } t) ∧
    (∀ e q, y.homeOffStrands ps = e :: q → y.core.hoff ≠ none → ∃ t, exec i s = .next t ∧ Waits y (.wait false) t) ∧
    (∀ e q, y.homeOffStrands ps = e :: q → y.core.hoff = none → ∃ u t, exec i s = .next t ∧ RanOn y false {} u ∧
      Changed u y.st.w (y.awaiting (y.replyOf (e :: q) A.scalar e.a)) t) := by
  obtain ⟨result, spc, rfl, meaning⟩ := atom_of_access atom access
  have found : x.placeAll spc (x.strandsOf o.scalar (x.aAddr spc o)) (2 ^ o.w.toNat) (2 ^ o.w.toNat)
    (if o.d = .none then .w else .rw) true o.scalar = .ok ps := placed
  intro y z r
  have run : exec i s = .next (match y.homeOffStrands ps with
      | e :: q => if y.core.hoff.isSome then y.hold (.wait false) else y.sendHomeOff (e :: q) o.scalar
      | [] => (z.over r.2).finishSingle { writes := y.dataWrites o.d o.w.toNat (valueAt ps r.1) }) := by
    refine (meaning s).trans ((issueWith_ready issues).trans ?_)
    rw [if_neg result] at found
    simp only [Ctx.atomic, if_neg result, found]
    rfl
  refine ⟨fun here => ?_, fun e q away due => ?_, fun e q away clear => ?_⟩
  · rw [run, here]
    exact ⟨_, rfl, ranAlone_finishSingle (z.over r.2) _⟩
  · rw [run, away]
    exact ⟨_, congrArg Host.Outcome.next (if_pos (Option.isSome_iff_ne_none.mpr due)), waits_hold y _⟩
  · obtain ⟨u, ran, reply⟩ := sendHomeOff_awaits y e q o.scalar
    rw [run, away]
    exact ⟨u, _, congrArg Host.Outcome.next (if_neg (Option.not_isSome_iff_eq_none.mpr clear)), ran, reply⟩

/-- Settles O30: atomics at issue, the strands of a location in order, and the operations. -/
theorem atomicResults : Obligations.AtomicResults :=
  ⟨fun _ _ _ _ _ _ atom issues access placed => ran_atom atom issues access placed,
    fun s g d aop n u h a xs wf _ _ => rmwAll_same s g d aop n u h a xs wf, fun u _ c x y some => applyAop_eq some u c x y⟩

end Sys2Proof.Machine
end

section
/-! Proofs about engine commands (O46): the statement on the rows of `gthr` and `scat` has the bytes of a row depend on its strand
and index alone; a walk's mark between two readings of one row refutes it. -/

namespace Sys2Proof.Machine

/-! ### Runs of an engine that are done -/

/-- Engine work that is done has done its first part, then the rest. -/
theorem engine_bind_ok {α β : Type} {m : EM α} {f : α → EM β} {e e' : EngSt} {y : β} :
    (m >>= f).run e = .ok (y, e') ↔ ∃ x u, m.run e = .ok (x, u) ∧ (f x).run u = .ok (y, e') := by
  rw [StateT.run_bind]
  cases first : m.run e with
  | error z => simp [bind, Except.bind]
  | ok r =>
    obtain ⟨x, u⟩ := r
    simp [bind, Except.bind]

/-- Staged bytes that stand before memory replace bytes read, and add none. -/
theorem Acc.onto_length (l : Loc) (bs : List Byte) (a : Acc) : (Acc.onto l bs a).length = bs.length := by
  unfold Acc.onto
  split <;> simp

theorem foldl_onto_length (l : Loc) (front : List Acc) (bs : List Byte) : (front.foldl (Acc.onto l) bs).length = bs.length := by
  induction front generalizing bs with
  | nil => rfl
  | cons a front ih => rw [List.foldl_cons, ih, Acc.onto_length]

/-- An engine reads as many bytes as it is asked for. -/
theorem engRead_length {c : Cmd} {space a n : Nat} {die : Fin 4} {e e' : EngSt} {bs : List Byte}
    (read : (engRead c space die a n).run e = .ok (bs, e')) : bs.length = n := by
  obtain ⟨l, u, -, rest⟩ := engine_bind_ok.mp read
  have bytes : u.front.foldl (Acc.onto l) (u.s.locRead l n) = bs := by
    cases rest
    rfl
  rw [← bytes, foldl_onto_length, State.locRead, List.length_map, List.length_range]

/-- A run of at least one byte has a first piece. -/
theorem engReadRun_ne_nil {c : Cmd} {space fuel a n : Nat} {die : Fin 4} {e e' : EngSt} {bs : List Byte} (some : n ≠ 0)
    (read : (engReadRun c space die (fuel + 1) a n).run e = .ok (bs, e')) : bs ≠ [] := by
  rw [engReadRun, if_neg some] at read
  obtain ⟨first, u, piece, tail⟩ := engine_bind_ok.mp read
  obtain ⟨rest, v, -, both⟩ := engine_bind_ok.mp tail
  have joined : first ++ rest = bs := by
    cases both
    rfl
  have bytes : first.length ≠ 0 := by
    rw [engRead_length piece]
    omega
  rw [← joined]
  exact fun none => bytes (by simp [List.append_eq_nil_iff.mp none])

/-- Some bytes are written by some access. -/
theorem engWriteRun_ne_nil {c : Cmd} {space fuel a : Nat} {die : Fin 4} {e e' : EngSt} {bs : List Byte} {ws : List Acc} (some : bs ≠ [])
    (write : (engWriteRun c space die (fuel + 1) a bs).run e = .ok (ws, e')) : ws ≠ [] := by
  rw [engWriteRun, if_neg (by simpa using some)] at write
  obtain ⟨l, u, -, tail⟩ := engine_bind_ok.mp write
  obtain ⟨rest, v, -, both⟩ := engine_bind_ok.mp tail
  cases both
  exact List.cons_ne_nil _ _

/-! ### A row that is read again after a walk has marked its bytes -/

/-- Function 0's tables: the root at 0x2000 names the table at 0x4000, whose first two entries map 8 GiB each to address 0, for reading.
The walker has not marked the second of them, at 0x4008, as accessed. -/
def walkedMem : Mem :=
  putBytes (putBytes (putBytes [] 0x2000 (bytesLE 8 0x4101)) 0x4000 (bytesLE 8 0x107)) 0x4008 (bytesLE 8 0x007)
/-- A hoop with 1 KiB of scratchpad under these tables. -/
def walkedState : State :=
  { State.reset with
    mem := walkedMem
    regs := [(rPtRoot 0, 0x2001)]
    hoops := [(0, { skein := 0, idx := 0, die := 0, cluster := 0, coreNo := 0, st := .resident, slots := [], tiles := [] })]
    skeins := [(0, { basket := 0, num := 0, pkt := BitVec.twoPow 512 64, place := 0, waiting := [], saved := [], preempt := [],
                     doneHoops := [], done := false, params := none })] }
/-- Strand 0 reads the four bytes at 0x4008, through the first entry. -/
def markedRow : Nat × Word := (0, 0x1002)
/-- Strand 1 reads the four bytes at 0x4000 through the second entry, which its walk marks. -/
def markingRow : Nat × Word := (1, 0x80001000)
/-- A `gthr` of rows of four bytes. -/
def gatherOps : XOps :=
  { h := ⟨0, false, 0⟩, sub := 0, d := .none, a := .none, b := .none, c := .none, ts := 0, ts2 := 0, rs := 0, flags := 2 }
/-- Its command, which reads the row of strand 0 twice. -/
def gatherCmd : Cmd :=
  { ops := { ins := .gthr gatherOps, pc := 0, d := 0, a := 0, b := 0, c := 0, idx := [markedRow, markingRow, markedRow], off := 0,
             again := false, fo := false }
    wale := 0, hoop := 0, basket := 0, func := 0, part := 0, die := 0, cluster := 0, cls := 1, slots := [], stage := .queued,
    staged := ⟨[], [], none, []⟩, deps := [], followOn := false, burst := false, inBatch := false, seq := 0, inst := 0,
    refused := none, rgns := [] }
/-- What the gather engine makes of it. -/
def gatherRun : Except EErr (Moved × EngSt) := (sourceWork gatherCmd 3).run { s := walkedState, far := [], port := false }
/-- It moves all three rows, and the last is not the first. -/
def Moved.lastRowDiffers (r : Moved) : Bool :=
  r.stop.isNone && r.writes.length == 3 && r.writes.head? != r.writes.getLast?

theorem gatherRun_lastRowDiffers : (match gatherRun with | .ok (r, _) => r.lastRowDiffers | .error _ => false) = true := by
  decide +kernel

/-- The run, with three accesses of which the last is not the first. -/
theorem gatherRun_ok : ∃ r e, gatherRun = .ok (r, e) ∧ r.stop = none ∧ r.writes.length = 3 ∧ r.writes.head? ≠ r.writes.getLast? := by
  have differs := gatherRun_lastRowDiffers
  cases run : gatherRun with
  | error z => simp [run] at differs
  | ok p =>
    obtain ⟨r, e⟩ := p
    simp only [run, Moved.lastRowDiffers, Bool.and_eq_true, beq_iff_eq, bne_iff_ne, Option.isNone_iff_eq_none] at differs
    obtain ⟨⟨whole, three⟩, ends⟩ := differs
    exact ⟨r, e, rfl, whole, three, ends⟩

/-- A list of three that begins and ends with the same non-empty list begins and ends with the same element. -/
theorem head?_eq_getLast?_of_twice {α : Type} {xs ys : List α} (some : xs ≠ []) (three : (xs ++ ys ++ xs).length = 3) :
    (xs ++ ys ++ xs).head? = (xs ++ ys ++ xs).getLast? := by
  have one : xs.length = 1 := by
    have := List.length_pos_iff.mpr some
    simp only [List.length_append] at three
    omega
  obtain ⟨x, rfl⟩ := List.length_eq_one_iff.mp one
  simp [List.getLast?_cons]

/-- Refutes O46: its clause on `gthr` and `scat` has the accesses of a row be a function of strand and index, for every command. In
`gatherCmd` one row stands twice in the list, in front of and behind a row whose walk sets the A bit of a page-table entry that the row
reads (14 R323): `walkedState` makes of it 07 00 00 00 and then 07 01 00 00. A `gthr` that issues retains each strand once, which the
clause does not ask of its command. -/
theorem not_engineEvents : ¬ Obligations.EngineEvents := by
  unfold Obligations.EngineEvents
  rintro ⟨-, -, -, -, -, -, rows, -⟩
  obtain ⟨r, e, run, whole, three, ends⟩ := gatherRun_ok
  obtain ⟨b, a, each, all⟩ := rows walkedState gatherCmd 3 gatherOps r e (.inl rfl) run whole
  obtain ⟨moves, -⟩ := each markedRow List.mem_cons_self
  obtain ⟨⟨_, _, -, read⟩, ⟨_, _, -, write⟩⟩ := moves rfl
  have twice : r.writes = a markedRow ++ a markingRow ++ a markedRow := by
    simpa [gatherCmd] using all
  have bytes : a markedRow ≠ [] := engWriteRun_ne_nil (engReadRun_ne_nil (n := 4) (by decide) read) write
  rw [twice] at three ends
  exact ends (head?_eq_getLast?_of_twice bytes three)

end Sys2Proof.Machine
end

section
/-! Proofs about batches and waits at issue (O36): `seal`, `wtb.src`, `wtb.vis`, `wtc` and `hwaitd` (09 R215 to R218, R228), and
the writes that a wait covers (08 R199). -/

namespace Sys2Proof.Machine

/-! ### `seal` (R215) -/

theorem seal_outcomes {s : State} {x : Ctx} {o : ROps} (issues : ready (.seal o) s = some x) :
    (64 ≤ x.sealCount → Held.seal ∉ x.st.wl.heldAll → ∃ t, exec (.seal o) s = .next t ∧ Waits x (.wait false) t) ∧
    (64 ≤ x.sealCount → Held.seal ∈ x.st.wl.heldAll → ∃ t, exec (.seal o) s = .next t ∧ Drains x t) ∧
    (x.sealCount < 64 → x.room .seal = false → ∃ t, exec (.seal o) s = .next t ∧ Drains x t) ∧
    (x.sealCount < 64 → x.room .seal = true → ∃ t, exec (.seal o) s = .next t ∧
      RanOn (x.withCore { x.core with batch := x.core.batch + 1 }) true { held := [.seal] } t) := by
  refine ⟨fun full released => ?_, fun full held => ?_, fun few full => ?_, fun few fits => ?_⟩
  · refine ⟨_, exec_of_ready rfl issues ((if_pos full).trans (if_neg ?_)), waits_hold x _⟩
    simpa using released
  · refine drains_of_meaning rfl issues ((if_pos full).trans (if_pos ?_))
    simpa using held
  · exact drains_of_meaning rfl issues ((if_neg (Nat.not_le.mpr few)).trans (if_pos (by simp [full])))
  · exact ⟨_, exec_of_ready rfl issues ((if_neg (Nat.not_le.mpr few)).trans (if_neg (by simp [fits]))), ran_finish _ true _⟩

/-! ### `wtb.src`, `wtb.vis` (R216, R217) -/

/-- A command has reached the point when it has left, is done, or, for the source point, stands whole at it. -/
theorem cmdReached_iff (s : State) (vis : Bool) (c : Nat) : s.cmdReached vis c = true ↔
    ∀ k, Sparse.find? s.cmds c = some k → k.stage = .done ∨ (vis = false ∧ k.stage = .sourced ∧ k.upTo = none) := by
  unfold State.cmdReached
  cases Sparse.find? s.cmds c with
  | none => simp
  | some k => simp [and_assoc]

theorem batchReached_iff (s : State) (vis : Bool) (b : Batch) : s.batchReached vis b = true ↔
    b.failed = true ∨ ∀ c ∈ b.cmds, ∀ k, Sparse.find? s.cmds c = some k →
      k.stage = .done ∨ (vis = false ∧ k.stage = .sourced ∧ k.upTo = none) := by
  simp only [State.batchReached, Bool.or_eq_true, List.all_eq_true, cmdReached_iff]

/-- The wait goes on for a sealed batch, but the `n` youngest, that has not reached the point. -/
def Ctx.batchDue (x : Ctx) (vis : Bool) (n : Nat) (b : Batch) : Prop :=
  n < (x.core.batch - b.num).toNat ∧ ¬(b.failed = true ∨ ∀ c ∈ b.cmds, ∀ k, Sparse.find? x.s.cmds c = some k →
    k.stage = .done ∨ (vis = false ∧ k.stage = .sourced ∧ k.upTo = none))

theorem allReached_iff (x : Ctx) (vis : Bool) (n : Nat) :
    (x.st.wl.sealed.all fun b => !x.covers n b || x.s.batchReached vis b) = true ↔ ∀ b ∈ x.st.wl.sealed, ¬x.batchDue vis n b := by
  rw [List.all_eq_true]
  refine forall₂_congr fun b _ => ?_
  rw [Ctx.batchDue, ← batchReached_iff, Ctx.covers, not_and_not_right, Bool.or_eq_true, Bool.not_eq_true', decide_eq_false_iff_not,
    ← imp_iff_not_or]

/-- The state after the wait: what a `wtb.vis` has waited for is ordered with the wale's own writes. -/
def Ctx.batchCovered (x : Ctx) (vis : Bool) (n : Nat) : State :=
  if vis then x.s.covered x.st.w (fun _ _ b => b.any fun k => decide (n < (x.core.batch - k).toNat)) else x.s

section
variable {i : Instr} {s : State} {x : Ctx} {vis : Bool} {n : Nat} (run : exec i s = issueWith i s fun y => y.waitBatch vis n)
  (issues : ready i s = some x)
include run issues

theorem raised_waitBatch {e : EngFault} (reported : x.batchFault n = some e) :
    ∃ t, exec i s = .next t ∧ Raised x { e.f with mask := x.fr.em, resume := x.fr.pc } t :=
  raisedEng_of_meaning run issues (by simp only [Ctx.waitBatch, reported])

theorem ran_waitBatch (sound : x.batchFault n = none) (reached : ∀ b ∈ x.st.wl.sealed, ¬x.batchDue vis n b) :
    ∃ t, exec i s = .next t ∧ RanAlone (x.over (x.batchCovered vis n)) {} t := by
  refine ⟨_, exec_of_ready run issues ?_, ranAlone_finishSingle (x.over (x.batchCovered vis n)) {}⟩
  simp only [Ctx.waitBatch, sound, if_pos ((allReached_iff x vis n).mpr reached)]
  rfl

theorem waits_waitBatch (sound : x.batchFault n = none) (due : ∃ b ∈ x.st.wl.sealed, x.batchDue vis n b) :
    ∃ t, exec i s = .next t ∧ Waits x (.wait true) t := by
  refine ⟨_, exec_of_ready run issues ?_, waits_hold x (.wait true)⟩
  obtain ⟨b, sealed, late⟩ := due
  simp only [Ctx.waitBatch, sound, if_neg fun all => (allReached_iff x vis n).mp all b sealed late]
end

theorem batchFault_ne_none_iff (x : Ctx) (n : Nat) : x.batchFault n ≠ none ↔
    ∃ e ∈ x.st.wl.engFaults, ∃ b ∈ x.st.wl.sealed, n < (x.core.batch - b.num).toNat ∧ e.cmd ∈ b.cmds := by
  simp [Ctx.batchFault, Ctx.covers]

/-- `wtb.src` and `wtb.vis` are one wait. -/
theorem exec_wtb {i : Instr} {o : IOps} {vis : Bool} (s : State) (wtb : i = .wtbSrc o ∧ vis = false ∨ i = .wtbVis o ∧ vis = true) :
    exec i s = issueWith i s fun x => x.waitBatch vis (o.imm.toNat % 16) := by
  have low : o.imm.toNat % 16 = fld o.imm 3 0 := (toNat_fld_low o.imm 3).symm
  rw [low]
  obtain ⟨rfl, rfl⟩ | ⟨rfl, rfl⟩ := wtb
  · rfl
  · rfl

/-! ### `wtc` (R218) -/

/-- An engine fault of a command of class `c` that is not among its `n` youngest. -/
def Ctx.classFault (x : Ctx) (c : Fin 4) (n : Nat) (e : EngFault) : Prop := e.cls = some c ∧ n < vget x.st.wl.relSeq c - e.seq

theorem classFault_iff (x : Ctx) (c : Fin 4) (n : Nat) (e : EngFault) :
    (e.cls == some c && decide (n < vget x.st.wl.relSeq c - e.seq)) = true ↔ x.classFault c n e := by
  simp [Ctx.classFault]

/-- The meaning of `wtc` for `n` of class `c`. -/
def Ctx.waitClass (x : Ctx) (c : Fin 4) (n : Nat) : State :=
  match x.st.wl.engFaults.find? fun e => e.cls == some c && decide (n < vget x.st.wl.relSeq c - e.seq) with
  | some e => x.raiseEng e
  | none =>
    if vget x.st.wl.cnt c ≤ n then
      (x.over (x.s.covered x.st.w fun k q _ => k == c && decide (n < vget x.st.wl.relSeq c - q))).finishSingle {}
    else x.hold (.wait true)

theorem exec_wtc (o : IOps) (s : State) : exec (.wtc o) s =
    issueWith (.wtc o) s fun x => x.waitClass (Fin.ofNat 4 (o.imm.toNat % 4)) (o.imm.toNat / 4 % 256) := by
  have cls : fld o.imm 1 0 = o.imm.toNat % 4 := toNat_fld_low o.imm 1
  have count : fld o.imm 9 2 = o.imm.toNat / 4 % 256 := by simp [fld, Nat.shiftRight_eq_div_pow]
  rw [← cls, ← count]
  rfl

section
variable {o : IOps} {s : State} {x : Ctx} {c : Fin 4} {n : Nat}
  (run : exec (.wtc o) s = issueWith (.wtc o) s fun y => y.waitClass c n) (issues : ready (.wtc o) s = some x)
include run issues

theorem raised_waitClass (reported : ∃ e ∈ x.st.wl.engFaults, x.classFault c n e) :
    ∃ e ∈ x.st.wl.engFaults, x.classFault c n e ∧
      ∃ t, exec (.wtc o) s = .next t ∧ Raised x { e.f with mask := x.fr.em, resume := x.fr.pc } t := by
  simp only [← classFault_iff] at reported
  obtain ⟨e, first⟩ := Option.isSome_iff_exists.mp (List.find?_isSome.mpr reported)
  refine ⟨e, List.mem_of_find?_eq_some first, (classFault_iff x c n e).mp ?_, raisedEng_of_meaning run issues ?_⟩
  · exact List.find?_some (p := fun e : EngFault => e.cls == some c && decide (n < vget x.st.wl.relSeq c - e.seq)) first
  · simp only [Ctx.waitClass, first]

theorem waitClass_of_sound (sound : ∀ e ∈ x.st.wl.engFaults, ¬x.classFault c n e) :
    (vget x.st.wl.cnt c ≤ n → ∃ t, exec (.wtc o) s = .next t ∧
      RanAlone (x.over (x.s.covered x.st.w fun k q _ => k == c && decide (n < vget x.st.wl.relSeq c - q))) {} t) ∧
    (n < vget x.st.wl.cnt c → ∃ t, exec (.wtc o) s = .next t ∧ Waits x (.wait true) t) := by
  simp only [← classFault_iff] at sound
  have none := List.find?_eq_none.mpr sound
  refine ⟨fun few => ⟨_, exec_of_ready run issues ?_, ranAlone_finishSingle _ _⟩,
    fun many => ⟨_, exec_of_ready run issues ?_, waits_hold x _⟩⟩
  · simp only [Ctx.waitClass, none, if_pos few]
  · simp only [Ctx.waitClass, none, if_neg (Nat.not_le.mpr many)]
end

/-! ### `hwaitd` (R228) -/

/-- A value shifted right by `k` is zero where it is below 2^k. -/
theorem ushiftRight_eq_zero_iff_lt {n : Nat} (a : BitVec n) (k : Nat) : a >>> k = 0#n ↔ a.toNat < 2 ^ k := by
  rw [← BitVec.toNat_inj, BitVec.toNat_ushiftRight, Nat.shiftRight_eq_div_pow, BitVec.toNat_zero,
    Nat.div_eq_zero_iff_lt (Nat.two_pow_pos k)]

theorem hwaitd_outcomes {s : State} {x : Ctx} {o : ROps} (issues : ready (.hwaitd o) s = some x) :
    let a := x.uni o.a
    (2 ^ 14 ≤ a.toNat → ∃ t, exec (.hwaitd o) s = .next t ∧ Raised x (x.record ⟨cRANGE, 0, x.fr.em⟩) t) ∧
    (a.toNat < 2 ^ 14 → ∃ t, exec (.hwaitd o) s = .next t ∧
      let w := x.st.wl
      OnlyWale x { w with core := { w.core with nColl := w.core.nColl + 1 }, st := .coll,
                          collArg := some (.hwaitd o, a, x.uni o.b) } t) := by
  refine ⟨fun far => raised_of_meaning rfl issues (if_pos ?_), fun near => ⟨_, exec_of_ready rfl issues (if_neg ?_), OnlyWale.setWale x _⟩⟩
  · exact fun zero => Nat.not_lt.mpr far ((ushiftRight_eq_zero_iff_lt _ _).mp zero)
  · exact not_not.mpr ((ushiftRight_eq_zero_iff_lt _ _).mpr near)

/-! ### Writes that a wait has covered (R217, 08 R199) -/

/-- The agent's writes are the wale's, or become so. -/
def Agent.coveredBy (w : Nat) (f : Fin 4 → Nat → Option (BitVec 16) → Bool) : Agent → Bool
  | .wale v => v == w
  | .cmd v c q b => v == w && f c q b
  | .other => false

/-- The writes of a line's agents, those covered joined under the wale. -/
def joinCovered (w : Nat) (f : Fin 4 → Nat → Option (BitVec 16) → Bool) (es : List (Agent × BitVec 384)) : List (Agent × BitVec 384) :=
  match es.filter fun q => q.1.coveredBy w f with
  | [] => es
  | own => (.wale w, own.foldl (fun m q => m ||| q.2) 0) :: es.filter fun q => !q.1.coveredBy w f

theorem covered_unpub (s : State) (w : Nat) (f : Fin 4 → Nat → Option (BitVec 16) → Bool) :
    (s.covered w f).unpub = s.unpub.map fun e => (e.1, joinCovered w f e.2) := by
  refine List.map_congr_left fun e _ => ?_
  change (match e.2.filter fun q => q.1.coveredBy w f with
    | [] => e
    | own => (e.1, (.wale w, own.foldl (fun m (q : Agent × BitVec 384) => m ||| q.2) 0) :: e.2.filter fun q => !q.1.coveredBy w f)) = _
  unfold joinCovered
  cases e.2.filter fun q => q.1.coveredBy w f <;> rfl

/-- A bit of joined masks. -/
theorem getLsbD_foldl_or {α : Type} (es : List (α × BitVec 384)) (m : BitVec 384) (k : Nat) :
    (es.foldl (fun m q => m ||| q.2) m).getLsbD k = (m.getLsbD k || es.any fun q => q.2.getLsbD k) := by
  induction es generalizing m with
  | nil => simp
  | cons e es ih => simp [ih, Bool.or_assoc]

/-- The joined writes are unpublished for the same cores. -/
theorem any_joinCovered (w : Nat) (f : Fin 4 → Nat → Option (BitVec 16) → Bool) (es : List (Agent × BitVec 384)) (k : Nat) :
    ((joinCovered w f es).any fun e => e.2.getLsbD k) = es.any fun e => e.2.getLsbD k := by
  have parts : (es.any fun e => e.2.getLsbD k) = (((es.filter fun q => q.1.coveredBy w f).any fun e => e.2.getLsbD k)
      || (es.filter fun q => !q.1.coveredBy w f).any fun e => e.2.getLsbD k) := by
    rw [List.any_filter, List.any_filter]
    induction es with
    | nil => rfl
    | cons e es ih =>
      simp only [List.any_cons, ih]
      cases e.1.coveredBy w f <;> cases e.2.getLsbD k <;> simp
  rw [parts]
  unfold joinCovered
  split
  next none => simp [parts, none]
  next own _ => simp [getLsbD_foldl_or]

/-- No covered agent but the wale itself is left on the line. -/
theorem notMem_joinCovered {w : Nat} {f : Fin 4 → Nat → Option (BitVec 16) → Bool} {g : Agent} (covered : g.coveredBy w f = true)
    (other : g ≠ .wale w) (es : List (Agent × BitVec 384)) (m : BitVec 384) : (g, m) ∉ joinCovered w f es := by
  unfold joinCovered
  split
  next none => exact fun mem => List.filter_eq_nil_iff.mp none _ mem covered
  next => simp [other, covered]

theorem covered_unpublished (s : State) (w core pa : Nat) (f : Fin 4 → Nat → Option (BitVec 16) → Bool) :
    (s.covered w f).unpublished core pa = s.unpublished core pa := by
  have line : Sparse.find? (s.covered w f).unpub (pa / 64) = (Sparse.find? s.unpub (pa / 64)).map fun es => joinCovered w f es := by
    rw [covered_unpub]
    exact Sparse.find?_map s.unpub (f := fun e => (e.1, joinCovered w f e.2)) (fun _ => rfl) (pa / 64)
  simp only [State.unpublished, Sparse.getD, line]
  cases Sparse.find? s.unpub (pa / 64) with
  | none => rfl
  | some es => exact any_joinCovered w f es core

/-- Settles O36: `seal`, the waits for batches and classes, and `hwaitd`, each by its cases; the writes that a wait covers become the
wale's own. -/
theorem sealAndWaits : Obligations.SealAndWaits := by
  refine ⟨fun _ _ _ => seal_outcomes, ?_, ?_, fun _ _ _ => hwaitd_outcomes, fun s w core pa f => ⟨rfl, covered_unpublished s w core pa f, ?_⟩⟩
  · intro s x o i vis wtb issues
    have run := exec_wtb s wtb
    exact ⟨fun _ => raised_waitBatch run issues, ran_waitBatch run issues, waits_waitBatch run issues, batchFault_ne_none_iff x _⟩
  · intro s x o issues
    have run := exec_wtc o s
    exact ⟨raised_waitClass run issues, waitClass_of_sound run issues⟩
  · intro c q b waited e mem m
    rw [covered_unpub] at mem
    obtain ⟨line, -, rfl⟩ := List.mem_map.mp mem
    exact notMem_joinCovered (by simp [Agent.coveredBy, waited]) (by simp) _ m

end Sys2Proof.Machine
end

section
/-! Proofs about engine, matrix and reuse commands at issue (O35): the checks that each makes, and the outcomes of a command that has
been checked (09 R206 to R227, 10 R235 to R252, 02 R54). -/

namespace Sys2Proof.Machine

/-! ### A checked command: held, waiting or faulted -/

/-- The codes that the checks of a command can raise. -/
def commandCodes : List (BitVec 8) := [cXLATE, cALIGN, cRANGE, cSLOT, cRIGHTS]

/-- A list of checks: condition, code and address of each fault. -/
abbrev Checks := List (Bool × BitVec 8 × Dword)
/-- No check finds a fault. -/
def Checks.pass (cs : Checks) : Bool := cs.all fun e => !e.1

@[simp] theorem Checks.pass_nil : Checks.pass [] = true := rfl
@[simp] theorem Checks.pass_cons (e : Bool × BitVec 8 × Dword) (cs : Checks) : Checks.pass (e :: cs) = (!e.1 && cs.pass) := rfl
@[simp] theorem Checks.pass_append (cs ds : Checks) : Checks.pass (cs ++ ds) = (cs.pass && ds.pass) := List.all_append

/-- Each check's code is one that a command can raise. -/
def Checks.coded (cs : Checks) : Prop := ∀ e ∈ cs, e.2.1 ∈ commandCodes

@[simp] theorem Checks.coded_nil : Checks.coded [] := List.forall_mem_nil _
@[simp] theorem Checks.coded_cons (e : Bool × BitVec 8 × Dword) (cs : Checks) :
    Checks.coded (e :: cs) ↔ e.2.1 ∈ commandCodes ∧ cs.coded := List.forall_mem_cons
@[simp] theorem Checks.coded_append (cs ds : Checks) : Checks.coded (cs ++ ds) ↔ cs.coded ∧ ds.coded := List.forall_mem_append
@[simp] theorem commandCodes_mem : cXLATE ∈ commandCodes ∧ cALIGN ∈ commandCodes ∧ cRANGE ∈ commandCodes ∧ cSLOT ∈ commandCodes ∧
    cRIGHTS ∈ commandCodes := by decide

theorem firstFault_of_pass (x : Ctx) {cs : Checks} (pass : cs.pass = true) : x.firstFault cs = none := by
  have none : cs.find? (·.1) = none := List.find?_eq_none.mpr fun e mem => by simpa using List.all_eq_true.mp pass e mem
  rw [Ctx.firstFault, none, Option.map_none]

theorem firstFault_of_not_pass (x : Ctx) {cs : Checks} (fails : cs.pass = false) :
    ∃ e ∈ cs, x.firstFault cs = some ⟨e.2.1, e.2.2, x.fr.em⟩ := by
  have bad : ∃ e ∈ cs, e.1 = true := by simpa [Checks.pass] using fails
  obtain ⟨e, first⟩ := Option.isSome_iff_exists.mp (List.find?_isSome.mpr bad)
  exact ⟨e, List.mem_of_find?_eq_some first, by rw [Ctx.firstFault, first, Option.map_some]⟩

/-- What a command that has passed its checks does, with room in its queue. -/
def Ctx.counted (x : Ctx) (o : CmdOps) : State :=
  if x.counterFull o.classes then x.hold (.wait false) else x.holdEffect (.cmd o)

/-- A matrix or reuse command meets a full queue (10 R241). -/
def Ctx.queueFull (x : Ctx) (i : Instr) : Prop := Rule.isMatrix i = true ∧ 16 ≤ x.s.queuedMatrix x.st.hoop.core

theorem not_queueFull {x : Ctx} {i : Instr} (apart : Rule.isMatrix i = false) : ¬x.queueFull i :=
  fun full => Bool.false_ne_true (apart.symm.trans full.1)

/-- The outcomes of a command that passes its checks or not. -/
structure CommandOutcomes (i : Instr) (s : State) (x : Ctx) (ok : Bool) (o : CmdOps) : Prop where
  held : ok = true → ¬x.queueFull i → x.counterFull o.classes = false → x.room (.cmd o) = true →
    ∃ t, exec i s = .next t ∧ RanOn x true { held := [.cmd o] } t
  waits : ok = true → x.queueFull i ∨ x.counterFull o.classes = true → ∃ t, exec i s = .next t ∧ Waits x (.wait false) t
  drains : ok = true → ¬x.queueFull i → x.counterFull o.classes = false → x.room (.cmd o) = false →
    ∃ t, exec i s = .next t ∧ Drains x t
  faults : ok = false → ∃ (code : BitVec 8) (a : Dword) (m : Mask) (t : State), exec i s = .next t ∧
    Raised x (x.record ⟨code, a, m⟩) t ∧ code ∈ commandCodes

section
variable {i : Instr} {s : State} {x : Ctx} {f : Ctx → State} {ok : Bool} {o : CmdOps}
  (run : exec i s = issueWith i s f) (issues : ready i s = some x)
include run issues

/-- An instruction has the outcomes of a command when its meaning is a fault, a wait for the queue, or the command as counted. -/
theorem commandOutcomes_of_meaning (bad : ok = false → ∃ c a m, c ∈ commandCodes ∧ f x = x.raise ⟨c, a, m⟩)
    (full : ok = true → x.queueFull i → f x = x.hold (.wait false)) (good : ok = true → ¬x.queueFull i → f x = x.counted o) :
    CommandOutcomes i s x ok o := by
  have issue {t : State} (e : f x = t) : exec i s = .next t := exec_of_ready run issues e
  have effect (fine : ok = true) (queue : ¬x.queueFull i) (count : x.counterFull o.classes = false) :
      exec i s = .next (x.holdEffect (.cmd o)) := by
    refine issue ((good fine queue).trans ?_)
    simp [Ctx.counted, count]
  refine ⟨fun fine queue count => (held_or_drains (effect fine queue count)).1, fun fine either => ?_,
    fun fine queue count => (held_or_drains (effect fine queue count)).2, fun faulty => ?_⟩
  · by_cases queue : x.queueFull i
    · exact ⟨_, issue (full fine queue), waits_hold x _⟩
    · have count := either.resolve_left queue
      exact ⟨_, issue ((good fine queue).trans (if_pos count)), waits_hold x _⟩
  · obtain ⟨c, a, m, code, e⟩ := bad faulty
    exact ⟨c, a, m, _, issue e, raised_raise x ⟨c, a, m⟩, code⟩

/-- A command of the copy, gather and collective engines, or a signal. -/
theorem commandOutcomes_command {cs : Checks} (apart : Rule.isMatrix i = false) (checks : cs.pass = ok)
    (codes : cs.coded) (e : f x = x.command cs o) : CommandOutcomes i s x ok o := by
  subst checks
  refine commandOutcomes_of_meaning run issues (fun fails => ?_) (fun _ queue => absurd queue (not_queueFull apart)) fun pass _ => ?_
  · obtain ⟨b, mem, first⟩ := firstFault_of_not_pass x fails
    exact ⟨b.2.1, b.2.2, x.fr.em, codes b mem, by simp only [e, Ctx.command, first]⟩
  · simp only [e, Ctx.command, firstFault_of_pass x pass, Ctx.counted]

/-- A matrix or reuse command. -/
theorem commandOutcomes_matrix {cs : Checks} (queued : Rule.isMatrix i = true) (checks : cs.pass = ok)
    (codes : cs.coded) (e : f x = x.matrix cs o) : CommandOutcomes i s x ok o := by
  subst checks
  refine commandOutcomes_of_meaning run issues (fun fails => ?_) (fun pass queue => ?_) fun pass free => ?_
  · obtain ⟨b, mem, first⟩ := firstFault_of_not_pass x fails
    exact ⟨b.2.1, b.2.2, x.fr.em, codes b mem, by simp only [e, Ctx.matrix, first]⟩
  · simp only [e, Ctx.matrix, firstFault_of_pass x pass, if_pos queue.2]
  · have space : ¬16 ≤ x.s.queuedMatrix x.st.hoop.core := fun many => free ⟨queued, many⟩
    simp only [e, Ctx.matrix, firstFault_of_pass x pass, if_neg space, Ctx.command, firstFault_of_pass x Checks.pass_nil, Ctx.counted]
end

/-! ### The checks of each command -/

theorem aligned_eq_onto (a : Dword) (n : Nat) : aligned a n = Rule.onto a n := rfl
theorem ushiftRight_bne_zero {n : Nat} (a : BitVec n) (k : Nat) : (a >>> k != 0#n) = !decide (a.toNat < 2 ^ k) := by
  rw [bne, Bool.beq_eq_decide_eq, decide_eq_decide.mpr (ushiftRight_eq_zero_iff_lt a k)]
theorem beyond_eq_not_reach (a : Dword) : (a >>> 53 != 0) = !Rule.reach a := ushiftRight_bne_zero a 53

theorem fld_toNat {n : Nat} (m : BitVec n) (hi lo : Nat) : fld m hi lo = m.toNat / 2 ^ lo % 2 ^ (hi + 1 - lo) := by
  simp [fld, Nat.shiftRight_eq_div_pow]

/-- The checks of a sync word. -/
theorem syncBad_pass (x : Ctx) (o : Opnd) (cl : Bool) :
    (Checks.pass (x.syncBad o cl).1 && Checks.pass (x.syncBad o cl).2) = Rule.syncOk x o cl := by
  unfold Ctx.syncBad Rule.syncOk
  by_cases none : o = .none
  · simp [none]
  · simp [none, aligned_eq_onto]

/-- An address in global memory is checked against its 53 bits, one in a local space against its range. -/
theorem spaceChecks_pass (k : Nat) (near inside : Bool) :
    (!(k != 0 && !inside) && !(k == 0 && !near)) = if k = 0 then near else inside := by
  by_cases zero : k = 0
  · simp [zero]
  · simp [zero, beq_false_of_ne zero]

theorem not_decide_lt (m n : Nat) : (!decide (m < n)) = decide (n ≤ m) := by rw [← decide_not, decide_eq_decide, Nat.not_lt]
theorem not_decide_le (m n : Nat) : (!decide (m ≤ n)) = decide (n < m) := by rw [← decide_not, decide_eq_decide, Nat.not_le]
theorem not_bne_eq_decide (m n : Nat) : (!(m != n)) = decide (m = n) := by rw [bne, Bool.not_not, Bool.beq_eq_decide_eq]

theorem copyChecks_pass (x : Ctx) (o : ROps) : Checks.pass (x.copyChecks o) = Rule.copyOk x o := by
  have dest : fld o.mod 1 0 = o.mod.toNat % 4 := toNat_fld_low o.mod 1
  have src : fld o.mod 3 2 = o.mod.toNat / 4 % 4 := fld_toNat o.mod 3 2
  simp only [Ctx.copyChecks, Rule.copyOk, ← syncBad_pass, ← spaceChecks_pass, Checks.pass_append, Checks.pass_cons, Checks.pass_nil,
    aligned_eq_onto, beyond_eq_not_reach, dest, src, mbit, Bool.not_not, not_decide_lt, not_bne_eq_decide, Bool.and_true]
  ac_rfl

theorem streamChecks_pass (x : Ctx) (o : XOps) : Checks.pass (x.streamChecks o) = Rule.streamOk x o := by
  have origins : decide ((x.opt o.b).toNat / 2 ^ 30 = 0) = decide ((x.opt o.b).toNat < 2 ^ 30) := by
    rw [decide_eq_decide, Nat.div_eq_zero_iff_lt (Nat.two_pow_pos 30)]
  simp only [Ctx.streamChecks, Rule.streamOk, ← syncBad_pass, Checks.pass_append, Checks.pass_cons, Checks.pass_nil,
    not_bne_eq_decide, origins, mbit, Bool.and_true]
  ac_rfl

/-- The checks of a row command, but for the rows' addresses. -/
def Ctx.rowChecks (x : Ctx) (o : XOps) : Checks :=
  let k := fld o.flags 3 0
  let d := x.opt o.d
  let b := x.uni64 o.b
  let sy := x.syncBad o.c (mbit o.flags 4)
  [(!aligned d (2 ^ k), cALIGN, d), (!aligned b (2 ^ k), cALIGN, b)] ++ sy.1
    ++ [(!x.localRange 1 d.toNat (32 * 2 ^ k), cRANGE, d)] ++ sy.2
/-- The rows of the active strands, and those beyond 53 bits. -/
def Ctx.rows (x : Ctx) (o : XOps) : List (Nat × Word) := x.fr.em.strands.map fun s => (s.val, x.src o.a s)
def Ctx.farRows (x : Ctx) (o : XOps) : List (Nat × Word) :=
  (x.rows o).filter fun e => rowAddr (x.uni64 o.b) e.2 (fld o.flags 3 0) >>> 53 != 0

theorem rowCommand_eq (x : Ctx) (i : Instr) (o : XOps) : x.rowCommand i o =
    match x.firstFault (x.rowChecks o) with
    | some f => x.raise f
    | none => match x.farRows o with
      | e :: _ => x.raise { code := cXLATE, addr := rowAddr (x.uni64 o.b) e.2 (fld o.flags 3 0),
                            mask := maskOf fun s => (x.farRows o).any fun q => q.1 == s.val }
      | [] => x.command [] (x.cmdOps i (x.opt o.d) 0 (x.uni64 o.b) (x.opt o.c) (x.rows o)) := rfl

/-- No row lies beyond 53 bits, when each strand's can be reached. -/
theorem farRows_isEmpty (x : Ctx) (o : XOps) : (x.farRows o).isEmpty =
    (Mask.strands x.fr.em).all fun i => Rule.reach (rowAddr (x.uni64 o.b) (x.src o.a i) (o.flags.toNat % 16)) := by
  have rowBits : fld o.flags 3 0 = o.flags.toNat % 16 := toNat_fld_low o.flags 3
  rw [Bool.eq_iff_iff, List.isEmpty_iff, Ctx.farRows, Ctx.rows, List.filter_eq_nil_iff, List.forall_mem_map, List.all_eq_true]
  simp only [beyond_eq_not_reach, rowBits, Bool.not_eq_true, Bool.not_eq_false']

theorem rowOk_eq (x : Ctx) (o : XOps) : Rule.rowOk x o = (Checks.pass (x.rowChecks o) && (x.farRows o).isEmpty) := by
  have rowBits : fld o.flags 3 0 = o.flags.toNat % 16 := toNat_fld_low o.flags 3
  simp only [Ctx.rowChecks, Rule.rowOk, ← syncBad_pass, Checks.pass_append, Checks.pass_cons, Checks.pass_nil, aligned_eq_onto,
    rowBits, mbit, Bool.not_not, Bool.and_true, farRows_isEmpty]
  ac_rfl

/-- The checks of `coll` in their order. -/
def Ctx.collChecks (x : Ctx) (o : XOps) : Checks :=
  let d := x.uni64 o.d
  let a := x.uni64 o.a
  let n := (x.uni o.b).toNat
  let g := (x.uni o.c).toNat
  [(!aligned d 16, cALIGN, d), (!aligned a 16, cALIGN, a), (n == 0 || decide (2 ^ 24 < n), cRANGE, 0),
    (fld o.flags 2 0 == 3 && decide (g < 256) && decide (x.s.regF (rCollGrp g) 10 0 ≤ o.ts.toNat), cRANGE, 0),
    (d >>> 53 != 0, cXLATE, d), (a >>> 53 != 0, cXLATE, a)]

theorem collChecks_pass (x : Ctx) (o : XOps) : Checks.pass (x.collChecks o) = Rule.collOk x o := by
  have operation : fld o.flags 2 0 = o.flags.toNat % 8 := toNat_fld_low o.flags 2
  have count (n : Nat) : (!(n == 0 || decide (2 ^ 24 < n))) = (decide (n ≠ 0) && decide (n ≤ 2 ^ 24)) := by
    rw [Bool.not_or, not_decide_lt, decide_not, Bool.beq_eq_decide_eq]
  have root (k g p r : Nat) : (!(k == 3 && decide (g < 256) && decide (p ≤ r))) =
      (decide (k ≠ 3) || decide (256 ≤ g) || decide (r < p)) := by
    rw [Bool.not_and, Bool.not_and, not_decide_lt, not_decide_le, decide_not, Bool.beq_eq_decide_eq]
  simp only [Ctx.collChecks, Rule.collOk, Checks.pass_cons, Checks.pass_nil, aligned_eq_onto, beyond_eq_not_reach, operation, count,
    root, Bool.not_not, Bool.and_true]
  ac_rfl

/-! The tile, the reuse entry, a count K and the fields of `rsdef`. -/

@[simp] theorem tileBad_fst (x : Ctx) (o : XOps) : (x.tileBad (tileOf (x.opt o.d))).1 = !Rule.tileOk x o :=
  (not_decide_lt ..).symm
@[simp] theorem tileBad_code (x : Ctx) (t : Nat) : (x.tileBad t).2.1 = cSLOT := rfl
@[simp] theorem reuseBad_fst (x : Ctx) (o : XOps) : (x.reuseBad o).1 = !Rule.entryOk x o := (not_decide_lt ..).symm
@[simp] theorem reuseBad_code (x : Ctx) (o : XOps) : (x.reuseBad o).2.1 = cSLOT := rfl

theorem kBad_eq (sub : BitVec 8) (k lim : Nat) :
    (k == 0 || decide (lim < k) || (isBfp sub.toNat && k % 32 != 0)) = !Rule.kOk sub k lim := by
  rw [Bool.eq_iff_iff]
  simp [Rule.kOk, isBfp]

/-- A count that a field of 16 bits holds has no other limit. -/
theorem windowBad_eq (sub : BitVec 8) (b : Word) :
    (fld b 31 16 == 0 || (isBfp sub.toNat && fld b 31 16 % 32 != 0)) = !Rule.kOk sub (b.toNat / 2 ^ 16) 65535 := by
  have count : fld b 31 16 = b.toNat / 2 ^ 16 := by
    rw [fld_toNat]
    have := b.isLt
    omega
  have fits : decide (65535 < b.toNat / 2 ^ 16) = false := by
    have := b.isLt
    rw [decide_eq_false_iff_not]
    omega
  rw [count, ← kBad_eq, fits, Bool.or_false]

theorem rsdefBad_eq (b : Word) : rsdefBad b = !Rule.defOk b := by
  have top : b.toNat / 2 ^ 27 % 2 ^ 5 = b.toNat / 2 ^ 27 := by have := b.isLt; omega
  simp only [rsdefBad, Rule.defOk, fld_toNat]
  rw [Bool.eq_iff_iff]
  simp
  omega

/-! ### The codes of the checks -/

theorem syncBad_coded (x : Ctx) (o : Opnd) (cl : Bool) : Checks.coded (x.syncBad o cl).1 ∧ Checks.coded (x.syncBad o cl).2 := by
  unfold Ctx.syncBad
  split <;> simp

theorem copyChecks_coded (x : Ctx) (o : ROps) : Checks.coded (x.copyChecks o) := by
  simp [Ctx.copyChecks, syncBad_coded]
theorem streamChecks_coded (x : Ctx) (o : XOps) : Checks.coded (x.streamChecks o) := by
  simp [Ctx.streamChecks, syncBad_coded]
theorem rowChecks_coded (x : Ctx) (o : XOps) : Checks.coded (x.rowChecks o) := by
  simp [Ctx.rowChecks, syncBad_coded]
theorem collChecks_coded (x : Ctx) (o : XOps) : Checks.coded (x.collChecks o) := by
  simp [Ctx.collChecks]

/-! ### The command that each instruction issues -/

theorem rowOutcomes {i : Instr} {s : State} {x : Ctx} {o : XOps} (run : exec i s = issueWith i s fun y => y.rowCommand i o)
    (issues : ready i s = some x) (apart : Rule.isMatrix i = false) :
    CommandOutcomes i s x (Rule.rowOk x o) (x.cmdOps i (x.opt o.d) 0 (x.uni64 o.b) (x.opt o.c) (x.rows o)) := by
  rw [rowOk_eq]
  refine commandOutcomes_of_meaning run issues (fun fails => ?_) (fun _ queue => absurd queue (not_queueFull apart)) fun pass _ => ?_
  · cases checks : Checks.pass (x.rowChecks o) with
    | false =>
      obtain ⟨b, mem, first⟩ := firstFault_of_not_pass x checks
      refine ⟨b.2.1, b.2.2, x.fr.em, rowChecks_coded x o b mem, ?_⟩
      simp only [rowCommand_eq, first]
    | true =>
      cases far : x.farRows o with
      | nil => simp [checks, far] at fails
      | cons e es =>
        refine ⟨cXLATE, rowAddr (x.uni64 o.b) e.2 (fld o.flags 3 0), maskOf fun s => (e :: es).any fun q => q.1 == s.val,
          commandCodes_mem.1, ?_⟩
        simp only [rowCommand_eq, firstFault_of_pass x checks, far]
  · obtain ⟨checks, near⟩ := Bool.and_eq_true_iff.mp pass
    simp only [rowCommand_eq, firstFault_of_pass x checks, List.isEmpty_iff.mp near, Ctx.command, firstFault_of_pass x Checks.pass_nil,
      Ctx.counted]

/-- Every instruction that issues a command has the outcomes of one. -/
theorem commandOutcomes {i : Instr} {s : State} {x : Ctx} {ok : Bool} {o : CmdOps} (names : Rule.command x i = some (ok, o))
    (issues : ready i s = some x) : CommandOutcomes i s x ok o := by
  unfold Rule.command at names
  split at names
  all_goals cases names
  -- `cpy`
  case h_1 p => exact commandOutcomes_command rfl issues rfl (copyChecks_pass x p) (copyChecks_coded x p) rfl
  -- `cpyst`
  case h_2 p => exact commandOutcomes_command rfl issues rfl (copyChecks_pass x p) (copyChecks_coded x p) rfl
  -- `cpyt`
  case h_3 p => exact commandOutcomes_command rfl issues rfl (streamChecks_pass x p) (streamChecks_coded x p) rfl
  -- `cpymm`
  case h_4 p => exact commandOutcomes_command rfl issues rfl (streamChecks_pass x p) (streamChecks_coded x p) rfl
  -- `gthr`
  case h_5 p => exact rowOutcomes rfl issues rfl
  -- `scat`
  case h_6 p => exact rowOutcomes rfl issues rfl
  -- `coll`
  case h_7 p =>
    refine commandOutcomes_command rfl issues rfl (collChecks_pass x p) (collChecks_coded x p) ?_
    rw [← BitVec.ofNat_toNat, ← BitVec.ofNat_toNat]
    rfl
  -- `sig`
  case h_8 p => exact commandOutcomes_command rfl issues rfl (by simp [ushiftRight_bne_zero]) (by simp) rfl
  -- `mma`
  case h_9 p => exact commandOutcomes_matrix rfl issues rfl (by simp [kBad_eq]) (by simp) rfl
  -- `mmad`
  case h_10 p => exact commandOutcomes_matrix rfl issues rfl (by simp) (by simp) rfl
  -- `mconv`
  case h_11 p => exact commandOutcomes_matrix rfl issues rfl (by simp [windowBad_eq]) (by simp) rfl
  -- `mzero`
  case h_12 p => exact commandOutcomes_matrix rfl issues rfl (by simp [not_decide_le]) (by simp) rfl
  -- `mld`
  case h_13 p => exact commandOutcomes_matrix rfl issues rfl (by simp) (by simp) rfl
  -- `mst`
  case h_14 p => exact commandOutcomes_matrix rfl issues rfl (by simp) (by simp) rfl
  -- `rsdef`
  case h_15 p => exact commandOutcomes_matrix rfl issues rfl (by simp [rsdefBad_eq]) (by simp) rfl
  -- `rsinv`
  case h_16 p => exact commandOutcomes_matrix rfl issues rfl (by simp) (by simp) rfl
  -- `rssave`
  case h_17 p => exact commandOutcomes_matrix rfl issues rfl (by simp [aligned_eq_onto]) (by simp) rfl
  -- `rsload`
  case h_18 p => exact commandOutcomes_matrix rfl issues rfl (by simp [aligned_eq_onto]) (by simp) rfl

/-! ### `spawn` (R225) and the counters (R209) -/

theorem spawn_outcomes {s : State} {x : Ctx} {o : ROps} (issues : ready (.spawn o) s = some x) :
    let a := x.uni64 o.a
    let k := x.cmdOps (.spawn o) 0 a 0 0 []
    (a.toNat % 64 ≠ 0 → ∃ t, exec (.spawn o) s = .next t ∧ Raised x (x.record ⟨cALIGN, a, x.fr.em⟩) t) ∧
    (a.toNat % 64 = 0 → 2 ^ 53 ≤ a.toNat → ∃ t, exec (.spawn o) s = .next t ∧ Raised x (x.record ⟨cXLATE, a, x.fr.em⟩) t) ∧
    (a.toNat % 64 = 0 → a.toNat < 2 ^ 53 → x.spawnFull = true → ∃ t, exec (.spawn o) s = .next t ∧ Waits x (.wait true) t) ∧
    (a.toNat % 64 = 0 → a.toNat < 2 ^ 53 → x.spawnFull = false → x.room (.cmd k) = true →
      ∃ t, exec (.spawn o) s = .next t ∧ RanOn x true { held := [.cmd k] } t) ∧
    (a.toNat % 64 = 0 → a.toNat < 2 ^ 53 → x.spawnFull = false → x.room (.cmd k) = false →
      ∃ t, exec (.spawn o) s = .next t ∧ Drains x t) := by
  intro a k
  have aligns (line : a.toNat % 64 = 0) : ¬(!aligned a 64) = true := by simp [aligned, line]
  have reaches (near : a.toNat < 2 ^ 53) : ¬a >>> 53 ≠ 0 := not_not.mpr ((ushiftRight_eq_zero_iff_lt a 53).mpr near)
  have effect (line : a.toNat % 64 = 0) (near : a.toNat < 2 ^ 53) (space : x.spawnFull = false) :
      exec (.spawn o) s = .next (x.holdEffect (.cmd k)) :=
    exec_of_ready rfl issues ((if_neg (aligns line)).trans ((if_neg (reaches near)).trans (if_neg (by simp [space]))))
  refine ⟨fun line => ⟨_, exec_of_ready rfl issues (if_pos ?_), raised_raise x ⟨cALIGN, a, x.fr.em⟩⟩,
    fun line far => ⟨_, exec_of_ready rfl issues ((if_neg (aligns line)).trans (if_pos ?_)), raised_raise x ⟨cXLATE, a, x.fr.em⟩⟩,
    fun line near full => ⟨_, exec_of_ready rfl issues
      ((if_neg (aligns line)).trans ((if_neg (reaches near)).trans (if_pos full))), waits_hold x _⟩,
    fun line near space => (held_or_drains (effect line near space)).1,
    fun line near space => (held_or_drains (effect line near space)).2⟩
  · simpa [aligned] using line
  · exact fun zero => Nat.not_lt.mpr far ((ushiftRight_eq_zero_iff_lt a 53).mp zero)

theorem counterFull_iff (x : Ctx) (k : Fin 4) : x.counterFull [k] = true ↔
    255 ≤ vget x.st.wl.cnt k + (x.st.wl.heldAll.filter (Held.usesClass k)).length := by
  simp [Ctx.counterFull]

/-- Settles O35: engine, matrix and reuse commands by `commandOutcomes`, from the checks of each; `spawn` by its cases. -/
theorem engineCommandsHeld : Obligations.EngineCommandsHeld := by
  refine ⟨fun i s x ok o names issues => ?_, fun _ _ _ => spawn_outcomes, counterFull_iff⟩
  obtain ⟨held, waits, drains, faults⟩ := commandOutcomes names issues
  exact ⟨held, waits, drains, faults⟩

end Sys2Proof.Machine
end
section
/-! Proofs about tensor slots (O37): `tsdef`, `tsset` and `tsinv` at issue (10 R230 to R236, 02 R50), and what each does to its slot. -/

namespace Sys2Proof.Machine

/-! ### At issue -/

theorem localOk_word (a : Word) (n lim : Nat) : localOk a.toNat n lim = decide (a.toNat + n ≤ lim) := by
  have near : a.toNat < 2 ^ 32 := a.isLt
  rw [localOk, decide_eq_true near, Bool.true_and]

theorem tsdef_outcomes {s : State} {x : Ctx} {o : XOps} (issues : ready (.tsdef o) s = some x) :
    let a := x.uni o.a
    let d : BitVec 512 := BitVec.ofNat 512
      (natLE ((x.s.ownView x.st.w x.st.wl x.die).locRead (.sp x.st.wl.hoop a.toNat) 64))
    let h : Held := .slot (Fin.ofNat 64 o.ts.toNat) (.def d)
    (a.toNat % 64 ≠ 0 → ∃ t, exec (.tsdef o) s = .next t ∧ Raised x (x.record ⟨cALIGN, a.setWidth 64, x.fr.em⟩) t) ∧
    (a.toNat % 64 = 0 → pkSp x.st.skein.pkt < a.toNat + 64 →
      ∃ t, exec (.tsdef o) s = .next t ∧ Raised x (x.record ⟨cRANGE, a.setWidth 64, x.fr.em⟩) t) ∧
    (a.toNat % 64 = 0 → a.toNat + 64 ≤ pkSp x.st.skein.pkt →
      let under := x.st.wl.unsettled (.sp x.st.wl.hoop a.toNat) 64
      (under = true → ∃ t, exec (.tsdef o) s = .next t ∧ Drains x t) ∧
      (under = false → (Desc.of d).ok = false →
        ∃ t, exec (.tsdef o) s = .next t ∧ Raised x (x.record ⟨cSHAPE, 0, x.fr.em⟩) t) ∧
      (under = false → (Desc.of d).ok = true → x.room h = true →
        ∃ t, exec (.tsdef o) s = .next t ∧ RanOn x true { held := [h] } t) ∧
      (under = false → (Desc.of d).ok = true → x.room h = false → ∃ t, exec (.tsdef o) s = .next t ∧ Drains x t)) := by
  intro a d h
  refine ⟨fun off => ⟨_, exec_of_ready rfl issues (if_pos off), raised_raise x _⟩, fun onto beyond => ?_, fun onto fits => ?_⟩
  · refine ⟨_, exec_of_ready rfl issues ((if_neg (not_not.mpr onto)).trans (if_pos ?_)), raised_raise x _⟩
    rw [localOk_word, not_decide_le]
    exact decide_eq_true beyond
  · have inside : ¬(!localOk a.toNat 64 (pkSp x.st.skein.pkt)) = true := by
      rw [localOk_word, not_decide_le]
      simpa using fits
    have reads {t : State} (settled : x.st.wl.unsettled (.sp x.st.wl.hoop a.toNat) 64 = false)
        (e : (if (Desc.of d).ok then x.holdEffect h else x.raiseEm cSHAPE) = t) : exec (.tsdef o) s = .next t :=
      exec_of_ready rfl issues ((if_neg (not_not.mpr onto)).trans ((if_neg inside).trans ((if_neg (ne_true_of_eq_false settled)).trans e)))
    have holds (settled : x.st.wl.unsettled (.sp x.st.wl.hoop a.toNat) 64 = false) (ok : (Desc.of d).ok = true) :=
      held_or_drains (reads settled (if_pos ok))
    exact ⟨fun under => drains_of_meaning rfl issues ((if_neg (not_not.mpr onto)).trans ((if_neg inside).trans (if_pos under))),
      fun settled bad => ⟨_, reads settled (if_neg (by simp [bad])), raised_raise x ⟨cSHAPE, 0, x.fr.em⟩⟩,
      fun settled ok => (holds settled ok).1, fun settled ok => (holds settled ok).2⟩

theorem tsset_outcomes {s : State} {x : Ctx} {o : XOps} (issues : ready (.tsset o) s = some x) :
    let k := (x.uni o.a).toNat
    let ok := (x.st.wl.slotView x.st.hoop o.ts.toNat).valid = true ∧ wordOk k (x.uni o.b) = true
    let h : Held := .slot (Fin.ofNat 64 o.ts.toNat) (.set (Fin.ofNat 16 k) (x.uni o.b))
    (15 < k → ∃ t, exec (.tsset o) s = .next t ∧ Raised x (x.record ⟨cRANGE, 0, x.fr.em⟩) t) ∧
    (k ≤ 15 → ¬ok → ∃ t, exec (.tsset o) s = .next t ∧ Raised x (x.record ⟨cSHAPE, 0, x.fr.em⟩) t) ∧
    (k ≤ 15 → ok → x.room h = true → ∃ t, exec (.tsset o) s = .next t ∧ RanOn x true { held := [h] } t) ∧
    (k ≤ 15 → ok → x.room h = false → ∃ t, exec (.tsset o) s = .next t ∧ Drains x t) := by
  intro k ok h
  have shape : (!(x.st.wl.slotView x.st.hoop o.ts.toNat).valid || !wordOk k (x.uni o.b)) = true ↔ ¬ok := by
    simp only [ok, ← Bool.not_and, Bool.not_eq_true', ← Bool.and_eq_true, Bool.not_eq_true]
  have holds (low : k ≤ 15) (fits : ok) :=
    held_or_drains (exec_of_ready rfl issues ((if_neg (Nat.not_lt.mpr low)).trans (if_neg (mt shape.mp (not_not.mpr fits)))))
  exact ⟨fun high => raised_of_meaning rfl issues (if_pos high),
    fun low bad => raised_of_meaning rfl issues ((if_neg (Nat.not_lt.mpr low)).trans (if_pos (shape.mpr bad))),
    fun low fits => (holds low fits).1, fun low fits => (holds low fits).2⟩

/-! ### What a held slot write does (R234) -/

/-- A word written into a descriptor is that word, and the others are as they were. -/
theorem extract_setWord (d : BitVec 512) (w k : Fin 16) (x : Word) :
    ((d &&& ~~~((0xFFFFFFFF#512) <<< (32 * w.val))) ||| (x.setWidth 512 <<< (32 * w.val))).extractLsb' (32 * k.val) 32 =
      if k = w then x else d.extractLsb' (32 * k.val) 32 := by
  have ones (j : Nat) : (0xFFFFFFFF#512).getLsbD j = decide (j < 32) := by
    rw [BitVec.getLsbD_ofNat, show 0xFFFFFFFF = 2 ^ 32 - 1 by decide, Nat.testBit_two_pow_sub_one]
    simp only [Bool.and_eq_right_iff_imp, decide_eq_true_eq]
    omega
  refine BitVec.eq_of_getLsbD_eq fun i lane => ?_
  have within : 32 * k.val + i < 512 := by omega
  simp only [BitVec.getLsbD_extractLsb', lane, apply_ite (BitVec.getLsbD · i), decide_true, Bool.true_and, BitVec.getLsbD_or,
    BitVec.getLsbD_and, BitVec.getLsbD_not, BitVec.getLsbD_shiftLeft, within, ones, BitVec.getLsbD_setWidth]
  obtain below | rfl | above := lt_trichotomy k w
  · have low : 32 * k.val + i < 32 * w.val := by omega
    simp [below.ne, low]
  · simp [lane]; omega
  · have high : ¬32 * k.val + i < 32 * w.val := by omega
    have beyond : ¬32 * k.val + i - 32 * w.val < 32 := by omega
    have past : x.getLsbD (32 * k.val + i - 32 * w.val) = false := x.getLsbD_of_ge _ (by omega)
    simp [above.ne', high, beyond, past]

theorem slotOps (t : TSlot) (d : BitVec 512) (w : Fin 16) (x : Word) :
    (SlotOp.def d).apply t = { valid := true, desc := d } ∧ SlotOp.inv.apply t = { t with valid := false } ∧
    (t.valid = false → (SlotOp.set w x).apply t = t) ∧
    (t.valid = true → ((SlotOp.set w x).apply t).valid = true ∧ ∀ k : Fin 16,
      ((SlotOp.set w x).apply t).desc.extractLsb' (32 * k.val) 32 = if k = w then x else t.desc.extractLsb' (32 * k.val) 32) := by
  refine ⟨rfl, rfl, fun bad => if_neg (by simp [bad]), fun valid => ?_⟩
  rw [SlotOp.apply, if_pos valid]
  exact ⟨valid, fun k => extract_setWord t.desc w k x⟩

/-- Settles O37: each instruction by the tests of its meaning, in their order; a word of a descriptor bit by bit. -/
theorem tensorSlots : Obligations.TensorSlots :=
  ⟨fun _ _ _ => tsdef_outcomes, fun _ _ _ => tsset_outcomes, fun _ _ _ issues => held_or_drains (exec_of_ready rfl issues rfl), slotOps⟩

end Sys2Proof.Machine
end

section
/-! Proofs about `rsstat` and `mfence` (O38): the words of a reuse entry (10 R240, R246, R252). -/

namespace Sys2Proof.Machine

/-- Word 0 of an entry as a number: valid, the count, whether the weights have changed, and the version of the state. -/
theorem rsWord_zero (e : ReuseEntry) : rsWord e 0 = BitVec.ofNat 32
    ((if e.valid then 1 else 0) ||| 2 * e.count ||| (if e.wver ≠ e.version then 2 ^ 8 else 0) ||| e.sver.toNat * 2 ^ 16) := by
  have sver : BitVec.ofNat 32 (e.sver.toNat * 2 ^ 16) = e.sver.setWidth 32 <<< 16 := by
    apply BitVec.eq_of_toNat_eq
    simp [Nat.shiftLeft_eq]
  simp only [rsWord, BitVec.ofNat_or, sver, flagIf, bne_iff_ne, apply_ite (BitVec.ofNat 32)]
  rfl

theorem ran_rsstat {s : State} {x : Ctx} {o : XOps} {w : Word} (issues : ready (.rsstat o) s = some x)
    (granted : o.rs.toNat < pkRsCount x.st.basket.pkt)
    (word : rsWord (x.s.reuseEntry (pkRsDie x.st.basket.pkt) (pkRsBase x.st.basket.pkt + o.rs.toNat)) (o.flags.toNat % 4) = w) :
    ∃ t, exec (.rsstat o) s = .next t ∧ RanOn x false (x.wordRes o.d fun _ => Rule.val w) t := by
  have sel : fld o.flags 1 0 = o.flags.toNat % 4 := toNat_fld_low o.flags 1
  subst word
  rw [← sel]
  exact issueReg_ok issues rfl rfl (if_neg (by simpa [Ctx.reuseBad] using granted))

/-- Settles O38: `rsstat` by whether the entry is granted, its words one by one; `mfence` completes with its mark. -/
theorem reuseStatus : Obligations.ReuseStatus := by
  refine ⟨fun s x o issues => ⟨fun granted => ran_rsstat issues granted ?_, fun refused => ⟨_, ?_, raised_raise x _⟩⟩,
    fun s x o issues => ⟨_, exec_of_ready rfl issues rfl, ran_finish x false _⟩⟩
  · have low : o.flags.toNat % 4 < 4 := Nat.mod_lt _ (by decide)
    generalize o.flags.toNat % 4 = sel at low
    interval_cases sel
    · exact rsWord_zero _
    · exact (BitVec.ofNat_toNat ..).trans (BitVec.setWidth_eq _) |>.symm
    · exact (BitVec.ofNat_toNat ..).trans (BitVec.setWidth_eq _) |>.symm
    · rfl
  · have bad : (x.reuseBad o).1 = true := by simpa [Ctx.reuseBad] using refused
    refine (issueReg_ready (f := fun x => if (x.reuseBad o).1 then _ else _) issues).trans ?_
    rw [if_pos bad]

end Sys2Proof.Machine
end

section
/-! Proofs about what an engine's work meets (10 R233, 14 R323): walks leave tiles, scratchpads and registers; what a list of parts
answers. -/

namespace Sys2Proof.Machine

/-! ### Scratchpads, tiles and registers -/

/-- `t` has the registers, tiles, packets and scratchpads of `s`. -/
structure SameStores (s t : State) : Prop where
  regs : t.regs = s.regs
  hoops : t.hoops = s.hoops
  skeins : t.skeins = s.skeins
  spad : t.spad = s.spad
  dsc : ∀ d, (t.die d).dsc = (s.die d).dsc

namespace SameStores

theorem refl (s : State) : SameStores s s := ⟨rfl, rfl, rfl, rfl, fun _ => rfl⟩
theorem trans {a b c : State} (h : SameStores a b) (k : SameStores b c) : SameStores a c :=
  ⟨k.regs.trans h.regs, k.hoops.trans h.hoops, k.skeins.trans h.skeins, k.spad.trans h.spad, fun d => (k.dsc d).trans (h.dsc d)⟩
theorem ite {s t u : State} {p : Prop} [Decidable p] (ht : SameStores s t) (hu : SameStores s u) :
    SameStores s (if p then t else u) := by
  split
  · exact ht
  · exact hu
theorem foldl {α : Type} {f : State → α → State} (h : ∀ s a, SameStores s (f s a)) (l : List α) (s : State) :
    SameStores s (l.foldl f s) := by
  induction l generalizing s with
  | nil => exact refl s
  | cons a l ih => exact (h s a).trans (ih _)
theorem physWrite (s : State) (key pa : Nat) (bs : List Byte) : SameStores s (s.physWrite key pa bs) := by
  rw [State.physWrite_rest]
  exact ⟨rfl, rfl, rfl, rfl, fun _ => rfl⟩
theorem setAD (s : State) (x : Xl) (wr : Bool) : SameStores s (s.setAD x wr) := by
  have mark (s : State) (a m : Nat) :
      SameStores s (if s.pte a ||| m = s.pte a then s else s.physWrite 0 a (bytesLE 8 (s.pte a ||| m))) :=
    .ite (.refl s) (.physWrite s _ _ _)
  unfold State.setAD
  split
  · exact .refl s
  · exact (mark s _ _).trans (.foldl (fun s a => mark s a _) _ _)

end SameStores

theorem CachesOnly.sameStores {s t : State} (h : CachesOnly s t) : SameStores s t := by
  have rest := h.rest
  refine ⟨?_, ?_, ?_, ?_, h.dsc⟩ <;> rw [rest]

/-- Translating an access leaves them as they are (14 R323). -/
theorem State.sameStores_noteXl (s : State) (d : Fin 4) (c : Option Nat) (f va : Nat) (x : Xl) (wr : Bool) :
    SameStores s (s.noteXl d c f va x wr) :=
  (SameStores.setAD s x wr).trans (State.cachesOnly_noteXl ..).sameStores

/-! ### Work that leaves them -/

namespace EngSt.sees

theorem of_stores {e u : EngSt} (h : SameStores e.s u.s) (front : u.front = e.front) : u.sees e.s e.front :=
  ⟨h.regs, h.hoops, h.skeins, h.spad, h.dsc, front⟩
theorem refl (e : EngSt) : e.sees e.s e.front := of_stores (.refl e.s) rfl
theorem trans {e u : EngSt} {s : State} {front : List Acc} (h : e.sees s front) (k : u.sees e.s e.front) : u.sees s front where
  regs := k.regs.trans h.regs
  hoops := k.hoops.trans h.hoops
  skeins := k.skeins.trans h.skeins
  spad := k.spad.trans h.spad
  dsc d := (k.dsc d).trans (h.dsc d)
  front := k.front.trans h.front

end EngSt.sees

/-- Engine work that, where it is done, leaves what it meets. -/
def OnlyWalks {α : Type} (m : EM α) : Prop := ∀ e x u, m.run e = .ok (x, u) → u.sees e.s e.front

namespace OnlyWalks

theorem pure {α : Type} (x : α) : OnlyWalks (Pure.pure x : EM α) := by
  intro e y u run
  cases run
  exact .refl e
theorem throw {α : Type} (z : EErr) : OnlyWalks (MonadExcept.throw z : EM α) := fun _ _ _ run => nomatch run
theorem bind {α β : Type} {m : EM α} {f : α → EM β} (hm : OnlyWalks m) (hf : ∀ x, OnlyWalks (f x)) : OnlyWalks (m >>= f) := by
  intro e y u run
  obtain ⟨x, v, first, rest⟩ := engine_bind_ok.mp run
  exact (hm e x v first).trans (hf x v y u rest)
theorem ite {α : Type} {p : Prop} [Decidable p] {m n : EM α} (hm : OnlyWalks m) (hn : OnlyWalks n) :
    OnlyWalks (if p then m else n) := by
  split
  · exact hm
  · exact hn
theorem get : OnlyWalks (MonadState.get : EM EngSt) := by
  intro e y u run
  cases run
  exact .refl e

/-- Placing an access walks the tables of global memory, and touches its caches; elsewhere it only looks. -/
theorem engAt (c : Cmd) (space : Nat) (die : Fin 4) (a n : Nat) (wr : Bool) : OnlyWalks (Machine.engAt c space die a n wr) := by
  intro e l u run
  change Machine.engAt c space die a n wr e = .ok (l, u) at run
  unfold Machine.engAt at run
  dsimp only at run
  split at run
  case h_1 =>
    split at run
    case h_7 t _ =>
      split at run
      · cases run
      · split at run
        · cases run
        · cases run
          refine .of_stores ((e.s.sameStores_noteXl c.die none c.func (BitVec.ofNat 64 a).toNat t wr).trans ?_) rfl
          exact .ite (.refl _) (State.cachesOnly_touch ..).sameStores
    case h_5 => split at run <;> exact nomatch run
    all_goals exact nomatch run
  case h_2 =>
    split at run
    · cases run
      exact .refl e
    · cases run
  case h_3 =>
    split at run
    · split at run
      · cases run
        exact .refl e
      · cases run
    · cases run
  case h_4 =>
    split at run
    · cases run
      exact .refl e
    · cases run
  case h_5 =>
    split at run
    · split at run
      · cases run
      · split at run
        · cases run
        · cases run
          refine .of_stores ?_ ?_
          · split
            · exact .refl _
            · split <;> exact .refl _
          · split
            · rfl
            · split <;> rfl
    · cases run

theorem engRead (c : Cmd) (space : Nat) (die : Fin 4) (a n : Nat) : OnlyWalks (Machine.engRead c space die a n) :=
  .bind (engAt _ _ _ _ _ _) fun _ => .bind get fun _ => .pure _
theorem engReadRun (c : Cmd) (space : Nat) (die : Fin 4) (fuel a n : Nat) : OnlyWalks (Machine.engReadRun c space die fuel a n) := by
  induction fuel generalizing a n with
  | zero => exact .pure _
  | succ fuel ih => exact .ite (.pure _) (.bind (engRead _ _ _ _ _) fun _ => .bind (ih _ _) fun _ => .pure _)
theorem engWriteRun (c : Cmd) (space : Nat) (die : Fin 4) (fuel a : Nat) (bs : List Byte) :
    OnlyWalks (Machine.engWriteRun c space die fuel a bs) := by
  induction fuel generalizing a bs with
  | zero => exact .pure _
  | succ fuel ih => exact .ite (.pure _) (.bind (engAt _ _ _ _ _ _) fun _ => .bind (ih _ _) fun _ => .pure _)
theorem elemVal (c : Cmd) (d : Desc) (i : List Nat) : OnlyWalks (Machine.elemVal c d i) :=
  .ite (.ite (.bind (engReadRun _ _ _ _ _ _) fun _ => .bind (engRead _ _ _ _ _) fun _ => .pure _) (.pure _))
    (.ite (.bind (engRead _ _ _ _ _) fun _ => .pure _) (.pure _))
theorem operand (c : Cmd) (sub : Nat) (d : Desc) (i : List Nat) : OnlyWalks (Machine.operand c sub d i) :=
  .bind (elemVal c d i) fun _ => .ite (.pure _) (.pure _)
theorem elemFp32 (c : Cmd) (d : Desc) (i : List Nat) : OnlyWalks (Machine.elemFp32 c d i) :=
  .ite (.ite (.bind (engRead _ _ _ _ _) fun _ => .pure _) (.pure _)) (.bind (elemVal c d i) fun _ => .pure _)

end OnlyWalks

/-! ### What a list of parts answers -/

theorem getD_map_range {α : Type} {n i : Nat} (f : Nat → α) (d : α) (low : i < n) : ((List.range n).map f).getD i d = f i := by
  simp [List.getD, low]

/-- Parts one after the other: each answers what stands in its place. -/
theorem mapM_answers {α β : Type} {f : β → EM α} {s : State} {front : List Acc} (walks : ∀ k, OnlyWalks (f k)) (ks : List β)
    {e u : EngSt} {xs : List α} (sees : e.sees s front) (run : (ks.mapM f).run e = .ok (xs, u)) :
    u.sees s front ∧ List.Forall₂ (fun k x => s.answers front (f k) x) ks xs := by
  induction ks generalizing e xs with
  | nil =>
    rw [List.mapM_nil] at run
    cases run
    exact ⟨sees, .nil⟩
  | cons k ks ih =>
    rw [List.mapM_cons] at run
    obtain ⟨x, v, first, tail⟩ := engine_bind_ok.mp run
    obtain ⟨ys, w, rest, both⟩ := engine_bind_ok.mp tail
    cases both
    obtain ⟨after, each⟩ := ih (sees.trans (walks k e x v first)) rest
    exact ⟨after, .cons ⟨e, v, sees, first⟩ each⟩

/-- What the parts numbered below `n` answer, by number. -/
theorem forall₂_range {α : Type} (d : α) {n : Nat} {P : Nat → α → Prop} {xs : List α} (each : List.Forall₂ P (List.range n) xs) :
    ∃ x : Nat → α, xs = (List.range n).map x ∧ ∀ k, k < n → P k (x k) := by
  obtain ⟨length, place⟩ := List.forall₂_iff_get.mp each
  rw [List.length_range] at length
  refine ⟨fun k => xs.getD k d, List.ext_getElem (by simp [length]) fun k here _ => ?_, fun k low => ?_⟩
  · simp [here]
  · have here : k < xs.length := length ▸ low
    have answer := place k (by simpa using low) here
    simpa [here] using answer

theorem forN_answers {α : Type} (d : α) {n : Nat} {f : Nat → EM α} {s : State} {front : List Acc} (walks : ∀ k, OnlyWalks (f k))
    {e u : EngSt} {xs : List α} (sees : e.sees s front) (run : (forN n f).run e = .ok (xs, u)) :
    u.sees s front ∧ ∃ x : Nat → α, xs = (List.range n).map x ∧ ∀ k, k < n → s.answers front (f k) (x k) := by
  obtain ⟨after, each⟩ := mapM_answers walks (List.range n) sees run
  exact ⟨after, forall₂_range d each⟩

theorem OnlyWalks.forN {α : Type} {n : Nat} {f : Nat → EM α} (walks : ∀ k, OnlyWalks (f k)) : OnlyWalks (Machine.forN n f) :=
  fun e _ _ run => (mapM_answers walks (List.range n) (.refl e) run).1

/-- The rows of a table of parts. -/
theorem forN_forN_answers {α : Type} (d : α) {n k : Nat} {m : Nat → Nat → EM α} {s : State} {front : List Acc}
    (walks : ∀ i q, OnlyWalks (m i q)) {e u : EngSt} {xs : List (List α)} (sees : e.sees s front)
    (run : (forN n fun i => forN k fun q => m i q).run e = .ok (xs, u)) :
    u.sees s front ∧ ∃ x : Nat → Nat → α, xs = (List.range n).map (fun i => (List.range k).map (x i)) ∧
      ∀ i q, i < n → q < k → s.answers front (m i q) (x i q) := by
  obtain ⟨after, rows, all, each⟩ := forN_answers [] (fun i => OnlyWalks.forN (walks i)) sees run
  have row (i : Nat) : ∃ x : Nat → α, i < n → rows i = (List.range k).map x ∧ ∀ q, q < k → s.answers front (m i q) (x q) := by
    by_cases low : i < n
    · obtain ⟨v, w, meets, done⟩ := each i low
      obtain ⟨-, x, same, answers⟩ := forN_answers d (walks i) meets done
      exact ⟨x, fun _ => ⟨same, answers⟩⟩
    · exact ⟨fun _ => d, fun h => absurd h low⟩
  choose x rowOf using row
  refine ⟨after, x, all.trans (List.map_congr_left fun i mem => ?_), fun i q low => (rowOf i low).2 q⟩
  exact (rowOf i (List.mem_range.mp mem)).1

end Sys2Proof.Machine
end

section
/-! Proofs about the sums of products of a matrix command (03 R77, 10 R242): groups one after the other, and the elements of a tile. -/

namespace Sys2Proof.Machine

/-! ### Groups of products -/

/-- A group more: the first is added, then the rest. -/
theorem groups_step {g : Nat} (some : 0 < g) (acc : Nat) {ps : List (FV × FV)} (ne : ps ≠ []) :
    Rule.groups g acc ps = Rule.groups g (groupAdd acc (ps.take g)) (ps.drop g) := by
  have length : 0 < ps.length := List.length_pos_iff.mpr ne
  have count : (ps.length + g - 1) / g = ((ps.drop g).length + g - 1) / g + 1 := by
    rw [List.length_drop, ← Nat.add_div_right _ some]
    rcases Nat.le_total ps.length g with within | beyond
    · rw [Nat.sub_eq_zero_of_le within, Nat.div_eq_of_lt_le (k := 1) (by omega) (by omega),
        Nat.div_eq_of_lt_le (k := 1) (by omega) (by omega)]
    · congr 1
      omega
  rw [Rule.groups, count, List.range_succ_eq_map, List.foldl_cons, List.foldl_map, Rule.groups]
  simp [Nat.mul_succ, Nat.add_comm]

/-- The model's sum is that of the groups. -/
theorem groupSum_eq_groups {g : Nat} (some : 0 < g) {n : Nat} {ps : List (FV × FV)} (enough : ps.length < n) (acc : Nat) :
    groupSum n g acc ps = Rule.groups g acc ps := by
  induction n generalizing ps acc with
  | zero => omega
  | succ n ih =>
    cases ps with
    | nil => simp [groupSum, Rule.groups, Nat.div_eq_of_lt (Nat.sub_lt some Nat.one_pos)]
    | cons p ps =>
      have less : ((p :: ps).drop g).length < n := by
        simp only [List.length_drop, List.length_cons] at enough ⊢
        omega
      rw [groups_step some acc (List.cons_ne_nil p ps), ← ih less, groupSum]
      simp

/-- The sum over rows of `k` numbers each. -/
theorem ofNat_groupSum {g k n : Nat} (some : 0 < g) (enough : k < n) (acc : Nat) (x y : Nat → FV) :
    BitVec.ofNat 32 (groupSum n g acc (((List.range k).map x).zip ((List.range k).map y))) = Rule.product g k acc x y := by
  rw [groupSum_eq_groups some (by simpa using enough), List.zip_map', Rule.product]

theorem ofNat_dot (sub k acc : Nat) (x y : Nat → FV) : BitVec.ofNat 32 (dot sub acc ((List.range k).map x) ((List.range k).map y)) =
    Rule.product (if Machine.isBfp sub then 32 else 16) k acc x y := by
  have some : 0 < groupSize sub := by
    unfold groupSize
    split <;> decide
  exact ofNat_groupSum some (by simp) acc x y

/-! ### The elements of a tile -/

theorem mem_tileRows {t n : Nat} {f : Nat → Nat → Nat} {v : Word} :
    (n, v) ∈ tileRows t f ↔ ∃ i j, i < 16 ∧ j < 16 ∧ n = 256 * t + 16 * i + j ∧ v = BitVec.ofNat 32 (f i j) := by
  simp only [tileRows, tileKey, List.mem_flatMap, List.mem_map, List.mem_range, Prod.mk.injEq]
  constructor
  · rintro ⟨i, row, j, column, rfl, rfl⟩
    exact ⟨i, j, row, column, rfl, rfl⟩
  · rintro ⟨i, j, row, column, rfl, rfl⟩
    exact ⟨i, row, j, column, rfl, rfl⟩

/-- The elements of a tile whose rows and columns of operands are given: from +0.0, or from what the tile holds. -/
theorem mem_tileRows_dot {t n sub k : Nat} {za : Bool} {h : Hoop} {x y : Nat → Nat → FV} {v : Word} :
    (n, v) ∈ tileRows t (fun i j => dot sub (if za then 0 else (h.tileAt t i j).toNat)
      (((List.range 16).map fun i => (List.range k).map (x i)).getD i []) (((List.range 16).map fun j => (List.range k).map (y j)).getD j [])) ↔
    ∃ i j, i < 16 ∧ j < 16 ∧ n = 256 * t + 16 * i + j ∧
      v = Rule.product (if Machine.isBfp sub then 32 else 16) k (if za then 0 else (Sparse.getD h.tiles 0 n).toNat) (x i) (y j) := by
  rw [mem_tileRows]
  refine exists_congr fun i => exists_congr fun j => and_congr_right fun row => and_congr_right fun column => and_congr_right ?_
  rintro rfl
  rw [getD_map_range _ _ row, getD_map_range _ _ column, ofNat_dot]
  rfl

end Sys2Proof.Machine
end

section
/-! Proofs about the elements that an engine reads from a core scratchpad or a tile (10 R233, R237, 03 R71, R73). -/

namespace Sys2Proof.Machine

/-! ### Reads of a core scratchpad -/

theorem pkSp_lt (p : BitVec 512) : pkSp p < 2 ^ 32 := by
  have field : pkF p 64 9 < 2 ^ 9 := (p.extractLsb' 64 9).isLt
  unfold pkSp
  omega

/-- The bytes of a read, and of the read behind it. -/
theorem locRead_sp_add (s : State) (h a m n : Nat) :
    s.locRead (.sp h a) (m + n) = s.locRead (.sp h a) m ++ s.locRead (.sp h (a + m)) n := by
  simp only [State.locRead, List.range_add, List.map_append, List.map_map]
  congr 1
  exact List.map_congr_left fun i _ => by simp [State.locByte, Nat.add_assoc]

theorem locRead_length (s : State) (l : Loc) (n : Nat) : (s.locRead l n).length = n := by simp [State.locRead]

section
variable {c : Cmd} {e : EngSt} {a n : Nat} (die : Fin 4) (none : e.front = [])
  (fits : a + n ≤ pkSp (e.s.cmdPkt c))
include none fits

/-- A read within the grant gives the bytes there, and leaves everything. -/
theorem engRead_sp : (engRead c 1 die a n).run e = .ok (e.s.locRead (.sp c.hoop a) n, e) := by
  have near := pkSp_lt (e.s.cmdPkt c)
  have ok : localOk a n (pkSp (e.s.cmdPkt c)) = true := by
    simp only [localOk, Bool.and_eq_true, decide_eq_true_eq]
    omega
  have placed : (engAt c 1 die a n false).run e = .ok (.sp c.hoop a, e) := if_pos ok
  refine engine_bind_ok.mpr ⟨_, _, placed, ?_⟩
  change Except.ok (e.front.foldl _ _, e) = _
  rw [none]
  rfl

/-- Likewise a run, with fuel for its pieces. -/
theorem engReadRun_sp {fuel : Nat} (enough : 0 < n → n + a % 16 ≤ 16 * fuel) :
    (engReadRun c 1 die fuel a n).run e = .ok (e.s.locRead (.sp c.hoop a) n, e) := by
  induction fuel generalizing a n with
  | zero =>
    obtain rfl : n = 0 := by omega
    rfl
  | succ fuel ih =>
    rw [engReadRun]
    split
    · next zero =>
      subst zero
      rfl
    · have piece := engRead_sp (c := c) (e := e) (a := a) (n := min n (16 - a % 16)) die none (by omega)
      have rest := ih (a := a + min n (16 - a % 16)) (n := n - min n (16 - a % 16)) (by omega) (by omega)
      refine engine_bind_ok.mpr ⟨_, _, piece, engine_bind_ok.mpr ⟨_, _, rest, ?_⟩⟩
      rw [← locRead_sp_add, Nat.add_sub_cancel' (min_le_left _ _)]
      rfl

end

/-! ### Places of elements -/

theorem inside_iff (d : Desc) (i : List Nat) : d.inside i = true ↔ Rule.within d i := by
  simp [Desc.inside, Rule.within]

theorem upper_eq (d : Desc) (i : List Nat) : d.upper i =
    i.getD 1 0 * d.str 1 + i.getD 2 0 * d.str 2 + i.getD 3 0 * d.str 3 + i.getD 4 0 * d.str 4 := by
  simp [Desc.upper, List.range_succ]

/-- An element of a scalar format lies where R233 says. -/
theorem elemAddr_scalar {d : Desc} (space : d.space ≠ 4) (scalar : isBfp d.fmt = false) (i : List Nat) : d.elemAddr i = Rule.elemAt d i := by
  simp only [Desc.elemAddr, space, scalar, if_false, Bool.false_eq_true, upper_eq, Rule.elemAt]
  omega

/-- A block lies where its first element would lie, behind the blocks before it. -/
theorem elemAddr_block {d : Desc} (space : d.space ≠ 4) (block : isBfp d.fmt = true) (i : List Nat) :
    d.elemAddr i = Rule.elemAt d (0 :: i.drop 1) + i.getD 0 0 / 32 * blockBytes d.fmt := by
  have upper : d.upper (0 :: i.drop 1) = d.upper i := by simp [upper_eq]
  have first : Rule.elemAt d (0 :: i.drop 1) = d.base + d.upper i := by
    rw [← upper, upper_eq, Rule.elemAt]
    simp [Nat.add_assoc]
  rw [Desc.elemAddr, if_neg space, if_pos block, first]
  omega

theorem isBfp_iff (f : Nat) : isBfp f = true ↔ f = 7 ∨ f = 8 ∨ f = 9 := by
  simp only [isBfp, Bool.and_eq_true, decide_eq_true_eq]
  omega

/-- A block of a BFP format: 32 elements of `w` bits. -/
theorem blockBytes_eq {f : Nat} (block : isBfp f = true) : blockBytes f = 4 * (bfpBits f + 2) := by
  obtain rfl | rfl | rfl := (isBfp_iff f).mp block <;> rfl

theorem bfpField_eq {f : Nat} (block : isBfp f = true) (bs : List Byte) (j : Nat) :
    bfpField f bs j = natLE bs / 2 ^ ((bfpBits f + 2) * j) % 2 ^ (bfpBits f + 2) := by
  obtain rfl | rfl | rfl := (isBfp_iff f).mp block <;> rfl

theorem fmtWidth_bytes (f : Nat) : 8 * (fmtWidth f / 8) = fmtWidth f := by
  unfold fmtWidth
  split <;> rfl

/-! ### Elements of a slot in a core scratchpad (R233) -/

/-- An element is the number that its bits hold, PAD beyond the dims. -/
theorem elemVal_sp {e : EngSt} {c : Cmd} {d : Desc} (none : e.front = []) (space : d.space = 1)
    (fits : Rule.fits d (pkSp (e.s.cmdPkt c))) (i : List Nat) :
    (elemVal c d i).run e = .ok (Rule.number e.s c.hoop d i, e) := by
  have place : d.space ≠ 4 := by omega
  unfold elemVal Rule.number
  cases block : isBfp d.fmt with
  | true =>
    simp only [if_true]
    by_cases inside : Rule.within d i
    · have fit := fits i inside
      simp only [block, if_true] at fit
      obtain ⟨fitB, fitS⟩ := fit
      rw [← blockBytes_eq block, ← elemAddr_block place block] at fitB
      have wide : blockBytes d.fmt ≤ 32 := by
        obtain h | h | h := (isBfp_iff d.fmt).mp block <;> rw [h] <;> decide
      rw [if_pos ((inside_iff d i).mpr inside), if_pos inside, space]
      refine engine_bind_ok.mpr ⟨_, _, engReadRun_sp d.die none fitB (fun _ => by omega),
        engine_bind_ok.mpr ⟨_, _, engRead_sp d.die none fitS, ?_⟩⟩
      have pair := locRead_sp_add e.s c.hoop (d.sbase + 2 * d.blockNo i) 1 1
      have low := locRead_length e.s (.sp c.hoop (d.sbase + 2 * d.blockNo i)) 1
      rw [bfpField_eq block, pair, List.take_left' low, List.drop_left' low, elemAddr_block place block, blockBytes_eq block]
      rfl
    · rw [if_neg (mt (inside_iff d i).mp inside), if_neg inside]
      rfl
  | false =>
    simp only [Bool.false_eq_true, if_false]
    by_cases inside : Rule.within d i
    · have fit := fits i inside
      simp only [block, Bool.false_eq_true, if_false] at fit
      rw [if_pos ((inside_iff d i).mpr inside), if_pos inside, space, elemAddr_scalar place block]
      exact engine_bind_ok.mpr ⟨_, _, engRead_sp d.die none fit, rfl⟩
    · rw [if_neg (mt (inside_iff d i).mp inside), if_neg inside, fmtWidth_bytes]
      rfl

/-! ### Elements of a tile as operands (R237) -/

/-- The four bytes of a tile element. -/
theorem natLE_locRead_tile {s : State} {k a : Nat} {h : Hoop} (hoop : s.hoop? k = some h) :
    natLE (s.locRead (.tile k (4 * a)) 4) = (Sparse.getD h.tiles 0 a).toNat := by
  have byte (i : Nat) (low : i < 4) : s.locByte (.tile k (4 * a)) i = ((Sparse.getD h.tiles 0 a) >>> (8 * i)).setWidth 8 := by
    have word : (4 * a + i) / 4 = a := by omega
    have lane : (4 * a + i) % 4 = i := by omega
    simp only [State.locByte, hoop, word, lane]
  have bytes : s.locRead (.tile k (4 * a)) 4 = bytesLE 4 (Sparse.getD h.tiles 0 a).toNat := by
    refine List.ext_getElem (by simp [State.locRead]) fun i here _ => ?_
    rw [State.locRead, List.length_map, List.length_range] at here
    rw [bytesLE_getElem]
    simp only [State.locRead, List.getElem_map, List.getElem_range, byte i here]
    apply BitVec.eq_of_toNat_eq
    rw [BitVec.toNat_setWidth, BitVec.toNat_ushiftRight, Nat.shiftRight_eq_div_pow, BitVec.toNat_ofNat, Nat.pow_mul]
  rw [bytes, natLE_bytesLE]
  exact Nat.mod_eq_of_lt (Sparse.getD h.tiles 0 a).isLt

/-- What a consistent descriptor of a tile says (R232). -/
theorem tile_desc {d : Desc} (ok : d.ok = true) (space : d.space = 4) :
    d.fmt = 0 ∧ d.dim 0 ≤ 16 ∧ d.dim 1 ≤ 16 := by
  simp only [Desc.ok, Desc.jointOk, space, Bool.and_eq_true, bne_self_eq_false, Bool.false_or, beq_iff_eq, decide_eq_true_eq] at ok
  obtain ⟨-, ⟨-, ⟨⟨⟨fmt, -⟩, rows⟩, columns⟩, -⟩, -⟩ := ok
  exact ⟨fmt, rows, columns⟩

theorem operand_tile {e : EngSt} {c : Cmd} {d : Desc} {h : Hoop} {sub : Nat} (none : e.front = []) (space : d.space = 4) (ok : d.ok = true)
    (granted : d.base < pkTiles (e.s.cmdPkt c)) (hoop : e.s.hoop? c.hoop = some h) (scalar : sub = 1 ∨ sub = 2) (i : List Nat) :
    let f := if sub = 1 then fp16 else bf16
    let x := if Rule.within d i then (Sparse.getD h.tiles 0 (256 * d.base + 16 * i.getD 1 0 + i.getD 0 0)).toNat else d.pad % 2 ^ 32
    (operand c sub d i).run e = .ok (unpack f (roundFV f .rne (unpack fp32 x)).val, e) := by
  intro f x
  obtain ⟨fmt, columns, rows⟩ := tile_desc ok space
  have form : (fmtOf sub).getD fp32 = f := by obtain rfl | rfl := scalar <;> rfl
  have value : (elemVal c d i).run e = .ok (unpack fp32 x, e) := by
    unfold elemVal
    rw [fmt]
    change (if d.inside i = true then _ else _ : EM FV).run e = _
    by_cases inside : Rule.within d i
    · have column := inside 0 (by decide)
      have row := inside 1 (by decide)
      have place : d.elemAddr i = 4 * (256 * d.base + 16 * i.getD 1 0 + i.getD 0 0) := by
        rw [Desc.elemAddr, if_pos space]
        omega
      have placed : (engAt c d.space d.die (d.elemAddr i) 4 false).run e = .ok (.tile c.hoop (d.elemAddr i), e) := by
        rw [space]
        refine if_pos ?_
        rw [place]
        omega
      rw [if_pos ((inside_iff d i).mpr inside)]
      refine engine_bind_ok.mpr ⟨e.s.locRead (.tile c.hoop (d.elemAddr i)) 4, e, engine_bind_ok.mpr ⟨_, _, placed, ?_⟩, ?_⟩
      · change Except.ok (e.front.foldl _ _, e) = _
        rw [none]
        rfl
      · rw [place, natLE_locRead_tile hoop]
        simp only [x, if_pos inside]
        rfl
    · rw [if_neg (mt (inside_iff d i).mp inside)]
      simp only [x, if_neg inside]
      rfl
  refine engine_bind_ok.mpr ⟨_, _, value, ?_⟩
  rw [if_pos space, form]
  rfl

end Sys2Proof.Machine
end

section
/-! Proofs about the work of the matrix commands that write tiles (10 R236, R242 to R244, R250): slots, operands, sums. -/

namespace Sys2Proof.Machine

/-! ### Slots -/

/-- Work behind a check is done where the check passes. -/
theorem engine_else_ok {α : Type} {p : Prop} [Decidable p] {z : EErr} {m : EM α} {e : EngSt} {x : α × EngSt} :
    (if p then throw z else m : EM α).run e = .ok x ↔ ¬p ∧ m.run e = .ok x := by
  split
  · next h => exact iff_of_false (fun run => nomatch run) fun run => run.1 h
  · next h => exact (and_iff_right h).symm

theorem engine_pure_ok {α : Type} {x y : α} {e u : EngSt} : (pure x : EM α).run e = .ok (y, u) ↔ y = x ∧ u = e :=
  ⟨fun run => by cases run; exact ⟨rfl, rfl⟩, fun ⟨same, rest⟩ => by rw [same, rest]; rfl⟩

theorem engine_get_bind {α : Type} (f : EngSt → EM α) (e : EngSt) : (get >>= f).run e = (f e).run e := rfl

theorem slotDesc_ok {t : TSlot} {d : Desc} {e u : EngSt} (run : (slotDesc t).run e = .ok (d, u)) :
    d = Desc.of t.desc ∧ u = e ∧ d.ok = true := by
  unfold slotDesc at run
  split at run
  · next valid =>
    obtain ⟨rfl, rfl⟩ := engine_pure_ok.mp run
    exact ⟨rfl, rfl, (Bool.and_eq_true_iff.mp valid).2⟩
  · exact nomatch run

theorem operandSlot_ok {t : TSlot} {sub : Nat} {d : Desc} {e u : EngSt} (run : (operandSlot t sub).run e = .ok (d, u)) :
    d = Desc.of t.desc ∧ u = e ∧ d.ok = true ∧ (d.space ≠ 4 → d.fmt = sub) := by
  obtain ⟨d', v, first, rest⟩ := engine_bind_ok.mp run
  obtain ⟨desc, same, ok⟩ := slotDesc_ok first
  obtain ⟨fits, last⟩ := engine_else_ok.mp rest
  obtain ⟨rfl, rfl⟩ := engine_pure_ok.mp last
  exact ⟨desc, same, ok, fun space => not_not.mp fun other => fits (.inr ⟨space, other⟩)⟩

theorem weightSlot_ok {t : TSlot} {rank2 : Bool} {d : Desc} {e u : EngSt} (run : (weightSlot t rank2).run e = .ok (d, u)) :
    d = Desc.of t.desc ∧ u = e := by
  obtain ⟨d', v, first, rest⟩ := engine_bind_ok.mp run
  obtain ⟨desc, same, -⟩ := slotDesc_ok first
  obtain ⟨rfl, rfl⟩ := engine_pure_ok.mp (engine_else_ok.mp rest).2
  exact ⟨desc, same⟩

theorem memSlot_ok {t : TSlot} {d : Desc} {e u : EngSt} (run : (memSlot t).run e = .ok (d, u)) :
    d = Desc.of t.desc ∧ u = e ∧ d.ok = true ∧ d.space ≠ 4 ∧ (fmtOf d.fmt).isSome = true := by
  obtain ⟨d', v, first, rest⟩ := engine_bind_ok.mp run
  obtain ⟨desc, same, ok⟩ := slotDesc_ok first
  obtain ⟨fits, last⟩ := engine_else_ok.mp rest
  obtain ⟨rfl, rfl⟩ := engine_pure_ok.mp last
  obtain ⟨space, format⟩ := not_or.mp fits
  exact ⟨desc, same, ok, space, Option.isSome_iff_ne_none.mpr (by simpa using format)⟩

theorem fmtOf_isSome {f : Nat} : (fmtOf f).isSome = true ↔ f ≤ 2 := by
  match f with
  | 0 | 1 | 2 => simp [fmtOf]
  | n + 3 => simp [fmtOf]

/-- What a consistent descriptor of a convolution's input says (R232). -/
theorem conv_desc {d : Desc} (ok : d.ok = true) (conv : d.conv = true) :
    d.space ≠ 4 ∧ (d.fmt = 1 ∨ d.fmt = 2 ∨ Machine.isBfp d.fmt = true) := by
  simp only [Desc.ok, Desc.fieldsOk, Desc.jointOk, conv, Bool.and_eq_true, Bool.or_eq_true, Bool.not_true, Bool.false_eq_true, false_or,
    beq_iff_eq, or_assoc] at ok
  obtain ⟨⟨-, rank, format⟩, ⟨-, tile⟩, -⟩ := ok
  refine ⟨fun space => ?_, format⟩
  simp [space, rank] at tile

/-! ### Which work a command does -/

theorem nfld_low_half (x : Nat) : nfld x 15 0 = x % 2 ^ 16 := by simp [nfld]
theorem nfld_high_half (x : Nat) : nfld x 31 16 = x / 2 ^ 16 % 2 ^ 16 := rfl
theorem nfld_second_byte (x : Nat) : nfld x 15 8 = x / 2 ^ 8 % 2 ^ 8 := rfl
theorem nfld_sub (x : Nat) : nfld x 19 16 = x / 2 ^ 16 % 16 := rfl

section
variable {c : Cmd} {h : Hoop} {e : EngSt}

theorem matrixWork_mma {o : XOps} (ins : c.ops.ins = .mma o) : (matrixWork c h).run e =
    (mmaWork c h o.sub.toNat c.ops.b.toNat (tileOf c.ops.d) (o.flags.getLsbD 0) (lo32 c.ops.a) (lo32 c.ops.c)).run e := by
  simp only [matrixWork, ins]
  rfl
theorem matrixWork_cpymm {o : XOps} (ins : c.ops.ins = .cpymm o) (good : followBad e.s c = none) : (matrixWork c h).run e =
    (mmaWork c h (c.ops.c.toNat / 2 ^ 16 % 16) ((Desc.of (c.slots.getD 0 TSlot.invalid).desc).dim 0) (c.ops.c.toNat / 2 ^ 8 % 2 ^ 8)
      false 0 0).run e := by
  rw [← nfld_sub, ← nfld_second_byte]
  simp only [matrixWork, ins]
  change StateT.run (match followBad e.s c with | some (code, a) => _ | none => _) e = _
  rw [good]
theorem matrixWork_mconv {o : XOps} (ins : c.ops.ins = .mconv o) : (matrixWork c h).run e = (mconvWork c h o).run e := by
  simp only [matrixWork, ins]
  rfl
theorem matrixWork_mmad {o : XOps} (ins : c.ops.ins = .mmad o) : (matrixWork c h).run e =
    (mmadWork c o (e.s.entryOf c).1 (e.s.reuseEntry (e.s.entryOf c).2 (e.s.entryOf c).1)).run e := by
  unfold matrixWork
  rw [engine_get_bind]
  generalize e.s.entryOf c = entry
  obtain ⟨n, d⟩ := entry
  rw [engine_get_bind, ins]
theorem matrixWork_mzero {o : XOps} (ins : c.ops.ins = .mzero o) : (matrixWork c h).run e = .ok (mzeroWork o, e) := by
  simp only [matrixWork, ins]
  rfl
theorem matrixWork_mld {o : XOps} (ins : c.ops.ins = .mld o) : (matrixWork c h).run e = (mldWork c).run e := by
  simp only [matrixWork, ins]
  rfl
theorem matrixWork_mst {o : XOps} (ins : c.ops.ins = .mst o) : (matrixWork c h).run e = (mstWork c h (fld o.flags 3 1)).run e := by
  simp only [matrixWork, ins]
  rfl
end

/-! ### The work of each -/

section
variable {s : State} {c : Cmd} {h : Hoop} {o : XOps} {front : List Acc} {r : MRes} {u : EngSt}

/-- Rows of one operand. -/
theorem operand_rows {d : Desc} {e : EngSt} {sub k : Nat} {f : Nat → Nat → List Nat} {xs : List (List FV)} (sees : e.sees s front)
    (run : (forN 16 fun i => forN k fun q => operand c sub d (f i q)).run e = .ok (xs, u)) :
    u.sees s front ∧ ∃ x : Nat → Nat → FV, xs = (List.range 16).map (fun i => (List.range k).map (x i)) ∧
      ∀ i q, i < 16 → q < k → s.answers front (operand c sub d (f i q)) (x i q) :=
  forN_forN_answers (.fin false 0 0) (fun _ _ => .operand c sub d _) sees run

theorem mmaWork_ok {sub k t : Nat} {za : Bool} {a b : Word}
    (run : (mmaWork c h sub k t za a b).run { s := s, far := [], port := false, front := front } = .ok (r, u)) :
    let da := Desc.of (c.slots.getD 0 TSlot.invalid).desc
    let db := Desc.of (c.slots.getD 1 TSlot.invalid).desc
    r.writes = [] ∧ r.entry = none ∧ r.stop = none ∧ ∃ x y : Nat → Nat → FV,
      (∀ i q, i < 16 → q < k → s.answers front (operand c sub da [fld a 15 0 + q, fld a 31 16 + i, 0, 0, 0]) (x i q)) ∧
      (∀ j q, j < 16 → q < k → s.answers front (operand c sub db [fld b 15 0 + q, fld b 31 16 + j, 0, 0, 0]) (y j q)) ∧
      ∀ n v, (n, v) ∈ r.tiles ↔ ∃ i j, i < 16 ∧ j < 16 ∧ n = 256 * t + 16 * i + j ∧
        v = Rule.product (if Machine.isBfp sub then 32 else 16) k (if za then 0 else (Sparse.getD h.tiles 0 n).toNat) (x i) (y j) := by
  intro da db
  obtain ⟨_, _, slotA, rest⟩ := engine_bind_ok.mp run
  obtain ⟨rfl, rfl, -⟩ := operandSlot_ok slotA
  obtain ⟨_, _, slotB, rest⟩ := engine_bind_ok.mp rest
  obtain ⟨rfl, rfl, -⟩ := operandSlot_ok slotB
  obtain ⟨-, rest⟩ := engine_else_ok.mp rest
  obtain ⟨_, _, readA, rest⟩ := engine_bind_ok.mp rest
  obtain ⟨sees, x, rfl, answersA⟩ := operand_rows (.refl _) readA
  obtain ⟨_, _, readB, rest⟩ := engine_bind_ok.mp rest
  obtain ⟨-, y, rfl, answersB⟩ := operand_rows sees readB
  obtain ⟨rfl, -⟩ := engine_pure_ok.mp rest
  exact ⟨rfl, rfl, rfl, x, y, answersA, answersB, fun n v => mem_tileRows_dot⟩

theorem outExt_eq (n pad dil kn stride : Nat) :
    outExt n pad dil kn stride = Int.fdiv ((n : Int) + 2 * pad - dil * ((kn : Int) - 1) - 1) stride + 1 := by
  rw [outExt, Int.fdiv_eq_ediv_of_nonneg _ (Int.natCast_nonneg stride)]

/-- PAD as an operand of a convolution. -/
theorem conv_pad {d : Desc} {sub : Nat} (format : d.fmt = 1 ∨ d.fmt = 2 ∨ Machine.isBfp d.fmt = true) (same : d.fmt = sub) :
    (if Machine.isBfp d.fmt then FV.fin false 0 0 else unpack ((fmtOf d.fmt).getD fp32) (d.pad % 2 ^ fmtWidth d.fmt)) =
      if Machine.isBfp sub then .fin false 0 0 else unpack (if sub = 1 then fp16 else bf16) (d.pad % 2 ^ 16) := by
  rw [same] at format ⊢
  obtain rfl | rfl | block := format
  · rfl
  · rfl
  · rw [if_pos block, if_pos block]

theorem mconvWork_ok (run : (mconvWork c h o).run { s := s, far := [], port := false, front := front } = .ok (r, u)) :
    let d := Desc.of (c.slots.getD 0 TSlot.invalid).desc
    let w := Desc.of (c.slots.getD 1 TSlot.invalid).desc
    let sub := o.sub.toNat
    let k0 := c.ops.b.toNat % 2 ^ 16
    let k := c.ops.b.toNat / 2 ^ 16 % 2 ^ 16
    let n0 := c.ops.c.toNat % 2 ^ 16
    let out (size kn : Nat) : Int := Int.fdiv ((size : Int) + 2 * d.padg - d.dil * ((kn : Int) - 1) - 1) d.stride + 1
    let oh := (out (d.dim 2) d.kh).toNat
    let ow := (out (d.dim 1) d.kw).toNat
    d.conv = true ∧ 1 ≤ out (d.dim 2) d.kh ∧ 1 ≤ out (d.dim 1) d.kw ∧ r.writes = [] ∧ r.entry = none ∧ r.stop = none ∧
    ∃ x y : Nat → Nat → FV,
      (∀ i q, i < 16 → q < k →
        let p := c.ops.a.toNat + i
        let kk := k0 + q
        let yy : Int := (p / ow % oh * d.stride : Nat) - (d.padg : Int) + (kk / (d.dim 0 * d.kw) * d.dil : Nat)
        let xx : Int := (p % ow * d.stride : Nat) - (d.padg : Int) + (kk / d.dim 0 % d.kw * d.dil : Nat)
        let outside := d.kh * d.kw * d.dim 0 ≤ kk ∨ d.dim 3 ≤ p / (oh * ow) ∨
          yy < 0 ∨ xx < 0 ∨ (d.dim 2 : Int) ≤ yy ∨ (d.dim 1 : Int) ≤ xx
        (outside → x i q = if Machine.isBfp sub then .fin false 0 0 else unpack (if sub = 1 then fp16 else bf16) (d.pad % 2 ^ 16)) ∧
        (¬outside → s.answers front (operand c sub d [kk % d.dim 0, xx.toNat, yy.toNat, p / (oh * ow), 0]) (x i q))) ∧
      (∀ j q, j < 16 → q < k → s.answers front (operand c sub w [k0 + q, n0 + j, 0, 0, 0]) (y j q)) ∧
      ∀ n v, (n, v) ∈ r.tiles ↔ ∃ i j, i < 16 ∧ j < 16 ∧ (c.ops.a.toNat + i) / (oh * ow) < d.dim 3 ∧
        n = 256 * tileOf c.ops.d + 16 * i + j ∧
        v = Rule.product (if Machine.isBfp sub then 32 else 16) k (if o.flags.getLsbD 0 then 0 else (Sparse.getD h.tiles 0 n).toNat) (x i) (y j) := by
  intro d w sub k0 k n0 out oh ow
  obtain ⟨_, _, slotA, rest⟩ := engine_bind_ok.mp run
  obtain ⟨rfl, rfl, ok, format⟩ := operandSlot_ok slotA
  obtain ⟨_, _, slotB, rest⟩ := engine_bind_ok.mp rest
  obtain ⟨rfl, rfl, -⟩ := operandSlot_ok slotB
  obtain ⟨good, rest⟩ := engine_else_ok.mp rest
  simp only [not_or, Bool.not_eq_true', Bool.not_eq_false, not_lt, outExt_eq] at good
  obtain ⟨conv, -, rows, columns⟩ := good
  obtain ⟨space, formats⟩ := conv_desc ok conv
  simp only [outExt_eq, nfld_low_half, nfld_high_half] at rest
  obtain ⟨_, _, readA, rest⟩ := engine_bind_ok.mp rest
  obtain ⟨sees, x, rfl, answersA⟩ := forN_forN_answers (.fin false 0 0) (fun _ _ => .ite (.pure _) (.operand _ _ _ _)) (.refl _) readA
  obtain ⟨_, _, readB, rest⟩ := engine_bind_ok.mp rest
  obtain ⟨-, y, rfl, answersB⟩ := operand_rows sees readB
  obtain ⟨rfl, -⟩ := engine_pure_ok.mp rest
  refine ⟨conv, rows, columns, rfl, rfl, rfl, x, y, fun i q row low => ⟨fun outside => ?_, fun inside => ?_⟩, answersB, fun n v => ?_⟩
  · obtain ⟨e, e', -, run⟩ := answersA i q row low
    rw [if_pos outside] at run
    exact (engine_pure_ok.mp run).1.trans (conv_pad formats (format space))
  · have answer := answersA i q row low
    rwa [if_neg inside] at answer
  · rw [List.mem_filter, mem_tileRows_dot]
    constructor
    · rintro ⟨⟨i, j, row, column, rfl, rfl⟩, image⟩
      have line : (256 * tileOf c.ops.d + 16 * i + j) / 16 % 16 = i := by omega
      refine ⟨i, j, row, column, ?_, rfl, rfl⟩
      simpa only [tileKey, line, decide_eq_true_eq] using image
    · rintro ⟨i, j, row, column, image, rfl, rfl⟩
      have line : (256 * tileOf c.ops.d + 16 * i + j) / 16 % 16 = i := by omega
      refine ⟨⟨i, j, row, column, rfl, rfl⟩, ?_⟩
      simpa only [line, decide_eq_true_eq] using image

theorem mmadWork_ok {n : Nat} {e : ReuseEntry}
    (run : (mmadWork c o n e).run { s := s, far := [], port := false, front := front } = .ok (r, u)) :
    let da := Desc.of (c.slots.getD 0 TSlot.invalid).desc
    let db := Desc.of (c.slots.getD 1 TSlot.invalid).desc
    let a := lo32 c.ops.a
    let b := lo32 c.ops.c
    r.writes = [] ∧ r.stop = none ∧ ∃ x w : Nat → Nat → FV,
      (∀ i q, i < 16 → q < e.k → s.answers front (operand c 2 da [fld a 15 0 + q, fld a 31 16 + i, 0, 0, 0]) (x i q)) ∧
      (∀ j q, j < 16 → q < e.k → s.answers front (elemVal c db [fld b 15 0 + q, fld b 31 16 + j, 0, 0, 0]) (w j q)) ∧
      let rows (f : Nat → Nat → FV) := (List.range 16).map fun i => (List.range e.k).map (f i)
      let e' := mmadStep e (o.flags.getLsbD 0) (lo32 c.ops.b) (BitVec.ofNat 53 db.base) db.footprint (rows x) (rows w)
      r.entry = some (n, e') ∧
      ∀ n v, (n, v) ∈ r.tiles ↔ ∃ i j, i < 16 ∧ j < 16 ∧ n = 256 * tileOf c.ops.d + 16 * i + j ∧ v = BitVec.ofNat 32 (rAt e' i j) := by
  intro da db a b
  obtain ⟨_, _, slotA, rest⟩ := engine_bind_ok.mp run
  obtain ⟨rfl, rfl, -⟩ := operandSlot_ok slotA
  obtain ⟨_, _, slotB, rest⟩ := engine_bind_ok.mp rest
  obtain ⟨rfl, rfl⟩ := weightSlot_ok slotB
  obtain ⟨_, _, readA, rest⟩ := engine_bind_ok.mp rest
  obtain ⟨sees, x, rfl, answersA⟩ := operand_rows (.refl _) readA
  obtain ⟨_, _, readB, rest⟩ := engine_bind_ok.mp rest
  obtain ⟨-, w, rfl, answersB⟩ := forN_forN_answers (.fin false 0 0) (fun _ _ => .elemVal _ _ _) sees readB
  obtain ⟨rfl, -⟩ := engine_pure_ok.mp rest
  exact ⟨rfl, rfl, x, w, answersA, answersB, rfl, fun n v => mem_tileRows⟩

theorem mldWork_ok (run : (mldWork c).run { s := s, far := [], port := false, front := front } = .ok (r, u)) :
    let d := Desc.of (c.slots.getD 0 TSlot.invalid).desc
    r.writes = [] ∧ r.entry = none ∧ r.stop = none ∧ ∃ x : Nat → Nat → Nat,
      (∀ i j, i < 16 → j < 16 →
        s.answers front (elemFp32 c d [c.ops.a.toNat % 2 ^ 16 + j, c.ops.a.toNat / 2 ^ 16 % 2 ^ 16 + i, 0, 0, 0]) (x i j)) ∧
      ∀ n v, (n, v) ∈ r.tiles ↔ ∃ i j, i < 16 ∧ j < 16 ∧ n = 256 * tileOf c.ops.d + 16 * i + j ∧ v = BitVec.ofNat 32 (x i j) := by
  intro d
  obtain ⟨_, _, slot, rest⟩ := engine_bind_ok.mp run
  obtain ⟨rfl, rfl, -⟩ := memSlot_ok slot
  simp only [nfld_low_half, nfld_high_half] at rest
  obtain ⟨_, _, read, rest⟩ := engine_bind_ok.mp rest
  obtain ⟨-, x, rfl, answers⟩ := forN_forN_answers 0 (fun _ _ => .elemFp32 _ _ _) (.refl _) read
  obtain ⟨rfl, -⟩ := engine_pure_ok.mp rest
  refine ⟨rfl, rfl, rfl, x, answers, fun n v => ?_⟩
  dsimp only
  rw [mem_tileRows]
  refine exists_congr fun i => exists_congr fun j => and_congr_right fun row => and_congr_right fun column => and_congr_right fun _ => ?_
  rw [getD_map_range _ _ row, getD_map_range _ _ column]

theorem mem_mzeroWork {k : Nat} {v : Word} : (k, v) ∈ (mzeroWork o).tiles ↔
    v = 0 ∧ 256 * o.ts.toNat ≤ k ∧ k < 256 * (o.ts.toNat + o.ts2.toNat + 1) := by
  simp only [mzeroWork, List.mem_flatMap, List.mem_range, mem_tileRows]
  constructor
  · rintro ⟨n, low, i, j, row, column, rfl, rfl⟩
    exact ⟨rfl, by omega, by omega⟩
  · rintro ⟨rfl, above, below⟩
    exact ⟨k / 256 - o.ts.toNat, by omega, k / 16 % 16, k % 16, by omega, by omega, by omega, rfl⟩

end

end Sys2Proof.Machine
end

section
/-! Proofs about the step of `mmad` (10 R250): its differences in blocks, the count of those that saturate, the entry after it. -/

namespace Sys2Proof.Machine

/-! ### Patterns of a rounding -/

/-- Rounding to nearest gives the canonical NaN, or a sign with bits up to those of infinity. -/
theorem roundFV_rne_pattern {f : Fmt} (frac : 0 < f.fb) (x : FV) :
    (roundFV f .rne x).val = canonNaN f ∨ ∃ s p, p ≤ f.limit ∧ (roundFV f .rne x).val = f.signBit s + p := by
  match x with
  | .nan _ => exact .inl rfl
  | .inf s => exact .inr ⟨s, f.limit, le_rfl, rfl⟩
  | .fin s m e =>
    refine .inr ?_
    by_cases zero : m = 0
    · exact ⟨s, 0, Nat.zero_le _, by rw [roundFV, if_pos zero]; rfl⟩
    · obtain ⟨p, ex, uf, -, -, same⟩ := (Carries.exact f e zero).roundFin_rne s frac
      rw [roundFV, if_neg zero, same]
      by_cases beyond : f.limit ≤ p
      · exact ⟨s, f.limit, le_rfl, by rw [if_pos beyond]; rfl⟩
      · exact ⟨s, p, by omega, by rw [if_neg beyond]⟩

theorem roundFV_bf16_lt (x : FV) : (roundFV bf16 .rne x).val < 2 ^ 16 := by
  have limit : bf16.limit = 255 * 2 ^ 7 := rfl
  obtain nan | ⟨s, p, low, same⟩ := roundFV_rne_pattern (f := bf16) (by decide) x
  · rw [nan]
    decide
  · have sign : bf16.signBit s ≤ 2 ^ 15 := by cases s <;> decide
    omega

/-! ### Entries as maps -/

section
variable {β : Type} [DecidableEq β] (d : β)

/-- Values written one after the other: a key that none of them has keeps its value. -/
theorem Sparse.getD_foldl_setD_of_not_mem {xs : List (Nat × β)} {m : Sparse β} (wf : Sparse.wf m = true) {k : Nat}
    (other : ∀ v, (k, v) ∉ xs) : Sparse.getD (xs.foldl (fun m e => Sparse.setD m d e.1 e.2) m) d k = Sparse.getD m d k := by
  induction xs generalizing m with
  | nil => rfl
  | cons e xs ih =>
    have ne : k ≠ e.1 := fun same => other e.2 (by simp [same])
    rw [List.foldl_cons, ih (Sparse.wf_setD d e.1 e.2 wf) fun v mem => other v (.tail _ mem), Sparse.getD_setD d e.1 k e.2 wf, if_neg ne]

/-- A key that is written with one value only holds it. -/
theorem Sparse.getD_foldl_setD_of_mem {xs : List (Nat × β)} {m : Sparse β} (wf : Sparse.wf m = true) {k : Nat} {v : β}
    (mem : (k, v) ∈ xs) (only : ∀ u, (k, u) ∈ xs → u = v) :
    Sparse.getD (xs.foldl (fun m e => Sparse.setD m d e.1 e.2) m) d k = v := by
  induction xs generalizing m with
  | nil => cases mem
  | cons e xs ih =>
    rw [List.foldl_cons]
    by_cases later : ∃ u, (k, u) ∈ xs
    · obtain ⟨u, there⟩ := later
      obtain rfl := only u (.tail _ there)
      exact ih (Sparse.wf_setD d e.1 e.2 wf) there fun w mem => only w (.tail _ mem)
    · rw [Sparse.getD_foldl_setD_of_not_mem d (Sparse.wf_setD d e.1 e.2 wf) (not_exists.mp later)]
      obtain head | tail := List.mem_cons.mp mem
      · rw [← head, Sparse.getD_setD d k k v wf, if_pos rfl]
      · exact absurd ⟨v, tail⟩ later

/-- An element of a map listed row by row. -/
theorem getD_sparseOf_grid {n stride i j : Nat} {f : Nat → Nat → β} (apart : n ≤ stride) (row : i < 16) (column : j < n) :
    Sparse.getD (sparseOf d (grid n stride f)) d (stride * i + j) = f i j := by
  have mem (v : β) : (stride * i + j, v) ∈ grid n stride f ↔ ∃ r < 16, ∃ c < n, stride * r + c = stride * i + j ∧ f r c = v := by
    simp [grid]
  refine Sparse.getD_foldl_setD_of_mem d rfl ((mem _).mpr ⟨i, row, j, column, rfl, rfl⟩) fun u there => ?_
  obtain ⟨r, -, c, low, place, rfl⟩ := (mem u).mp there
  have rows : r = i := by
    have left := Nat.mul_add_div (by omega : 0 < stride) r c
    rw [place, Nat.mul_add_div (by omega), Nat.div_eq_of_lt (by omega), Nat.div_eq_of_lt (by omega)] at left
    omega
  subst rows
  rw [Nat.add_left_cancel place]

end

/-! ### Rows in blocks of 32 -/

/-- Blocks of 32 one after the other. -/
theorem flatMap_blocks {α : Type} (d : α) {g : Nat → List α} (full : ∀ b, (g b).length = 32) (m : Nat) :
    (List.range m).flatMap g = (List.range (32 * m)).map fun q => (g (q / 32)).getD (q % 32) d := by
  have block (b : Nat) : g b = (List.range 32).map fun l => (g b).getD l d :=
    List.ext_getElem (by simp [full]) fun l here _ => by simp [List.getD, here]
  induction m with
  | zero => rfl
  | succ m ih =>
    rw [List.range_succ, List.flatMap_append, ih, Nat.mul_succ, List.range_add, List.map_append, List.map_map, List.flatMap_singleton,
      block m]
    congr 1
    refine List.map_congr_left fun l low => ?_
    have lane := List.mem_range.mp low
    have place : (32 * m + l) / 32 = m ∧ (32 * m + l) % 32 = l := by omega
    simp only [Function.comp, place]

theorem take_drop_map_range {α : Type} {f : Nat → α} {k b : Nat} (within : 32 * b + 32 ≤ k) :
    (((List.range k).map f).drop (32 * b)).take 32 = (List.range 32).map fun l => f (32 * b + l) :=
  List.ext_getElem (by simp; omega) fun l _ _ => by simp

theorem deltaRow_map {k : Nat} {d : Nat → FV} :
    deltaRow k ((List.range k).map d) = (List.range (k / 32)).map fun b => formBlock ((List.range 32).map fun l => d (32 * b + l)) 6 6 :=
  List.map_congr_left fun b low => by
    have low := List.mem_range.mp low
    rw [take_drop_map_range (by omega)]

theorem formBlock_elems_length (xs : List FV) (b sh : Nat) : (formBlock xs b sh).elems.length = xs.length := by simp [formBlock]
theorem formBlock_sat_length (xs : List FV) (b sh : Nat) : (formBlock xs b sh).sat.length = xs.length := by simp [formBlock]

section
variable {k : Nat} {g : Nat → Block} (whole : k % 32 = 0)
include whole

/-- The numbers of a row of blocks. -/
theorem blockVals_map (elems : ∀ b, (g b).elems.length = 32) : blockVals ((List.range (k / 32)).map g) =
    (List.range k).map fun q => bfpValue 6 ((g (q / 32)).elems.getD (q % 32) 0) (g (q / 32)).e0 (g (q / 32)).e1 := by
  have length : 32 * (k / 32) = k := by omega
  rw [blockVals, List.flatMap_map, flatMap_blocks (.fin false 0 0) (by simpa using elems), length]
  refine List.map_congr_left fun q _ => ?_
  have lane : q % 32 < (g (q / 32)).elems.length := by
    rw [elems]
    omega
  simp [List.getD, lane]

/-- How many of them saturated or read as NaN. -/
theorem blockSat_map (elems : ∀ b, (g b).elems.length = 32) (sat : ∀ b, (g b).sat.length = 32) :
    blockSat ((List.range (k / 32)).map g) = ((List.range k).filter fun q => (g (q / 32)).sat.getD (q % 32) false ||
      (bfpValue 6 ((g (q / 32)).elems.getD (q % 32) 0) (g (q / 32)).e0 (g (q / 32)).e1).isNaN).length := by
  have length : 32 * (k / 32) = k := by omega
  have marks := flatMap_blocks false (m := k / 32)
    (g := fun b => ((g b).elems.zip (g b).sat).map fun e => e.2 || (bfpValue 6 e.1 (g b).e0 (g b).e1).isNaN)
    (by simp [elems, sat])
  rw [length] at marks
  have total := congrArg (List.countP id) marks
  rw [List.countP_flatMap, List.countP_map] at total
  rw [blockSat, List.flatMap_map, List.length_flatMap]
  simp only [Function.comp_def, List.countP_map, id, ← List.countP_eq_length_filter] at total ⊢
  refine total.trans (List.countP_congr fun q _ => ?_)
  have first : q % 32 < (g (q / 32)).elems.length := by
    rw [elems]
    omega
  have second : q % 32 < (g (q / 32)).sat.length := by
    rw [sat]
    omega
  simp [List.getD, first, second]

end

/-! ### The step -/

/-- Sixteen rows of `k` numbers, as the array reads them. -/
def tableOf (k : Nat) (f : Nat → Nat → FV) : List (List FV) := (List.range 16).map fun i => (List.range k).map (f i)

theorem tableOf_row {k i : Nat} {f : Nat → Nat → FV} (row : i < 16) : (tableOf k f).getD i [] = (List.range k).map (f i) :=
  getD_map_range _ _ row

section
variable (e : ReuseEntry) (x : Nat → Nat → FV)

/-- The difference of an element from what its entry holds. -/
def mmadDelta (i q : Nat) : FV := unpack fp32 (addTerms fp32 .rne [x i q, (unpack bf16 (abarAt e i q)).neg]).val
/-- A block of a row of differences. -/
def mmadBlock (i b : Nat) : Block := formBlock ((List.range 32).map fun l => mmadDelta e x i (32 * b + l)) 6 6
/-- The number that a difference is in its block. -/
def mmadQuant (i q : Nat) : FV :=
  bfpValue 6 ((mmadBlock e x i (q / 32)).elems.getD (q % 32) 0) (mmadBlock e x i (q / 32)).e0 (mmadBlock e x i (q / 32)).e1
/-- How many differences saturate or are NaN. -/
def mmadSat : Nat := ((List.range 16).map fun i => ((List.range e.k).filter fun q =>
  (mmadBlock e x i (q / 32)).sat.getD (q % 32) false || (mmadQuant e x i q).isNaN).length).sum

theorem mmadBlock_elems_length (i b : Nat) : (mmadBlock e x i b).elems.length = 32 := by simp [mmadBlock, formBlock_elems_length]
theorem mmadBlock_sat_length (i b : Nat) : (mmadBlock e x i b).sat.length = 32 := by simp [mmadBlock, formBlock_sat_length]

/-- The differences that the step forms, in blocks. -/
theorem deltaRows_tableOf : (List.range 16).map (fun i => deltaRow e.k ((List.range e.k).map fun q =>
      unpack fp32 (addTerms fp32 .rne [((tableOf e.k x).getD i []).getD q (.fin false 0 0), (unpack bf16 (abarAt e i q)).neg]).val)) =
    (List.range 16).map fun i => (List.range (e.k / 32)).map (mmadBlock e x i) := by
  refine List.map_congr_left fun i row => ?_
  have diff : (List.range e.k).map (fun q => unpack fp32 (addTerms fp32 .rne
        [((tableOf e.k x).getD i []).getD q (.fin false 0 0), (unpack bf16 (abarAt e i q)).neg]).val) =
      (List.range e.k).map (mmadDelta e x i) := by
    refine List.map_congr_left fun q low => ?_
    rw [tableOf_row (List.mem_range.mp row), getD_map_range _ _ (List.mem_range.mp low)]
    rfl
  rw [diff, deltaRow_map]
  rfl

variable {e} (whole : e.k % 32 = 0)
include whole

theorem blockVals_deltaRows :
    ((List.range 16).map fun i => (List.range (e.k / 32)).map (mmadBlock e x i)).map blockVals = tableOf e.k (mmadQuant e x) := by
  rw [List.map_map]
  exact List.map_congr_left fun i _ => blockVals_map whole (mmadBlock_elems_length e x i)

theorem blockSat_deltaRows :
    ((List.range 16).map fun i => (List.range (e.k / 32)).map (mmadBlock e x i)).foldl (fun n b => n + blockSat b) 0 = mmadSat e x := by
  rw [← List.foldl_map (g := fun n m => n + m) (f := blockSat), ← List.sum_eq_foldl, List.map_map]
  exact congrArg List.sum (List.map_congr_left fun i _ => blockSat_map whole (mmadBlock_elems_length e x i) (mmadBlock_sat_length e x i))

/-- The step on sixteen rows: a delta step where the entry is fresh, a full refresh otherwise. -/
theorem mmadStep_tableOf (fr : Bool) (layer : Word) (base : BitVec 53) (foot : Nat × Nat) (w : Nat → Nat → FV) :
    mmadStep e fr layer base foot (tableOf e.k x) (tableOf e.k w) =
      if fr = false ∧ e.valid = true ∧ e.layer = layer ∧ e.wbase = base ∧ (e.wfirst, e.wlines) = foot ∧ e.wver = e.version ∧
          e.count < e.nlim ∧ mmadSat e x ≤ e.satth then
        { e with
          r := sparseOf 0 (grid 16 16 fun i j => BitVec.ofNat 32 (groupSum (e.k + 1) 32 (rAt e i j)
            (((tableOf e.k (mmadQuant e x)).getD i []).zip ((tableOf e.k w).getD j []))))
          abar := sparseOf 0 (grid e.k 1024 fun i q => BitVec.ofNat 16 (addTerms bf16 .rne
            [unpack bf16 (abarAt e i q), ((tableOf e.k (mmadQuant e x)).getD i []).getD q (.fin false 0 0)]).val)
          count := e.count + 1
          sver := e.sver + 1 }
      else
        { e with
          r := sparseOf 0 (grid 16 16 fun i j => BitVec.ofNat 32 (groupSum (e.k + 1) 16 0
            (((tableOf e.k x).getD i []).zip ((tableOf e.k w).getD j []))))
          abar := sparseOf 0 (grid e.k 1024 fun i q => BitVec.ofNat 16 (bf16Of (((tableOf e.k x).getD i []).getD q (.fin false 0 0))))
          count := 0
          valid := true
          layer := layer
          wbase := base
          wfirst := foot.1
          wlines := foot.2
          wver := e.version
          sver := e.sver + 1 } := by
  simp only [mmadStep, deltaRows_tableOf, blockVals_deltaRows x whole, blockSat_deltaRows x whole]
  refine if_congr ?_ rfl rfl
  simp only [Bool.and_eq_true, Bool.not_eq_true', beq_iff_eq, decide_eq_true_eq, and_assoc]

end

theorem rAt_of_products {e : ReuseEntry} {f : Nat → Nat → Word} (same : e.r = sparseOf 0 (grid 16 16 f)) {i j : Nat} (row : i < 16)
    (column : j < 16) : BitVec.ofNat 32 (rAt e i j) = f i j := by
  rw [rAt, same, getD_sparseOf_grid 0 (by decide) row column, BitVec.ofNat_toNat, BitVec.setWidth_eq]
theorem abarAt_of_grid {e : ReuseEntry} {k : Nat} {f : Nat → Nat → Nat}
    (same : e.abar = sparseOf 0 (grid k 1024 fun i q => BitVec.ofNat 16 (f i q)))
    (most : k ≤ 1024) {i q : Nat} (row : i < 16) (low : q < k) (small : f i q < 2 ^ 16) : abarAt e i q = f i q := by
  rw [abarAt, same, getD_sparseOf_grid 0 most row low, BitVec.toNat_ofNat, Nat.mod_eq_of_lt small]

/-- R250: what the step leaves, element by element. -/
theorem mmadStep_spec (e : ReuseEntry) (fr : Bool) (layer : Word) (base : BitVec 53) (foot : Nat × Nat) (x w : Nat → Nat → FV)
    (whole : e.k % 32 = 0) (most : e.k ≤ 1024) :
    let e' := mmadStep e fr layer base foot (tableOf e.k x) (tableOf e.k w)
    let fresh := fr = false ∧ e.valid = true ∧ e.layer = layer ∧ e.wbase = base ∧ (e.wfirst, e.wlines) = foot ∧ e.wver = e.version ∧
      e.count < e.nlim ∧ mmadSat e x ≤ e.satth
    (fresh → e' = { e with r := e'.r, abar := e'.abar, count := e.count + 1, sver := e.sver + 1 } ∧
      (∀ i j, i < 16 → j < 16 → BitVec.ofNat 32 (rAt e' i j) = Rule.product 32 e.k (rAt e i j) (mmadQuant e x i) (w j)) ∧
      ∀ i q, i < 16 → q < e.k → abarAt e' i q = (addTerms bf16 .rne [unpack bf16 (abarAt e i q), mmadQuant e x i q]).val) ∧
    (¬fresh → e' = { e with r := e'.r, abar := e'.abar, count := 0, valid := true, layer := layer, wbase := base, wfirst := foot.1,
                            wlines := foot.2, wver := e.version, sver := e.sver + 1 } ∧
      (∀ i j, i < 16 → j < 16 → BitVec.ofNat 32 (rAt e' i j) = Rule.product 16 e.k 0 (x i) (w j)) ∧
      ∀ i q, i < 16 → q < e.k → abarAt e' i q = (roundFV bf16 .rne (x i q)).val) := by
  intro e' fresh
  have step : e' = _ := mmadStep_tableOf x whole fr layer base foot w
  clear_value e'
  refine ⟨fun yes => ?_, fun no => ?_⟩
  · rw [if_pos yes] at step
    refine ⟨by rw [step], fun i j row column => ?_, fun i q row low => ?_⟩
    · have products := congrArg ReuseEntry.r step
      dsimp only at products
      rw [rAt_of_products products row column, tableOf_row row, tableOf_row column,
        ofNat_groupSum (by decide) (Nat.lt_succ_self _)]
    · have abar := congrArg ReuseEntry.abar step
      dsimp only at abar
      rw [abarAt_of_grid abar most row low (roundFV_bf16_lt _), tableOf_row row, getD_map_range _ _ low]
  · rw [if_neg no] at step
    refine ⟨by rw [step], fun i j row column => ?_, fun i q row low => ?_⟩
    · have products := congrArg ReuseEntry.r step
      dsimp only at products
      rw [rAt_of_products products row column, tableOf_row row, tableOf_row column,
        ofNat_groupSum (by decide) (Nat.lt_succ_self _)]
    · have abar := congrArg ReuseEntry.abar step
      dsimp only at abar
      rw [abarAt_of_grid abar most row low (roundFV_bf16_lt _), tableOf_row row, getD_map_range _ _ low, bf16Of]

end Sys2Proof.Machine
end

section
/-! Proofs about elements as FP32 (10 R244, 03 R62): FP16 and BF16 numbers widened exactly. -/

namespace Sys2Proof.Machine

/-! ### Numbers of the format -/

/-- A number that the format holds rounds to its own bits. -/
theorem roundFV_exact {f : Fmt} (frac : 0 < f.fb) {s : Bool} {m : Nat} {e : Int} {p : Nat} (value : (m : ℝ) * 2 ^ e = f.mag p * f.unit)
    (small : p < f.limit) : (roundFV f .rne (.fin s m e)).val = f.signBit s + p := by
  by_cases zero : m = 0
  · rw [zero, Nat.cast_zero, zero_mul, eq_comm, mul_eq_zero_iff_right f.unit_pos.ne', Nat.cast_eq_zero] at value
    have same : p = 0 := f.mag_strictMono.injective (value.trans f.mag_zero.symm)
    rw [same, roundFV, if_pos zero]
    rfl
  · obtain ⟨q, ex, uf, near, -, rounds⟩ := (Carries.exact f e zero).roundFin_rne s frac
    rw [value, mul_div_cancel_right₀ _ f.unit_pos.ne'] at near
    have closest := (near p).1
    rw [sub_self, abs_zero, abs_nonpos_iff, sub_eq_zero, Nat.cast_inj] at closest
    have same : q = p := f.mag_strictMono.injective closest
    rw [roundFV, if_neg zero, rounds, same, if_neg (not_le.mpr small)]

/-- A magnitude is a fraction with its leading bit at a place. -/
theorem Fmt.mag_eq_mul_pow (f : Fmt) (p : Nat) : ∃ m t, f.mag p = m * 2 ^ t ∧ m < 2 ^ (f.fb + 1) := by
  have pos : p % 2 ^ f.fb < 2 ^ f.fb := Nat.mod_lt _ (Nat.two_pow_pos _)
  rw [pow_succ]
  unfold Fmt.mag
  split
  · exact ⟨p, 0, by simp, by omega⟩
  · exact ⟨_, _, rfl, by omega⟩

/-- A fraction high enough above the smallest subnormal has bits of the format. -/
theorem Fmt.exists_mag_eq (f : Fmt) {m t : Nat} (small : m < 2 ^ (f.fb + 1)) (high : f.fb + 1 ≤ t) : ∃ p, f.mag p = m * 2 ^ t := by
  by_cases zero : m = 0
  · exact ⟨0, by rw [zero, f.mag_zero, zero_mul]⟩
  · have length : bitLen m ≤ f.fb + 1 := by
      have le := two_pow_bitLen_le zero
      have less := (Nat.pow_lt_pow_iff_right (by decide)).mp (le.trans_lt small)
      omega
    have positive := bitLen_pos zero
    have low : 2 ^ f.fb ≤ m * 2 ^ (f.fb + 1 - bitLen m) := calc
      2 ^ f.fb = 2 ^ (bitLen m - 1) * 2 ^ (f.fb + 1 - bitLen m) := by rw [← pow_add]; congr 1; omega
      _ ≤ _ := Nat.mul_le_mul_right _ (two_pow_bitLen_le zero)
    have top : m * 2 ^ (f.fb + 1 - bitLen m) ≤ 2 * 2 ^ f.fb := calc
      _ ≤ 2 ^ bitLen m * 2 ^ (f.fb + 1 - bitLen m) := Nat.mul_le_mul_right _ (lt_two_pow_bitLen m).le
      _ = 2 * 2 ^ f.fb := by rw [← pow_add, ← pow_succ']; congr 1; omega
    refine ⟨(t - (f.fb + 1 - bitLen m)) * 2 ^ f.fb + m * 2 ^ (f.fb + 1 - bitLen m), ?_⟩
    rw [Fmt.mag_add top (.inr low), mul_assoc, ← pow_add]
    congr 2
    omega

/-! ### Widening -/

theorem unit_bf16 : bf16.unit = 2 ^ 16 * fp32.unit := by
  have places : bf16.qmin = 16 + fp32.qmin := by decide
  rw [Fmt.unit, Fmt.unit, places, zpow_add₀ two_ne_zero]
  norm_cast
theorem unit_fp16 : fp16.unit = 2 ^ 125 * fp32.unit := by
  have places : fp16.qmin = 125 + fp32.qmin := by decide
  rw [Fmt.unit, Fmt.unit, places, zpow_add₀ two_ne_zero]
  norm_cast

/-- The bits of a BF16 magnitude, with sixteen zeros behind them, are those of FP32. -/
theorem mag_bf16 (p : Nat) : fp32.mag (p * 2 ^ 16) = bf16.mag p * 2 ^ 16 := by
  have split : 2 ^ fp32.fb = 2 ^ bf16.fb * 2 ^ 16 := by decide
  rw [Fmt.mag, Fmt.mag, split, Nat.mul_mod_mul_right, Nat.mul_div_mul_right _ _ (by decide)]
  by_cases low : p < 2 ^ bf16.fb
  · rw [if_pos low, if_pos ((Nat.mul_lt_mul_right (by decide)).mpr low)]
  · rw [if_neg low, if_neg (mt (Nat.mul_lt_mul_right (by decide)).mp low)]
    ring

theorem round_bf16 {x : Nat} (low : x < 2 ^ 16) (number : (unpack bf16 x).isNaN = false) :
    (roundFV fp32 .rne (unpack bf16 x)).val = x * 2 ^ 16 := by
  by_cases finite : x / 2 ^ 7 % 2 ^ 8 = 255
  · have value : unpack bf16 x = if x % 2 ^ 7 = 0 then .inf (x / 2 ^ 15 % 2 == 1) else .nan (x % 2 ^ 7 < 2 ^ 6) := if_pos finite
    have whole : x % 2 ^ 7 = 0 := by
      by_contra part
      rw [value, if_neg part] at number
      exact nomatch number
    rw [value, if_pos whole]
    change packInf fp32 (x / 2 ^ 15 % 2 == 1) = x * 2 ^ 16
    by_cases sign : x / 2 ^ 15 % 2 = 1
    · have same : x = 2 ^ 15 + 255 * 2 ^ 7 := by omega
      rw [same]
      decide
    · have same : x = 255 * 2 ^ 7 := by omega
      rw [same]
      decide
  · obtain ⟨s, p, rfl, small⟩ := Fmt.finite_iff.mp (⟨low, finite⟩ : bf16.finite x)
    obtain ⟨m, e, same, value⟩ := Fmt.unpack_signBit (s := s) small
    have limit : fp32.limit = bf16.limit * 2 ^ 16 := by decide
    have wide : p * 2 ^ 16 < fp32.limit := by
      rw [limit]
      omega
    have sign : fp32.signBit s = bf16.signBit s * 2 ^ 16 := by cases s <;> decide
    have held : (m : ℝ) * 2 ^ e = fp32.mag (p * 2 ^ 16) * fp32.unit := by
      rw [value, unit_bf16, mag_bf16]
      push_cast
      ring
    rw [same, Nat.add_mul, ← sign]
    exact roundFV_exact (by decide) held wide

theorem round_fp16 {x : Nat} (finite : fp16.finite x) : let y := (roundFV fp32 .rne (unpack fp16 x)).val
    fp32.finite y ∧ (unpack fp32 y).toRat = (unpack fp16 x).toRat ∧ (unpack fp32 y).sign = (unpack fp16 x).sign := by
  intro y
  obtain ⟨s, p, rfl, small⟩ := Fmt.finite_iff.mp finite
  obtain ⟨m, e, same, value⟩ := Fmt.unpack_signBit (s := s) small
  obtain ⟨n, t, parts, fraction⟩ := fp16.mag_eq_mul_pow p
  obtain ⟨q, wide⟩ := fp32.exists_mag_eq (m := n) (t := t + 125) (fraction.trans (by decide)) (by change 24 ≤ t + 125; omega)
  have scaled : fp32.mag q = fp16.mag p * 2 ^ 125 := by rw [wide, parts, mul_assoc, pow_add]
  have within : q < fp32.limit := by
    rw [← fp32.mag_strictMono.lt_iff_lt, scaled]
    have below := fp16.mag_strictMono small
    have most : fp16.mag fp16.limit = 2 ^ 40 := by decide
    have top : 2 ^ 254 ≤ fp32.mag fp32.limit := by
      have place : fp32.limit = 254 * 2 ^ fp32.fb + 2 ^ fp32.fb := by decide
      rw [place, Fmt.mag_add (by omega) (.inr le_rfl)]
      exact Nat.le_mul_of_pos_left _ (Nat.two_pow_pos _)
    omega
  have equal : (fp16.mag p : ℝ) * fp16.unit = fp32.mag q * fp32.unit := by
    rw [scaled, unit_fp16]
    push_cast
    ring
  have bits : y = fp32.signBit s + q := by
    change (roundFV fp32 .rne (unpack fp16 _)).val = _
    rw [same, roundFV_exact (by decide) (value.trans equal) within]
  rw [bits]
  refine ⟨Fmt.finite_iff.mpr ⟨s, q, rfl, within⟩, ?_, ?_⟩
  · have real : ((unpack fp32 (fp32.signBit s + q)).toRat : ℝ) = ((unpack fp16 (fp16.signBit s + p)).toRat : ℝ) := by
      rw [Fmt.toRat_signBit within, Fmt.toRat_signBit small, equal]
    exact_mod_cast real
  · rw [Fmt.sign_signBit within, Fmt.sign_signBit small]

/-! ### Elements of a core scratchpad -/

theorem elemFp32_sp {e : EngSt} {c : Cmd} {d : Desc} {i : List Nat} (none : e.front = []) (space : d.space = 1) (format : d.fmt ≤ 2)
    (fits : Rule.fits d (pkSp (e.s.cmdPkt c))) : ∃ y, (elemFp32 c d i).run e = .ok (y, e) ∧
      let x := if Rule.within d i then natLE (e.s.locRead (.sp c.hoop (Rule.elemAt d i)) (fmtWidth d.fmt / 8)) else d.pad % 2 ^ fmtWidth d.fmt
      (d.fmt = 0 → y = x) ∧ (d.fmt = 2 → (unpack bf16 x).isNaN = false → y = x * 2 ^ 16) ∧
      (d.fmt = 1 → fp16.finite x →
        fp32.finite y ∧ (unpack fp32 y).toRat = (unpack fp16 x).toRat ∧ (unpack fp32 y).sign = (unpack fp16 x).sign) := by
  have scalar : isBfp d.fmt = false := by
    rw [Bool.eq_false_iff, Ne, isBfp_iff]
    omega
  have place : d.space ≠ 4 := by omega
  by_cases word : d.fmt = 0
  · refine ⟨_, ?_, fun _ => rfl, fun half => by omega, fun half => by omega⟩
    unfold elemFp32
    rw [if_pos word]
    by_cases inside : Rule.within d i
    · have fit := fits i inside
      rw [if_neg (by simp [scalar]), word] at fit
      rw [if_pos ((inside_iff d i).mpr inside), if_pos inside, space, elemAddr_scalar place scalar, word]
      exact engine_bind_ok.mpr ⟨_, _, engRead_sp d.die none fit, rfl⟩
    · rw [if_neg (mt (inside_iff d i).mp inside), if_neg inside, word]
      rfl
  · let x := if Rule.within d i then natLE (e.s.locRead (.sp c.hoop (Rule.elemAt d i)) (fmtWidth d.fmt / 8)) else d.pad % 2 ^ fmtWidth d.fmt
    have number : Rule.number e.s c.hoop d i = unpack ((fmtOf d.fmt).getD fp32) x := by
      simp only [Rule.number, scalar, Bool.false_eq_true, if_false, fmtWidth_bytes, x]
    refine ⟨(roundFV fp32 .rne (unpack ((fmtOf d.fmt).getD fp32) x)).val, ?_, fun zero => absurd zero word, fun half value => ?_,
      fun half finite => ?_⟩
    · unfold elemFp32
      rw [if_neg word, ← number]
      exact engine_bind_ok.mpr ⟨_, _, elemVal_sp none space fits i, rfl⟩
    · have width : fmtWidth d.fmt = 16 := by rw [half]; rfl
      have low : x < 2 ^ 16 := by
        simp only [x, width]
        split
        · have less := natLE_lt (e.s.locRead (.sp c.hoop (Rule.elemAt d i)) (16 / 8))
          rwa [locRead_length] at less
        · exact Nat.mod_lt _ (by decide)
      have form : (fmtOf d.fmt).getD fp32 = bf16 := by rw [half]; rfl
      rw [form]
      exact round_bf16 low value
    · have form : (fmtOf d.fmt).getD fp32 = fp16 := by rw [half]; rfl
      rw [form]
      exact round_fp16 finite

end Sys2Proof.Machine
end

section
/-! Proofs about `mst` (10 R244): the elements of the tile, rounded, one write each in order. -/

namespace Sys2Proof.Machine

/-! ### Elements one after the other -/

/-- Elements that are all placed: their writes stand latest first. -/
theorem runElems_answers {β : Type} {f : β → EM (List Acc)} {s : State} {front : List Acc} (walks : ∀ k, OnlyWalks (f k)) (ks : List β)
    {n : Nat} {ws vs : List (List Acc)} {e u : EngSt} (sees : e.sees s front)
    (run : (runElems (ks.map f) n ws).run e = .ok ((vs, none), u)) :
    ∃ xs, vs = xs.reverse ++ ws ∧ List.Forall₂ (fun k x => s.answers front (f k) x) ks xs := by
  induction ks generalizing n ws e with
  | nil =>
    cases run
    exact ⟨[], rfl, .nil⟩
  | cons k ks ih =>
    change (match (f k).run e with
      | .ok (a, e) => runElems (ks.map f) (n + 1) (a :: ws) e
      | .error (.fault code addr) => .ok ((ws, some ⟨code, addr, n⟩), e)
      | .error (.part d addr) => .ok ((ws, some ⟨cPERM, addr, n⟩), { e with s := e.s.countRej d })
      | .error x => .error x) = _ at run
    split at run
    · next a v first =>
      obtain ⟨xs, same, each⟩ := ih (sees.trans (walks k e a v first)) run
      exact ⟨a :: xs, by simp [same], .cons ⟨e, v, sees, first⟩ each⟩
    all_goals exact nomatch run

/-- A command none of whose `n` elements has been moved, and none of which stops. -/
theorem moveElems_answers {c : Cmd} {n : Nat} {f : Nat → EM (List Acc)} {s : State} {front : List Acc} {r : Moved} {e u : EngSt}
    (walks : ∀ k, OnlyWalks (f k)) (first : c.ops.off = 0) (sees : e.sees s front)
    (run : (moveElems c n ((List.range n).map f)).run e = .ok (r, u)) (stop : r.stop = none) :
    ∃ x : Nat → List Acc, r.writes = (List.range n).flatMap x ∧ ∀ k, k < n → s.answers front (f k) (x k) := by
  obtain ⟨⟨ws, z⟩, v, each, rest⟩ := engine_bind_ok.mp run
  obtain ⟨rfl, -⟩ := engine_pure_ok.mp rest
  obtain rfl : z = none := stop
  rw [first, List.drop_zero, List.take_of_length_le (by simp)] at each
  obtain ⟨xs, same, answers⟩ := runElems_answers walks _ sees each
  obtain ⟨x, rfl, place⟩ := forall₂_range [] answers
  exact ⟨x, by simp [same, List.flatMap], place⟩

/-! ### One element -/

/-- The bases and strides of a slot in memory are multiples of 16 (R232). -/
theorem memory_desc {d : Desc} (ok : d.ok = true) (space : d.space ≠ 4) : d.base % 16 = 0 ∧ ∀ k, d.str k % 16 = 0 := by
  simp only [Desc.ok, Desc.jointOk, space, Bool.and_eq_true, Bool.or_eq_true, beq_iff_eq, false_or, List.all_eq_true] at ok
  obtain ⟨-, ⟨⟨⟨-, ⟨base, -⟩, strides⟩, -⟩, -⟩, -⟩ := ok
  refine ⟨base, fun k => ?_⟩
  rw [Desc.str, List.getD]
  cases there : d.strs[k - 1]? with
  | none => rfl
  | some x => exact strides x (List.mem_of_getElem? there)

/-- An element of two or four bytes lies in one piece of 16. -/
theorem elemAt_piece {d : Desc} (ok : d.ok = true) (space : d.space ≠ 4) (format : d.fmt ≤ 2) (i : List Nat) :
    Rule.elemAt d i % 16 + fmtWidth d.fmt / 8 ≤ 16 := by
  obtain ⟨base, strides⟩ := memory_desc ok space
  have upper (n k : Nat) : n * d.str k % 16 = 0 := by rw [Nat.mul_mod, strides, Nat.mul_zero, Nat.zero_mod]
  have one := upper (i.getD 1 0) 1
  have two := upper (i.getD 2 0) 2
  have three := upper (i.getD 3 0) 3
  have four := upper (i.getD 4 0) 4
  have width : fmtWidth d.fmt / 8 = 4 ∨ fmtWidth d.fmt / 8 = 2 := by
    interval_cases d.fmt
    · exact .inl rfl
    · exact .inr rfl
    · exact .inr rfl
  unfold Rule.elemAt
  rcases width with width | width <;> rw [width] <;> omega

/-- The writes of a run within one piece of 16 bytes: one access. -/
theorem engWriteRun_piece {c : Cmd} {space fuel a : Nat} {die : Fin 4} {bs : List Byte} {s : State} {front : List Acc} {ws : List Acc}
    (some : bs ≠ []) (fits : a % 16 + bs.length ≤ 16) (answer : s.answers front (engWriteRun c space die (fuel + 2) a bs) ws) :
    ∃ l, s.answers front (engAt c space die a bs.length true) l ∧ ws = [{ loc := l, bytes := bs }] := by
  obtain ⟨e, u, sees, run⟩ := answer
  have whole : min bs.length (16 - a % 16) = bs.length := by omega
  rw [engWriteRun, if_neg (by simpa using some), whole] at run
  obtain ⟨l, v, placed, rest⟩ := engine_bind_ok.mp run
  obtain ⟨tail, w, none, last⟩ := engine_bind_ok.mp rest
  rw [List.drop_length, engWriteRun, if_pos List.isEmpty_nil] at none
  obtain ⟨rfl, -⟩ := engine_pure_ok.mp none
  obtain ⟨rfl, -⟩ := engine_pure_ok.mp last
  exact ⟨l, ⟨e, v, sees, placed⟩, by rw [List.take_length]⟩

/-! ### The command -/

theorem scopeFits_iff {d : Desc} {n : Nat} : scopeFits d n = true ↔ (d.space = 0 ↔ n ≠ 0) := by
  rw [scopeFits, beq_iff_eq, Bool.eq_iff_iff, beq_iff_eq, bne_iff_ne]
theorem fmtWidth_pos (f : Nat) : 0 < fmtWidth f / 8 := by
  unfold fmtWidth
  split <;> decide
/-- The `k`-th element of a tile, row by row. -/
theorem tileAt_eq (h : Hoop) (t k : Nat) : h.tileAt t (k / 16) (k % 16) = Sparse.getD h.tiles 0 (256 * t + k) := by
  have place : tileKey t (k / 16) (k % 16) = 256 * t + k := by
    unfold tileKey
    omega
  rw [Hoop.tileAt, place]

theorem mstWork_ok {s : State} {c : Cmd} {h : Hoop} {o : XOps} {front : List Acc} {r : MRes} {e : EngSt} (first : c.ops.off = 0)
    (run : (mstWork c h (fld o.flags 3 1)).run { s := s, far := [], port := false, front := front } = .ok (r, e)) (stop : r.stop = none) :
    let d := Desc.of (c.slots.getD 0 TSlot.invalid).desc
    let f := if d.fmt = 0 then fp32 else if d.fmt = 1 then fp16 else bf16
    let n := fmtWidth d.fmt / 8
    let ix (k : Nat) : List Nat := [c.ops.a.toNat % 2 ^ 16 + k % 16, c.ops.a.toNat / 2 ^ 16 % 2 ^ 16 + k / 16, 0, 0, 0]
    let x (k : Nat) : Nat := (Sparse.getD h.tiles 0 (256 * tileOf c.ops.d + k)).toNat
    d.fmt ≤ 2 ∧ (d.space = 0 ↔ o.flags.toNat / 2 % 8 ≠ 0) ∧ r.tiles = [] ∧ r.entry = none ∧ ∃ l : Nat → Loc,
      (∀ k, k < 256 → Rule.within d (ix k) → s.answers front (engAt c d.space d.die (Rule.elemAt d (ix k)) n true) (l k)) ∧
      r.writes = (List.range 256).filterMap fun k => if Rule.within d (ix k) then
        some { loc := l k, bytes := bytesLE n (if d.fmt = 0 then x k else (roundFV f .rne (unpack fp32 (x k))).val) } else none := by
  intro d f n ix x
  obtain ⟨d', v, slot, rest⟩ := engine_bind_ok.mp run
  obtain ⟨desc, same, ok, space, format⟩ := memSlot_ok slot
  change d' = d at desc
  clear_value d
  subst desc same
  have low := fmtOf_isSome.mp format
  have form : (fmtOf d'.fmt).getD fp32 = f := by
    simp only [f]
    interval_cases d'.fmt <;> rfl
  have scalar : isBfp d'.fmt = false := by
    rw [Bool.eq_false_iff, Ne, isBfp_iff]
    omega
  simp only [nfld_low_half, nfld_high_half, form] at rest
  obtain ⟨agrees, rest⟩ := engine_else_ok.mp rest
  obtain ⟨m, w, moved, last⟩ := engine_bind_ok.mp rest
  obtain ⟨rfl, -⟩ := engine_pure_ok.mp last
  obtain ⟨y, writes, answers⟩ := moveElems_answers
    (fun _ => .ite (.engWriteRun _ _ _ _ _ _) (.pure _)) first (.refl _) moved stop
  have element (k : Nat) : ∃ l, k < 256 →
      (Rule.within d' (ix k) → s.answers front (engAt c d'.space d'.die (Rule.elemAt d' (ix k)) n true) l) ∧
      y k = (if Rule.within d' (ix k) then
        some ({ loc := l, bytes := bytesLE n (if d'.fmt = 0 then x k else (roundFV f .rne (unpack fp32 (x k))).val) } : Acc) else none).toList := by
    by_cases within : k < 256
    · have answer := answers k within
      by_cases inside : Rule.within d' (ix k)
      · rw [if_pos ((inside_iff _ _).mpr inside), elemAddr_scalar space scalar] at answer
        have piece := elemAt_piece ok space low (ix k)
        obtain ⟨l, placed, one⟩ := engWriteRun_piece (List.ne_nil_of_length_pos (by rw [bytesLE_length]; exact fmtWidth_pos _))
          (by rwa [bytesLE_length]) answer
        rw [bytesLE_length] at placed
        refine ⟨l, fun _ => ⟨fun _ => placed, ?_⟩⟩
        rw [one, tileAt_eq, if_pos inside]
        rfl
      · rw [if_neg (mt (inside_iff _ _).mp inside)] at answer
        obtain ⟨e, u, -, run⟩ := answer
        refine ⟨.sp 0 0, fun _ => ⟨fun yes => absurd yes inside, ?_⟩⟩
        rw [(engine_pure_ok.mp run).1, if_neg inside]
        rfl
    · exact ⟨.sp 0 0, fun yes => absurd yes within⟩
  choose l each using element
  refine ⟨low, ?_, rfl, rfl, l, fun k within => (each k within).1, ?_⟩
  · have fits : scopeFits d' (fld o.flags 3 1) = true := by simpa using agrees
    rwa [scopeFits_iff, fld_toNat] at fits
  · rw [List.filterMap_eq_flatMap_toList]
    refine writes.trans (List.flatMap_congr fun k mem => ?_)
    exact (each k (List.mem_range.mp mem)).2

end Sys2Proof.Machine
end

section
/-! Proofs about what the operations of the matrix array leave as it is: staged writes that are performed, tagged flits that are sent,
guards that are waited for (13 R289, R294, 14 R312). -/

namespace Sys2Proof.Machine

/-! ### Commands, hoops and cycle counters -/

/-- `t` has the commands, the hoops and the cycle counters of `s`. -/
structure KeepsRuns (s t : State) : Prop where
  cmds : t.cmds = s.cmds
  hoop : ∀ h, (t.hoop? h).isSome = (s.hoop? h).isSome
  cc : ∀ d, (t.die d).cc = (s.die d).cc

namespace KeepsRuns

theorem refl (s : State) : KeepsRuns s s := ⟨rfl, fun _ => rfl, fun _ => rfl⟩
theorem trans {a b c : State} (h : KeepsRuns a b) (k : KeepsRuns b c) : KeepsRuns a c :=
  ⟨k.cmds.trans h.cmds, fun n => (k.hoop n).trans (h.hoop n), fun d => (k.cc d).trans (h.cc d)⟩
theorem ite {s t u : State} {p : Prop} [Decidable p] (ht : KeepsRuns s t) (hu : KeepsRuns s u) : KeepsRuns s (if p then t else u) := by
  split
  · exact ht
  · exact hu
theorem foldl {α : Type} {f : State → α → State} (h : ∀ s a, KeepsRuns s (f s a)) (l : List α) (s : State) :
    KeepsRuns s (l.foldl f s) := by
  induction l generalizing s with
  | nil => exact refl s
  | cons a l ih => exact (h s a).trans (ih _)
theorem updDie (s : State) (d : Fin 4) {f : Die → Die} (same : ∀ x, (f x).cc = x.cc) : KeepsRuns s (s.updDie d f) := by
  refine ⟨rfl, fun _ => rfl, fun e => ?_⟩
  rw [State.die_updDie]
  split
  · next h => rw [h, same]
  · rfl
theorem mapDies (s : State) {f : Fin 4 → Die → Die} (same : ∀ d x, (f d x).cc = x.cc) : KeepsRuns s (s.mapDies f) :=
  ⟨rfl, fun _ => rfl, fun e => (congrArg Die.cc (vget_ofFn _ e)).trans (same e _)⟩
theorem updHoop (s : State) (h : Nat) (f : Hoop → Hoop) : KeepsRuns s (s.updHoop h f) := by
  refine ⟨rfl, fun k => ?_, fun _ => rfl⟩
  change (Sparse.find? (Sparse.upd s.hoops h f) k).isSome = _
  by_cases same : k = h
  · rw [same, Sparse.find?_upd_self, Option.isSome_map]
    rfl
  · rw [Sparse.find?_upd_ne _ _ same]
    rfl

end KeepsRuns

/-! ### Caches and grants (14 R312) -/

theorem State.keepsRuns_allocate (s : State) (d : Fin 4) (l part func : Nat) : KeepsRuns s (s.allocate d l part func) := by
  unfold State.allocate
  refine .ite (.refl s) ?_
  split
  · exact .refl s
  · exact .updDie s d fun _ => rfl
theorem State.keepsRuns_recall (s : State) (l : Nat) (but : Option Nat) : KeepsRuns s (s.recall l but) := by
  unfold State.recall
  exact .mapDies s fun _ _ => rfl
theorem State.keepsRuns_share (s : State) (l : Nat) : KeepsRuns s (s.share l) := by
  unfold State.share
  exact .mapDies s fun _ _ => rfl
theorem State.keepsRuns_heat (s : State) (l : Nat) : KeepsRuns s (s.heat l) := .updDie s _ (f := fun _ => _) fun _ => rfl
theorem State.keepsRuns_inject (s : State) (d : Fin 4) (core line : Nat) (own : Bool) (part func : Nat) :
    KeepsRuns s (s.inject d core line own part func) := by
  unfold State.inject
  dsimp only
  split
  · exact .refl s
  · exact .refl s
  · exact .updDie s d (f := fun x => { x with l1 := Sparse.put x.l1 (l1Key core line) .m }) fun _ => rfl
  · exact .ite (.updDie s d (f := fun x => x.mapNotes _) fun _ => rfl) (.updDie s d (f := fun _ => _) fun _ => rfl)
theorem State.keepsRuns_touchLine (s : State) (d : Fin 4) (core lv : Nat) (u : Use) (k part func : Nat) :
    KeepsRuns s (s.touchLine d core lv u k part func) := by
  have all := s.keepsRuns_recall k none
  have home := all.trans (State.keepsRuns_allocate _ (s.lineHome k) k part func)
  have ask (own : Bool) := s.keepsRuns_inject d core k own part func
  have heated {t : State} (h : KeepsRuns s t) : KeepsRuns s (t.heat k) := h.trans (t.keepsRuns_heat k)
  unfold State.touchLine
  split
  case h_1 => exact ask false
  case h_2 => exact s.keepsRuns_allocate ..
  case h_3 => exact s.keepsRuns_share k
  case h_4 => exact ask true
  case h_5 => exact home
  case h_6 => exact all
  case h_7 => exact .ite (heated home) (heated (ask true))
  case h_8 => exact heated home
  case h_9 => exact heated all
theorem State.keepsRuns_touchAll (s : State) (d : Fin 4) (core lv : Nat) (u : Use) (ls : List Loc) :
    KeepsRuns s (s.touchAll d core lv u ls) := by
  refine .foldl (fun s l => ?_) ls s
  unfold State.touch
  split
  · exact .ite (.refl s) (s.keepsRuns_touchLine ..)
  · exact .refl s
theorem State.keepsRuns_takeGrants (s : State) (ls : List Loc) : KeepsRuns s (s.takeGrants ls) := by
  refine .foldl (fun s l => ?_) ls s
  split
  · exact .ite ⟨rfl, fun _ => rfl, fun _ => rfl⟩ (.refl s)
  · exact .refl s

/-! ### Writes that are performed -/

theorem State.keepsRuns_watch (s : State) (f va n : Nat) : KeepsRuns s (s.watch f va n) := .mapDies s fun _ _ => rfl
theorem State.keepsRuns_physWriteRun (n : Nat) (s : State) (key pa : Nat) (bs : List Byte) :
    KeepsRuns s (State.physWriteRun n s key pa bs) := by
  rw [State.physWriteRun_rest]
  exact ⟨rfl, fun _ => rfl, fun _ => rfl⟩
theorem State.keepsRuns_locWrite (s : State) (g : Agent) (sd : Fin 4) (a : Acc) : KeepsRuns s (s.locWrite g sd a) := by
  unfold State.locWrite
  split
  case h_1 pa va key f _ mt _ =>
    have bytes : KeepsRuns s ((State.physWriteRun 8 (s.watch f va a.bytes.length) key pa a.bytes).unpublish g pa) :=
      ((s.keepsRuns_watch f va _).trans (State.keepsRuns_physWriteRun ..)).trans ⟨rfl, fun _ => rfl, fun _ => rfl⟩
    have slot : KeepsRuns s (s.ioStore pa f sd a.bytes) := .ite (.updDie s _ fun _ => rfl) (.refl s)
    have bell : KeepsRuns s (s.ring pa a.bytes) := .ite ⟨rfl, fun _ => rfl, fun _ => rfl⟩ (.refl s)
    exact .ite (.refl s) (.ite slot (.ite bell bytes))
  case h_2 => exact ⟨rfl, fun _ => rfl, fun _ => rfl⟩
  case h_3 => exact .updDie s _ fun _ => rfl
  case h_4 => exact ⟨rfl, fun _ => rfl, fun _ => rfl⟩
  case h_5 => exact .updHoop s _ _
theorem State.keepsRuns_locWrites (s : State) (g : Agent) (sd : Fin 4) (as : List Acc) : KeepsRuns s (s.locWrites g sd as) :=
  .foldl (fun s a => s.keepsRuns_locWrite g sd a) as s

/-! ### Guards that are waited for (13 R289) -/

section
variable (s : State) (gs : List Guard)

theorem State.pastGuards_cons (g : Guard) : s.pastGuards (g :: gs) = (s.waitPast g.die (g.last + s.window g.die)).pastGuards gs := rfl

theorem State.pastGuards_rest : s.pastGuards gs = { s with dies := (s.pastGuards gs).dies } := by
  induction gs generalizing s with
  | nil => rfl
  | cons g gs ih =>
    rw [State.pastGuards_cons, ih]
    rfl
theorem State.pastGuards_reuse (d : Fin 4) : ((s.pastGuards gs).die d).reuse = (s.die d).reuse := by
  induction gs generalizing s with
  | nil => rfl
  | cons g gs ih =>
    rw [State.pastGuards_cons, ih, State.waitPast, State.die_updDie]
    split
    · next same => rw [same]
    · rfl
theorem State.cc_le_pastGuards (d : Fin 4) : (s.die d).cc ≤ ((s.pastGuards gs).die d).cc := by
  induction gs generalizing s with
  | nil => exact le_rfl
  | cons g gs ih =>
    refine le_trans ?_ (ih (s.waitPast g.die (g.last + s.window g.die)))
    rw [State.waitPast, State.die_updDie]
    split
    · next same =>
      rw [same]
      exact le_max_left _ _
    · exact le_rfl
/-- Every deadline has passed, with the windows of the state. -/
theorem State.pastGuards_past {q : Guard} (mem : q ∈ gs) : q.last + s.window q.die < ((s.pastGuards gs).die q.die).cc := by
  induction gs generalizing s with
  | nil => cases mem
  | cons g gs ih =>
    rw [State.pastGuards_cons]
    obtain rfl | later := List.mem_cons.mp mem
    · refine lt_of_lt_of_le ?_ (State.cc_le_pastGuards _ gs q.die)
      rw [State.cc_waitPast]
      exact lt_max_of_lt_right (Nat.lt_succ_self _)
    · exact ih (s.waitPast g.die (g.last + s.window g.die)) later

end

/-! ### Tagged flits that are sent (13 R294) -/

/-- `t` has sent flits since `s`: only links and tag windows differ. -/
structure SendsOnly (s t : State) : Prop where
  rest : t = { s with dies := t.dies, links := t.links }
  die : ∀ d, t.die d = { s.die d with tags := (t.die d).tags }

namespace SendsOnly

theorem refl (s : State) : SendsOnly s s := ⟨rfl, fun _ => rfl⟩
theorem trans {a b c : State} (h : SendsOnly a b) (k : SendsOnly b c) : SendsOnly a c :=
  ⟨k.rest.trans (by rw [h.rest]), fun d => (k.die d).trans (by rw [h.die d])⟩
theorem foldl {α : Type} {f : State → α → State} (h : ∀ s a, SendsOnly s (f s a)) (l : List α) (s : State) :
    SendsOnly s (l.foldl f s) := by
  induction l generalizing s with
  | nil => exact refl s
  | cons a l ih => exact (h s a).trans (ih _)

theorem ite {s t u : State} {p : Prop} [Decidable p] (ht : SendsOnly s t) (hu : SendsOnly s u) : SendsOnly s (if p then t else u) := by
  split
  · exact ht
  · exact hu

variable {s t : State} (h : SendsOnly s t)
include h

theorem cmds : t.cmds = s.cmds := by
  have rest := h.rest
  rw [rest]
theorem bytes (l : Loc) (i : Nat) : t.locByte l i = s.locByte l i := by
  have rest := h.rest
  cases l with
  | dsc d o =>
    have same : (t.die (Fin.ofNat 4 d)).dsc = (s.die (Fin.ofNat 4 d)).dsc := by rw [h.die]
    exact congrArg (Sparse.getD · 0 (o + i)) same
  | _ => rw [rest]; rfl

end SendsOnly

theorem State.sendsOnly_sendFlits (s : State) (src : Fin 4) (g : Nat) (dst : Fin 4) (c bytes : Nat) :
    SendsOnly s (s.sendFlits src g dst c bytes) := by
  have tags (t : TagRgn) (d : Fin 4) : (s.setTags src g t).die d = { s.die d with tags := ((s.setTags src g t).die d).tags } := by
    rw [State.setTags, State.die_updDie]
    split
    · next same => rw [same]
    · rfl
  exact ⟨rfl, tags _⟩

/-! ### The last result of a command (10 R238) -/

/-- The operation by which a command's last result comes: the burst is over, its region's guard stands at the cycle. -/
structure Ends (d : Fin 4) (g cc : Nat) (f : Cmd → Cmd) : Prop where
  cmd : ∀ x, f x = { x with burst := false, rgns := (f x).rgns }
  guard : ∀ x, { die := d, rgn := g, last := cc, opened := false } ∈ (f x).rgns

theorem Hoop.region_lt (h : Hoop) : h.region < 60 := by
  have cluster := h.cluster.isLt
  have core := h.coreNo.isLt
  unfold Hoop.region
  omega

section
variable {s : State} {id : Nat} {c : Cmd} {h : Hoop} (found : Sparse.find? s.cmds id = some c) (hoop : s.hoop? c.hoop = some h)
include found hoop

theorem State.lastResult_plain (plain : s.reuseDie c = none) : s.lastResult id =
    s.updCmd id fun x => { x with burst := false }.guardAt c.die h.region (s.die c.die).cc := by
  simp only [State.lastResult, found, hoop, plain]

theorem State.lastResult_ends : ∃ f, Ends c.die h.region (s.die c.die).cc f ∧ SendsOnly (s.updCmd id f) (s.lastResult id) := by
  have own : Ends c.die h.region (s.die c.die).cc fun x => { x with burst := false }.guardAt c.die h.region (s.die c.die).cc :=
    ⟨fun _ => rfl, fun _ => List.mem_append_right _ (List.mem_singleton_self _)⟩
  simp only [State.lastResult, found, hoop]
  split
  · exact ⟨_, own, .refl _⟩
  · next d _ =>
    by_cases same : d = c.die
    · rw [if_pos same]
      refine ⟨_, ⟨fun _ => rfl, fun x => List.mem_append_left _ (List.mem_filter.mpr ⟨own.guard x, ?_⟩)⟩, .refl _⟩
      simp [h.region_lt.ne]
    · rw [if_neg same]
      exact ⟨_, own, .ite (.refl _) (State.sendsOnly_sendFlits ..)⟩

end

end Sys2Proof.Machine
end

section
/-! Proofs about the events of the matrix array (10 R238, R239, R245, 13 R289): start, results, end of a command. -/

namespace Sys2Proof.Machine

theorem liveCmd_found {s : State} {id : Nat} {c : Cmd} (live : s.liveCmd id = some c) : Sparse.find? s.cmds id = some c := by
  unfold State.liveCmd at live
  split at live
  · cases live
  · exact live

theorem find?_updCmd (s : State) (id : Nat) (f : Cmd → Cmd) :
    Sparse.find? (s.updCmd id f).cmds id = (Sparse.find? s.cmds id).map f := Sparse.find?_upd_self s.cmds id f

/-- A command that is there changes, and nothing else. -/
theorem onlyCmd_updCmd {s : State} {id : Nat} {c : Cmd} (found : Sparse.find? s.cmds id = some c) (f : Cmd → Cmd) :
    OnlyCmd s id (f c) (s.updCmd id f) :=
  ⟨by rw [find?_updCmd, found]; rfl, fun _ other => Sparse.find?_upd_ne s.cmds f other, rfl⟩

theorem locByte_wakeAll (s : State) (l : Loc) (i : Nat) : s.wakeAll.locByte l i = s.locByte l i := by cases l <;> rfl
theorem locByte_updCmd (s : State) (id : Nat) (f : Cmd → Cmd) (l : Loc) (i : Nat) : (s.updCmd id f).locByte l i = s.locByte l i := by
  cases l <;> rfl

/-! ### The start of a command -/

/-- The engine's state with the arena image that a command reads from another die. -/
def EngSt.withImage (e : EngSt) (c : Cmd) : EngSt :=
  match e.s.reuseDie c with
  | some d =>
    if c.imageIn (e.s.reuseEntry (e.s.entryOf c).2 (e.s.entryOf c).1).k = 0 ∨ d = c.die then e
    else { e with far := e.far ++ [(d, c.imageIn (e.s.reuseEntry (e.s.entryOf c).2 (e.s.entryOf c).1).k)] }
  | none => e
/-- The guards of a command that starts. -/
def State.startGuards (s : State) (c : Cmd) (h : Hoop) (port : Bool) : List Guard :=
  [{ die := c.die, rgn := h.region, last := (s.die c.die).cc, opened := true }] ++
    if s.reuseDie c = some c.die then [{ die := c.die, rgn := 60, last := (s.die c.die).cc, opened := true }]
    else if port then [{ die := c.die, rgn := 60, last := (s.die c.die).cc, opened := false }] else []
/-- The command with its result staged. -/
def State.stagedCmd (s : State) (c : Cmd) (h : Hoop) (r : MRes) (port : Bool) (x : Cmd) : Cmd :=
  { x with stage := (match r.stop with | some z => .stopped z | none => .staged), burst := c.isBurst, rgns := s.startGuards c h port
           staged := { writes := r.writes, tiles := r.tiles, entry := r.entry.map fun q => ((s.entryOf c).2, q) } }
/-- The result of a command is staged, and what came from other dies crosses under tags. -/
def State.stageResult (s : State) (id : Nat) (c : Cmd) (h : Hoop) (r : MRes) (e : EngSt) : State :=
  (farOf e).foldl (fun s p => s.sendFlits p.1 60 c.die id p.2) (s.updCmd id (s.stagedCmd c h r e.port)).wakeAll

section
variable {s : State} {id : Nat} {c : Cmd} {h : Hoop} (live : s.liveCmd id = some c) (hoop : s.hoop? c.hoop = some h)
include live hoop

theorem exec_burstStart_waits (waits : s.canStart c h = false ∨ s.mayEnd c = false) : exec (.matrixBurstStart id) s = .next s := by
  have stays : (!s.canStart c h || !s.mayEnd c) = true := by
    rcases waits with no | no <;> simp [no]
  change execMatrixBurstStart id s = _
  simp only [execMatrixBurstStart, live, hoop, stays, if_true]

variable (can : s.canStart c h = true) (may : s.mayEnd c = true)
include can may

theorem exec_burstStart_error {z : EErr}
    (run : (matrixWork c h).run { s := s, far := [], port := false, front := s.frontOf c } = .error z) :
    exec (.matrixBurstStart id) s = .next (s.engErr id c z) := by
  change execMatrixBurstStart id s = _
  simp only [execMatrixBurstStart, live, hoop, can, may, run, Bool.not_true, Bool.or_self, Bool.false_eq_true, if_false]

theorem exec_burstStart_ok {r : MRes} {e : EngSt}
    (run : (matrixWork c h).run { s := s, far := [], port := false, front := s.frontOf c } = .ok (r, e))
    (room : ∀ p ∈ farOf (e.withImage c), e.s.tagsFull p.1 60 = false) : exec (.matrixBurstStart id) s = .next
      (if c.isBurst then e.s.stageResult id c h r (e.withImage c) else (e.s.stageResult id c h r (e.withImage c)).lastResult id) := by
  have free : ¬((farOf (e.withImage c)).any fun p => e.s.tagsFull p.1 60) = true := by
    simpa using room
  change execMatrixBurstStart id s = _
  simp only [execMatrixBurstStart, live, hoop, can, may, run, Bool.not_true, Bool.or_self, Bool.false_eq_true, if_false]
  exact congrArg _ (if_neg free)

end

theorem sendsOnly_stageResult (s : State) (id : Nat) (c : Cmd) (h : Hoop) (r : MRes) (e : EngSt) :
    SendsOnly (s.updCmd id (s.stagedCmd c h r e.port)).wakeAll (s.stageResult id c h r e) :=
  .foldl (fun s _ => s.sendsOnly_sendFlits ..) _ _

/-- `t` comes of `s` as command `id` has its last result, by `f`: its guards change, and its burst ends. -/
structure LastResult (s : State) (id : Nat) (f : Cmd → Cmd) (t : State) : Prop where
  cmd : ∀ x, f x = { x with burst := (f x).burst, rgns := (f x).rgns }
  ended : ∀ x, x.burst = false → (f x).burst = false
  found : Sparse.find? t.cmds id = (Sparse.find? s.cmds id).map f
  bytes : ∀ (l : Loc) (i : Nat), t.locByte l i = s.locByte l i

theorem lastResult_spec (s : State) (id : Nat) : ∃ f, LastResult s id f (s.lastResult id) := by
  have stays (same : s.lastResult id = s) : ∃ f, LastResult s id f (s.lastResult id) :=
    ⟨fun x => x, fun _ => rfl, fun _ no => no, by rw [same]; simp, fun _ _ => by rw [same]⟩
  cases found : Sparse.find? s.cmds id with
  | none => exact stays (by simp only [State.lastResult, found])
  | some c =>
    cases hoop : s.hoop? c.hoop with
    | none => exact stays (by simp only [State.lastResult, found, hoop])
    | some h =>
      obtain ⟨f, ends, sends⟩ := State.lastResult_ends found hoop
      refine ⟨f, fun x => ?_, fun x _ => ?_, ?_, fun l i => ?_⟩
      · rw [ends.cmd x]
      · rw [ends.cmd x]
      · rw [sends.cmds, find?_updCmd]
      · rw [sends.bytes, locByte_updCmd]

theorem matrixBurstStart_spec (s : State) (id : Nat) (c : Cmd) (h : Hoop) (live : s.liveCmd id = some c) (hoop : s.hoop? c.hoop = some h) :
    (s.canStart c h = false ∨ s.mayEnd c = false → exec (.matrixBurstStart id) s = .next s) ∧
    (s.canStart c h = true → s.mayEnd c = true →
      let run := (matrixWork c h).run { s := s, far := [], port := false, front := s.frontOf c }
      (∀ (r : MRes) (e : EngSt), run = .ok (r, e) → (∀ p ∈ farOf (e.withImage c), e.s.tagsFull p.1 60 = false) →
        ∃ t, exec (.matrixBurstStart id) s = .next t ∧ (∀ (l : Loc) (i : Nat), t.locByte l i = e.s.locByte l i) ∧
          (Sparse.find? t.cmds id).map (fun x => (x.stage, x.burst, x.staged)) = (Sparse.find? e.s.cmds id).map fun _ =>
            ((match r.stop with | some z => CStage.stopped z | none => CStage.staged), c.isBurst,
              ({ writes := r.writes, tiles := r.tiles, entry := r.entry.map fun q => ((e.s.entryOf c).2, q) } : Staged))) ∧
      (∀ code a, run = .error (.fault code a) → ∃ t, exec (.matrixBurstStart id) s = .next t ∧
        OnlyCmd s id { c with stage := .faulted code a } t)) := by
  refine ⟨exec_burstStart_waits live hoop, fun can may => ⟨fun r e run room => ⟨_, exec_burstStart_ok live hoop can may run room, ?_⟩,
    fun code a run => ⟨_, exec_burstStart_error live hoop can may run,
      onlyCmd_updCmd (liveCmd_found live) fun x => { x with stage := .faulted code a }⟩⟩⟩
  have sends := sendsOnly_stageResult e.s id c h r (e.withImage c)
  have bytes (l : Loc) (i : Nat) : (e.s.stageResult id c h r (e.withImage c)).locByte l i = e.s.locByte l i := by
    rw [sends.bytes, locByte_wakeAll, locByte_updCmd]
  have cmd : Sparse.find? (e.s.stageResult id c h r (e.withImage c)).cmds id =
      (Sparse.find? e.s.cmds id).map (e.s.stagedCmd c h r (e.withImage c).port) := by
    rw [sends.cmds]
    exact find?_updCmd ..
  by_cases burst : c.isBurst = true
  · rw [if_pos burst]
    refine ⟨bytes, ?_⟩
    rw [cmd, Option.map_map]
    rfl
  · rw [if_neg burst]
    have single : c.isBurst = false := by simpa using burst
    obtain ⟨f, last⟩ := lastResult_spec (e.s.stageResult id c h r (e.withImage c)) id
    refine ⟨fun l i => (last.bytes l i).trans (bytes l i), ?_⟩
    rw [last.found, cmd, Option.map_map, Option.map_map]
    refine congrArg (Option.map · _) (funext fun x => ?_)
    have same : (f (e.s.stagedCmd c h r (e.withImage c).port x)).burst = c.isBurst := (last.ended _ single).trans single.symm
    simp only [Function.comp]
    rw [last.cmd, same]
    rfl

/-- `mzero` has no burst, no entry and no operand: its last result comes as it starts. -/
theorem mzero_start {s : State} {id : Nat} {c : Cmd} {h : Hoop} {o : XOps} (live : s.liveCmd id = some c) (hoop : s.hoop? c.hoop = some h)
    (ins : c.ops.ins = .mzero o) (can : s.canStart c h = true) :
    ∃ (t : State) (r : List (Nat × Word)), exec (.matrixBurstStart id) s = .next t ∧
      Sparse.find? t.cmds id = some { c with
        stage := .staged, burst := false, staged := { writes := [], tiles := r, entry := none },
        rgns := [{ die := c.die, rgn := h.region, last := (s.die c.die).cc, opened := false }] } ∧
      (∀ k v, (k, v) ∈ r ↔ v = 0 ∧ 256 * o.ts.toNat ≤ k ∧ k < 256 * (o.ts.toNat + o.ts2.toNat + 1)) := by
  have entry (u : State) : u.reuseDie c = none := by simp [State.reuseDie, cmdReuse, ins]
  have may : s.mayEnd c = true := by simp only [State.mayEnd, entry]
  have single : c.isBurst = false := by simp only [Cmd.isBurst, ins]
  have plain : EngSt.withImage { s := s, far := [], port := false, front := s.frontOf c } c =
      { s := s, far := [], port := false, front := s.frontOf c } := by simp only [EngSt.withImage, entry]
  have start := exec_burstStart_ok live hoop can may (matrixWork_mzero ins) (by rw [plain]; exact fun p none => nomatch none)
  rw [if_neg (by simp [single]), plain] at start
  have staged : Sparse.find? ((s.updCmd id (s.stagedCmd c h (mzeroWork o) false)).wakeAll).cmds id =
      some (s.stagedCmd c h (mzeroWork o) false c) := by
    refine (find?_updCmd ..).trans ?_
    rw [liveCmd_found live]
    rfl
  refine ⟨_, (mzeroWork o).tiles, start, ?_, fun k v => mem_mzeroWork⟩
  change Sparse.find? (State.lastResult (s.updCmd id (s.stagedCmd c h (mzeroWork o) false)).wakeAll id).cmds id = _
  have clock (d : Fin 4) : (s.updCmd id (s.stagedCmd c h (mzeroWork o) false)).wakeAll.die d = s.die d := rfl
  rw [State.lastResult_plain staged hoop (entry _), find?_updCmd, staged, clock]
  simp [State.stagedCmd, State.startGuards, Cmd.guardAt, entry, mzeroWork]

/-! ### The end of a burst (17 R383) -/

theorem burstEnd_spec (s : State) (id : Nat) (c : Cmd) (h : Hoop) (live : s.liveCmd id = some c) (burst : c.burst = true)
    (wf : Sparse.wf s.cmds = true) (hoop : s.hoop? c.hoop = some h) :
    (s.mayEnd c = false → exec (.burstEnd id) s = .next s) ∧
    (s.mayEnd c = true → ∃ t y, exec (.burstEnd id) s = .next t ∧
      Sparse.find? t.cmds id = some y ∧ y = { c with burst := false, rgns := y.rgns } ∧
      { die := c.die, rgn := h.region, last := (s.die c.die).cc + 1, opened := false } ∈ y.rgns ∧
      (t.die c.die).cc = (s.die c.die).cc + 1 ∧
      ((∀ e ∈ s.cmds, e.1 ≠ id → e.2.burst = false ∧ e.2.stage ≠ .queued) → c.stage ≠ .queued →
        (t.die c.die).tokens = (s.die c.die).tokens.map fun k =>
          if k.at_ = c.cluster ∧ k.held = true then { k with held := false } else k)) := by
  have found := liveCmd_found live
  have cycle : ((s.tick c.die).die c.die).cc = (s.die c.die).cc + 1 := by simp
  obtain ⟨f, ends, sends⟩ := State.lastResult_ends (s := s.tick c.die) found hoop
  rw [cycle] at ends
  refine ⟨fun no => ?_, fun may => ?_⟩
  · change execBurstEnd id s = _
    simp [execBurstEnd, live, no]
  · let u := (s.tick c.die).lastResult id
    have run : exec (.burstEnd id) s = .next (if u.burstsOf c.die c.cluster true then u
        else if u.mayBurst c.die c.cluster && u.burstsOf c.die c.cluster false then u
        else u.updDie c.die fun x => x.passToken c.cluster) := by
      change execBurstEnd id s = _
      simp only [execBurstEnd, live, burst, may, Bool.not_true, Bool.or_self, Bool.false_eq_true, if_false, u]
    have die : u.die c.die = { (s.tick c.die).die c.die with tags := (u.die c.die).tags } := sends.die c.die
    have cmds : u.cmds = Sparse.upd s.cmds id f := sends.cmds
    have cmd : Sparse.find? u.cmds id = some (f c) := by rw [cmds, Sparse.find?_upd_self, found]; rfl
    have clock : (u.die c.die).cc = (s.die c.die).cc + 1 := by rw [die]; exact cycle
    have kept (t : State) (same : t = u ∨ t = u.updDie c.die fun x => x.passToken c.cluster) :
        t.cmds = u.cmds ∧ (t.die c.die).cc = (u.die c.die).cc := by
      rcases same with rfl | rfl
      · exact ⟨rfl, rfl⟩
      · refine ⟨rfl, ?_⟩
        rw [State.die_updDie, if_pos rfl]
        rfl
    obtain ⟨sameCmds, sameClock⟩ := kept (if u.burstsOf c.die c.cluster true then u
        else if u.mayBurst c.die c.cluster && u.burstsOf c.die c.cluster false then u
        else u.updDie c.die fun x => x.passToken c.cluster) (by
      split
      · exact .inl rfl
      · split
        · exact .inl rfl
        · exact .inr rfl)
    refine ⟨_, f c, run, by rw [sameCmds, cmd], by rw [ends.cmd c], ends.guard c, by rw [sameClock, clock], fun others stage => ?_⟩
    have idle (e : Nat × Cmd) (mem : e ∈ u.cmds) : e.2.burst = false ∧ e.2.stage ≠ .queued := by
      rw [cmds] at mem
      have there := Sparse.find?_of_mem (Sparse.wf_upd id f wf) mem
      by_cases same : e.1 = id
      · rw [same, Sparse.find?_upd_self, found] at there
        have last : f c = e.2 := Option.some.inj there
        rw [← last, ends.cmd c]
        exact ⟨rfl, stage⟩
      · rw [Sparse.find?_upd_ne _ _ same] at there
        exact others e (Sparse.mem_of_find? there) same
    have none (running : Bool) : u.burstsOf c.die c.cluster running = false := by
      simp only [State.burstsOf, List.any_eq_false]
      intro e mem
      obtain ⟨ended, started⟩ := idle e mem
      simp [ended, started]
    rw [none true, none false, Bool.and_false, if_neg Bool.false_ne_true, if_neg Bool.false_ne_true, State.die_updDie, if_pos rfl]
    have tokens : (u.die c.die).tokens = (s.die c.die).tokens := by
      rw [die]
      simp
    simp only [Die.passToken, tokens, Bool.and_eq_true, beq_iff_eq]

end Sys2Proof.Machine
end

section
/-! Proofs about the entry of a staged result (10 R238, 13 R289): tiles, the reuse entry, writes, the command. -/

namespace Sys2Proof.Machine

/-- The state with the tiles and the reuse entry that a command has staged, past its guards. -/
def State.resultEntered (s : State) (c : Cmd) : State :=
  let u := (s.pastGuards c.rgns).updHoop c.hoop fun h =>
    { h with tiles := c.staged.tiles.foldl (fun m e => Sparse.setD m 0 e.1 e.2) h.tiles }
  match c.staged.entry with
  | some (d, n, e) => u.enterEntry c d n e
  | none => u
/-- A command whose writes have been performed. -/
def Cmd.landed (c : Cmd) : Cmd :=
  match c.stage with
  | .stopped z => { c with ops := { c.ops with off := z.off }, stage := .faulted z.code z.addr }
  | _ => { c with stage := .done }

theorem exec_resultClear {s : State} {id : Nat} {c : Cmd} (live : s.liveCmd id = some c) (array : c.cls = 2) (held : c.stage.held = true)
    (ended : c.burst = false) (cleared : s.uncleared id = false) (guards : s.guardsWait c.rgns = false) (copied : s.copyIn c = true)
    (lands : s.writesWait c.die c.staged.writes = false)
    (die : (cmdReuse c.ops).isSome = true → s.dieWaits c.die (s.entryOf c).2 = false) :
    exec (.matrixResultClear id) s = .next ((s.resultEntered c).landWrites id c).wakeAll := by
  have due : ¬(c.cls ≠ 2 ∨ (!c.stage.held) = true ∨ c.burst = true ∨ s.uncleared id = true ∨ (!s.copyIn c) = true ∨
      s.writesWait c.die c.staged.writes = true ∨ s.guardsWait c.rgns = true ∨
      ((cmdReuse c.ops).isSome = true ∧ s.dieWaits c.die (s.entryOf c).2 = true)) := by
    simpa [array, held, ended, cleared, guards, copied, lands] using die
  change execMatrixResultClear id s = _
  simp only [execMatrixResultClear, live]
  rw [if_neg due]
  rfl

/-- The state with the staged writes of a command performed. -/
def State.writesLanded (s : State) (id : Nat) (c : Cmd) : State :=
  ((s.touchAll c.die 0 c.levels.2 .write (c.staged.writes.map (·.loc))).takeGrants (c.staged.writes.map (·.loc))).locWrites
    (s.agentOf id c) c.die c.staged.writes

theorem keepsRuns_writesLanded (s : State) (id : Nat) (c : Cmd) : KeepsRuns s (s.writesLanded id c) :=
  ((State.keepsRuns_touchAll ..).trans (State.keepsRuns_takeGrants ..)).trans (State.keepsRuns_locWrites ..)

theorem writesLanded_nil {s : State} {id : Nat} {c : Cmd} (none : c.staged.writes = []) : s.writesLanded id c = s := by
  rw [State.writesLanded, none]
  rfl

/-- The writes of a command that has no more to read are performed, and the command is settled. -/
theorem landWrites_eq {s : State} {id : Nat} {c : Cmd} (clean : s.poisonedWrite c.staged.writes = none) (held : c.stage.held = true)
    (whole : c.upTo = none) : ∃ f, s.landWrites id c = (s.writesLanded id c).updCmd id f ∧ f c = c.landed := by
  cases stage : c.stage with
  | staged =>
    exact ⟨fun x => { x with stage := .done }, by simp only [State.landWrites, clean, stage, whole]; rfl, by simp only [Cmd.landed, stage]⟩
  | stopped z =>
    exact ⟨fun x => { x with ops := { x.ops with off := z.off }, stage := .faulted z.code z.addr },
      by simp only [State.landWrites, clean, stage]; rfl, by simp only [Cmd.landed, stage]⟩
  | _ => simp [stage, CStage.held] at held

/-! ### What has entered -/

section
variable (s : State) (c : Cmd)

theorem resultEntered_rest : s.resultEntered c =
    { s with hoops := (s.resultEntered c).hoops, dies := (s.resultEntered c).dies } := by
  unfold State.resultEntered
  rw [State.pastGuards_rest]
  dsimp only
  split <;> rfl
theorem resultEntered_hoop {h : Hoop} (hoop : s.hoop? c.hoop = some h) : (s.resultEntered c).hoop? c.hoop =
    some { h with tiles := c.staged.tiles.foldl (fun m e => Sparse.setD m 0 e.1 e.2) h.tiles } := by
  have hoops : (s.pastGuards c.rgns).hoops = s.hoops := by rw [State.pastGuards_rest]
  have entered : Sparse.find? (Sparse.upd (s.pastGuards c.rgns).hoops c.hoop fun h : Hoop =>
      { h with tiles := c.staged.tiles.foldl (fun m e => Sparse.setD m 0 e.1 e.2) h.tiles }) c.hoop =
      some { h with tiles := c.staged.tiles.foldl (fun m e => Sparse.setD m 0 e.1 e.2) h.tiles } := by
    have found : Sparse.find? s.hoops c.hoop = some h := hoop
    rw [Sparse.find?_upd_self, hoops, found]
    rfl
  unfold State.resultEntered
  dsimp only
  split
  · exact entered
  · exact entered
theorem resultEntered_cc (d : Fin 4) : ((s.resultEntered c).die d).cc = ((s.pastGuards c.rgns).die d).cc := by
  unfold State.resultEntered
  dsimp only
  split
  · next e n x _ =>
    rw [State.enterEntry, State.setReuse, State.die_updDie]
    split
    · next same => rw [same]; rfl
    · rfl
  · rfl
/-- The version of the table stands, except with what `rsload` brings (10 R249, R253). -/
theorem resultEntered_entry {d : Fin 4} {n : Nat} {e : ReuseEntry} (entry : c.staged.entry = some (d, n, e))
    (wf : Sparse.wf (s.die d).reuse = true) :
    (s.resultEntered c).reuseEntry d n = match c.ops.ins with
      | .rsload _ => e
      | .rsdef _ => { e with version := (s.reuseEntry d n).version, wver := (s.reuseEntry d n).version }
      | _ => { e with version := (s.reuseEntry d n).version } := by
  let u := (s.pastGuards c.rgns).updHoop c.hoop fun h =>
    { h with tiles := c.staged.tiles.foldl (fun m e => Sparse.setD m 0 e.1 e.2) h.tiles }
  have reuse : (u.die d).reuse = (s.die d).reuse := State.pastGuards_reuse s c.rgns d
  have now : u.reuseEntry d n = s.reuseEntry d n := congrArg (Sparse.getD · ReuseEntry.reset n) reuse
  have entered : s.resultEntered c = u.enterEntry c d n e := by
    simp only [State.resultEntered, entry]
    rfl
  rw [entered, State.reuseEntry, State.enterEntry, State.setReuse, State.die_updDie, if_pos rfl, Sparse.getD_setD _ _ _ _ (reuse ▸ wf),
    if_pos rfl, now] <;> rfl

end

theorem matrixResultClear_spec (s : State) (id : Nat) (c : Cmd) (h : Hoop) (live : s.liveCmd id = some c)
    (hoop : s.hoop? c.hoop = some h) (array : c.cls = 2) (held : c.stage.held = true) (whole : c.upTo = none) (burst : c.burst = false)
    (cleared : s.uncleared id = false) (guards : s.guardsWait c.rgns = false) (copied : s.copyIn c = true)
    (lands : s.writesWait c.die c.staged.writes = false) (clean : s.poisonedWrite c.staged.writes = none)
    (die : (cmdReuse c.ops).isSome = true → s.dieWaits c.die (s.entryOf c).2 = false) (wf : Sparse.wf h.tiles = true) :
    ∃ (t : State) (g : Hoop), exec (.matrixResultClear id) s = .next t ∧ t.hoop? c.hoop = some g ∧
      (∀ q ∈ c.rgns, q.last + s.window q.die < (t.die q.die).cc) ∧
      Sparse.find? t.cmds id = some (match c.stage with
        | .stopped z => { c with ops := { c.ops with off := z.off }, stage := .faulted z.code z.addr }
        | _ => { c with stage := .done }) ∧
      (c.staged.writes = [] → g = { h with tiles := g.tiles } ∧
        (∀ k, (∀ v, (k, v) ∉ c.staged.tiles) → Sparse.getD g.tiles 0 k = Sparse.getD h.tiles 0 k) ∧
        (∀ k v, (k, v) ∈ c.staged.tiles → (∀ u, (k, u) ∈ c.staged.tiles → u = v) → Sparse.getD g.tiles 0 k = v) ∧
        (∀ d n e, c.staged.entry = some (d, n, e) → Sparse.wf (s.die d).reuse = true →
          let now := (s.reuseEntry d n).version
          t.reuseEntry d n = match c.ops.ins with
            | .rsload _ => e
            | .rsdef _ => { e with version := now, wver := now }
            | _ => { e with version := now })) := by
  let u := s.resultEntered c
  have rest : u = { s with hoops := u.hoops, dies := u.dies } := resultEntered_rest s c
  have found : Sparse.find? u.cmds id = some c := by
    rw [rest]
    exact liveCmd_found live
  have unpoisoned : u.poisonedWrite c.staged.writes = none := by
    rw [rest]
    exact clean
  obtain ⟨f, landed, settled⟩ := landWrites_eq (id := id) unpoisoned held whole
  have run := exec_resultClear live array held burst cleared guards copied lands die
  rw [show (s.resultEntered c).landWrites id c = _ from landed] at run
  have keeps := keepsRuns_writesLanded u id c
  have entered := resultEntered_hoop s c hoop
  have resident : ((u.writesLanded id c).hoop? c.hoop).isSome = true := by rw [keeps.hoop, entered]; rfl
  obtain ⟨g, after⟩ := Option.isSome_iff_exists.mp resident
  refine ⟨_, g, run, after, fun q mem => ?_, ?_, fun empty => ?_⟩
  · have clock : ((u.writesLanded id c).die q.die).cc = ((s.pastGuards c.rgns).die q.die).cc :=
      (keeps.cc q.die).trans (resultEntered_cc s c q.die)
    exact (s.pastGuards_past c.rgns mem).trans_eq clock.symm
  · refine (find?_updCmd ..).trans ?_
    rw [keeps.cmds, found, Option.map_some, settled]
    rfl
  · have same : u.writesLanded id c = u := writesLanded_nil empty
    rw [same] at after
    have tiles : g = { h with tiles := c.staged.tiles.foldl (fun m e => Sparse.setD m 0 e.1 e.2) h.tiles } :=
      Option.some.inj (after.symm.trans entered)
    rw [tiles]
    refine ⟨rfl, fun k other => Sparse.getD_foldl_setD_of_not_mem 0 wf other,
      fun k v mem only => Sparse.getD_foldl_setD_of_mem 0 wf mem only, fun d n e entry wfr => ?_⟩
    have reuse : ((u.writesLanded id c).updCmd id f).wakeAll.reuseEntry d n = u.reuseEntry d n := by
      rw [same]
      rfl
    exact reuse.trans (resultEntered_entry s c entry wfr)

end Sys2Proof.Machine
end

section
/-! Proofs about the matrix array (O47): the order of commands, their work, their events (10 R238 to R250). -/

namespace Sys2Proof.Machine

/-! ### The matrix order (R239) -/

theorem burstStart_after {s : State} {id : Nat} {c : Cmd} (live : s.liveCmd id = some c)
    (before : ∃ k ∈ c.deps, Sparse.find? s.cmds k ≠ none) : exec (.matrixBurstStart id) s = .next s := by
  obtain ⟨k, mem, there⟩ := before
  have waits : c.deps.all (fun d => (Sparse.find? s.cmds d).isNone) = false :=
    List.all_eq_false.mpr ⟨k, mem, by simpa using there⟩
  cases hoop : s.hoop? c.hoop with
  | none =>
    change execMatrixBurstStart id s = _
    simp only [execMatrixBurstStart, live, hoop]
  | some h =>
    exact exec_burstStart_waits live hoop (.inl (by simp only [State.canStart, waits, Bool.and_false, Bool.false_and]))

theorem keysMeet_mma {a b : XOps} {p q : CmdOps} {l m : List TSlot} (hp : p.ins = .mma a) (hq : q.ins = .mma b) :
    keysMeet (orderKey p l) (orderKey q m) = true ↔ a.sub = b.sub ∧ p.b = q.b ∧ tileOf p.d = tileOf q.d := by
  simp only [orderKey, hp, hq, keysMeet, Bool.and_eq_true, beq_iff_eq, Option.isNone_some, Bool.false_or, Option.some.injEq,
    BitVec.toNat_inj, and_assoc, and_comm (a := tileOf p.d = tileOf q.d)]

/-- Settles O47: each command's work by its reads in their order; its events by their one due case. -/
theorem arrayEvents : Obligations.ArrayEvents := by
  refine ⟨fun s id c h o live hoop ins can => mzero_start live hoop ins can, fun s id c live before => burstStart_after live before,
    fun a b p q l m hp hq => keysMeet_mma hp hq, fun e c d i none => ⟨fun space fits => elemVal_sp none space fits i,
      fun h sub space ok granted hoop scalar => operand_tile none space ok granted hoop scalar i⟩,
    fun s c h sub k t za a b front r e run => mmaWork_ok run, ?_, ?_, ?_, ?_, ?_, ?_, ?_, ?_, ?_, ?_, ?_⟩
  · intro s c h o ins e same
    exact matrixWork_mma ins
  · intro c h o e ins good x
    exact matrixWork_cpymm ins good
  · intro s c h o front r e ins run
    exact mconvWork_ok ((matrixWork_mconv ins).symm.trans run)
  · intro s c h o front r u ins run da db e a b
    rw [matrixWork_mmad ins] at run
    exact mmadWork_ok run
  · exact fun e fr layer base foot x w whole most => mmadStep_spec e fr layer base foot x w whole most
  · intro s c h o front r e ins run
    exact mldWork_ok ((matrixWork_mld ins).symm.trans run)
  · exact fun e c d i none space format fits => elemFp32_sp none space format fits
  · intro s c h o front r e ins first run stop
    exact mstWork_ok first ((matrixWork_mst ins).symm.trans run) stop
  · exact matrixBurstStart_spec
  · exact matrixResultClear_spec
  · exact burstEnd_spec

end Sys2Proof.Machine
end

section
/-! Proofs about `trap`, `brkpt` and `fwcall` (11 R259, R260, R263). -/

namespace Sys2Proof.Machine

section
variable {s : State} {x : Ctx} {o : IOps}

theorem raised_trap (issues : ready (.trap o) s = some x) : ∃ t, exec (.trap o) s = .next t ∧
    Raised x (x.record ⟨cTRAP, BitVec.ofNat 64 (o.imm.toNat % 2 ^ 16), x.fr.em⟩) t := by
  have low : fld o.imm 15 0 = o.imm.toNat % 2 ^ 16 := toNat_fld_low o.imm 15
  rw [← low]
  exact ⟨_, exec_of_ready rfl issues rfl, raised_raise x _⟩

theorem raised_brkpt (issues : ready (.brkpt o) s = some x) (handler : pkHandler x.st.basket.pkt ≠ 0) :
    ∃ t, exec (.brkpt o) s = .next t ∧
      Raised x (x.record ⟨cBRKP, BitVec.ofNat 64 (o.imm.toNat % 2 ^ 16), x.fr.em⟩) t := by
  have low : fld o.imm 15 0 = o.imm.toNat % 2 ^ 16 := toNat_fld_low o.imm 15
  rw [← low]
  exact ⟨_, exec_of_ready rfl issues (if_neg (by simpa using handler)), raised_raise x _⟩

theorem ranOn_brkpt (issues : ready (.brkpt o) s = some x) (none : pkHandler x.st.basket.pkt = 0) :
    ∃ t, exec (.brkpt o) s = .next t ∧ RanOn x false {} t :=
  ranOn_of_meaning rfl issues (if_pos (beq_iff_eq.mpr none))

/-- The request stands in the core from which the region opens (11 R260). -/
theorem onlyWale_fwcall (issues : ready (.fwcall o) s = some x) : ∃ t, exec (.fwcall o) s = .next t ∧
    let a := if o.a = .none then 0 else x.uni o.a
    let c := { x.core with call := some { arm := x.arm, n := o.imm.toNat % 2 ^ 12, x := a, d := o.d } }
    OnlyWale x (Wale.reopen { x.st.wl with core := c } x.cc) t := by
  have low : fld o.imm 11 0 = o.imm.toNat % 2 ^ 12 := toNat_fld_low o.imm 11
  rw [← low]
  exact ⟨_, exec_of_ready rfl issues rfl, OnlyWale.setWale x _⟩
end

/-- Settles O39: each instruction by its one meaning, `brkpt` by whether the basket has a handler. -/
theorem trapsAndCalls : Obligations.TrapsAndCalls :=
  fun _ _ _ => ⟨raised_trap, fun issues => ⟨raised_brkpt issues, ranOn_brkpt issues⟩, onlyWale_fwcall⟩

end Sys2Proof.Machine
end

section
/-! Proofs about the returns from a trap handler (11 R265, R269, R270). -/

namespace Sys2Proof.Machine

/-! ### The frame that a return closes (R265) -/

theorem openFrame_eq_some {x : Ctx} {f : TrapFrame} (opened : x.core.frame = some f ∧ f.depth = x.core.stack.length) :
    x.openFrame = some f := by
  unfold Ctx.openFrame
  rw [opened.1]
  exact if_pos opened.2
theorem openFrame_eq_none {x : Ctx} (closed : ∀ f, ¬(x.core.frame = some f ∧ f.depth = x.core.stack.length)) :
    x.openFrame = none := by
  unfold Ctx.openFrame
  cases frame : x.core.frame with
  | none => rfl
  | some f => exact if_neg fun depth => closed f ⟨frame, depth⟩

/-- The instruction has closed the frame `f`, with the effects `held`, and a region head follows it (11 R265). -/
def Ctx.Returned (x : Ctx) (f : TrapFrame) (pc : Dword) (arr : Bool) (retry : Option Dword) (held : List Held) (t : State) : Prop :=
  ∃ u, Ran x { held := held } false (x.core.closeFrame x.arm f pc arr retry) u ∧
    Changed u x.st.w (fun w => w.head (x.s.window x.die) (x.cc + 1)) t

theorem returned_tret (x : Ctx) (f : TrapFrame) (pc : Dword) (arr : Bool) (retry : Option Dword) (held : List Held) :
    x.Returned f pc arr retry held (x.tret f pc arr retry held) := by
  let c := ((x.core.effect x.arm x.la x.lld {}).counted false).closeFrame x.arm f pc arr retry
  have ran : Ran x { held := held } false (x.core.closeFrame x.arm f pc arr retry) (x.commit c held) :=
    ran_commit (r := { held := held }) (ranCore_flow (F := fun c => c.closeFrame x.arm f pc arr retry) fun g d =>
      WaleCore.closeFrame_withData g d x.arm f pc arr retry)
  obtain ⟨w, found, -, -⟩ := ran.wale
  have head : x.tret f pc arr retry held =
      (x.commit c held).updWale x.st.w fun w => w.head (x.s.window x.die) (x.cc + 1) := by
    rw [← x.commit_cycle c held]
    rfl
  rw [head]
  exact ⟨_, ran, changed_updWale found _⟩

/-! ### What closing the frame leaves of the fragments (R265) -/

theorem WaleCore.stack_ne_nil_of_length {c d : WaleCore} (same : d.stack.length = c.stack.length) (some : c.stack ≠ []) :
    d.stack ≠ [] := by
  rw [← List.length_pos_iff, same]
  exact List.length_pos_iff.mpr some
theorem WaleCore.frag_setFrag_of_sib (c : WaleCore) {a : ArmId} (arm : a ≠ .sole) (f : Arm) :
    (c.setFrag a.sib f).frag a = c.frag a := by
  have kept := WaleCore.frag_setFrag_sib c f (ArmId.sib_ne_sole arm)
  rwa [ArmId.sib_sib] at kept

section
variable (c : WaleCore) (a : ArmId) (why : Susp)

@[simp] theorem WaleCore.resumeFor_frame : (c.resumeFor a why).frame = c.frame := by
  by_cases arm : a = .sole
  · subst arm; rfl
  · rw [WaleCore.resumeFor_eq c why arm]
    split
    · rw [WaleCore.setFrag_rest]
    · rfl
@[simp] theorem WaleCore.length_resumeFor : (c.resumeFor a why).stack.length = c.stack.length := by
  by_cases arm : a = .sole
  · subst arm; rfl
  · rw [WaleCore.resumeFor_eq c why arm]
    split
    · exact c.length_setFrag _ _
    · rfl
@[simp] theorem WaleCore.frag_resumeFor : (c.resumeFor a why).frag a = c.frag a := by
  by_cases arm : a = .sole
  · subst arm; rfl
  · rw [WaleCore.resumeFor_eq c why arm]
    split
    · exact c.frag_setFrag_of_sib arm _
    · rfl
/-- The other fragment runs again when it was suspended for that reason. -/
theorem WaleCore.frag_resumeFor_sib {a : ArmId} (arm : a ≠ .sole) (some : c.stack ≠ []) : (c.resumeFor a why).frag a.sib =
    if (c.frag a.sib).st = .suspended ∧ (c.frag a.sib).why = why then (c.frag a.sib).resume else c.frag a.sib := by
  rw [WaleCore.resumeFor_eq c why arm, apply_ite (WaleCore.frag · a.sib), WaleCore.frag_setFrag_self (.inr some)]
end

/-- The core whose trap frame has closed, with the fragment that the handler suspended running again. -/
def WaleCore.unframe (c : WaleCore) (a : ArmId) : WaleCore := ({ c with frame := none } : WaleCore).resumeFor a .trap

theorem closeFrame_of_members {c : WaleCore} {a : ArmId} (f : TrapFrame) (pc : Dword) (arr : Bool) (retry : Option Dword)
    (some : (c.frag a).mem &&& ~~~c.exited ≠ 0) : c.closeFrame a f pc arr retry = (c.unframe a).setFrag a
      { c.frag a with st := .running, pc := pc, em := f.em &&& ~~~c.exited, split := false, arr := arr, retry := retry } := by
  have own : (c.unframe a).frag a = c.frag a := WaleCore.frag_resumeFor { c with frame := none } a .trap
  have gone : (c.unframe a).exited = c.exited := WaleCore.resumeFor_exited { c with frame := none } a .trap
  rw [← own] at some ⊢
  rw [← gone] at some
  exact if_neg some

theorem closeFrame_spec (c : WaleCore) {a : ArmId} (f : TrapFrame) (pc : Dword) (arr : Bool) (retry : Option Dword)
    (there : a = .sole ∨ c.stack ≠ []) (some : (c.frag a).mem &&& ~~~c.exited ≠ 0) :
    (c.closeFrame a f pc arr retry).frame = none ∧
    (c.closeFrame a f pc arr retry).frag a =
      { c.frag a with st := .running, pc := pc, em := f.em &&& ~~~c.exited, split := false, arr := arr, retry := retry } ∧
    (a ≠ .sole → (c.closeFrame a f pc arr retry).frag a.sib =
      if (c.frag a.sib).st = .suspended ∧ (c.frag a.sib).why = .trap
      then { c.frag a.sib with st := .running, split := false, stall := false } else c.frag a.sib) := by
  rw [closeFrame_of_members f pc arr retry some]
  have same : (c.unframe a).stack.length = c.stack.length := WaleCore.length_resumeFor { c with frame := none } a .trap
  refine ⟨?_, WaleCore.frag_setFrag_self (there.imp_right (WaleCore.stack_ne_nil_of_length same)) _, fun arm => ?_⟩
  · rw [WaleCore.setFrag_rest]
    exact WaleCore.resumeFor_frame { c with frame := none } a .trap
  · rw [WaleCore.frag_setFrag_sib _ _ arm]
    exact WaleCore.frag_resumeFor_sib { c with frame := none } .trap arm (there.resolve_left arm)

/-! ### The three returns (R265, R269) -/

/-- A counter or the count of spawns has no room for a retained command that is released again (log entry 18). -/
def Ctx.cannotRepeat (x : Ctx) (k : CmdOps) : Prop :=
  x.counterFull k.classes = true ∨ ((∃ q, k.ins = .spawn q) ∧ x.spawnFull = true)

section
variable {s : State} {x : Ctx} {o : ROps} {f : TrapFrame}

theorem returned_of_meaning {i : Instr} {g : Ctx → State} {pc : Dword} {arr : Bool} {retry : Option Dword} {held : List Held}
    (run : exec i s = issueWith i s g) (issues : ready i s = some x) (e : g x = x.tret f pc arr retry held) :
    ∃ t, exec i s = .next t ∧ x.Returned f pc arr retry held t :=
  ⟨_, exec_of_ready run issues e, returned_tret x f pc arr retry held⟩

theorem raised_tret_unframed {i : Instr} (returns : i = .tretTo o ∨ i = .tretRetry o ∨ i = .tretSkip o)
    (issues : ready i s = some x) (closed : ∀ f, ¬(x.core.frame = some f ∧ f.depth = x.core.stack.length)) :
    ∃ t, exec i s = .next t ∧ Raised x (x.record ⟨cSYNC, 0, x.fr.em⟩) t := by
  have none := openFrame_eq_none closed
  obtain rfl | rfl | rfl := returns
  all_goals exact raised_of_meaning rfl issues (by simp only [none])

variable (opened : x.core.frame = some f ∧ f.depth = x.core.stack.length)
include opened

theorem drains_tret {i : Instr} (returns : i = .tretRetry o ∨ i = .tretSkip o) (issues : ready i s = some x)
    (older : x.st.wl.old ≠ none) : ∃ t, exec i s = .next t ∧ Drains x t := by
  have frame := openFrame_eq_some opened
  have some := Option.isSome_iff_ne_none.mpr older
  obtain rfl | rfl := returns
  all_goals exact drains_of_meaning rfl issues (by simp only [frame, some, if_true])

section
variable (issues : ready (.tretTo o) s = some x)
include issues
theorem raised_tretTo (rejected : x.targetRejected (x.uni64 o.a) = true) : ∃ t, exec (.tretTo o) s = .next t ∧
    Raised x ⟨cBTGT, x.core.inShadow x.arm, false, true, x.uni64 o.a, x.uni64 o.a, x.fr.em, x.uni64 o.a, none, 0⟩ t :=
  ⟨_, exec_of_ready rfl issues (by simp only [openFrame_eq_some opened, rejected, if_true]), raised_raiseRec x _⟩
theorem drains_tretTo (good : x.targetRejected (x.uni64 o.a) = false) (older : x.st.wl.old ≠ none) :
    ∃ t, exec (.tretTo o) s = .next t ∧ Drains x t :=
  drains_of_meaning rfl issues (by simp [openFrame_eq_some opened, good, Option.isSome_iff_ne_none.mpr older])
theorem returned_tretTo (good : x.targetRejected (x.uni64 o.a) = false) (alone : x.st.wl.old = none) :
    ∃ t, exec (.tretTo o) s = .next t ∧ x.Returned f (x.uni64 o.a) true none [] t :=
  returned_of_meaning rfl issues (by simp [openFrame_eq_some opened, good, alone])
end

theorem returned_tretSkip (issues : ready (.tretSkip o) s = some x) (alone : x.st.wl.old = none) :
    ∃ t, exec (.tretSkip o) s = .next t ∧ x.Returned f f.resume f.fetch none [] t :=
  returned_of_meaning rfl issues (by simp [openFrame_eq_some opened, alone])

variable (issues : ready (.tretRetry o) s = some x) (alone : x.st.wl.old = none)
include issues alone

/-- Without a retained command the delivery instruction, the fetch or the faulting instruction is tried again. -/
theorem returned_tretRetry (command : f.cmd = none) :
    (f.eng = true → ∃ t, exec (.tretRetry o) s = .next t ∧ x.Returned f f.resume false none [] t) ∧
    (f.eng = false → f.fetch = true → ∃ t, exec (.tretRetry o) s = .next t ∧ x.Returned f f.resume true none [] t) ∧
    (f.eng = false → f.fetch = false → ∃ t, exec (.tretRetry o) s = .next t ∧ x.Returned f f.pc false (some f.resume) [] t) := by
  have frame := openFrame_eq_some opened
  refine ⟨fun eng => returned_of_meaning rfl issues ?_, fun issue fetch => returned_of_meaning rfl issues ?_,
    fun issue decoded => returned_of_meaning rfl issues ?_⟩
  · simp [frame, alone, command, eng]
  · simp [frame, alone, command, issue, fetch]
  · simp [frame, alone, command, issue, decoded]

theorem waits_tretRetry {k : CmdOps} (command : f.cmd = some k) (full : x.cannotRepeat k) :
    ∃ t, exec (.tretRetry o) s = .next t ∧ Waits x (.wait false) t := by
  have frame := openFrame_eq_some opened
  refine ⟨_, exec_of_ready rfl issues ?_, waits_hold x (.wait false)⟩
  obtain count | ⟨⟨q, spawn⟩, space⟩ := full
  · simp [frame, alone, command, count]
  · simp [frame, alone, command, spawn, space]

theorem exec_tretRetry_again {k : CmdOps} (command : f.cmd = some k) (free : ¬x.cannotRepeat k) : exec (.tretRetry o) s =
    .next (if !x.room (.cmd { k with again := true }) then x.drainWait
      else x.tret f f.resume false none [.cmd { k with again := true }]) := by
  have frame := openFrame_eq_some opened
  refine exec_of_ready rfl issues ?_
  simp only [frame, alone, command, Option.isSome_none, Bool.false_eq_true, if_false]
  refine if_neg fun blocked => ?_
  rw [Bool.or_eq_true, Bool.and_eq_true] at blocked
  obtain count | ⟨spawn, space⟩ := blocked
  · exact free (.inl count)
  · split at spawn
    · exact free (.inr ⟨⟨_, ‹_›⟩, space⟩)
    · exact Bool.false_ne_true spawn

/-- A retained command waits for its queue, then for the hold buffer, and is then released again (log entry 18). -/
theorem returned_tretRetry_command {k : CmdOps} (command : f.cmd = some k) :
    (x.cannotRepeat k → ∃ t, exec (.tretRetry o) s = .next t ∧ Waits x (.wait false) t) ∧
    (¬x.cannotRepeat k → x.room (.cmd { k with again := true }) = false → ∃ t, exec (.tretRetry o) s = .next t ∧ Drains x t) ∧
    (¬x.cannotRepeat k → x.room (.cmd { k with again := true }) = true → ∃ t, exec (.tretRetry o) s = .next t ∧
      x.Returned f f.resume false none [.cmd { k with again := true }] t) := by
  refine ⟨waits_tretRetry opened issues alone command, fun free none => ?_, fun free fits => ?_⟩
  · rw [exec_tretRetry_again opened issues alone command free, none]
    exact ⟨_, rfl, drains_drainWait x⟩
  · rw [exec_tretRetry_again opened issues alone command free, fits]
    exact ⟨_, rfl, returned_tret x f _ _ _ _⟩
end

/-- Settles O42: each return by the tests of its meaning, in their order; what is left of the fragments by `closeFrame_spec`. -/
theorem returnsFromTraps : Obligations.ReturnsFromTraps :=
  ⟨fun _ _ _ => ⟨fun _ returns issues closed => raised_tret_unframed returns issues closed,
      fun _ _ returns issues opened older => drains_tret opened returns issues older,
      fun _ issues opened good => ⟨drains_tretTo opened issues good, returned_tretTo opened issues good⟩,
      fun _ issues opened rejected => raised_tretTo opened issues rejected,
      fun _ issues opened alone => returned_tretSkip opened issues alone,
      fun _ issues opened alone command => returned_tretRetry opened issues alone command,
      fun _ _ issues opened alone command => returned_tretRetry_command opened issues alone command⟩,
    fun c _ f pc arr retry there some => closeFrame_spec c f pc arr retry there some⟩

end Sys2Proof.Machine
end


section
/-! Proofs about taking a fault (11 R263, R264, R266, R267): the record, the frame, the handler; or the end of the basket. -/

namespace Sys2Proof.Machine

/-! ### The basket ends (R266, R267) -/

/-- A double fault, or a fault in a basket without a handler. -/
theorem takeFault_ends {s : State} {st : Site} {a : ArmId} {f : FaultRec} (site : s.site? st.w = some st)
    (wf : Sparse.wf s.baskets = true) (end_ : st.wl.core.frame ≠ none ∨ pkHandler st.basket.pkt = 0) :
    (s.takeFault st a f).basket? st.skein.basket = none := by
  have aborts : ∃ double, s.takeFault st a f = s.abort st a f double := by
    unfold State.takeFault
    by_cases framed : st.wl.core.frame.isSome = true
    · exact ⟨true, if_pos framed⟩
    · have none : pkHandler st.basket.pkt = 0 := end_.resolve_left (by simpa using framed)
      exact ⟨false, (if_neg framed).trans (if_pos (beq_iff_eq.mpr none))⟩
  obtain ⟨double, e⟩ := aborts
  rw [e]
  exact (State.endBasket_spec (State.site?_basket site) wf _ _ _).1

/-! ### The fault record (R264) -/

theorem toNat_or_flagIf {x : Word} {k : Nat} (small : x.toNat < 2 ^ k) (fits : k < 32) (b : Bool) :
    (x ||| flagIf b (BitVec.ofNat 32 (2 ^ k))).toNat = x.toNat + if b then 2 ^ k else 0 := by
  cases b with
  | false => simp [flagIf]
  | true =>
    have low : 2 ^ k < 2 ^ 32 := Nat.pow_lt_pow_right (by decide) fits
    have apart := Nat.two_pow_add_eq_or_of_lt small 1
    simp only [flagIf, if_true, BitVec.toNat_or, BitVec.toNat_ofNat, Nat.mod_eq_of_lt low]
    rw [Nat.or_comm, Nat.add_comm]
    simpa using apart.symm

theorem toNat_or_flagIf_lt {x : Word} {k : Nat} (small : x.toNat < 2 ^ k) (fits : k < 32) (b : Bool) :
    (x ||| flagIf b (BitVec.ofNat 32 (2 ^ k))).toNat < 2 ^ (k + 1) := by
  rw [toNat_or_flagIf small fits, Nat.pow_succ]
  split <;> omega

/-- The code with ARM, ENG and SHD in bits 8 to 10. -/
theorem faultCause_eq (code : BitVec 8) (arm eng shd : Bool) :
    code.setWidth 32 ||| flagIf arm 0x100 ||| flagIf eng 0x200 ||| flagIf shd 0x400 =
      BitVec.ofNat 32 (code.toNat + (if arm then 2 ^ 8 else 0) + (if eng then 2 ^ 9 else 0) + (if shd then 2 ^ 10 else 0)) := by
  have c0 : (code.setWidth 32).toNat = code.toNat := by simp; omega
  have l0 : (code.setWidth 32).toNat < 2 ^ 8 := by omega
  have l1 := toNat_or_flagIf_lt l0 (by decide) arm
  have l2 := toNat_or_flagIf_lt l1 (by decide) eng
  rw [← c0, ← toNat_or_flagIf l0 (by decide), ← toNat_or_flagIf l1 (by decide), ← toNat_or_flagIf l2 (by decide)]
  exact ((BitVec.ofNat_toNat _ _).trans (BitVec.setWidth_eq _)).symm

/-! ### The other fragment (R263, R264) -/

/-- The other fragment's load or atomic whose reply was HOMEOFF: it is repeated after the return. -/
def WaleCore.repeated (c : WaleCore) (a : ArmId) : Option FaultRec :=
  (c.pend a.sib).filter fun g => g.code == cHOMEOFF && !g.eng
/-- The other fragment, which comes back to what is repeated. -/
def WaleCore.sibArm (c : WaleCore) (a : ArmId) : Arm :=
  match c.repeated a with
  | some g => { c.frag a.sib with pc := g.pc, retry := some g.resume }
  | none => c.frag a.sib
/-- The shadows but that of what is repeated. -/
def WaleCore.sibShadows (c : WaleCore) (a : ArmId) : List Shadow :=
  if (c.repeated a).isSome then c.shadows.filter fun x => !(x.off && x.arm == a.sib && x.depth == c.stack.length) else c.shadows

theorem WaleCore.setPend_self (c : WaleCore) (a : ArmId) : c.setPend a (c.pend a) = c := by
  unfold WaleCore.setPend WaleCore.pend
  split <;> rfl

/-- The other fragment is suspended, with no fault pending, and comes back to what is repeated. -/
theorem suspendSib_eq (c : WaleCore) {a : ArmId} (arm : a ≠ .sole) : c.suspendSib a =
    (({ c with shadows := c.sibShadows a } : WaleCore).setPend a.sib none).setFrag a.sib (c.sibArm a).trapped := by
  unfold WaleCore.suspendSib
  split
  · exact absurd rfl arm
  · split
    case h_1 g pend =>
      by_cases again : (g.code == cHOMEOFF && !g.eng) = true
      · have repeated : c.repeated a = some g := by simp only [WaleCore.repeated, pend, Option.filter, again, if_true]
        simp only [WaleCore.sibShadows, WaleCore.sibArm, repeated, again, if_true, Option.isSome_some]
      · have plain : c.repeated a = none := by
          simp only [WaleCore.repeated, pend, Option.filter, again, Bool.false_eq_true, if_false]
        simp only [WaleCore.sibShadows, WaleCore.sibArm, plain, again, if_false, Option.isSome_none, Bool.false_eq_true]
    case h_2 pend =>
      have plain : c.repeated a = none := by simp only [WaleCore.repeated, pend, Option.filter_none]
      have kept : c.setPend a.sib none = c := pend ▸ c.setPend_self a.sib
      simp only [WaleCore.sibShadows, WaleCore.sibArm, plain, Option.isSome_none, Bool.false_eq_true, if_false, kept]

/-! ### Fragments and pending faults -/

section
variable (c : WaleCore) (a b : ArmId)

theorem WaleCore.setPend_rest (f : Option FaultRec) :
    c.setPend a f = { c with pend0 := (c.setPend a f).pend0, pend1 := (c.setPend a f).pend1 } := by
  unfold WaleCore.setPend
  split <;> rfl
@[simp] theorem WaleCore.frag_setPend (f : Option FaultRec) : (c.setPend a f).frag b = c.frag b := by
  rw [WaleCore.setPend_rest]
  cases b <;> rfl
@[simp] theorem WaleCore.setPend_stack (f : Option FaultRec) : (c.setPend a f).stack = c.stack := by rw [WaleCore.setPend_rest]
@[simp] theorem WaleCore.pend_setPend_self (f : Option FaultRec) : (c.setPend a f).pend a = f := by
  unfold WaleCore.pend WaleCore.setPend
  split <;> rfl
theorem WaleCore.pend_setPend_sib {a : ArmId} (arm : a ≠ .sole) (f : Option FaultRec) : (c.setPend a f).pend a.sib = c.pend a.sib := by
  cases a with
  | sole => exact absurd rfl arm
  | a0 | a1 => rfl
@[simp] theorem WaleCore.pend_setFrag (f : Arm) : (c.setFrag a f).pend b = c.pend b := by
  rw [WaleCore.setFrag_rest]
  rfl

theorem WaleCore.suspendSib_rest : c.suspendSib a = { c with
    base := (c.suspendSib a).base, stack := (c.suspendSib a).stack, shadows := (c.suspendSib a).shadows
    pend0 := (c.suspendSib a).pend0, pend1 := (c.suspendSib a).pend1 } := by
  by_cases arm : a = .sole
  · subst arm; rfl
  · rw [suspendSib_eq c arm, WaleCore.setFrag_rest, WaleCore.setPend_rest]
@[simp] theorem WaleCore.length_suspendSib : (c.suspendSib a).stack.length = c.stack.length := by
  by_cases arm : a = .sole
  · subst arm; rfl
  · rw [suspendSib_eq c arm, WaleCore.length_setFrag, WaleCore.setPend_stack]
theorem WaleCore.pend_suspendSib : (c.suspendSib a).pend a = c.pend a := by
  by_cases arm : a = .sole
  · subst arm; rfl
  · rw [suspendSib_eq c arm, WaleCore.pend_setFrag]
    have kept := WaleCore.pend_setPend_sib { c with shadows := c.sibShadows a } (ArmId.sib_ne_sole arm) none
    rwa [ArmId.sib_sib] at kept
theorem WaleCore.pend_suspendSib_sib {a : ArmId} (arm : a ≠ .sole) : (c.suspendSib a).pend a.sib = none := by
  rw [suspendSib_eq c arm, WaleCore.pend_setFrag, WaleCore.pend_setPend_self]
theorem WaleCore.frag_suspendSib_sib {a : ArmId} (arm : a ≠ .sole) (some : c.stack ≠ []) :
    (c.suspendSib a).frag a.sib = (c.sibArm a).trapped := by
  rw [suspendSib_eq c arm]
  exact WaleCore.frag_setFrag_self (.inr ((WaleCore.setPend_stack _ _ _).symm ▸ some)) _
theorem WaleCore.shadows_suspendSib {a : ArmId} (arm : a ≠ .sole) : (c.suspendSib a).shadows = c.sibShadows a := by
  rw [suspendSib_eq c arm, WaleCore.setFrag_rest, WaleCore.setPend_rest]
end

/-! ### The shadows of the fragment end (log entry 77) -/

/-- The shadow belongs to fragment `a` at the depth of the join stack. -/
def WaleCore.owns (c : WaleCore) (a : ArmId) (h : Shadow) : Bool := h.arm == a && h.depth == c.stack.length

theorem endShadows_lands (c : WaleCore) (a : ArmId) : Lands (c.shadows.filter (c.owns a))
    { c with shadows := c.shadows.filter fun h => !c.owns a h } (c.endShadows a) := WaleCore.foldl_land _ _

/-- What is repeated is no shadow of the fragment itself. -/
theorem sibShadows_owned (c : WaleCore) {a : ArmId} (arm : a ≠ .sole) :
    (c.sibShadows a).filter (c.owns a) = c.shadows.filter (c.owns a) := by
  unfold WaleCore.sibShadows
  split
  · rw [List.filter_filter]
    refine List.filter_congr fun h _ => ?_
    have apart : a.sib ≠ a := by cases a <;> simp_all [ArmId.sib]
    by_cases own : h.arm = a
    · simp [WaleCore.owns, own, apart.symm]
    · simp [WaleCore.owns, own]
  · rfl

/-! ### The core at the handler (R264) -/

/-- The core with the fault record and the trap frame of a fault of fragment `a`, which is pending no more. -/
def WaleCore.recorded (c : WaleCore) (a : ArmId) (f : FaultRec) : WaleCore :=
  ({ c with
    fcause := f.code.setWidth 32 ||| flagIf (a == ArmId.a1) 0x100 ||| flagIf f.eng 0x200 ||| flagIf f.shd 0x400
    fpc := f.pc
    faddr := f.addr
    fmask := f.mask
    frame := some ⟨a, (c.frag a).em, f.pc, f.resume, c.stack.length, f.fetch, f.cmd, f.eng⟩ } : WaleCore).setPend a none
/-- The fragment at the handler. -/
def Arm.handling (g : Arm) (pc : Dword) : Arm :=
  { g with pc := pc, st := .running, split := false, arr := true, retry := Option.none, stall := false }
/-- The core when the fault has been taken. -/
def WaleCore.atHandler (c : WaleCore) (a : ArmId) (f : FaultRec) (pc : Dword) : WaleCore :=
  (((c.recorded a f).suspendSib a).endShadows a).setFrag a ((c.frag a).handling pc)

section
variable (c : WaleCore) (a : ArmId) (f : FaultRec) (pc : Dword)

@[simp] theorem WaleCore.frag_recorded (b : ArmId) : (c.recorded a f).frag b = c.frag b := by
  rw [WaleCore.recorded, WaleCore.frag_setPend]
  cases b <;> rfl
@[simp] theorem WaleCore.recorded_stack : (c.recorded a f).stack = c.stack := WaleCore.setPend_stack _ _ _
theorem WaleCore.recorded_rest : c.recorded a f = { c with
    fcause := (c.recorded a f).fcause, fpc := f.pc, faddr := f.addr, fmask := f.mask, frame := (c.recorded a f).frame
    pend0 := (c.recorded a f).pend0, pend1 := (c.recorded a f).pend1 } := by
  rw [WaleCore.recorded, WaleCore.setPend_rest]
theorem WaleCore.recorded_fcause : (c.recorded a f).fcause = BitVec.ofNat 32 (f.code.toNat + (if a = .a1 then 2 ^ 8 else 0) +
    (if f.eng then 2 ^ 9 else 0) + (if f.shd then 2 ^ 10 else 0)) := by
  rw [WaleCore.recorded, WaleCore.setPend_rest]
  exact (faultCause_eq f.code (a == .a1) f.eng f.shd).trans (by simp only [beq_iff_eq])
theorem WaleCore.recorded_frame : (c.recorded a f).frame =
    some ⟨a, (c.frag a).em, f.pc, f.resume, c.stack.length, f.fetch, f.cmd, f.eng⟩ := by
  rw [WaleCore.recorded, WaleCore.setPend_rest]
theorem WaleCore.pend_recorded : (c.recorded a f).pend a = none := WaleCore.pend_setPend_self _ _ _
theorem WaleCore.pend_recorded_sib {a : ArmId} (arm : a ≠ .sole) : (c.recorded a f).pend a.sib = c.pend a.sib :=
  WaleCore.pend_setPend_sib _ arm none
theorem WaleCore.repeated_recorded {a : ArmId} (arm : a ≠ .sole) : (c.recorded a f).repeated a = c.repeated a := by
  rw [WaleCore.repeated, c.pend_recorded_sib f arm, WaleCore.repeated]
theorem WaleCore.sibArm_recorded {a : ArmId} (arm : a ≠ .sole) : (c.recorded a f).sibArm a = c.sibArm a := by
  simp only [WaleCore.sibArm, c.repeated_recorded f arm, WaleCore.frag_recorded]
theorem WaleCore.sibShadows_recorded {a : ArmId} (arm : a ≠ .sole) : (c.recorded a f).sibShadows a = c.sibShadows a := by
  have kept : (c.recorded a f).shadows = c.shadows := by rw [WaleCore.recorded_rest]
  rw [WaleCore.sibShadows, c.repeated_recorded f arm, WaleCore.recorded_stack, kept, WaleCore.sibShadows]

/-- The shadows of the other fragment, and of deeper and shallower tokens, when the fault has been taken. -/
def WaleCore.shadowsLeft (c : WaleCore) (a : ArmId) : List Shadow :=
  (if a = .sole then c.shadows else c.sibShadows a).filter fun h => !c.owns a h

/-- The fragment's shadows land in the core with its other shadows and its other fragment suspended. -/
theorem atHandler_lands : Lands (c.shadows.filter (c.owns a))
    { (c.recorded a f).suspendSib a with shadows := c.shadowsLeft a } (((c.recorded a f).suspendSib a).endShadows a) := by
  have owns : ((c.recorded a f).suspendSib a).owns a = c.owns a := by
    funext h
    simp only [WaleCore.owns, WaleCore.length_suspendSib, WaleCore.recorded_stack]
  have lands := endShadows_lands ((c.recorded a f).suspendSib a) a
  rw [owns] at lands
  by_cases arm : a = .sole
  · subst arm
    have kept : ((c.recorded .sole f).suspendSib .sole).shadows = c.shadows := by
      change (c.recorded .sole f).shadows = _
      rw [WaleCore.recorded_rest]
    rwa [kept] at lands
  · have kept : ((c.recorded a f).suspendSib a).shadows = c.sibShadows a :=
      (WaleCore.shadows_suspendSib _ arm).trans (c.sibShadows_recorded f arm)
    rw [kept, sibShadows_owned c arm] at lands
    rwa [WaleCore.shadowsLeft, if_neg arm]

/-- What taking a fault leaves alone beside the record. -/
theorem atHandler_rest : c.atHandler a f pc = { c.recorded a f with
    v := (c.atHandler a f pc).v, s := (c.atHandler a f pc).s, p := (c.atHandler a f pc).p, fflags := (c.atHandler a f pc).fflags
    base := (c.atHandler a f pc).base, stack := (c.atHandler a f pc).stack, shadows := c.shadowsLeft a
    pend0 := (c.atHandler a f pc).pend0, pend1 := (c.atHandler a f pc).pend1 } := by
  rw [WaleCore.atHandler, WaleCore.setFrag_rest, (atHandler_lands c a f).rest, WaleCore.suspendSib_rest]

theorem atHandler_frag (there : a = .sole ∨ c.stack ≠ []) : (c.atHandler a f pc).frag a = (c.frag a).handling pc := by
  refine WaleCore.frag_setFrag_self (there.imp_right (WaleCore.stack_ne_nil_of_length ?_)) _
  rw [(atHandler_lands c a f).rest]
  exact (WaleCore.length_suspendSib _ a).trans (congrArg List.length (c.recorded_stack a f))
theorem atHandler_frag_sib {a : ArmId} (arm : a ≠ .sole) (some : c.stack ≠ []) :
    (c.atHandler a f pc).frag a.sib = (c.sibArm a).trapped := by
  have landed (d : WaleCore) (v s p fl sh) :
      ({ d with v := v, s := s, p := p, fflags := fl, shadows := sh } : WaleCore).frag a.sib = d.frag a.sib := by cases a <;> rfl
  rw [WaleCore.atHandler, WaleCore.frag_setFrag_sib _ _ arm, (atHandler_lands c a f).rest, landed, ← c.sibArm_recorded f arm]
  exact WaleCore.frag_suspendSib_sib _ arm (c.recorded_stack a f ▸ some)
theorem atHandler_pend : (c.atHandler a f pc).pend a = none ∧ (c.atHandler a f pc).pend a.sib = none := by
  have landed (b : ArmId) : (c.atHandler a f pc).pend b = ((c.recorded a f).suspendSib a).pend b := by
    rw [WaleCore.atHandler, WaleCore.pend_setFrag, (atHandler_lands c a f).rest]
    rfl
  have own : ((c.recorded a f).suspendSib a).pend a = none := (WaleCore.pend_suspendSib _ a).trans (c.pend_recorded a f)
  rw [landed, landed]
  refine ⟨own, ?_⟩
  by_cases arm : a = .sole
  · subst arm
    exact own
  · exact WaleCore.pend_suspendSib_sib _ arm

end

/-- The same v, s and p registers and flags. -/
structure SameData (c d : WaleCore) : Prop where
  v : d.v = c.v
  s : d.s = c.s
  p : d.p = c.p
  fflags : d.fflags = c.fflags

theorem SameData.trans {b c d : WaleCore} (h : SameData b c) (k : SameData c d) : SameData b d :=
  ⟨k.v.trans h.v, k.s.trans h.s, k.p.trans h.p, k.fflags.trans h.fflags⟩
theorem SameData.lands {hs : List Shadow} {c c' d d' : WaleCore} (before : SameData c c') (lands : Lands hs c' d')
    (after : SameData d' d) :
    (∀ (n : Fin 256) (i : Fin 32), vget (d.getV n) i = vAfter (hs.flatMap fun h => h.writes) n i (vget (c.getV n) i)) ∧
    (∀ n : Fin 64, d.getS n = sAfter (hs.flatMap fun h => h.writes) n (c.getS n)) ∧
    (∀ (n : Fin 8) (i : Fin 32), n ≠ 0 →
      (d.getP n).getLsbD i.val = pAfter (hs.flatMap fun h => h.writes) n i ((c.getP n).getLsbD i.val)) ∧
    d.fflags = (hs.map fun h => h.flags).foldl (fun p q => p ||| q) c.fflags := by
  refine ⟨fun n i => ?_, fun n => ?_, fun n i ne => ?_, ?_⟩
  · rw [WaleCore.getV_of after.v, ← WaleCore.getV_of before.v, lands.vreg]
  · rw [WaleCore.getS_of after.s, ← WaleCore.getS_of before.s, lands.sreg]
  · rw [WaleCore.getP_of after.p, ← WaleCore.getP_of before.p, lands.preg n i ne]
  · rw [after.fflags, ← before.fflags, lands.flags]

section
variable (c : WaleCore) (a : ArmId) (f : FaultRec) (pc : Dword)
theorem recorded_sameData : SameData c { (c.recorded a f).suspendSib a with shadows := c.shadowsLeft a } := by
  rw [WaleCore.suspendSib_rest, WaleCore.recorded_rest]
  exact ⟨rfl, rfl, rfl, rfl⟩
theorem atHandler_sameData : SameData (((c.recorded a f).suspendSib a).endShadows a) (c.atHandler a f pc) := by
  rw [WaleCore.atHandler, WaleCore.setFrag_rest]
  exact ⟨rfl, rfl, rfl, rfl⟩
end

theorem not_owns_of_shadowsLeft {c : WaleCore} {a : ArmId} {h : Shadow} (left : h ∈ c.shadowsLeft a) : c.owns a h = false := by
  simpa using (List.mem_filter.mp left).2
/-- The shadow of what is repeated is gone (R263). -/
theorem depth_of_shadowsLeft {c : WaleCore} {a : ArmId} {h : Shadow} {g : FaultRec} (arm : a ≠ .sole) (again : c.repeated a = some g)
    (left : h ∈ c.shadowsLeft a) (off : h.off = true) (sib : h.arm = a.sib) : h.depth ≠ c.stack.length := by
  rw [WaleCore.shadowsLeft, if_neg arm, WaleCore.sibShadows, again] at left
  have kept := (List.mem_filter.mp (List.mem_filter.mp left).1).2
  simpa [off, sib] using kept

/-! ### The other fragment when the fault has been taken -/

/-- What was live or suspended is suspended by the handler. -/
theorem trapped_spec {o : Arm} (there : o.live = true ∨ o.st = .suspended) : o.trapped.st = .suspended ∧ o.trapped.why = .trap ∧
    o.trapped.mem = o.mem ∧ o.trapped.em = o.em ∧ o.trapped.pc = o.pc ∧ o.trapped.retry = o.retry := by
  unfold Arm.trapped
  by_cases suspended : o.st = .suspended
  · rw [if_pos (beq_iff_eq.mpr suspended)]
    exact ⟨suspended, rfl, rfl, rfl, rfl, rfl⟩
  · rw [if_neg (by simpa using suspended), Arm.suspend, if_pos (there.resolve_right suspended)]
    exact ⟨rfl, rfl, rfl, rfl, rfl, rfl⟩

section
variable {c : WaleCore} {a : ArmId}
theorem sibArm_spec : (c.sibArm a).st = (c.frag a.sib).st ∧ (c.sibArm a).mem = (c.frag a.sib).mem ∧
    (c.sibArm a).em = (c.frag a.sib).em := by
  unfold WaleCore.sibArm
  split <;> exact ⟨rfl, rfl, rfl⟩
theorem repeated_of_homeOff {g : FaultRec} (pend : c.pend a.sib = some g) (code : g.code = cHOMEOFF) (eng : g.eng = false) :
    c.repeated a = some g := by
  simp [WaleCore.repeated, pend, Option.filter, code, eng]
theorem not_repeated (other : ∀ g, c.pend a.sib = some g → g.code ≠ cHOMEOFF ∨ g.eng = true) : c.repeated a = none := by
  refine Option.filter_eq_none_iff.mpr fun g pend => ?_
  obtain code | eng := other g pend
  · simp [code]
  · simp [eng]
theorem sibArm_of_repeated {g : FaultRec} (again : c.repeated a = some g) :
    (c.sibArm a).pc = g.pc ∧ (c.sibArm a).retry = some g.resume := by
  rw [WaleCore.sibArm, again]
  exact ⟨rfl, rfl⟩
theorem sibArm_of_not_repeated (plain : c.repeated a = none) : c.sibArm a = c.frag a.sib := by rw [WaleCore.sibArm, plain]
end

/-! ### The wale goes on at the handler, in a region of its own (R264) -/

/-- The core `g` goes on in a region that opens there: its fragments are tried again, its counts start anew. -/
structure Entered (g e : WaleCore) : Prop where
  rest : e = { g.unstall with shadows := e.shadows, hoff := e.hoff, icount := 0, wcount := 0 }
  shadows : ∀ h ∈ e.shadows, ∃ k ∈ g.shadows, h.arm = k.arm ∧ h.depth = k.depth ∧ h.off = k.off

theorem Entered.frag {g e : WaleCore} (h : Entered g e) (b : ArmId) : e.frag b = { g.frag b with stall := false } := by
  rw [h.rest]
  cases stack : g.stack <;> cases b <;> simp [WaleCore.frag, WaleCore.unstall, stack, Arm.none]
theorem Entered.sameData {g e : WaleCore} (h : Entered g e) : SameData g e := by
  rw [h.rest]
  exact ⟨rfl, rfl, rfl, rfl⟩
theorem Entered.pend {g e : WaleCore} (h : Entered g e) (b : ArmId) : e.pend b = g.pend b := by
  rw [h.rest]
  rfl

/-- A wale whose core becomes `g` goes on in the state of a new region. -/
structure Wale.Resumed (g : WaleCore) (w : Wale) : Prop where
  core : Entered g w.core
  st : w.st = .ready
  ckpt : w.cur.ckpt = w.core
  held : w.cur.held = []

theorem resumed_reopen (w : Wale) (turn cc : Nat) : Wale.Resumed w.core ((w.goOn turn cc).reopen cc) :=
  ⟨⟨rfl, fun h mem => ⟨h, mem, rfl, rfl, rfl⟩⟩, rfl, rfl, rfl⟩
theorem resumed_head (w : Wale) (turn q cc : Nat) : Wale.Resumed w.core ((w.goOn turn cc).head q cc) := by
  refine ⟨⟨rfl, fun h mem => ?_⟩, rfl, rfl, rfl⟩
  obtain ⟨k, there, rfl⟩ := List.mem_map.mp mem
  exact ⟨k, there, rfl, rfl, rfl⟩

theorem takeFault_resumes (s : State) {st : Site} (a : ArmId) (f : FaultRec) (free : st.wl.core.frame = none)
    (handler : pkHandler st.basket.pkt ≠ 0) : ∃ w, s.takeFault st a f = s.setWale st.w w ∧
      Wale.Resumed (st.wl.core.atHandler a f (pkHandler st.basket.pkt)) w := by
  let cc := (s.die st.hoop.die).cc
  let v : Wale := { st.wl.dropFault f with core := st.wl.core.atHandler a f (pkHandler st.basket.pkt) }
  have e : s.takeFault st a f = s.setWale st.w
      (if st.wl.cur.held.isEmpty && st.wl.core.icount == 0 && st.wl.old.isNone then (v.goOn s.turn cc).reopen cc
       else (v.goOn s.turn cc).head (s.window st.hoop.die) cc) :=
    (if_neg (by simp [free])).trans (if_neg (by simpa using handler))
  refine ⟨_, e, ?_⟩
  split
  · exact resumed_reopen v s.turn cc
  · exact resumed_head v s.turn _ cc

section
variable {c d : WaleCore} {a : ArmId} {f : FaultRec} {pc : Dword} (entered : Entered (c.atHandler a f pc) d)
include entered

theorem entered_record : d.fcause = BitVec.ofNat 32 (f.code.toNat + (if a = .a1 then 2 ^ 8 else 0) + (if f.eng then 2 ^ 9 else 0) +
      (if f.shd then 2 ^ 10 else 0)) ∧ d.fpc = f.pc ∧ d.faddr = f.addr ∧ d.fmask = f.mask ∧
    d.frame = some ⟨a, (c.frag a).em, f.pc, f.resume, c.stack.length, f.fetch, f.cmd, f.eng⟩ := by
  have kept : d.fcause = (c.recorded a f).fcause ∧ d.fpc = f.pc ∧ d.faddr = f.addr ∧ d.fmask = f.mask ∧
      d.frame = (c.recorded a f).frame := by
    rw [entered.rest, atHandler_rest, WaleCore.recorded_rest]
    exact ⟨rfl, rfl, rfl, rfl, rfl⟩
  rwa [c.recorded_fcause a f, c.recorded_frame a f] at kept

theorem entered_frag (there : a = .sole ∨ c.stack ≠ []) : d.frag a = (c.frag a).handling pc := by
  rw [entered.frag, atHandler_frag c a f pc there]
  rfl
theorem entered_pend : d.pend a = none ∧ d.pend a.sib = none := by
  rw [entered.pend, entered.pend]
  exact atHandler_pend c a f pc

/-- The other fragment waits for the return, and comes back to what is repeated, or to where it stood (R263, R264). -/
theorem entered_sib (arm : a ≠ .sole) (some_ : c.stack ≠ []) (there : (c.frag a.sib).live = true ∨ (c.frag a.sib).st = .suspended) :
    (d.frag a.sib).st = .suspended ∧ (d.frag a.sib).why = .trap ∧ (d.frag a.sib).mem = (c.frag a.sib).mem ∧
    (d.frag a.sib).em = (c.frag a.sib).em ∧
    (∀ g, c.pend a.sib = some g → g.code = cHOMEOFF → g.eng = false →
      (d.frag a.sib).pc = g.pc ∧ (d.frag a.sib).retry = some g.resume ∧
      ∀ h ∈ d.shadows, h.off = true → h.arm = a.sib → h.depth ≠ c.stack.length) ∧
    ((∀ g, c.pend a.sib = some g → g.code ≠ cHOMEOFF ∨ g.eng = true) →
      (d.frag a.sib).pc = (c.frag a.sib).pc ∧ (d.frag a.sib).retry = (c.frag a.sib).retry) := by
  obtain ⟨sameSt, sameMem, sameEm⟩ := sibArm_spec (c := c) (a := a)
  have stays : (c.sibArm a).live = true ∨ (c.sibArm a).st = .suspended := by rwa [Arm.live, sameSt]
  obtain ⟨st, why, mem, em, pcs, retry⟩ := trapped_spec stays
  rw [entered.frag, atHandler_frag_sib c f pc arm some_]
  refine ⟨st, why, mem.trans sameMem, em.trans sameEm, fun g pend code eng => ?_, fun other => ?_⟩
  · have again := repeated_of_homeOff pend code eng
    obtain ⟨toPc, toResume⟩ := sibArm_of_repeated again
    refine ⟨pcs.trans toPc, retry.trans toResume, fun h left off sib => ?_⟩
    obtain ⟨k, before, sameArm, sameDepth, sameOff⟩ := entered.shadows h left
    rw [atHandler_rest] at before
    exact sameDepth ▸ depth_of_shadowsLeft arm again before (sameOff ▸ off) (sameArm ▸ sib)
  · have stood := sibArm_of_not_repeated (not_repeated other)
    exact ⟨pcs.trans (congrArg Arm.pc stood), retry.trans (congrArg Arm.retry stood)⟩

theorem entered_data : SameData (((c.recorded a f).suspendSib a).endShadows a) d :=
  (atHandler_sameData c a f pc).trans entered.sameData
theorem entered_not_owns {h : Shadow} (left : h ∈ d.shadows) : c.owns a h = false := by
  obtain ⟨k, before, sameArm, sameDepth, -⟩ := entered.shadows h left
  rw [atHandler_rest] at before
  have apart := not_owns_of_shadowsLeft before
  rwa [WaleCore.owns, ← sameArm, ← sameDepth] at apart
theorem entered_counts : d.icount = 0 ∧ d.wcount = 0 := by
  rw [entered.rest]
  exact ⟨rfl, rfl⟩
end

/-- Settles O41: `takeFault` ends the basket, or leaves the core of `atHandler` as it enters a region of its own. -/
theorem faultsAreTaken : Obligations.FaultsAreTaken := by
  refine ⟨fun s st a f => takeFault_ends, fun s st a f site free handler there => ?_⟩
  obtain ⟨w, e, core, ready, ckpt, held⟩ := takeFault_resumes s a f free handler
  obtain ⟨cause, pc, addr, mask, frame⟩ := entered_record core
  obtain ⟨pend, pendSib⟩ := entered_pend core
  obtain ⟨vreg, sreg, preg, flags⟩ := (recorded_sameData st.wl.core a f).lands (atHandler_lands st.wl.core a f) (entered_data core)
  obtain ⟨icount, wcount⟩ := entered_counts core
  intro own landed o
  rw [e]
  exact ⟨w, by simp, rfl, fun k other => Sparse.find?_put_ne _ _ other, cause, pc, addr, mask, frame, entered_frag core there,
    pend, pendSib, fun arm => entered_sib core arm (there.resolve_left arm), vreg, sreg, preg, flags,
    fun h left => entered_not_owns core left, ready, ckpt, held, icount, wcount⟩

end Sys2Proof.Machine
end
